-- ==== Sys2Proof/Word.lean ====
section
/-! DEFINITION. The word types of the Parquel: bytes, 32- and 64-bit register words, device addresses (R265). -/

namespace Sys2Proof

/-- One byte. -/
abbrev Byte := BitVec 8

/-- A byte string, lowest address first; multi-byte fields inside it are little-endian (R59, R63). -/
abbrev Bytes := List Byte

/-- A 32-bit register, or one element of a vector-engine register (R139). -/
abbrev W32 := BitVec 32

/-- A 64-bit register. -/
abbrev W64 := BitVec 64

/-- A device address: 48 bits (R265). -/
abbrev DevAddr := BitVec 48

/-- A device ID on the fabric: 16 bits (R362). -/
abbrev DeviceId := BitVec 16

/-- A sparse table: (key, value) pairs, keys strictly rising, no value equal to its key's default. -/
abbrev NMap (α : Type) := List (Nat × α)

end Sys2Proof
end

