-- ==== Sys2Proof/Syntax.lean ====
section
/-! DEFINITION. The commands: one constructor of `Instr` per row of spec/opcode_table.json, with the operands its rule
needs (which unit acts, and what came in from outside). The table gives no row any bits. -/

namespace Sys2Proof

/-- The two worlds (R9, R414). -/
inductive World where
  | ns
  | s
  deriving DecidableEq, Repr

/-- How a 64-bit register is read: whole, its lower half, or its upper half (R9). -/
inductive Half where
  | full
  | low
  | high
  deriving DecidableEq, Repr

/-- The two kinds of RUN_PLAN that may run at once (R237). -/
inductive PlanKind where
  | training
  | eval
  deriving DecidableEq, Repr

abbrev Tile := Fin 1536
abbrev Die := Fin 4
abbrev RingNo := Fin 16384
abbrev PortNo := Fin 64
abbrev ChanNo := Fin 128

/-- A block that switches its configuration copy at its own marker (the table "Epoch markers" of R258). -/
inductive EpochBlock where
  | die (d : Die)
  | hqe
  | mct (n : Fin 32)
  | nmu (n : Fin 32)
  | routers (d : Die)
  | qxf (p : PortNo)
  | lhl
  deriving DecidableEq, Repr

/-- The fields of a VE instruction word other than its opcode (R142). -/
structure VeWord where
  rnd  : Fin 4
  dst  : Fin 32
  src1 : Fin 32
  src2 : Fin 32
  src3 : Fin 32
  prec : Fin 8
  imm  : W32
  deriving DecidableEq, Repr

/-- A router frame: the 64 B header of R188 and its payload. -/
structure Frame where
  typ       : Byte
  attempt   : Byte
  ctx       : Byte
  format    : Byte
  epoch     : W32
  src       : DeviceId
  dst       : DeviceId
  expert    : BitVec 16
  loc       : BitVec 16
  firstSlot : W32
  count     : BitVec 16
  h         : BitVec 16
  ticket    : W32
  answerId  : W32
  step      : W64
  plen      : W32
  pres      : Byte
  rsvd      : Bytes
  hpar      : W32
  payload   : Bytes
  deriving DecidableEq, Repr

/-- A fabric packet: the 32 B header of R357 and its payload. `flags` is header byte 5. -/
structure FabPacket where
  dst     : DeviceId
  src     : DeviceId
  typ     : Byte
  flags   : Byte
  hops    : Byte
  attempt : Byte
  msg     : W32
  seg     : BitVec 16
  len     : BitVec 16
  addr    : DevAddr
  key     : BitVec 16
  step    : BitVec 16
  rsvd    : Byte
  pres    : Byte
  hpar    : W32
  payload : Bytes
  deriving DecidableEq, Repr

/-- A branch of a multicast: from a router to the next one, or to its own local port where the two are one (R300). -/
structure McBranch where
  router : Tile
  next : Tile
  deriving DecidableEq, Repr

/-- A mesh packet: the 32 B header of R294 and its payload. -/
structure MeshPacket where
  dest    : BitVec 16
  src     : BitVec 16
  typ     : Byte
  ctl     : Byte
  addr    : DevAddr
  key     : BitVec 16
  x0      : Byte
  y0      : Byte
  w       : Byte
  h       : Byte
  mflags  : Byte
  rsvd    : BitVec 56
  hpar    : W32
  mask    : List Bool
  payload : Bytes
  deriving DecidableEq, Repr

/-- An LHL or QXF flit (R318): 256 B. -/
structure Flit where
  seq     : Fin 4096
  ack     : Fin 4096
  kind    : Fin 4
  ackv    : Bool
  rsvd    : Fin 32
  payload : Bytes
  crc     : W32
  deriving DecidableEq, Repr

/-- A die-bridge flit: 512 data bits, an 8-bit sequence number and a CRC-16 (R303). -/
structure BridgeFlit where
  seq  : Fin 256
  data : Bytes
  crc  : BitVec 16
  deriving DecidableEq, Repr

/-- One direction of a bridge link: links 0-15 north, 16-31 south, 32-55 west, 56-79 east (R12). -/
structure BridgeLink where
  link : Fin 80
  back : Bool
  deriving DecidableEq, Repr

/-- Why a link leaves ACTIVE for RETRAIN (R322). -/
inductive RetrainCause where
  | replayLimit
  | codewords
  | signalLoss
  | rateChange
  deriving DecidableEq, Repr

/-- What wakes the part (the table "Shade transitions" of R445, and R464). -/
inductive WakeTrigger where
  | descriptor
  | nudge
  | wakeMsg
  | localPacket
  | seqEvent
  | dueSnapshot
  | amberWake
  | wakePin
  | watchedSource (src : Fin 4096)
  | lhlSignal
  | qxfSignal
  | regAlert
  | alarm
  deriving DecidableEq, Repr

/-- How a peer attestation ended (R428): `pass` carries the 8 B IDENTITY. -/
inductive AttestEnd where
  | pass (identity : W64)
  | noAnswer
  | chainFailed
  | signatureFailed
  | refused
  deriving DecidableEq, Repr

/-- Where an SPDM request came from (R426). -/
inductive Transport where
  | sideband
  | mailbox
  deriving DecidableEq, Repr

/-- What the units did during a bring-up (R469): which failed, and which link lanes work. -/
structure BringUp where
  tileFail  : List Tile
  portFail  : List PortNo
  chanFail  : List ChanNo
  resetLow  : Bool
  deriving DecidableEq, Repr

/-- The fault bits of a regulator's STATUS_WORD that trip the part (R452). -/
structure RegStatus where
  voutOv : Bool
  ioutOc : Bool
  temp   : Bool
  off    : Bool
  deriving DecidableEq, Repr

/-- One posting to a row gatherer (R105): rows with their destination rows. -/
structure Posting where
  rows : List (Nat × Bytes)
  deriving DecidableEq, Repr

/-- The commands. -/
inductive Instr where
  -- configuration window
  | registerWrite (w : World) (off : W32) (size : Nat) (val : W64)
  | cfgRd (w : World) (tag : Fin 4096) (off : W32) (size : Nat)
  | cfgWr (w : World) (tag : Fin 4096) (off : W32) (size : Nat) (val : W64)
  | gblLayoutErrRead (w : World) (h : Half)
  | tilSlotErrRead (w : World) (t : Tile) (h : Half)
  | tilGmeErrRead (w : World) (t : Tile) (h : Half)
  | tilVeErrRead (w : World) (t : Tile) (h : Half)
  | tkrErrRead (w : World) (h : Half)
  | mshErrRead (w : World) (h : Half)
  | qxfErrRead (w : World) (h : Half)
  | ckgSyncRead (w : World)
  | ckgTimeWrite (w : World) (val : W64)
  -- ring commands
  | nop (iid : Nat)
  | copyIn (iid : Nat)
  | copyOut (iid : Nat)
  | copyDev (iid : Nat)
  | heldCopyStart (iid : Nat)
  | runPlan (iid : Nat)
  | runPlanEval (iid : Nat)
  | runPlanRecompute (iid : Nat)
  | heldPlanStart (k : PlanKind)
  | stepAnswer (iid : Nat)
  | cancelBatch (iid : Nat)
  | configCommit (iid : Nat)
  | configDiscard (iid : Nat)
  | epochMarker (b : EpochBlock)
  | transitionEnd
  | snapshot (iid : Nat)
  | snapshotCapture
  | cowCopy (w : World) (addr : DevAddr) (data : Bytes)
  | snapshotPageSend
  | snapshotAuto
  | restore (iid : Nat)
  | fenceTiles (iid : Nat)
  | unfenceTiles (iid : Nat)
  | dieQuarantine (iid : Nat)
  | dieUnquarantine (iid : Nat)
  | selfTest (iid : Nat)
  | testFenceStart (t : Tile)
  | tileTestEnd (t : Tile) (sramFail accFail logicFail layer : Bool) (granule : Fin 131072)
  | loadRoutingContexts (iid : Nat)
  | loadVersionedRegions (iid : Nat)
  | loadRouteBank (iid : Nat)
  | loadPeerEntries (iid : Nat)
  | loadCloseGroups (iid : Nat)
  | loadReductionWindows (iid : Nat)
  | fwStage (iid : Nat)
  | fwActivateAuto (iid : Nat)
  | fwActivateInPlace (iid : Nat)
  | fwActivateWarm (iid : Nat)
  | fwActivateCold (iid : Nat)
  | activationCommit (b : BringUp)
  | fwConfirm (iid : Nat)
  | setShade (iid : Nat)
  | setPoint (iid : Nat)
  | gate (iid : Nat)
  | ungate (iid : Nat)
  -- plan engine
  | phaseStart (k : PlanKind)
  | freeWriteUnblock (r : Fin 256)
  | versionStallExpire (r : Fin 256)
  | phaseEnd (k : PlanKind) (d : Die)
  | branchDecide (k : PlanKind)
  | phaseLimitExceeded (k : PlanKind)
  | stepCommit (k : PlanKind)
  | mirrorDrainDone
  | checkResultMessage (src : DeviceId) (pass : Bool) (atOnce : Bool)
  | replayStart (k : PlanKind)
  | updateRetryStart
  | qsend (k : PlanKind) (q : Fin 16)
  | qrecv (k : PlanKind) (q : Fin 16)
  | queueEntryReceive (qid : Fin 256) (step : W64) (attempt : Fin 8) (seq msg : W32) (data : Bytes)
  | queueLimitExpire (k : PlanKind) (q : Fin 16)
  -- dense arrays
  | denseTaskTake (t : Tile)
  | outputBlockFinish (t : Tile) (a : Fin 4)
  | sheetBlockArrive (t : Tile) (north : Bool) (slot : BitVec 16)
  | splitkPartDone (t : Tile) (a : Fin 4)
  | splitkClose (t : Tile)
  | gatherPosting (d : Die) (g : Fin 16) (p : Posting)
  | gatherFlushExpire (d : Die) (g : Fin 16)
  | packedSuperblockWrite (t : Tile)
  | blockMerge (w : World) (td : Bytes) (pos : List Nat) (els : List (Fin 1024 × BitVec 152))
  -- gather-and-merge engine
  | gmeSpprod (t : Tile)
  | gmeGather (t : Tile)
  | gmeScatter (t : Tile)
  | gmeScatterAcc (t : Tile)
  | gmeSegsum (t : Tile)
  | gmeRaggedCat (t : Tile)
  | gmeSortKey (t : Tile)
  | gmeMergeKey (t : Tile)
  | gmeTopk (t : Tile)
  | partCutsReady (k : PlanKind)
  | ownerContribution (t : Tile)
  | anchorPassClose (k : PlanKind)
  | ownerFinish (t : Tile)
  -- vector engine
  | veTaskTake (t : Tile)
  | ldb (t : Tile) (x : VeWord)
  | stb (t : Tile) (x : VeWord)
  | mov (t : Tile) (x : VeWord)
  | add (t : Tile) (x : VeWord)
  | sub (t : Tile) (x : VeWord)
  | mul (t : Tile) (x : VeWord)
  | fma (t : Tile) (x : VeWord)
  | max (t : Tile) (x : VeWord)
  | min (t : Tile) (x : VeWord)
  | abs (t : Tile) (x : VeWord)
  | neg (t : Tile) (x : VeWord)
  | cvt (t : Tile) (x : VeWord)
  | cmplt (t : Tile) (x : VeWord)
  | cmpeq (t : Tile) (x : VeWord)
  | sel (t : Tile) (x : VeWord)
  | exp (t : Tile) (x : VeWord)
  | log (t : Tile) (x : VeWord)
  | rsqrt (t : Tile) (x : VeWord)
  | tanh (t : Tile) (x : VeWord)
  | rcp (t : Tile) (x : VeWord)
  | perm (t : Tile) (x : VeWord)
  | shuf (t : Tile) (x : VeWord)
  | pack (t : Tile) (x : VeWord)
  | unpack (t : Tile) (x : VeWord)
  | trb (t : Tile) (x : VeWord)
  | rowsum (t : Tile) (x : VeWord)
  | rowdot (t : Tile) (x : VeWord)
  | rowmax (t : Tile) (x : VeWord)
  | rowmin (t : Tile) (x : VeWord)
  | rowcnt (t : Tile) (x : VeWord)
  | colsum (t : Tile) (x : VeWord)
  | divn (t : Tile) (x : VeWord)
  | xch (t : Tile) (x : VeWord)
  | xchCombine (brow : BitVec 24) (idx2 : BitVec 16)
  | rowtopk (t : Tile) (x : VeWord)
  | tkemit (t : Tile) (x : VeWord)
  | summ (t : Tile) (x : VeWord)
  -- token router
  | acceptBlockRow (k : PlanKind) (ctx : Fin 256)
  | dispatchFrame (f : Frame)
  | closeFrame (f : Frame)
  | epochFrame (f : Frame)
  | arrivalFlush (ctx : Fin 256) (loc : BitVec 16) (blk : Nat)
  | returnSend (src : DeviceId) (ticket : Fin 131072)
  | returnFrame (f : Frame)
  | answerTimeout
  | ticketStallLimit (ctx : Fin 256)
  -- near-memory update
  | nmuFill
  | nmuInitUniform
  | nmuSgdm
  | nmuAdamw
  | nmuScale
  | nmuCompare
  | nmuJobEnd
  -- memory
  | sramScrubRead (t : Tile) (g : Fin 196608)
  | dramPatrolRead (c : ChanNo) (burst : Nat)
  | dramRefresh (c : ChanNo) (bank : Fin 16) (mr4 : Fin 32)
  | zqLatch (c : ChanNo)
  | wckTracking (c : ChanNo) (inWindow : Bool)
  | channelRetrain (c : ChanNo)
  | evacuationStart (w : World) (val : W32)
  | evacGranuleMove
  -- mesh
  | meshPacketRoute (p : MeshPacket)
  | mcWrite (p : MeshPacket)
  | mcBranchPrune (id : Nat) (b : McBranch)
  | mcDone (id : Nat)
  | bridgeFlitReceive (b : BridgeLink) (f : BridgeFlit)
  | bridgeNak (b : BridgeLink) (last : Fin 256)
  | bridgeRetrain (b : BridgeLink)
  -- Limdal Host Link
  | lhlFlitReceive (f : Flit)
  | lhlNak (last : Fin 4096)
  | lhlReplayTimeout
  | lhlAckDue
  | lhlSignalDetect (lanes : BitVec 8)
  | lhlTrainDone (lanes : BitVec 8)
  | lhlTrainTimeout
  | lhlRetrainEntry (c : RetrainCause)
  | lhlRetrainDone (lanes : BitVec 8)
  | lhlRetrainTimeout
  | lhlDownLimit
  | hostCompletion (tag : Fin 4096) (status : Fin 4) (data : Bytes)
  | cplTimeout (tag : Fin 4096)
  | nudge (w : World) (operand : W64)
  | wake (w : World) (operand : W64)
  | lhlResetCold (w : World) (operand : W64) (b : BringUp)
  | lhlResetWarm (w : World) (operand : W64) (b : BringUp)
  | lhlResetDie (w : World) (operand : W64)
  -- host queue engine
  | hqeScan
  | descriptorFetch (n : RingNo)
  | descriptorSeqRecheck (n : RingNo)
  | descriptorIssue
  | cqSpacePoll (n : RingNo)
  | coalesceTimer (n : RingNo)
  | ringEnable (w : World) (n : RingNo) (cfg : W64)
  | ringDisable (w : World) (n : RingNo) (cfg : W64)
  | ringDrained (n : RingNo)
  | ringReset (w : World) (n : RingNo) (cfg : W64)
  -- Quodex Fabric
  | qxfFlitReceive (p : PortNo) (f : Flit)
  | qxfNak (p : PortNo) (last : Fin 4096)
  | qxfReplayTimeout (p : PortNo)
  | qxfSignalDetect (p : PortNo) (lanes : BitVec 4)
  | qxfTrainDone (p : PortNo) (lanes : BitVec 4)
  | qxfTrainTimeout (p : PortNo)
  | qxfRetrainEntry (p : PortNo) (c : RetrainCause)
  | qxfRetrainDone (p : PortNo) (lanes : BitVec 4)
  | qxfRetrainTimeout (p : PortNo)
  | portDownTimeout (p : PortNo)
  | fabricTransit (p : PortNo) (x : FabPacket)
  | fabricWrite (p : PortNo) (m : List FabPacket)
  | fabricRead (p : PortNo) (m : List FabPacket)
  | fabricResponse (p : PortNo) (m : List FabPacket)
  | reductionContribution (w : World) (own : Bool) (m : List FabPacket)
  | reductionWaitTimeout (k : PlanKind) (win : Fin 64) (blk : Nat)
  | anchorMessage (p : PortNo) (m : List FabPacket)
  | mirrorMessage (p : PortNo) (m : List FabPacket)
  | doneReceive (src : DeviceId) (msg : W32) (status : Fin 3)
  | retryResend (peer : DeviceId) (msg : W32)
  | probeReceive (src : DeviceId)
  | msgTimeoutExpire (peer : DeviceId) (msg : W32)
  | probeInterval
  | peerCacheFill (peer : DeviceId)
  | mirrorSeedPage (n : Fin 64)
  | mirrorReseed (w : World)
  | rasWatchRearm (w : World)
  -- security
  | revokeSlot (w : World) (slot : Fin 4)
  | attestPeer (w : World) (peer : DeviceId)
  | attestResult (r : AttestEnd)
  | getVersion (t : Transport) (req : Bytes)
  | getCapabilities (t : Transport) (req : Bytes)
  | negotiateAlgorithms (t : Transport) (req : Bytes)
  | getDigests (t : Transport) (req : Bytes)
  | getCertificate (t : Transport) (slot : Byte) (req : Bytes)
  | challenge (t : Transport) (req : Bytes)
  | getMeasurements (t : Transport) (idx : Byte) (req : Bytes)
  | spdmUnsupportedRequest (t : Transport) (code : Byte) (req : Bytes)
  | dbgNonceRead (h : Half)
  | dbgResponseCheck (val : W32)
  | dbgLockoutExpire
  -- clocks, power, Amber
  | powerReading (watts : Fin 4096)
  | tclkSwitchUp (d : Die)
  | amberSample (sensor : Fin 101) (raw : BitVec 16)
  | thermalStepRepeat
  | thermalPointRise
  | amberShadeEntry
  | regulatorAlert (st : RegStatus)
  | ambWdogKick (w : World)
  | watchdogExpire (b : BringUp)
  | amberAlarm
  | aclkTrim
  | timeAlignPulse (skew : Byte)
  | autoGreyEntry
  | tileClockGate (t : Tile)
  | shadeWake (x : WakeTrigger)
  | blackWake (x : WakeTrigger) (b : BringUp)
  -- events, reset, bring-up
  | eventFire (w : World) (val : W32)
  | eventClaim (w : World) (c : Fin 19) (h : Half)
  | eventEoi (w : World) (c : Fin 19) (val : W32)
  | eventRecordWrite (n : RingNo)
  | modWakeN
  | modResetN (lowNs : Nat) (b : BringUp)
  | inputPowerRise (b : BringUp)
  | inputPowerLoss
  | rscSwrstCold (w : World) (b : BringUp)
  | rscSwrstWarm (w : World) (b : BringUp)
  | rscSwrstDie (w : World) (d : Die)
  | blockReset (w : World) (val : W32)
  | blockQuiesceDone
  | blockQuiesceTimeout (aborted : Nat)
  | rscBootGood (w : World)
  | ashBegin (slot : Fin 2) (len : Nat)
  | ashData (off : Nat) (data : Bytes)
  | ashEnd (b : BringUp)
  -- sideband
  | setEndpointId (eid : Byte)
  | getEndpointId
  | getMctpVersionSupport
  | getMessageTypeSupport
  | entdaa (addr : Fin 128)
  | getTid
  | getPldmVersion
  | getPldmTypes
  | getPldmCommands
  | getPdrRepositoryInfo
  | getPdr (handle : Nat)
  | getSensorReading (sensorId : BitVec 16)
  | pldmUnsupportedCmd (typ cmd : Byte)
  -- rows at the table's end
  | qxfAckDue (p : PortNo)
  | anchorRoundTimeout (k : PlanKind) (g : Fin 64)
  | probeAnswerTimeout (peer : DeviceId)
  | bridgeRetrainDone (b : BridgeLink)
  | channelRetrainDone (c : ChanNo)
  | inPlaceRestartDone
  | amberCoreUe (b : BringUp)
  | modResetNRelease (b : BringUp)
  deriving DecidableEq, Repr

end Sys2Proof
end

