-- ==== Sys2Proof/Config.lean ====
section
/-! DEFINITION. What an implementation of the part fixes, and the free values: results the spec leaves open. A free
value has no body, so nothing can be proved about which value it is. -/

namespace Sys2Proof.Config

/-- The part number: false is AQ-ZH1536-P, true is AQ-ZH1536-P-512 (R518).  DESIGN CHOICE (log 3). -/
def half : Bool := false

/-- Physical columns of dies 0 to 3 that are skipped; 24 on an unrepaired die (R14).  DESIGN CHOICE (log 3). -/
def skipCol : List Nat := [24, 24, 24, 24]

/-- FREE VALUE number `n`, of any width: what the spec leaves undefined where no operand decides it (log 1). -/
opaque freeNat : Nat → Nat

/-- FREE VALUE: an element of a V or S register at the start of a task, before the task writes it: the spec clears the P
registers only (R143; log 148). Arguments: a number of the task, register, element. -/
opaque veFresh : Nat → Nat → Nat → Nat

/-- FREE VALUE: the anchor of COLSUM where no PINNED table gives one; arguments: phase, slot, row of the slot, dimension-2 index
(log 26). -/
opaque colAnchor : Nat → Nat → Nat → Nat → Nat

/-- FREE VALUE: entries that the send end of a queue to a peer counts in the ring, and in the spill: the spec gives no message
that returns credits; arguments: QID, next SEQ (R253, R264; log 152). -/
opaque queueSeen : Nat → Nat → Nat × Nat

/-- FREE VALUE: the FP32 result of EXP on an operand the table of R144 gives no special result for (log 10). -/
opaque exp32 : W32 → W32
/-- FREE VALUE: the FP32 result of LOG (R144; log 10). -/
opaque log32 : W32 → W32
/-- FREE VALUE: the FP32 result of RSQRT (R144; log 10). -/
opaque rsqrt32 : W32 → W32
/-- FREE VALUE: the FP32 result of TANH (R144; log 10). -/
opaque tanh32 : W32 → W32
/-- FREE VALUE: the FP32 result of RCP (R144; log 10). -/
opaque rcp32 : W32 → W32

/-- FREE VALUE: whether an RSASSA-PSS signature (R422) over `msg` verifies under the key whose digest a key slot holds;
arguments: key-slot number, message, signature (log 11). -/
opaque sigVerifies : Nat → Bytes → Bytes → Bool

/-- FREE VALUE: the bytes of an SPDM, MCTP or PLDM answer, which the standards the spec names lay down; arguments: a
code for the request, its bytes (log 12). -/
opaque answerBytes : Nat → Bytes → Bytes

/-- FREE VALUE: how a (72,64) or (266,256) code decodes a word with three or more flipped bits (R270, R278):
0 uncorrectable, 1 miscorrected and counted as corrected, 2 passed as valid; argument: the word's address (log 13). -/
opaque tripleErr : Nat → Nat

/-- FREE VALUE: the element code stored under a scale byte of 0xFF in a format that has no NaN code (R45); argument:
the format code (log 15). -/
opaque mxNanCode : Nat → Nat

/-- FREE VALUE: what the module flash holds at delivery, by flash address (R482; log 38). -/
opaque factoryFlash : Nat → Byte

/-- FREE VALUE: whether the debug-enable fuse of the part is blown (R429; log 38). -/
opaque debugFuse : Bool

/-- FREE VALUE: bytes of the device certificate of the part (R425; log 38). -/
opaque deviceCert : Bytes

end Sys2Proof.Config
end

