-- ==== Sys2Proof/Machine/Map.lean ====
section
/-! DEFINITION. Sparse tables in one canonical form (device memory, host memory, registers, per-unit state), and the
byte-order and bit-field helpers the rules use. -/

namespace Sys2Proof.Machine

/-- The value at `k`: the listed one, or the default of the key. -/
def mapGet {α : Type} (d : Nat → α) : NMap α → Nat → α
  | [], k => d k
  | (j, v) :: m, k => if k < j then d k else if k = j then v else mapGet d m k

/-- Remove `k`. -/
def mapDel {α : Type} : NMap α → Nat → NMap α
  | [], _ => []
  | (j, v) :: m, k => if k < j then (j, v) :: m else if k = j then m else (j, v) :: mapDel m k

/-- List `v` at `k`. -/
def mapIns {α : Type} : NMap α → Nat → α → NMap α
  | [], k, v => [(k, v)]
  | (j, w) :: m, k, v =>
    if k < j then (k, v) :: (j, w) :: m else if k = j then (k, v) :: m else (j, w) :: mapIns m k v

/-- Set `k` to `v`; a value equal to the default is not listed. -/
def mapSet {α : Type} [DecidableEq α] (d : Nat → α) (m : NMap α) (k : Nat) (v : α) : NMap α :=
  if v = d k then mapDel m k else mapIns m k v

/-- Every key of the table is at least `b`, keys rise strictly, and no value is its key's default. -/
def mapWfFrom {α : Type} [DecidableEq α] (d : Nat → α) : Nat → NMap α → Bool
  | _, [] => true
  | b, (j, v) :: m => decide (b ≤ j) && decide (v ≠ d j) && mapWfFrom d (j + 1) m

/-- The canonical form. -/
def mapWf {α : Type} [DecidableEq α] (d : Nat → α) (m : NMap α) : Bool := mapWfFrom d 0 m

/-- Set consecutive keys from `k` to the listed values. -/
def mapSetList {α : Type} [DecidableEq α] (d : Nat → α) (m : NMap α) (k : Nat) : List α → NMap α
  | [] => m
  | v :: vs => mapSetList d (mapSet d m k v) (k + 1) vs

/-- The values at `n` consecutive keys from `k`. -/
def mapGetList {α : Type} (d : Nat → α) (m : NMap α) (k : Nat) : Nat → List α
  | 0 => []
  | n + 1 => mapGet d m k :: mapGetList d m (k + 1) n

/-- Drop every key from `lo` up to but excluding `hi`. -/
def mapClearRange {α : Type} (m : NMap α) (lo hi : Nat) : NMap α :=
  m.filter fun p => !(decide (lo ≤ p.1) && decide (p.1 < hi))

/-- Keep only the keys that satisfy `f`. -/
def mapKeep {α : Type} (f : Nat → Bool) (m : NMap α) : NMap α := m.filter fun p => f p.1

/-- Bits [hi:lo] of a natural number. -/
def bits (x hi lo : Nat) : Nat := (x / 2 ^ lo) % 2 ^ (hi + 1 - lo)

/-- Bit `i` of a natural number. -/
def bit (x i : Nat) : Bool := (x / 2 ^ i) % 2 == 1

/-- `x` with bits [hi:lo] replaced by `v`. -/
def setBits (x hi lo v : Nat) : Nat :=
  (x / 2 ^ (hi + 1)) * 2 ^ (hi + 1) + (v % 2 ^ (hi + 1 - lo)) * 2 ^ lo + x % 2 ^ lo

/-- `x` with bit `i` set to `b`. -/
def setBit (x i : Nat) (b : Bool) : Nat := setBits x i i (if b then 1 else 0)

/-- 1 for true. -/
def b2n (b : Bool) : Nat := if b then 1 else 0

/-- A little-endian byte string as a number (R59, R63). -/
def leNat : Bytes → Nat
  | [] => 0
  | b :: bs => b.toNat + 256 * leNat bs

/-- The `n` little-endian bytes of a number. -/
def natLe : Nat → Nat → Bytes
  | 0, _ => []
  | n + 1, x => BitVec.ofNat 8 x :: natLe n (x / 256)

/-- `n` bytes of a string from offset `o`; bytes beyond its end read 0. -/
def slice (bs : Bytes) (o n : Nat) : Bytes :=
  let r := (bs.drop o).take n
  r ++ List.replicate (n - r.length) 0

/-- The little-endian field of `n` bytes at offset `o`. -/
def fld (bs : Bytes) (o n : Nat) : Nat := leNat (slice bs o n)

/-- Every byte of [o, o+n) is 0. -/
def zeros (bs : Bytes) (o n : Nat) : Bool := (slice bs o n).all (· == 0)

/-- `bs` with the bytes from `o` replaced by `v`. -/
def splice (bs : Bytes) (o : Nat) (v : Bytes) : Bytes := bs.take o ++ v ++ bs.drop (o + v.length)

/-- `n` zero bytes. -/
def zeroBytes (n : Nat) : Bytes := List.replicate n 0

/-- Saturating addition at `m`. -/
def satAdd (m a b : Nat) : Nat := min m (a + b)

/-- `x` when it is not 0, else `d`. -/
def orElse0 (x d : Nat) : Nat := if x = 0 then d else x

/-- Two's-complement value of the low `w` bits. -/
def toSigned (w x : Nat) : Int :=
  let y := x % 2 ^ w
  if y < 2 ^ (w - 1) then (y : Int) else (y : Int) - (2 ^ w : Nat)

/-- The low `w` bits of an integer. -/
def ofSigned (w : Nat) (x : Int) : Nat := (x % (2 ^ w : Nat)).toNat

/-- Ceiling of a division. -/
def cdiv (a b : Nat) : Nat := (a + b - 1) / b

/-- The list of naturals below `n`. -/
def upTo (n : Nat) : List Nat := List.range n

/-- Cut a list into pieces of `n`. -/
def chunk {α : Type} (n : Nat) : Nat → List α → List (List α)
  | 0, _ => []
  | _, [] => []
  | k + 1, l => l.take n :: chunk n k (l.drop n)

/-- The first element of a list with property `f`, with the list less that element. -/
def takeFirst {α : Type} (f : α → Bool) : List α → Option (α × List α)
  | [] => none
  | x :: xs => if f x then some (x, xs) else (takeFirst f xs).map fun p => (p.1, x :: p.2)

/-- Replace the elements that satisfy `f`. -/
def updWhere {α : Type} (f : α → Bool) (g : α → α) (l : List α) : List α := l.map fun x => if f x then g x else x

end Sys2Proof.Machine
end

