-- ==== Sys2Proof/Machine/Regs.lean ====
section
/-! DEFINITION. The registers of the configuration window (R9): where each lies, its world, its width, its reset value
and what a write stores, from the register lines and field tables of the chapters. Written from those tables. -/

namespace Sys2Proof.Machine

/-- The registers. Each constructor stands for one register line of the spec; an indexed register is one name. -/
inductive RegName where
  /-- GBL_ID -/
  | gblId
  /-- GBL_CAP -/
  | gblCap
  /-- GBL_SPARE_MAP -/
  | gblSpareMap
  /-- GBL_ARITH_CTL -/
  | gblArithCtl
  /-- GBL_LAYOUT_ERR -/
  | gblLayoutErr
  /-- TIL_DA_CTL -/
  | tilDaCtl
  /-- TIL_DA_STATUS -/
  | tilDaStatus
  /-- TIL_SLOT_ERR -/
  | tilSlotErr
  /-- TIL_DA_CNTn -/
  | tilDaCnt
  /-- TIL_GME_CTL -/
  | tilGmeCtl
  /-- TIL_GME_STATUS -/
  | tilGmeStatus
  /-- TIL_GME_ERR -/
  | tilGmeErr
  /-- TIL_GME_CNTn -/
  | tilGmeCnt
  /-- TIL_VE_STATUS -/
  | tilVeStatus
  /-- TIL_VE_ERR -/
  | tilVeErr
  /-- TIL_VE_CNTn -/
  | tilVeCnt
  /-- GBL_BOUNCE_BASE_NS -/
  | gblBounceBaseNs
  /-- GBL_BOUNCE_BASE_S -/
  | gblBounceBaseS
  /-- TKR_CTL -/
  | tkrCtl
  /-- TKR_EPOCH -/
  | tkrEpoch
  /-- TKR_QBUF_BASE -/
  | tkrQbufBase
  /-- TKR_QBUF_CFG -/
  | tkrQbufCfg
  /-- TKR_STATUS -/
  | tkrStatus
  /-- TKR_ERR -/
  | tkrErr
  /-- TKR_CNTm_n -/
  | tkrCnt
  /-- SEQ_VER_CTL -/
  | seqVerCtl
  /-- SEQ_VFROZENk -/
  | seqVfrozen
  /-- SEQ_VSTATn -/
  | seqVstat
  /-- SEQ_VVERn -/
  | seqVver
  /-- NMU_JOB_ADDR -/
  | nmuJobAddr
  /-- NMU_JOB_CTL -/
  | nmuJobCtl
  /-- NMU_JOB_PROG -/
  | nmuJobProg
  /-- RNG_KEYn -/
  | rngKey
  /-- RNG_CTRn_LO -/
  | rngCtrLo
  /-- RNG_CTRn_HI -/
  | rngCtrHi
  /-- RNG_CFGn -/
  | rngCfg
  /-- SEQ_PLAN_STATUS -/
  | seqPlanStatus
  /-- SEQ_STEP -/
  | seqStep
  /-- SEQ_CTL -/
  | seqCtl
  /-- SEQ_CFG_EPOCH -/
  | seqCfgEpoch
  /-- SEQ_CFG_CTL -/
  | seqCfgCtl
  /-- SEQ_QSTATn -/
  | seqQstat
  /-- MCT_CFG -/
  | mctCfg
  /-- MCT_LIMIT -/
  | mctLimit
  /-- MCT_RETIREk -/
  | mctRetire
  /-- MCT_EVAC -/
  | mctEvac
  /-- MCT_EVAC_PROG -/
  | mctEvacProg
  /-- MCT_RETRAIN -/
  | mctRetrain
  /-- MCT_SCRUB -/
  | mctScrub
  /-- MCT_SCRUB_STAT -/
  | mctScrubStat
  /-- MCT_CHSTATc -/
  | mctChstat
  /-- MSH_CTL -/
  | mshCtl
  /-- MSH_FENCE_TILEk -/
  | mshFenceTile
  /-- MSH_FENCE_RTRk -/
  | mshFenceRtr
  /-- MSH_FENCE_HASH -/
  | mshFenceHash
  /-- MSH_QUAR -/
  | mshQuar
  /-- MSH_DETOURd_b_e -/
  | mshDetour
  /-- MSH_EPMAPn -/
  | mshEpmap
  /-- MSH_ERR -/
  | mshErr
  /-- MSH_CNTd_n -/
  | mshCnt
  /-- LHL_CFG -/
  | lhlCfg
  /-- LHL_STATUS -/
  | lhlStatus
  /-- LHL_CNTn -/
  | lhlCnt
  /-- HQE_SCAN -/
  | hqeScan
  /-- HQE_DB_BASE_NS -/
  | hqeDbBaseNs
  /-- HQE_DB_BASE_S -/
  | hqeDbBaseS
  /-- HQE_WRR -/
  | hqeWrr
  /-- HQE_STATUS -/
  | hqeStatus
  /-- HQE_CNTn -/
  | hqeCnt
  /-- HQE_RINGn_BASE -/
  | hqeRingBase
  /-- HQE_RINGn_CFG -/
  | hqeRingCfg
  /-- HQE_RINGn_AUX -/
  | hqeRingAux
  /-- HQE_RINGn_STATE -/
  | hqeRingState
  /-- QXF_DEVID -/
  | qxfDevid
  /-- QXF_CTL -/
  | qxfCtl
  /-- QXF_TWIN -/
  | qxfTwin
  /-- QXF_PORTn_CFG -/
  | qxfPortCfg
  /-- QXF_PORTn_STATUS -/
  | qxfPortStatus
  /-- QXF_ERR -/
  | qxfErr
  /-- QXF_CNTk -/
  | qxfCnt
  /-- QXF_PORTn_CNTk -/
  | qxfPortCnt
  /-- FIJ_AUTH -/
  | fijAuth
  /-- FIJ_CTLn -/
  | fijCtl
  /-- FIJ_CNTn -/
  | fijCnt
  /-- RAS_CTL -/
  | rasCtl
  /-- RAS_WATCH_CTL -/
  | rasWatchCtl
  /-- RAS_WATCHk -/
  | rasWatch
  /-- RAS_CNTn -/
  | rasCnt
  /-- RAS_TILEn -/
  | rasTile
  /-- RAS_CHANc -/
  | rasChan
  /-- MIR_CTL -/
  | mirCtl
  /-- MIR_STATUS -/
  | mirStatus
  /-- MIR_STANDIN -/
  | mirStandin
  /-- MIR_REGn_SRC -/
  | mirRegSrc
  /-- MIR_REGn_DST -/
  | mirRegDst
  /-- MIR_REGn_CFG -/
  | mirRegCfg
  /-- SNP_STATUS -/
  | snpStatus
  /-- SNP_CTL -/
  | snpCtl
  /-- SNP_AUTO -/
  | snpAuto
  /-- SNP_AUTO_TPL -/
  | snpAutoTpl
  /-- SNP_AUTO_STAT -/
  | snpAutoStat
  /-- SNP_LOG_BASE -/
  | snpLogBase
  /-- SNP_LOG_CFG -/
  | snpLogCfg
  /-- SEC_REGIONn -/
  | secRegion
  /-- SEC_BOOT_STATUS -/
  | secBootStatus
  /-- SEC_FUSE_CMD -/
  | secFuseCmd
  /-- SEC_ATTEST -/
  | secAttest
  /-- SEC_SPDM_CTL -/
  | secSpdmCtl
  /-- PWC_CTL -/
  | pwcCtl
  /-- PWC_STATUS -/
  | pwcStatus
  /-- PWC_GATEDk -/
  | pwcGated
  /-- PWC_GOFFk -/
  | pwcGoff
  /-- CKG_TIME -/
  | ckgTime
  /-- CKG_SYNC -/
  | ckgSync
  /-- CKG_STATUS -/
  | ckgStatus
  /-- AMB_SENSn -/
  | ambSens
  /-- AMB_FILT -/
  | ambFilt
  /-- AMB_RULEn -/
  | ambRule
  /-- AMB_WDOG -/
  | ambWdog
  /-- AMB_ALARM -/
  | ambAlarm
  /-- EVC_DB_NS -/
  | evcDbNs
  /-- EVC_DB_S -/
  | evcDbS
  /-- EVC_SRCn -/
  | evcSrc
  /-- EVC_CLAIMc -/
  | evcClaim
  /-- EVC_EOIc -/
  | evcEoi
  /-- EVC_WATCHn -/
  | evcWatch
  /-- EVC_WAKE -/
  | evcWake
  /-- RSC_CFG -/
  | rscCfg
  /-- RSC_SWRST -/
  | rscSwrst
  /-- RSC_BLKRST -/
  | rscBlkrst
  /-- RSC_BLKSTAT -/
  | rscBlkstat
  /-- RSC_CAUSE -/
  | rscCause
  /-- RSC_BOOT -/
  | rscBoot
  /-- RSC_BOOT_GOOD -/
  | rscBootGood
  /-- RSC_PINMAP -/
  | rscPinmap
  /-- GBL_FW_STATUS -/
  | gblFwStatus
  /-- TIL_BIST -/
  | tilBist
  /-- SEQ_SUMMn (training) -/
  | seqSummNs
  /-- SEQ_SUMMn (training) -/
  | seqSummS
  /-- SEQ_SUMMn (eval) -/
  | seqSummEvNs
  /-- SEQ_SUMMn (eval) -/
  | seqSummEvS
  /-- SEC_WORLD_TILEk -/
  | secWorldTile
  /-- SEC_WORLD_RINGk -/
  | secWorldRing
  /-- SEC_WORLD_PORT -/
  | secWorldPort
  /-- SEC_WORLD_STREAMk -/
  | secWorldStream
  /-- SEC_WORLD_EVTk -/
  | secWorldEvt
  /-- SEC_DBG_NONCE -/
  | secDbgNonce
  /-- SEC_DBG_RESP -/
  | secDbgResp
  /-- SEC_SPDM_BUF -/
  | secSpdmBuf
  deriving DecidableEq, Repr

/-- The world of a register, as its line gives it (R7, R9). -/
inductive RegWorld where
  | both | nonSecure | secure
  /-- the world of the tile, ring, stream, region, source, port or core the register belongs to -/
  | tile | ring | stream | region | source | port | core
  deriving DecidableEq, Repr

/-- When a stored field takes effect (R438). -/
inductive Moment where
  | now | step | phase
  deriving DecidableEq, Repr

/-- One register line: `base + s1 * i + s2 * j` with i below n1 and j below n2; the masks say which bits a write stores
(`rw`), clears by writing 1 (`w1c`), and which of the stored bits are Shadowed or Quiesce (R255, R256). -/
structure RegInfo where
  base   : Nat
  n1     : Nat := 1
  s1     : Nat := 0
  n2     : Nat := 1
  s2     : Nat := 0
  wide   : Bool := false
  world  : RegWorld := .both
  reset  : Nat := 0
  rw     : Nat := 0
  w1c    : Nat := 0
  sh     : Nat := 0
  qu     : Nat := 0
  moment : Moment := .now
  deriving DecidableEq, Repr

/-- The register lines. DESIGN CHOICE (log 154): R434 gives SEC_SPDM_BUF as 4 KiB, RW, and no width; it is taken as 1,024 registers
of 32 bits. -/
def regInfo : RegName → RegInfo
  | .gblId => { base := 0, reset := 0x5a481536 }
  | .gblCap => { base := 4, reset := 0x80840600 }
  | .gblSpareMap => { base := 0x10 }
  | .gblArithCtl => { base := 0x40, reset := 8, rw := 0xff, moment := .step }
  | .gblLayoutErr => { base := 0x48, wide := true }
  | .tilDaCtl => { base := 0x1000000, n1 := 1536, s1 := 0x1000, world := .tile, reset := 3, rw := 3, moment := .phase }
  | .tilDaStatus => { base := 0x1000008, n1 := 1536, s1 := 0x1000, world := .tile }
  | .tilSlotErr => { base := 0x1000040, n1 := 1536, s1 := 0x1000, wide := true, world := .tile }
  | .tilDaCnt => { base := 0x1000100, n1 := 1536, s1 := 0x1000, n2 := 8, s2 := 8, wide := true, world := .tile }
  | .tilGmeCtl => { base := 0x1000200, n1 := 1536, s1 := 0x1000, world := .tile, reset := 3, rw := 0xf3, moment := .phase }
  | .tilGmeStatus => { base := 0x1000208, n1 := 1536, s1 := 0x1000, world := .tile }
  | .tilGmeErr => { base := 0x1000240, n1 := 1536, s1 := 0x1000, wide := true, world := .tile }
  | .tilGmeCnt => { base := 0x1000300, n1 := 1536, s1 := 0x1000, n2 := 8, s2 := 8, wide := true, world := .tile }
  | .tilVeStatus => { base := 0x1000408, n1 := 1536, s1 := 0x1000, world := .tile }
  | .tilVeErr => { base := 0x1000440, n1 := 1536, s1 := 0x1000, wide := true, world := .tile }
  | .tilVeCnt => { base := 0x1000500, n1 := 1536, s1 := 0x1000, n2 := 8, s2 := 8, wide := true, world := .tile }
  | .gblBounceBaseNs => { base := 0x80, wide := true, world := .nonSecure, rw := 0xffffffffffff0000 }
  | .gblBounceBaseS => { base := 0x88, wide := true, world := .secure, rw := 0xffffffffffff0000 }
  | .tkrCtl => { base := 0x500000, reset := 0xa03e8, rw := 0xffffff, moment := .step }
  | .tkrEpoch => { base := 0x500008 }
  | .tkrQbufBase => { base := 0x500010, wide := true, rw := 0xfffffffffffff001, moment := .step }
  | .tkrQbufCfg => { base := 0x500018, rw := 0xffffffff, moment := .step }
  | .tkrStatus => { base := 0x500020, wide := true }
  | .tkrErr => { base := 0x500040, wide := true }
  | .tkrCnt => { base := 0x501000, n1 := 16, s1 := 0x100, n2 := 8, s2 := 8, wide := true }
  | .seqVerCtl => { base := 0x200a000, reset := 0x32, rw := 0xffff, moment := .step }
  | .seqVfrozen => { base := 0x200a010, n1 := 4, s1 := 8, wide := true, rw := 0xffffffffffffffff, moment := .step }
  | .seqVstat => { base := 0x200b000, n1 := 256, s1 := 0x10, wide := true, world := .region }
  | .seqVver => { base := 0x200b008, n1 := 256, s1 := 0x10, wide := true, world := .region }
  | .nmuJobAddr => { base := 0x680000, wide := true, rw := 0xffffffffff80 }
  | .nmuJobCtl => { base := 0x680008, w1c := 0x40000000 }
  | .nmuJobProg => { base := 0x680010, wide := true }
  | .rngKey => { base := 0xe80000, n1 := 4096, s1 := 0x20, wide := true, world := .stream, rw := 0xffffffffffffffff, moment := .step }
  | .rngCtrLo => { base := 0xe80008, n1 := 4096, s1 := 0x20, wide := true, world := .stream, rw := 0xffffffffffffffff, moment := .step }
  | .rngCtrHi => { base := 0xe80010, n1 := 4096, s1 := 0x20, wide := true, world := .stream, rw := 0xffffffffffffffff, moment := .step }
  | .rngCfg => { base := 0xe80018, n1 := 4096, s1 := 0x20, world := .stream, rw := 0xc0000000, moment := .step }
  | .seqPlanStatus => { base := 0x2000000, wide := true, reset := 0x2000000000000000 }
  | .seqStep => { base := 0x2000008, wide := true, reset := 0xffffffffffffffff, rw := 0xffffffffffffffff }
  | .seqCtl => { base := 0x2000010, reset := 0x644000, rw := 0xffffffff, moment := .step }
  | .seqCfgEpoch => { base := 0x2000020, wide := true }
  | .seqCfgCtl => { base := 0x2000028, rw := 1 }
  | .seqQstat => { base := 0x2001000, n1 := 256, s1 := 8, wide := true }
  | .mctCfg => { base := 0x600000, reset := 0x2000400a, rw := 0xe000ffff, sh := 0x2000ffff, qu := 0xc0000000 }
  | .mctLimit => { base := 0x600008, reset := 0xf0000, rw := 0xfffff, sh := 0xfffff }
  | .mctRetire => { base := 0x600010, n1 := 2, s1 := 8, wide := true, rw := 0xffffffffffffffff, sh := 0xffffffffffffffff }
  | .mctEvac => { base := 0x600020, reset := 0x190000, rw := 0xff7f00, w1c := 0x40000000 }
  | .mctEvacProg => { base := 0x600028 }
  | .mctRetrain => { base := 0x600030, rw := 0x7f00 }
  | .mctScrub => { base := 0x600038, reset := 0x3e81800, rw := 0xffffff00 }
  | .mctScrubStat => { base := 0x600040, wide := true }
  | .mctChstat => { base := 0x601000, n1 := 128, s1 := 8 }
  | .mshCtl => { base := 0x400000, reset := 0x2000040, rw := 0xff00ffff, sh := 0xff00ffff }
  | .mshFenceTile => { base := 0x400100, n1 := 24, s1 := 8, wide := true }
  | .mshFenceRtr => { base := 0x400200, n1 := 24, s1 := 8, wide := true }
  | .mshFenceHash => { base := 0x400300, wide := true }
  | .mshQuar => { base := 0x400308 }
  | .mshDetour => { base := 0x401000, n1 := 16, s1 := 0x200, n2 := 64, s2 := 8, wide := true, rw := 0xffffffffffffff00, sh := 0xffffffffffffff00 }
  | .mshEpmap => { base := 0x400400, n1 := 128, s1 := 4 }
  | .mshErr => { base := 0x400040, wide := true }
  | .mshCnt => { base := 0x404000, n1 := 4, s1 := 0x100, n2 := 8, s2 := 8, wide := true }
  | .lhlCfg => { base := 0x200000, reset := 0x3203e8, rw := 0xf0ffffff, sh := 0xffffff, qu := 0xf0000000 }
  | .lhlStatus => { base := 0x200008, wide := true }
  | .lhlCnt => { base := 0x200100, n1 := 8, s1 := 8, wide := true }
  | .hqeScan => { base := 0x100000, reset := 0x3e80c819, rw := 0xffffffff, sh := 0xffffffff }
  | .hqeDbBaseNs => { base := 0x100010, wide := true, world := .nonSecure, rw := 0xfffffffffffff001 }
  | .hqeDbBaseS => { base := 0x100018, wide := true, world := .secure, rw := 0xfffffffffffff001 }
  | .hqeWrr => { base := 0x100020, wide := true, reset := 0x8040201008040201, rw := 0xffffffffffffffff, sh := 0xffffffffffffffff }
  | .hqeStatus => { base := 0x100028, wide := true, reset := 0xc8 }
  | .hqeCnt => { base := 0x100100, n1 := 8, s1 := 8, wide := true }
  | .hqeRingBase => { base := 0x180000, n1 := 16384, s1 := 0x20, wide := true, world := .ring, rw := 0xfffffffffffff000 }
  | .hqeRingCfg => { base := 0x180008, n1 := 16384, s1 := 0x20, wide := true, world := .ring, rw := 0xbffbffffffffffe0 }
  | .hqeRingAux => { base := 0x180010, n1 := 16384, s1 := 0x20, wide := true, world := .ring, rw := 0xfffffffffffffff9 }
  | .hqeRingState => { base := 0x180018, n1 := 16384, s1 := 0x20, wide := true, world := .ring }
  | .qxfDevid => { base := 0x300000, rw := 0x8000ffff }
  | .qxfCtl => { base := 0x300008, reset := 0xf00a0064, rw := 0xf0ffffff, sh := 0xf0ffffff }
  | .qxfTwin => { base := 0x300010, rw := 0x8000ffff, sh := 0x8000ffff }
  | .qxfPortCfg => { base := 0x301000, n1 := 64, s1 := 0x10, reset := 0x8000000, rw := 0xf8f00000, sh := 0x8f00000, qu := 0xf0000000 }
  | .qxfPortStatus => { base := 0x301008, n1 := 64, s1 := 0x10, wide := true }
  | .qxfErr => { base := 0x300040, wide := true }
  | .qxfCnt => { base := 0x300100, n1 := 8, s1 := 8, wide := true }
  | .qxfPortCnt => { base := 0x304000, n1 := 64, s1 := 0x40, n2 := 8, s2 := 8, wide := true, world := .port }
  | .fijAuth => { base := 0xe00000, world := .secure, rw := 1 }
  | .fijCtl => { base := 0xe01000, n1 := 69, s1 := 0x10, wide := true, world := .secure, reset := 1, rw := 0xff80ffffffffffff }
  | .fijCnt => { base := 0xe01008, n1 := 69, s1 := 0x10, wide := true, world := .secure }
  | .rasCtl => { base := 0x800000, reset := 2, rw := 7, moment := .step }
  | .rasWatchCtl => { base := 0x800008, reset := 1, rw := 0x4fffffff, w1c := 0x80000000 }
  | .rasWatch => { base := 0x800010, n1 := 8, s1 := 8, wide := true, rw := 0xffffffffffffffff }
  | .rasCnt => { base := 0x801000, n1 := 512, s1 := 4 }
  | .rasTile => { base := 0x802000, n1 := 1536, s1 := 4 }
  | .rasChan => { base := 0x804000, n1 := 128, s1 := 4 }
  | .mirCtl => { base := 0x700800, reset := 0x100, rw := 0x800001ff, moment := .step }
  | .mirStatus => { base := 0x700808, wide := true }
  | .mirStandin => { base := 0x700810, rw := 0x8000ffff, moment := .step }
  | .mirRegSrc => { base := 0x701000, n1 := 64, s1 := 0x20, wide := true, rw := 0xffffffff0000 }
  | .mirRegDst => { base := 0x701008, n1 := 64, s1 := 0x20, wide := true, rw := 0xffffffff0000 }
  | .mirRegCfg => { base := 0x701010, n1 := 64, s1 := 0x20, rw := 0xe07fffff, moment := .step }
  | .snpStatus => { base := 0x700000, wide := true }
  | .snpCtl => { base := 0x700008, reset := 0x19, rw := 0x7f, moment := .step }
  | .snpAuto => { base := 0x700010, wide := true, reset := 0x6400a80000, rw := 0x8000ffffffff3fff, moment := .step }
  | .snpAutoTpl => { base := 0x700018, wide := true, rw := 0xffffffffffffffc0 }
  | .snpAutoStat => { base := 0x700020, wide := true }
  | .snpLogBase => { base := 0x700028, wide := true, rw := 0xfffffffffffff001, moment := .step }
  | .snpLogCfg => { base := 0x700030, rw := 0xffffff, moment := .step }
  | .secRegion => { base := 0xd01000, n1 := 128, s1 := 8, wide := true, world := .secure, rw := 0xf8ffffffffffffff, sh := 0xf8ffffffffffffff }
  | .secBootStatus => { base := 0xd00000, wide := true }
  | .secFuseCmd => { base := 0xd00010, world := .secure, rw := 6 }
  | .secAttest => { base := 0xd00018, world := .secure, rw := 0xffff }
  | .secSpdmCtl => { base := 0xd00020, rw := 0xfff, w1c := 0x40000000 }
  | .pwcCtl => { base := 0xb00000, reset := 0x80640960, rw := 0x8fff0fff }
  | .pwcStatus => { base := 0xb00008, wide := true }
  | .pwcGated => { base := 0xb00100, n1 := 24, s1 := 8, wide := true }
  | .pwcGoff => { base := 0xb00200, n1 := 24, s1 := 8, wide := true }
  | .ckgTime => { base := 0xb08000, wide := true, rw := 0xffffffffffffffff }
  | .ckgSync => { base := 0xb08008 }
  | .ckgStatus => { base := 0xb08010 }
  | .ambSens => { base := 0xc00000, n1 := 101, s1 := 4 }
  | .ambFilt => { base := 0xc00200, world := .secure, reset := 0x2222222, rw := 0xffffffff }
  | .ambRule => { base := 0xc01000, n1 := 64, s1 := 8, wide := true, world := .secure, rw := 0xbffffffcffffffff }
  | .ambWdog => { base := 0xc02000, world := .secure, reset := 0x800003e8, rw := 0x8000ffff }
  | .ambAlarm => { base := 0xc02008, wide := true, rw := 0xcfffffffffffffff }
  | .evcDbNs => { base := 0x900000, world := .nonSecure }
  | .evcDbS => { base := 0x900008, world := .secure }
  | .evcSrc => { base := 0x908000, n1 := 4096, s1 := 8, wide := true, world := .source, rw := 0x9ffffc0000000000 }
  | .evcClaim => { base := 0x900200, n1 := 19, s1 := 8, wide := true, world := .core }
  | .evcEoi => { base := 0x900100, n1 := 19, s1 := 8, world := .core }
  | .evcWatch => { base := 0x901000, n1 := 256, s1 := 4, rw := 0x80000fff }
  | .evcWake => { base := 0x900010, w1c := 0x3f }
  | .rscCfg => { base := 0xa00000, world := .secure, reset := 0x80000064, rw := 0xc0ffffff }
  | .rscSwrst => { base := 0xa00018, world := .secure, rw := 0x33 }
  | .rscBlkrst => { base := 0xa00010, rw := 0xfff00 }
  | .rscBlkstat => { base := 0xa00040 }
  | .rscCause => { base := 0xa00020, wide := true }
  | .rscBoot => { base := 0xa00028 }
  | .rscBootGood => { base := 0xa00030, world := .secure }
  | .rscPinmap => { base := 0xa00038 }
  | .gblFwStatus => { base := 0x100, wide := true }
  | .tilBist => { base := 0x1000600, n1 := 1536, s1 := 0x1000, world := .tile }
  | .seqSummNs => { base := 0x2008000, n1 := 64, s1 := 0x10, wide := true, world := .nonSecure }
  | .seqSummS => { base := 0x2008400, n1 := 64, s1 := 0x10, wide := true, world := .secure }
  | .seqSummEvNs => { base := 0x2008800, n1 := 64, s1 := 0x10, wide := true, world := .nonSecure }
  | .seqSummEvS => { base := 0x2008c00, n1 := 64, s1 := 0x10, wide := true, world := .secure }
  | .secWorldTile => { base := 0xd02000, n1 := 24, s1 := 8, wide := true, world := .secure, rw := 0xffffffffffffffff }
  | .secWorldRing => { base := 0xd03000, n1 := 256, s1 := 8, wide := true, world := .secure, rw := 0xffffffffffffffff }
  | .secWorldPort => { base := 0xd02100, wide := true, world := .secure, rw := 0xffffffffffffffff }
  | .secWorldStream => { base := 0xd02200, n1 := 64, s1 := 8, wide := true, world := .secure, rw := 0xffffffffffffffff, moment := .step }
  | .secWorldEvt => { base := 0xd02400, n1 := 64, s1 := 8, wide := true, world := .secure, rw := 0xffffffffffffffff }
  | .secDbgNonce => { base := 0xd00100, n1 := 8, s1 := 4 }
  | .secDbgResp => { base := 0xd00200, n1 := 132, s1 := 4 }
  | .secSpdmBuf => { base := 0xd08000, n1 := 1024, s1 := 4, rw := 0xffffffff }

/-- Every register name. -/
def regNames : List RegName :=
  [.gblId, .gblCap, .gblSpareMap, .gblArithCtl, .gblLayoutErr, .tilDaCtl, .tilDaStatus, .tilSlotErr, .tilDaCnt, .tilGmeCtl, .tilGmeStatus, .tilGmeErr, .tilGmeCnt, .tilVeStatus, .tilVeErr, .tilVeCnt, .gblBounceBaseNs, .gblBounceBaseS, .tkrCtl, .tkrEpoch] ++
  [.tkrQbufBase, .tkrQbufCfg, .tkrStatus, .tkrErr, .tkrCnt, .seqVerCtl, .seqVfrozen, .seqVstat, .seqVver, .nmuJobAddr, .nmuJobCtl, .nmuJobProg, .rngKey, .rngCtrLo, .rngCtrHi, .rngCfg, .seqPlanStatus, .seqStep, .seqCtl, .seqCfgEpoch] ++
  [.seqCfgCtl, .seqQstat, .mctCfg, .mctLimit, .mctRetire, .mctEvac, .mctEvacProg, .mctRetrain, .mctScrub, .mctScrubStat, .mctChstat, .mshCtl, .mshFenceTile, .mshFenceRtr, .mshFenceHash, .mshQuar, .mshDetour, .mshEpmap, .mshErr, .mshCnt] ++
  [.lhlCfg, .lhlStatus, .lhlCnt, .hqeScan, .hqeDbBaseNs, .hqeDbBaseS, .hqeWrr, .hqeStatus, .hqeCnt, .hqeRingBase, .hqeRingCfg, .hqeRingAux, .hqeRingState, .qxfDevid, .qxfCtl, .qxfTwin, .qxfPortCfg, .qxfPortStatus, .qxfErr, .qxfCnt] ++
  [.qxfPortCnt, .fijAuth, .fijCtl, .fijCnt, .rasCtl, .rasWatchCtl, .rasWatch, .rasCnt, .rasTile, .rasChan, .mirCtl, .mirStatus, .mirStandin, .mirRegSrc, .mirRegDst, .mirRegCfg, .snpStatus, .snpCtl, .snpAuto, .snpAutoTpl] ++
  [.snpAutoStat, .snpLogBase, .snpLogCfg, .secRegion, .secBootStatus, .secFuseCmd, .secAttest, .secSpdmCtl, .pwcCtl, .pwcStatus, .pwcGated, .pwcGoff, .ckgTime, .ckgSync, .ckgStatus, .ambSens, .ambFilt, .ambRule, .ambWdog, .ambAlarm] ++
  [.evcDbNs, .evcDbS, .evcSrc, .evcClaim, .evcEoi, .evcWatch, .evcWake, .rscCfg, .rscSwrst, .rscBlkrst, .rscBlkstat, .rscCause, .rscBoot, .rscBootGood, .rscPinmap, .gblFwStatus, .tilBist, .seqSummNs, .seqSummS, .seqSummEvNs] ++
  [.seqSummEvS, .secWorldTile, .secWorldRing, .secWorldPort, .secWorldStream, .secWorldEvt, .secDbgNonce, .secDbgResp, .secSpdmBuf]

/-- The offset of a register. -/
def regOff (n : RegName) (i j : Nat) : Nat := (regInfo n).base + (regInfo n).s1 * i + (regInfo n).s2 * j

/-- Which instance of register `n` lies at offset `off`. -/
def regAt (n : RegName) (off : Nat) : Option (Nat × Nat) :=
  let g := regInfo n
  if off < g.base then none
  else
    let d := off - g.base
    let i := if g.s1 = 0 then 0 else d / g.s1
    let r := if g.s1 = 0 then d else d % g.s1
    let j := if g.s2 = 0 then 0 else r / g.s2
    let q := if g.s2 = 0 then r else r % g.s2
    if i < g.n1 && j < g.n2 && q == 0 then some (i, j) else none

/-- The register whose line assigns offset `off`. -/
def findReg (off : Nat) : List RegName → Option (RegName × Nat × Nat)
  | [] => none
  | n :: ns => match regAt n off with
    | some (i, j) => some (n, i, j)
    | none => findReg off ns

/-- The register that starts at offset `off`, with its index. -/
def regDecode (off : Nat) : Option (RegName × Nat × Nat) := findReg off regNames

/-- The tile an edge endpoint attaches to (the table "Edge endpoint attachment" of R313); 0x7FF for unused numbers. -/
def epTile (n : Nat) : Nat :=
  let at' := fun d dx outer => -- column offset within the die on the outer row
    (if d / 2 = 0 then 0 else 31) * 48 + 24 * (d % 2) + dx + outer
  let col := fun d dy => (16 * (d / 2) + dy) * 48 + (if d % 2 = 0 then 0 else 47)
  if n < 32 then col (n / 8) (2 * (n % 8))
  else if n < 96 then at' ((n - 32) / 16) (4 + (n - 32) % 16) 0
  else if n < 112 then at' ((n - 96) / 4) (5 + 4 * ((n - 96) % 4)) 0
  else if n < 116 then col (n - 112) 7
  else if n = 116 then 11 * 48
  else if n = 117 then 13 * 48
  else 0x7FF

/-- One entry of the table "Fixed rules" (R451), as an AMB_RULEn value (R457). -/
def fixedRule (n : Nat) : Nat :=
  if n < 4 then 2 ^ 63 + 1 * 2 ^ 58 + 2 ^ n * 2 ^ 46 + (96 + n) * 2 ^ 39 + 3 * 2 ^ 34 + 0x0640 * 2 ^ 16 + 0x0050
  else if n = 4 then 2 ^ 63 + 4 * 2 ^ 58 + 100 * 2 ^ 39 + 3 * 2 ^ 34 + 0x06E0 * 2 ^ 16 + 0x0140
  else 0

/-- GBL_SPARE_MAP from the fuses (R14): a die is repaired when it skips a column other than 24. -/
def spareMap : Nat :=
  ((List.range 4).map fun d =>
    let c := (Config.skipCol.getD d 24) % 32
    (c + (if c = 24 then 0 else 128)) * 2 ^ (8 * d)).sum

/-- The reset value of a register: the one its line states, with the fuse-, member- and boot-derived ones of R10, R14,
R287, R313, R379, R451, R507 and R521 (log 3). -/
def regReset (n : RegName) (i _j : Nat) : Nat :=
  match n with
  | .gblCap => if Config.half then 0xC0840600 else 0x80840600
  | .gblSpareMap => spareMap
  | .mctLimit => if Config.half then 0x78000 else 0xF0000
  | .mshEpmap => epTile i
  | .qxfPortCfg => if i < 60 then 0x08000000 else 0x08F00000
  | .ambRule => fixedRule i
  | .rscBoot => 0x1A0
  | .rscPinmap => 0x15555F40
  | .secBootStatus => 0x300000000000
  | .fijAuth => if Config.debugFuse then 0x80000000 else 0
  | .gblFwStatus => 0x30000000
  | _ => (regInfo n).reset

end Sys2Proof.Machine
end

