-- ==== Sys2Proof/Machine/Num.lean ====
section
/-! DEFINITION. Number formats (R25 to R27), exact values, exponent maxima (R30), long partials (R35 to R37, R42, R52,
R53), output rounding (R43 to R46) and the Philox generator. -/

namespace Sys2Proof.Machine

/-- Special state (R36, R42). -/
inductive Sp where
  | none | pinf | ninf | nan
  deriving DecidableEq, Repr

/-- An exact value: m × 2^e, or a special. -/
inductive Val where
  | fin (m e : Int)
  | inf (neg : Bool)
  | nan
  deriving DecidableEq, Repr

/-- A long partial with its anchor and state entry (R35, R36). -/
structure Lp where
  v      : Int := 0
  anchor : Int := 0
  live   : Bool := false
  ovf    : Bool := false
  sp     : Sp := .none
  deriving DecidableEq, Repr

/-- An empty long partial. -/
def Lp.empty : Lp := {}

/-- Output rounding modes (R43). -/
inductive Rnd where
  | rne | rtz | sr
  deriving DecidableEq, Repr

/-- Combination of special states: commutative and associative (R42). -/
def spAdd : Sp → Sp → Sp
  | .none, x => x
  | x, .none => x
  | .pinf, .pinf => .pinf
  | .ninf, .ninf => .ninf
  | _, _ => .nan

/-- The special state of a value. -/
def spOf : Val → Sp
  | .fin _ _ => .none
  | .inf false => .pinf
  | .inf true => .ninf
  | .nan => .nan

/-- A special state as the two bits of the state plane (R36). -/
def spCode : Sp → Nat
  | .none => 0 | .pinf => 1 | .ninf => 2 | .nan => 3

/-- The special state of two state-plane bits. -/
def spOfCode (n : Nat) : Sp :=
  match n % 4 with
  | 0 => .none | 1 => .pinf | 2 => .ninf | _ => .nan

/-- floor(log2 n), for n > 0. -/
def ilog2 (n : Nat) : Nat := Nat.log2 n

/-- ceil(log2 n), with ceil(log2 1) = 0. -/
def clog2 (n : Nat) : Nat := if n ≤ 1 then 0 else Nat.log2 (n - 1) + 1

/-- v × 2^s truncated toward zero. -/
def shiftTrunc (v : Int) (s : Int) : Int :=
  if 0 ≤ s then v * (2 ^ s.toNat : Nat)
  else
    let q := ((v.natAbs / 2 ^ (-s).toNat : Nat) : Int)
    if v < 0 then -q else q

/-- floor(log2 |m × 2^e|), for m ≠ 0. -/
def expOf (m e : Int) : Int := (ilog2 m.natAbs : Int) + e

/-- A magnitude m × 2^e rounded to a whole number of units 2^u; `draw` is the 16-bit draw of R46. -/
def roundMag (r : Rnd) (draw : Nat) (m : Nat) (e u : Int) : Nat :=
  if u ≤ e then m * 2 ^ (e - u).toNat
  else
    let s := (u - e).toNat
    let kept := m / 2 ^ s
    let rem := m % 2 ^ s
    match r with
    | .rtz => kept
    | .rne =>
      if 2 * rem > 2 ^ s || (2 * rem == 2 ^ s && kept % 2 == 1) then kept + 1 else kept
    | .sr =>
      let frac := if 16 ≤ s then rem / 2 ^ (s - 16) else rem * 2 ^ (16 - s)
      if 2 ^ 16 ≤ frac + draw % 2 ^ 16 then kept + 1 else kept

/-- A binary floating format: fields, bias, code of the largest finite value, of infinity (if any) and of NaN. -/
structure FloatFmt where
  eb   : Nat
  mb   : Nat
  bias : Nat
  top  : Nat
  infc : Option Nat
  nanc : Option Nat
  deriving DecidableEq, Repr

def fE4M3 : FloatFmt := ⟨4, 3, 7, 0x7E, none, some 0x7F⟩
def fE5M2 : FloatFmt := ⟨5, 2, 15, 0x7B, some 0x7C, some 0x7E⟩
def fBF16 : FloatFmt := ⟨8, 7, 127, 0x7F7F, some 0x7F80, some 0x7FC0⟩
def fFP16 : FloatFmt := ⟨5, 10, 15, 0x7BFF, some 0x7C00, some 0x7E00⟩
def fFP32 : FloatFmt := ⟨8, 23, 127, 0x7F7FFFFF, some 0x7F800000, some 0x7FC00000⟩
def fE3M2 : FloatFmt := ⟨3, 2, 3, 0x1F, none, none⟩
def fE2M3 : FloatFmt := ⟨2, 3, 1, 0x1F, none, none⟩
def fE2M1 : FloatFmt := ⟨2, 1, 1, 0x7, none, none⟩

/-- The floating format of a format code (R25). -/
def floatFmt (code : Nat) : Option FloatFmt :=
  match code with
  | 0x01 => some fE4M3 | 0x02 => some fE5M2 | 0x04 => some fBF16 | 0x05 => some fFP16 | 0x06 => some fFP32
  | 0x10 => some fE4M3 | 0x11 => some fE5M2 | 0x12 => some fE3M2 | 0x13 => some fE2M3 | 0x14 => some fE2M1
  | _ => none

/-- Element width in bits of a format code; 0 for a code the table of R25 does not list. -/
def fmtBits (code : Nat) : Nat :=
  match code with
  | 0x01 | 0x02 | 0x03 | 0x10 | 0x11 => 8
  | 0x04 | 0x05 => 16
  | 0x06 | 0x20 => 32
  | 0x12 | 0x13 => 6
  | 0x14 => 4
  | 0x30 => 128
  | _ => 0

/-- A listed format code (R25). -/
def fmtListed (code : Nat) : Bool := fmtBits code != 0

/-- An MX format (R25). -/
def fmtMx (code : Nat) : Bool := decide (0x10 ≤ code) && decide (code ≤ 0x14)

/-- A format that may be a product operand (R25). -/
def fmtOperand (code : Nat) : Bool := fmtListed code && code != 0x20 && code != 0x30

/-- Size of a DENSE payload (R59). -/
def denseSize (code : Nat) : Nat := if code = 0x30 then 18944 else 128 * fmtBits code

/-- Value of a floating code. -/
def floatDecode (f : FloatFmt) (x : Nat) : Val :=
  let neg := bit x (f.eb + f.mb)
  let ex := bits x (f.eb + f.mb - 1) f.mb
  let ma := x % 2 ^ f.mb
  let mag := x % 2 ^ (f.eb + f.mb)
  if f.top < mag then
    match f.infc with
    | some i => if mag = i then .inf neg else .nan
    | none => .nan
  else
    let m : Nat := if ex = 0 then ma else 2 ^ f.mb + ma
    let e : Int := (if ex = 0 then (1 : Int) else (ex : Int)) - (f.bias : Int) - (f.mb : Int)
    .fin (if neg then -(m : Int) else (m : Int)) e

/-- Code of a finite value of sign `neg` and magnitude m × 2^e, rounded; `none` on finite overflow. -/
def floatRound (f : FloatFmt) (r : Rnd) (draw : Nat) (neg : Bool) (m : Nat) (e : Int) : Option Nat :=
  if m = 0 then some 0
  else
    let emin : Int := 1 - (f.bias : Int)
    let ex := expOf m e
    let u := (if ex < emin then emin else ex) - (f.mb : Int)
    let kept := roundMag r draw m e u
    let mag : Nat := if ex < emin then kept else ((ex + f.bias).toNat) * 2 ^ f.mb + kept - 2 ^ f.mb
    if f.top < mag then none
    else some (if kept = 0 then 0 else mag + (if neg then 2 ^ (f.eb + f.mb) else 0))

/-- Largest finite value of a sign. -/
def floatTop (f : FloatFmt) (neg : Bool) : Nat := f.top + (if neg then 2 ^ (f.eb + f.mb) else 0)

/-- Infinity of a sign, or NaN in a format without infinities (R43). -/
def floatInf (f : FloatFmt) (neg : Bool) : Nat :=
  match f.infc with
  | some i => i + (if neg then 2 ^ (f.eb + f.mb) else 0)
  | none => f.nanc.getD 0

/-- Rounding of a value to a floating format by R43. -/
def floatEncode (f : FloatFmt) (r : Rnd) (draw : Nat) (v : Val) : Nat :=
  match v with
  | .nan => f.nanc.getD 0
  | .inf neg => floatInf f neg
  | .fin m e =>
    let neg := decide (m < 0)
    match floatRound f r draw neg m.natAbs e with
    | some c => c
    | none =>
      match f.infc with
      | none => floatTop f neg
      | some _ => if r = .rtz then floatTop f neg else floatInf f neg

/-- Rounding of a value to a two's-complement integer of `w` bits, with saturation; the flag says that R44 counts it. -/
def intEncode (w : Nat) (r : Rnd) (draw : Nat) (v : Val) : Nat × Bool :=
  let hi : Int := (2 ^ (w - 1) : Nat) - 1
  let lo : Int := -((2 ^ (w - 1) : Nat) : Int)
  match v with
  | .nan => (0, true)
  | .inf neg => (ofSigned w (if neg then lo else hi), true)
  | .fin m e =>
    let k := (roundMag r draw m.natAbs e 0 : Nat)
    let x : Int := if m < 0 then -(k : Int) else (k : Int)
    if hi < x then (ofSigned w hi, true) else if x < lo then (ofSigned w lo, true) else (ofSigned w x, false)

/-- Value of an E8M0 scale byte as an exponent; `none` is NaN (R26). -/
def scaleExp (b : Nat) : Option Int := if b = 0xFF then none else some ((b : Int) - 127)

/-- A scaled value of magnitude 2^128 or more is an infinity of its sign (R27). -/
def mxClip (v : Val) : Val :=
  match v with
  | .fin m e => if m ≠ 0 && decide (128 ≤ expOf m e) then .inf (decide (m < 0)) else v
  | _ => v

/-- Value of an element code of a format, with its scale byte in an MX format (R25 to R27). -/
def elemVal (code raw scale : Nat) : Val :=
  if code = 0x03 then .fin (toSigned 8 raw) 0
  else if code = 0x20 then .fin (toSigned 32 raw) 0
  else match floatFmt code with
    | none => .fin 0 0
    | some f =>
      if fmtMx code then
        match scaleExp scale with
        | none => .nan
        | some s => match floatDecode f raw with
          | .fin m e => mxClip (.fin m (e + s))
          | v => v
      else floatDecode f raw

/-- A value is zero. -/
def valZero : Val → Bool
  | .fin m _ => m == 0
  | _ => false

/-- The value of a long partial (R35, R43). -/
def lpVal (l : Lp) : Val :=
  if l.live then
    match l.sp with
    | .nan => .nan
    | .pinf => .inf false
    | .ninf => .inf true
    | .none => .fin l.v (l.anchor - 96)
  else .fin 0 0

/-- Largest and least values of a long partial after overflow (R53). -/
def lpMax : Int := (2 ^ 127 : Nat) - 1

/-- Saturate a 128-bit sum, with OVF (R53). -/
def lpSat (x : Int) : Int × Bool :=
  if lpMax < x then (lpMax, true) else if x < -lpMax - 1 then (-lpMax - 1, true) else (x, false)

/-- Add a contribution on the grid 2^g (v × 2^g) and a special state to a long partial; an empty one first takes anchor
`eOut` (R37). A saturated one stays saturated (R53). The flag says that an overflow happened. -/
def lpFold (l : Lp) (eOut : Int) (v g : Int) (sp : Sp) : Lp × Bool :=
  let l0 : Lp := if l.live then l else { v := 0, anchor := eOut, live := true, ovf := false, sp := .none }
  let add := shiftTrunc v (g - (l0.anchor - 96))
  if l0.ovf then ({ l0 with sp := spAdd l0.sp sp }, false)
  else
    let r := lpSat (l0.v + add)
    ({ l0 with v := r.1, ovf := r.2, sp := spAdd l0.sp sp }, r.2)

/-- Addition of two long partials in a reduction or combine (R42, R52, R298): equal anchors add exactly; a mismatch
aligns to the larger anchor. The flags say mismatch and overflow. -/
def lpAdd (a b : Lp) : Lp × Bool × Bool :=
  if !a.live then (b, false, false)
  else if !b.live then (a, false, false)
  else
    let mis := decide (a.anchor ≠ b.anchor)
    let an := if a.anchor < b.anchor then b.anchor else a.anchor
    let r := lpSat (shiftTrunc a.v (a.anchor - an) + shiftTrunc b.v (b.anchor - an))
    let v := if a.ovf then a.v else if b.ovf then b.v else r.1
    ({ v := v, anchor := an, live := true, ovf := a.ovf || b.ovf || r.2, sp := spAdd a.sp b.sp },
      mis, r.2 && !a.ovf && !b.ovf)

/-- The value written for a long partial: an overflowed one is written as the largest finite value of its sign (R53). -/
def lpNeg (l : Lp) : Bool := decide (l.v < 0)

/-- One element written from a long partial in a non-MX format: code and whether R44 counts it. -/
def lpRound (code : Nat) (r : Rnd) (draw : Nat) (l : Lp) : Nat × Bool :=
  let big := l.live && l.ovf && l.sp == .none
  if code = 0x03 then (if big then intEncode 8 r draw (.fin (if lpNeg l then -(2 ^ 40) else 2 ^ 40) 0)
    else intEncode 8 r draw (lpVal l))
  else if code = 0x20 then (if big then intEncode 32 r draw (.fin (if lpNeg l then -(2 ^ 40) else 2 ^ 40) 0)
    else intEncode 32 r draw (lpVal l))
  else match floatFmt code with
    | none => (0, false)
    | some f => if big then (floatTop f (lpNeg l), false) else (floatEncode f r draw (lpVal l), false)

/-- emax of an MX element format (R45). -/
def mxEmax (code : Nat) : Int :=
  match code with
  | 0x10 => 8 | 0x11 => 15 | 0x12 => 4 | _ => 2

/-- The value that stands for an overflowed long partial in an MX group (R53). -/
def mxOver (code : Nat) (neg : Bool) : Val :=
  match floatFmt code with
  | none => .fin 0 0
  | some f => match floatDecode f f.top with
    | .fin m e => .fin (if neg then -m else m) (e + 127)
    | v => v

/-- The larger of two magnitudes m × 2^e. -/
def magLt (m1 e1 m2 e2 : Int) : Bool :=
  let e := if e1 < e2 then e1 else e2
  decide (m1.natAbs * 2 ^ (e1 - e).toNat < m2.natAbs * 2 ^ (e2 - e).toNat)

/-- The largest finite magnitude of a list, as (m, e). -/
def maxMag : List Val → Int × Int
  | [] => (0, 0)
  | .fin m e :: vs => let r := maxMag vs; if magLt r.1 r.2 m e then (m, e) else r
  | _ :: vs => maxMag vs

/-- The scale byte of an MX group (R45). -/
def mxScale (code : Nat) (vs : List Val) : Nat :=
  let noInf := code != 0x11
  if vs.any (· == .nan) then 0xFF
  else if noInf && vs.any (fun v => match v with | .inf _ => true | _ => false) then 0xFF
  else
    let x := maxMag vs
    if x.1 = 0 then 0
    else
      let s := expOf x.1 x.2 - mxEmax code
      let s := if s < -127 then -127 else if 127 < s then 127 else s
      (s + 127).toNat

/-- An element of an MX group under its scale byte: divided, rounded and saturated (R45). -/
def mxElem (code : Nat) (r : Rnd) (draw scale : Nat) (v : Val) : Nat :=
  match floatFmt code, scaleExp scale with
  | some f, some s =>
    match v with
    | .fin m e => match floatRound f r draw (decide (m < 0)) m.natAbs (e - s) with
      | some c => c
      | none => floatTop f (decide (m < 0))
    | .inf neg => floatInf f neg
    | .nan => f.nanc.getD 0
  | some f, none => match f.nanc with
    | some c => c
    | none => Config.mxNanCode code % 2 ^ (fmtBits code)
  | none, _ => 0

/-- The exponent of a non-zero finite value as a maximum byte (R30): 0 when it has none, and 255 for an exponent above 127
(only a long partial has one; DESIGN CHOICE, log 129). -/
def maxByte (v : Val) : Nat :=
  match v with
  | .fin m e => if m = 0 then 0 else
      let x := expOf m e
      min 255 ((if x < -127 then (-127 : Int) else x) + 128).toNat
  | _ => 0

/-- Largest of a list of bytes. -/
def maxOf (l : List Nat) : Nat := l.foldl max 0

/-- One Philox-4x32 round. -/
def philoxRound (c : Nat × Nat × Nat × Nat) (k0 k1 : Nat) : Nat × Nat × Nat × Nat :=
  let p0 := 0xD2511F53 * c.1
  let p1 := 0xCD9E8D57 * c.2.2.1
  let hi0 := p0 / 2 ^ 32; let lo0 := p0 % 2 ^ 32
  let hi1 := p1 / 2 ^ 32; let lo1 := p1 % 2 ^ 32
  (Nat.xor (Nat.xor hi1 c.2.1) k0, lo1, Nat.xor (Nat.xor hi0 c.2.2.2) k1, lo0)

/-- `n` Philox rounds with the key schedule. -/
def philoxRounds : Nat → Nat × Nat × Nat × Nat → Nat → Nat → Nat × Nat × Nat × Nat
  | 0, c, _, _ => c
  | n + 1, c, k0, k1 =>
    philoxRounds n (philoxRound c k0 k1) ((k0 + 0x9E3779B9) % 2 ^ 32) ((k1 + 0xBB67AE85) % 2 ^ 32)

/-- Philox-4x32-10 of a 128-bit counter under a 64-bit key, as a 128-bit number (R46).  PRESUMED: the generator's
published constants and word order (log 14). -/
def philox (key ctr : Nat) : Nat :=
  let w := fun i => (ctr / 2 ^ (32 * i)) % 2 ^ 32
  let r := philoxRounds 10 (w 0, w 1, w 2, w 3) (key % 2 ^ 32) ((key / 2 ^ 32) % 2 ^ 32)
  r.1 + r.2.1 * 2 ^ 32 + r.2.2.1 * 2 ^ 64 + r.2.2.2 * 2 ^ 96

/-- The coordinate draw of element `n` (R46). -/
def srDraw (key step salt n : Nat) : Nat :=
  let ctr := (step % 2 ^ 64) * 2 ^ 64 + (salt % 2 ^ 16) * 2 ^ 48 + (n / 8) % 2 ^ 48
  (philox key ctr / 2 ^ (16 * (n % 8))) % 2 ^ 16

/-- Conversion of a value to an FP32 code under RNE. -/
def toFp32 (v : Val) : Nat := floatEncode fFP32 .rne 0 v

/-- Value of an FP32 code. -/
def fp32Val (x : Nat) : Val := floatDecode fFP32 x

end Sys2Proof.Machine
end

