-- ==== Sys2Proof/Machine/Types.lean ====
section
/-! DEFINITION. The pieces State is built from: the engines' own state the rules give beside the registers. -/

namespace Sys2Proof.Machine

/-- For which work an access or computation runs: a plan's step, a ring command outside a step, or neither (R390). -/
inductive Ctx where
  | plan (k : PlanKind)
  | cmd (iid : Nat)
  | snap
  | other
  deriving DecidableEq, Repr

/-! ### Host queues (R330 to R344) -/

/-- Ring states (R353). -/
inductive RingSt where
  | disabled | active | draining | error
  deriving DecidableEq, Repr

/-- What the HQE keeps of one ring beside its context registers. -/
structure Ring where
  st     : RingSt := .disabled
  err    : Nat := 0
  /-- descriptors fetched, or entries written, since enable -/
  count  : Nat := 0
  /-- the last PI (submission) or CC (completion, event) read from the doorbell word -/
  seen   : Nat := 0
  /-- unsignalled entries and the time of the oldest (R341) -/
  unsig  : Nat := 0
  oldest : Nat := 0
  /-- event records lost just before the next one (R340) -/
  lost   : Nat := 0
  /-- a SEQ mismatch waits for its second read (R335) -/
  recheck : Bool := false
  deriving DecidableEq, Repr

/-- A descriptor fetched and not yet issued (R334). -/
structure Fetched where
  ring : Nat
  seq  : Nat
  desc : Bytes
  deriving DecidableEq, Repr

/-- Progress of an issued command. -/
inductive CmdSt where
  | issued | held | running
  deriving DecidableEq, Repr

/-- An issued command (R337). `ras0` holds the RAS counters at issue, for the deltas of R339; `aux` is the command's own
progress. -/
structure Issued where
  iid   : Nat
  ring  : Nat
  world : World
  op    : Nat
  seq   : Nat
  tag   : Nat
  irq   : Bool
  fence : Bool
  ops   : Bytes
  st    : CmdSt := .issued
  ras0  : NMap W64 := []
  failed : Bool := false
  /-- the bounce register of its world as it was at the issue (R168) -/
  bounce : Nat := 0
  /-- bytes fetched from a peer, by the peer and its address; of a recomputation the log record; of a restore the image -/
  fetched : NMap Byte := []
  /-- how far the command has come, where its rule has stages -/
  stage : Nat := 0
  deriving DecidableEq, Repr

/-- A completion entry waiting for its ring (R338): all of it but TIME and PHASE. -/
structure Cpl where
  cq     : Nat
  irq    : Bool
  seq    : Nat
  tag    : Nat
  status : Nat
  src    : Nat
  op     : Nat
  info   : Bytes
  deriving DecidableEq, Repr

/-- The host queue engine. -/
structure Hqe where
  rings    : NMap Ring := []
  fetched  : List Fetched := []
  issued   : List Issued := []
  nextIid  : Nat := 0
  buf      : List Cpl := []
  /-- scan interval in units of 10 ns (R332, R351) -/
  interval : Nat := 0xC8
  /-- event records held while the link is lost: ring, source, tag and data (R323) -/
  evHeld   : List (Nat × Nat × Nat × Bytes) := []
  /-- bitmap lines a scan still waits for, and whether it has found a set bit (R332) -/
  scanLeft : Nat := 0
  /-- NUDGEs received in Charcoal: a ring, or a scan (R445) -/
  nudges   : List (Option Nat) := []
  scanFound : Bool := false
  /-- grants left to each class in this round, and the ring last served in each class (R334) -/
  grants   : NMap Nat := []
  last     : NMap Nat := []
  deriving DecidableEq, Repr

/-! ### Links (R318 to R323, R355, R303) -/

/-- Link states (R322). -/
inductive LinkSt where
  | down | detect | train | active | retrain | off
  deriving DecidableEq, Repr

/-- What a transaction or packet is to the part as it goes out: nothing more, a completion, a host write, an INTR, a request by
its tag, or a fabric packet of a message that may have to use one bundle. -/
inductive TxUse where
  | plain
  | cpl (tag : Nat) (data : Option Nat)
  | write (w : World) (a : Nat) (bs : Bytes)
  | intr (v : Nat)
  | req (tag : Nat)
  | fabric (x : FabPacket) (bundle : Option Nat)
  deriving DecidableEq, Repr

/-- A transaction or packet that waits for credit, for room or for its link (R320, R321, R355): its class or virtual channel, its
data credits, whether it is posted, and its bytes. -/
structure TxMsg where
  cls    : Nat
  data   : Nat := 0
  posted : Bool := false
  ctx    : Ctx := .other
  use    : TxUse := .plain
  bytes  : Bytes
  deriving DecidableEq, Repr

/-- A flit in a replay buffer: DATA (kind 0) or CONTROL (kind 1); what is lost with it, where a posted transaction ends in it, and
that one's TYPE, SRC and DST; and how often it has been replayed (R320, R323, R356). -/
structure TxFlit where
  seq     : Nat
  payload : Bytes
  posted  : Nat := 0
  ctx     : Ctx := .other
  kind    : Nat := 0
  pkt     : Nat × Nat × Nat := (0, 0, 0)
  tries   : Nat := 0
  deriving DecidableEq, Repr

/-- An LHL or QXF link end. -/
structure Link where
  st        : LinkSt := .down
  rate      : Nat := 0
  width     : Nat := 0
  lanes     : Nat := 0
  sig       : Nat := 0
  retrains  : Nat := 0
  /-- next SEQ to send, next expected SEQ, and the last SEQ received in order -/
  txSeq     : Nat := 0
  rxSeq     : Nat := 0
  /-- flits sent and not acknowledged, oldest first -/
  replay    : List TxFlit := []
  /-- flits that wait for room in the replay buffer -/
  wait      : List TxFlit := []
  /-- transactions or packets that wait for credit, room or the link -/
  hold      : List TxMsg := []
  /-- a flit has been received in order; a NAK is out and the expected SEQ has not come -/
  got       : Bool := false
  naked     : Bool := false
  /-- an acknowledgement is owed to the other side -/
  ackOwed   : Nat := 0
  /-- cumulative credits the other side has granted, and those spent, per class (R321) -/
  crHdr     : NMap Nat := []
  crData    : NMap Nat := []
  usedHdr   : NMap Nat := []
  usedData  : NMap Nat := []
  /-- headers and data units received, per class; 8 B words of the current transaction still to come, and the virtual channel of
  a packet whose LEN is still to come; a credit update is owed -/
  rxHdr     : NMap Nat := []
  rxData    : NMap Nat := []
  rxLeft    : Nat := 0
  rxVc      : Option Nat := none
  grantDue  : Bool := true
  /-- a REORDER injection is due: its SUB (R376) -/
  swap      : Option Bool := none
  /-- the WIDTH code the link last trained for -/
  cfgWidth  : Nat := 0
  /-- a rate or width change is being trained: what the link returns to if it fails (R323) -/
  fallback  : Option (Nat × Nat) := none
  /-- DOWN_LIMIT has passed with the link not ACTIVE (R323) -/
  lost      : Bool := false
  deriving DecidableEq, Repr

/-- One direction of a die-bridge link (R303). -/
structure Bridge where
  rxSeq    : Nat := 0
  txSeq    : Nat := 0
  replay   : List TxFlit := []
  tries    : Nat := 0
  training : Bool := false
  naked    : Bool := false
  /-- a swap of two packets of one pair is due: the first of them, once it has crossed (R376) -/
  swap     : Option (Option Bytes) := none
  deriving DecidableEq, Repr

/-- What a host request is for (R324, R328): a command's operands or data, the automatic snapshot's template, or the
HQE's own reads of bitmap words, doorbell words and descriptors (R331 to R338). -/
inductive HostUse where
  | cmd (iid : Nat)
  | template
  | bitmap (w : World) (k : Nat)
  | swap (w : World) (k : Nat)
  | doorbell (n : Nat)
  | fetch (n m : Nat)
  | recheck (n : Nat)
  | space (n : Nat)
  deriving DecidableEq, Repr

/-- A part-to-host request waiting for its completion, by tag (R324). -/
structure HostReq where
  tag  : Nat
  use  : HostUse
  addr : Nat
  len  : Nat
  /-- bytes of its data that have come -/
  got  : Nat := 0
  deriving DecidableEq, Repr

/-- A request that has been answered and whose command has not ended: status 0 means that the data is in the part's view
of host memory. -/
structure HostAns where
  use    : HostUse
  addr   : Nat
  len    : Nat
  status : Nat
  deriving DecidableEq, Repr

/-! ### Fabric (R354 to R376) -/

/-- A message the part originated and that has not got its DONE or RESPONSE (R358). -/
structure OutMsg where
  peer   : Nat
  msg    : Nat
  packets : List FabPacket
  ctx    : Ctx
  /-- the bundle it must use; `none` follows the route entry -/
  bundle : Option Nat := none
  /-- a DONE or RESPONSE is awaited -/
  awaits : Bool := true
  /-- waits 10 µs after a RETRY -/
  retry  : Bool := false
  /-- MIRROR message, and the mirror-entry page of a seed it carries -/
  mirror : Bool := false
  seed   : Option (Nat × Nat) := none
  /-- MIRROR message of a SYNC entry -/
  sync   : Bool := false
  /-- READ: device address its data goes to -/
  into   : Nat := 0
  /-- timed out within a step: a PROBE is out -/
  probing : Bool := false
  deriving DecidableEq, Repr

/-- A close group (R366). -/
structure CloseGroup where
  n       : Nat := 0
  rank    : Nat := 0
  valid   : Bool := false
  world   : World := .ns
  members : List Nat := []
  bundles : List Nat := []
  deriving DecidableEq, Repr

/-- An anchor message held for a block not yet reached, or an own round's anchors (R367). -/
structure AnchorMsg where
  group   : Nat
  src     : Nat
  step    : Nat
  attempt : Nat
  op      : Nat
  phase   : Nat
  blk     : Nat
  anchors : List Nat
  deriving DecidableEq, Repr

/-- A reduction window (R370). -/
structure Window where
  base    : Nat := 0
  size    : Nat := 0
  mode    : Nat := 0
  valid   : Bool := false
  world   : World := .ns
  ncontrib : Nat := 0
  prev    : Nat := 0
  next    : Nat := 0
  counts  : Nat := 0
  deriving DecidableEq, Repr

/-- The fabric engine. -/
structure Fab where
  nextMsg : Nat := 0
  out     : List OutMsg := []
  /-- messages that wait for a peer-cache fill, or for one of 256 places -/
  queued  : List OutMsg := []
  /-- the peer cache, most recently used first (R364) -/
  cache   : List Nat := []
  /-- route banks: key = bank × 65,536 + device (R360) -/
  routes  : NMap Nat := []
  groups  : NMap CloseGroup := []
  anchors : List AnchorMsg := []
  windows : NMap Window := []
  deriving DecidableEq, Repr

/-! ### Mirroring and snapshots (R394 to R406) -/

/-- Mirroring beside its registers: the next page each seeding entry sends. -/
structure Mir where
  seeding : NMap Nat := []
  deriving DecidableEq, Repr

/-- An entry of a snapshot's region list (R401). -/
structure SnapEntry where
  addr   : Nat
  pages  : Nat
  region : Option Nat
  version : Nat
  bytes  : Bytes
  deriving DecidableEq, Repr

/-- The snapshot that waits or runs (R401 to R404). -/
structure Snap where
  iid     : Option Nat
  auto    : Bool
  world   : World
  kind    : Nat
  peer    : Nat
  dest    : Nat
  cowBuf  : Nat
  cowPages : Nat
  list    : List SnapEntry
  captured : Bool := false
  /-- its capture point has come, and no step starts before it (R402) -/
  due     : Bool := false
  step    : Nat := 0
  streams : List (Nat × Nat × Nat) := []
  /-- buffered pages (device page number, buffer slot), oldest first -/
  buffered : List (Nat × Nat) := []
  digest  : List Nat := [0, 0, 0, 0, 0, 0, 0, 0]
  ras0    : NMap W64 := []
  /-- list, streams and header have been sent -/
  headed  : Bool := false
  deriving DecidableEq, Repr

/-- The snapshot engine and its automatic interval (R406). -/
structure SnapEng where
  cur     : Option Snap := none
  heldIds : List Nat := []
  since   : Nat := 0
  enTime  : Nat := 0
  fails   : Nat := 0
  /-- times of the last 64 committed steps, newest first; the mean of 16 before capture; what the overlapped steps have
  cost so far; the cost of the last snapshot; a snapshot has ended within a step that has not committed (R406) -/
  times   : List Nat := []
  base    : Nat := 0
  run     : Nat := 0
  cost    : Nat := 0
  openEnd : Bool := false
  ever    : Bool := false
  deriving DecidableEq, Repr

/-! ### Configuration epochs (R255 to R259) -/

/-- A transition in progress: the world whose shadows are committed, the values they held, and the blocks that have not
passed their marker. -/
structure Transition where
  iid   : Nat
  world : World
  vals  : NMap W64
  left  : List EpochBlock
  deriving DecidableEq, Repr

/-! ### Tensor descriptors and operations (R75, R240 to R244) -/

/-- A tensor descriptor, decoded (R75). `bad` says that a reserved field or code is not 0. -/
structure Td where
  base    : Nat := 0
  fmt     : Nat := 0
  loc     : Bool := false
  linear  : Bool := false
  packed  : Bool := false
  mask    : Bool := false
  padw    : Bool := false
  world   : World := .ns
  policy  : Nat := 0
  ndim    : Nat := 1
  mxaxis  : Bool := false
  cap     : Nat := 0
  ext     : List Nat := []
  stride  : List Nat := []
  fill    : Nat := 0
  bad     : Bool := false
  deriving DecidableEq, Repr

/-- The binding of a descriptor-table entry (R242); the region is `none` for 0xFF. -/
structure Binding where
  region : Option Nat := none
  role   : Nat := 0
  bad    : Bool := false
  deriving DecidableEq, Repr

/-- An operation entry (R243). -/
structure OpEntry where
  kind    : Nat := 0
  anchor  : Nat := 0
  rnd     : Nat := 0
  gradOf  : Nat := 0xFF
  salt    : Nat := 0
  stream  : Nat := 0
  a       : Nat := 0xFF
  b       : Nat := 0xFF
  c       : Nat := 0xFF
  cin     : Nat := 0xFF
  flags   : Nat := 0
  anc     : Nat := 0xFF
  obs     : Nat := 0xFF
  group   : Nat := 0
  slots   : Nat := 0
  scratch : Nat := 0xFF
  closers : Nat := 0
  gfill   : Nat := 0
  gflush  : Nat := 0
  gtile   : Nat := 0
  ntask   : Nat := 0
  tasks   : Nat := 0
  place   : Nat := 0
  bad     : Bool := false
  deriving DecidableEq, Repr

/-- A copy's operands (R164): the TD fields are addresses (ring copy) or descriptor-table indices (phase copy). -/
structure CopyOp where
  src     : Nat := 0
  dst     : Nat := 0
  idx     : Nat := 0
  kind    : Nat := 0
  ordered : Bool := false
  rnd     : Nat := 0
  perm    : Nat := 0
  group   : Nat := 0
  peer    : Nat := 0
  side    : Nat := 0
  xtiles  : Nat := 0
  salt    : Nat := 0
  stream  : Nat := 0
  bad     : Bool := false
  deriving DecidableEq, Repr

/-- A ring copy that is held or runs: its operands, the descriptors it fetched, the bounce register as it was, and its
footprints. -/
structure CopyRun where
  iid  : Nat
  world : World
  op   : CopyOp
  src  : Td
  dst  : Td
  idx  : Option Td
  bounce : Nat
  staged : Bool
  bounced : Bool
  /-- its reads of a peer, or its writes to one, are out -/
  running : Bool := false
  written : Bool := false
  /-- the tiles that execute it -/
  tiles : List Nat := []
  deriving DecidableEq, Repr

/-- A declared range with its address resolved (R244). -/
structure DRange where
  lo    : Nat
  hi    : Nat
  owner : Nat
  read  : Bool
  write : Bool
  deriving DecidableEq, Repr

/-- An RNG record (R209). -/
structure RngRec where
  kind   : Nat
  dst    : Nat
  stream : Nat
  salt   : Nat
  keep   : Nat
  half   : Nat
  bad    : Bool
  deriving DecidableEq, Repr

/-- A queue operation of a phase and whether it has been done (R252). -/
structure QOp where
  send : Bool
  q    : Nat
  td   : Nat
  seq  : Nat
  bad  : Bool
  /-- a QSEND's entry is on its way to a peer -/
  sent : Bool := false
  done : Bool := false
  deriving DecidableEq, Repr

/-- A BRANCH record (R248). -/
structure Branch where
  entry  : Nat
  cmp    : Nat
  target : Nat
  imm    : Nat
  bad    : Bool
  deriving DecidableEq, Repr

/-- A queue table entry with the receiver's and sender's progress (R252, R253). -/
structure Queue where
  qid      : Nat
  recv     : Bool
  spillable : Bool
  nt       : Nat
  peer     : Nat
  ringTile : Nat
  size     : Nat
  ringOff  : Nat
  spillBase : Nat
  spillDepth : Nat
  bad      : Bool
  /-- next SEQ to send or to consume -/
  next     : Nat := 0
  /-- receiver: SEQs present in ring slots and in the spill, and the credits that it has granted and that are not used (R253) -/
  inRing   : List Nat := []
  inSpill  : List Nat := []
  ringCr   : Nat := 0
  spillCr  : Nat := 0
  stall    : Bool := false
  deriving DecidableEq, Repr

/-- Which of a phase's operations a task or slot belongs to. -/
inductive OpSel where
  /-- `route` is the combine of a routing entry -/
  | dense | gme | ve | route
  deriving DecidableEq, Repr

/-- A decoded block: element codes (bits in a mask tensor), MX scales with their axis, or long partials. -/
structure Blk where
  fmt   : Nat := 0
  mask  : Bool := false
  saved : Bool := false
  axis  : Bool := false
  scale : List Nat := []
  els   : List Nat := []
  lps   : List Lp := []
  deriving DecidableEq, Repr

/-- A task record of a work list (R102, R131, R155): its 32 bytes, the die whose list holds it, the launch of a row
gatherer that it computes, and in sheet regime the tile and array it is for. -/
structure Task where
  die    : Nat
  bytes  : Bytes
  /-- the SEQ its place on the list gives it -/
  want   : Nat := 0
  launch : Option Nat := none
  place  : Option (Nat × Nat) := none
  /-- an arrival launch: the router context, local expert and block it belongs to (R191) -/
  arr    : Option (Nat × Nat × Nat) := none
  deriving DecidableEq, Repr

/-- What a destination element takes: its old contents, a stored code (in an MX format with its scale byte), a bit of a mask
block with that block's SAVED, a value, or a long partial. -/
inductive Elt where
  | keep
  | code (c : Nat) (scale : Nat := 0)
  | bit (c : Nat) (saved : Bool)
  | val (v : Val)
  | lp (l : Lp)
  deriving DecidableEq, Repr

/-- A tensor as an operation reads it (R86). -/
structure View where
  td    : Td
  trans : Bool := false
  o2    : Nat := 0
  deriving DecidableEq, Repr

/-- A block of an operand with its header planes. -/
structure Oper where
  v   : View
  br  : Nat
  bc  : Nat
  blk : Blk := {}
  hdr : Bytes := []
  deriving DecidableEq, Repr

/-- A block that a sheet's tile forwards (R100, R101): the tile it goes to, its direction, the slot it is for, and the
block. -/
structure SheetBlk where
  tile  : Nat
  north : Bool
  slot  : Nat
  oper  : Oper
  deriving DecidableEq, Repr

/-- A block position inside a TD of the descriptor table. -/
structure Spot where
  td : Nat
  bc : Nat
  br : Nat
  o2 : Nat
  o3 : Nat := 0
  o4 : Nat := 0
  deriving DecidableEq, Repr

/-- A destination block held by its owner tile (R104, R121): in a slot, or (`none`) in scratch with its long partials
here; its anchor records and CLOSEs. The most recently folded block of a tile stands last. -/
structure Owned where
  tile  : Nat
  sel   : OpSel
  spot  : Spot
  slot  : Option Nat := none
  lps   : List Lp := []
  /-- the block of the tile's scratch that it takes -/
  scr   : Option Nat := none
  loaded : Bool := false
  /-- HEADER first pass: (row, maximum e, count) -/
  recs  : List (Nat × Int × Nat) := []
  closes : Nat := 0
  npart  : Nat := 0
  kcount : Nat := 0
  deriving DecidableEq, Repr

/-- What travels to an owner tile. -/
inductive CKind where
  /-- an anchor record of the HEADER first pass -/
  | anchor
  /-- contributions of one row piece on their grids -/
  | data
  /-- a row piece of long partials -/
  | lps
  /-- a row piece of SCATTER with its source index -/
  | row (tag : Nat)
  /-- a split-K CLOSE with its K-block count and NPART -/
  | close (n npart : Nat)
  deriving DecidableEq, Repr

/-- A contribution in flight (R120 to R122, R104). -/
structure Contrib where
  owner : Nat
  sel   : OpSel
  kind  : CKind
  spot  : Spot
  row   : Nat := 0
  anchor : Int := 0
  /-- per element: value, grid exponent, special state -/
  vals  : List (Int × Int × Sp) := []
  lps   : List Lp := []
  /-- a row of SCATTER as its destination elements take it -/
  els   : List Elt := []
  /-- SEQ of the task that sends it -/
  seq   : Nat := 0
  deriving DecidableEq, Repr

/-- A finished block that waits for the writer of its PACKED superblock (R83). -/
structure PackedBlk where
  tile : Nat
  sel  : OpSel
  spot : Spot
  blk  : Blk
  deriving DecidableEq, Repr

/-- A GME task that its tile holds over more than one row: one that waits for the ready bit of a tensor it reads, a scanning PART of
SPPROD, a producer between its two passes, or a GROUP product whose round is out. -/
structure GmeHeld where
  tile : Nat
  task : Task
  /-- the HEADER anchors of its blocks, as words, while a GROUP round is out -/
  anchors : List (List Int) := []
  /-- a tensor that the task reads is not ready (R134) -/
  waits : Bool := false
  deriving DecidableEq, Repr

/-- A kernel in instruction memory (R141). -/
structure Kernel where
  npass : Nat := 0
  passes : List (Nat × Nat × Nat × Nat) := []
  words : List Nat := []
  perms : List (List Nat) := []
  bad   : Bool := true
  deriving DecidableEq, Repr

/-- The header pair of a K-block: A's and B's, where there is one and its checks pass (R92). -/
abbrev Heads := Option Bytes × Option Bytes

/-- A task at a dense array (R89 to R92): one that holds an accumulation slot, or a reserved one (R99). -/
structure Da where
  k     : PlanKind
  task  : Task
  slot  : Nat
  /-- its folds are in the slot, and it waits for its write-back -/
  folded : Bool := false
  /-- its operands could be read, and its anchors are at work; otherwise it waits for operand bytes -/
  begun  : Bool := false
  /-- the pre-pass has run: its own HEADER anchors as words (for a GROUP round and an observation), and the header pairs -/
  passed  : Bool := false
  anchors : List Int := []
  heads   : NMap Heads := []
  /-- E_out of its 1,024 elements, once fixed -/
  eOut    : List Int := []
  deriving DecidableEq, Repr

/-- A row register entry (R139): not written in this task, a 32-bit value, or a long partial. -/
inductive PEnt where
  | fresh
  | word (w : Nat)
  | lp (l : Lp)
  deriving DecidableEq, Repr

/-- A vector engine (R139, R157). Block registers hold 1,024 words with their in-bounds masks. -/
structure Ve where
  k     : PlanKind := .training
  task  : Option Task := none
  /-- a number of the task: what V and S registers hold that it has not written is free (log 148); with 0, before any
  task, they hold 0 (log 2) -/
  start : Nat := 0
  v     : NMap (List Nat) := []
  mask  : NMap (List Bool) := []
  p     : NMap (List PEnt) := []
  s     : NMap Nat := []
  topk  : List (List (Nat × Nat)) := []
  /-- which elements of a register, by selector, hold INT32 values; none where it is not listed (R137) -/
  ints  : NMap (List Bool) := []
  pass  : Nat := 0
  post  : Bool := false
  col   : Nat := 0
  ip    : Nat := 0
  /-- the row pre-pass: for each input, the largest ROWMAX byte of each row -/
  rmax  : List (List Nat) := []
  /-- 32 × source + destination while waiting in XCH, and what kind of reduction filled it (0 sum, 1 max, 2 min, 3 count) -/
  xch   : Option Nat := none
  redk  : NMap Nat := []
  deriving DecidableEq, Repr

/-- A row gatherer (R105): the rows gathered and the time the first of them came. -/
structure Gatherer where
  rows  : List (Nat × Bytes) := []
  since : Nat := 0
  deriving DecidableEq, Repr

/-- A mailbox entry (R150, R151): its running sum or value, and its state. -/
structure Mail where
  kind   : Nat := 0
  sum    : Int := 0
  code   : Nat := 0
  sp     : Sp := .none
  nonfin : Bool := false
  final  : Bool := false
  phase  : Nat := 0
  started : Bool := false
  deriving DecidableEq, Repr

/-! ### The token router (R176 to R204) -/

/-- A routing layer context (R178). -/
structure TkCtx where
  k      : Nat := 0
  spare  : Nat := 0
  next   : Bool := false
  renorm : Bool := false
  world  : World := .ns
  valid  : Bool := false
  nexp   : Nat := 0
  h      : Nat := 0
  flush  : Nat := 0
  slots  : Nat := 0
  deriving DecidableEq, Repr

/-- An expert entry of a step answer (R180). -/
structure Expert where
  dev   : Nat := 0xFFFF
  loc   : Nat := 0
  qbase : Nat := 0
  quota : Nat := 0
  cap   : Nat := 0
  deriving DecidableEq, Repr

/-- A section of a step answer (R195). -/
structure AnsSection where
  ctx     : Nat
  nsrc    : Nat
  experts : List Expert
  deriving DecidableEq, Repr

/-- A step answer: the command that brought it, its header, its sections and the hash of its record (R195, R407). -/
structure Answer where
  iid      : Nat := 0
  step     : Nat := 0
  id       : Nat := 0
  hash     : Nat := 0
  sections : List AnsSection := []
  deriving DecidableEq, Repr

/-- A ticket in use (R189), with the plan kind whose pass holds it. -/
structure Ticket where
  k       : PlanKind
  epoch   : Nat
  attempt : Nat
  ctx     : Nat
  expert  : Nat
  dst     : Nat
  count   : Nat
  first   : Nat
  brow    : Nat
  mask    : Nat
  deriving DecidableEq, Repr

/-- A CLOSE entry that an owner holds (R188, R190). -/
structure CloseEnt where
  src   : Nat
  epoch : Nat := 0
  qbase : Nat
  quota : Nat
  used  : Nat
  deriving DecidableEq, Repr

/-- The arrival buffer of one local expert (R190, R191): slots that have arrived with their source and its epoch, slots that
have launched, the CLOSE entries, blocks launched, and when the first unlaunched row of a block came. -/
structure Arrival where
  arrived  : NMap (Nat × Nat) := []
  launched : List Nat := []
  closes   : List CloseEnt := []
  blocks   : List Nat := []
  since    : NMap Nat := []
  deriving DecidableEq, Repr

/-- A routing entry of the running phase with its routing pass, as source and as owner (R179, R181). -/
structure Pass where
  ctx    : Nat
  ent    : Bytes
  /-- its quotas have been taken -/
  took   : Bool := false
  /-- next block row to accept, candidate lists by token, block rows whose lists have come -/
  next   : Nat := 0
  cands  : NMap (List (Nat × Nat)) := []
  rows   : List Nat := []
  used   : NMap Nat := []
  closed : Bool := false
  /-- combine blocks, one spot each, and block rows already written -/
  comb   : List Owned := []
  done   : List Nat := []
  /-- owner side: arrival buffers by local expert, and accepted dispatches whose returns are due -/
  arrs   : NMap Arrival := []
  due    : List Frame := []
  /-- the accept stage waits for a ticket since -/
  stall  : Option Nat := none
  deriving DecidableEq, Repr

/-- The counts of a question record's section (R520): per expert REQ, ACC, DROP, ARRIVED. -/
structure QStat where
  tokens   : Nat := 0
  nochoice : Nat := 0
  dropped  : Nat := 0
  subst    : Nat := 0
  stall    : Nat := 0
  flush    : Nat := 0
  experts  : NMap (Nat × Nat × Nat × Nat) := []
  deriving DecidableEq, Repr

/-- The token router beside its registers. -/
structure Tkr where
  ctxs    : NMap TkCtx := []
  answer  : Option Answer := none
  waiting : List Answer := []
  tickets : NMap Ticket := []
  /-- the newest epoch each source has announced -/
  epochs  : NMap Nat := []
  /-- question records written -/
  nq      : Nat := 0
  deriving DecidableEq, Repr

/-- A phase that runs: its record's fields and sections, resolved at load (R240 to R245). -/
structure PhaseRun where
  index   : Nat
  sheet   : Bool
  bank    : Nat
  steal   : Bool
  stagingFree : Bool
  dies    : List Nat
  mb      : Nat
  next    : Nat
  rect    : Nat × Nat × Nat × Nat
  copyRect : Nat × Nat × Nat × Nat
  tds     : List Td
  binds   : List Binding
  dense   : OpEntry
  gme     : Option OpEntry
  ve      : Option OpEntry
  kernels : List Kernel
  routes  : List Bytes
  rngs    : List RngRec
  copies  : List CopyOp
  copiesLeft : List Nat
  ranges  : List DRange
  qops    : List QOp
  branches : List Branch
  /-- dies that have not ended the phase -/
  left    : List Nat
  /-- regions whose first FREE write waits on pins (R216) -/
  waits   : List Nat := []
  /-- placement tables by operation (R523) -/
  placeD  : List Nat := []
  placeG  : List Nat := []
  placeV  : List Nat := []
  /-- records still on the lists, by operation -/
  denseQ  : List Task := []
  gmeQ    : List Task := []
  veQ     : List Task := []
  /-- destination TDs that the dense and GME records name; CIN and contraction extent of each split-K block -/
  placeDense : List Nat := []
  placeGme : List Nat := []
  vePacked : List Nat := []
  cins    : List (Spot × Nat) := []
  exts    : List (Spot × Nat) := []
  /-- launches of the row gatherers: (destination row, bytes of the row) (R105) -/
  launches : List (List (Nat × Bytes)) := []
  /-- destination blocks of owners, what is on its way to them, and blocks that wait for a PACKED write -/
  owned   : List Owned := []
  fly     : List Contrib := []
  packed  : List PackedBlk := []
  gmeHeld : List GmeHeld := []
  /-- accumulation slots that hold the tags of SCATTER destinations, counted from the entry's lowest, by owner tile (R119) -/
  tagSlots : NMap Nat := []
  /-- records taken whose destination blocks have owners, and the blocks that owners have finished -/
  gmeOwn  : List Bytes := []
  /-- header addresses of destination blocks that row-moving GME tasks have written in part -/
  begun   : List Nat := []
  fin     : List Spot := []
  /-- the data pass of a HEADER scatter runs -/
  pass2   : Bool := false
  /-- SPLIT tasks of the VE that have reached their end are counted by the lists; observations so far (R41) -/
  obs     : List (Nat × Int) := []
  /-- arrivals of forwarded blocks at a sheet's tiles: key = 2 × tile + direction (R101) -/
  arrivals : NMap Nat := []
  /-- a sheet's tiles: the wave each works on and the slots of it that are done; blocks on their way, and blocks that have
  come and wait for their slot, oldest first (R100, R101) -/
  sheetAt : NMap (Nat × Nat) := []
  sheetFly : List SheetBlk := []
  sheetIn : List SheetBlk := []
  /-- the parity of the epoch that its traffic is tagged with (R258) -/
  tag     : Nat := 0
  /-- the bounce register of the plan's world at the phase's load (R168) -/
  bounce  : Nat := 0
  /-- the row gatherer bound on each die, and whether the gathered operation's producers have closed (R105) -/
  gathOf  : NMap Nat := []
  gathDone : Bool := false
  /-- operations elided at load (R206) -/
  elided  : List OpSel := []
  /-- GROUP rounds that are out: operation, block, and parts of the block that have folded (R40, R104) -/
  rounds  : List (OpSel × Spot × Nat) := []
  /-- elements of MX blocks with MXAXIS = 1 that are written in part, before rounding: key = header address (R45, R106,
  R112) -/
  raws    : NMap (List Elt) := []
  /-- SEQ of the next record to be appended to each list, and of the next that may go to its spill area (R274) -/
  listed  : NMap Nat := []
  spilled : NMap Nat := []
  /-- ready bits: header addresses of finished output blocks (R20) -/
  ready   : List Nat := []
  /-- output blocks still to be finished by the dense operation (header addresses) -/
  openOut : List Nat := []
  /-- routing passes, in routing-entry order -/
  passes  : List Pass := []
  /-- some declared range writes through FREE role (R223) -/
  free    : List Nat := []
  deriving DecidableEq, Repr

/-- What a running plan is doing. -/
inductive PlanSt where
  /-- between phases: the next phase has been selected but not started -/
  | between
  /-- a phase runs -/
  | phase
  /-- the phase has ended on every die; its BRANCH records are to be tested -/
  | branch
  /-- the plan has selected its end; the commit sequence is to run -/
  | commit
  /-- step 2 waits for the results of the other members -/
  | members
  /-- step 3 waits for the mirror drain -/
  | drain
  /-- a replay, or an update retry, is to start -/
  | replay
  | retry
  deriving DecidableEq, Repr

/-- A running RUN_PLAN (R236 to R250). -/
structure PlanRun where
  iid      : Nat
  world    : World
  recompute : Bool
  addr     : Nat
  step     : Nat
  dataPos  : Nat
  hash     : Nat
  /-- FENCE_HASH of the header (R308) -/
  fence    : Nat := 0
  nphase   : Nat
  phaseTab : Nat
  mbTab    : Nat
  nmb      : Nat
  total    : Nat
  summKind : List Nat
  st       : PlanSt := .between
  attempt  : Nat := 0
  /-- replays and update retries so far -/
  retries  : Nat := 0
  nextPhase : Nat := 0
  phase    : Option PhaseRun := none
  executed : Nat := 0
  /-- the checks of the attempt (R390) -/
  atOnce   : Bool := false
  replay   : Bool := false
  ovf      : Bool := false
  /-- detected-group events per tile in this attempt (R411) -/
  tileEv   : NMap Nat := []
  /-- operations (phase, entry) whose PINNED anchors overflowed, and the raises in force (R54) -/
  ovfOps   : List (Nat × OpSel) := []
  raises   : List ((Nat × OpSel) × Nat) := []
  /-- pins held by micro-batches and by the running phase: (mb or 0xFFFF, region, copy) (R215) -/
  pins     : List (Nat × Nat × Nat) := []
  written  : List Nat := []
  boundary : Option Nat := none
  /-- counters of TRAIN- or EVAL-class streams at the start, and at the boundary (R232, R224) -/
  ctr0     : NMap W64 := []
  ctrB     : NMap W64 := []
  digest   : List Nat := [0, 0, 0, 0, 0, 0, 0, 0]
  queues   : List Queue := []
  members  : List Nat := []
  /-- the checks are those of the update boundary -/
  atBound  : Bool := false
  /-- the boundary's checks have passed -/
  cleared  : Bool := false
  /-- regions, route banks, contexts and close groups the plan names; (micro-batch, region, phase) of each release point -/
  nRegions : List Nat := []
  nBanks   : List Nat := []
  nCtxs    : List Nat := []
  nGroups  : List Nat := []
  /-- local experts that the landing and arrival tensors of the plan's routing entries hold, by context (R195) -/
  locals   : List (Nat × Nat) := []
  /-- devices whose frames the step has taken (R254) -/
  joined   : List Nat := []
  releases : List (Nat × Nat × Nat) := []
  /-- some phase routes; the step's answer has been taken; the step waits for it -/
  routed   : Bool := false
  took     : Bool := false
  ansWait  : Bool := false
  stats    : NMap QStat := []
  /-- TRAIN-class streams that sequential draws name (R407, R409) -/
  streams  : List Nat := []
  /-- storage that phases before the boundary have written (R223) -/
  before   : List (Nat × Nat) := []
  results  : List (Nat × Bool × Bool) := []
  /-- fills of the plan, in its order: (phase, record, stream, counter units) (R211) -/
  fills    : List (Nat × Nat × Nat × Nat) := []
  /-- BRANCH records of the phase that has just ended -/
  branches : List Branch := []
  /-- entries that phases at or after the boundary contribute to, and the queues as they stood there (R224) -/
  postEnts : List Nat := []
  queuesB  : List Queue := []
  mail     : NMap Mail := []
  /-- step 5 record and step 6 flags -/
  reused   : Bool := false
  answer   : Nat := 0
  cancelled : Bool := false
  /-- dies whose failed attempt touched uncorrectable LPDDR5X granules (R393) -/
  badGran  : List Nat := []
  t0       : Nat := 0
  deriving DecidableEq, Repr

/-- A RUN_PLAN waiting its turn (R237). -/
structure HeldPlan where
  iid  : Nat
  kind : PlanKind
  deriving DecidableEq, Repr

/-- A versioned region (R212 to R217). -/
structure Region where
  base0   : Nat := 0
  base1   : Nat := 0
  size    : Nat := 0
  valid   : Bool := false
  world   : World := .ns
  initV   : Nat := 0
  /-- which copy is committed, and the versions the copies hold (`none`: the free copy is being written) -/
  comm    : Nat := 0
  v0      : Option Nat := none
  v1      : Option Nat := none
  pins0   : Nat := 0
  pins1   : Nat := 0
  frozen  : Bool := false
  stall   : Bool := false
  deriving DecidableEq, Repr

/-- The sequencers. -/
structure Seq where
  train   : Option PlanRun := none
  eval    : Option PlanRun := none
  held    : List HeldPlan := []
  regions : NMap Region := []
  copies  : List CopyRun := []
  trans   : Option Transition := none
  epoch   : Nat := 0
  /-- holds of loads and fences by running plans are read from the plans; ring commands held here in issue order -/
  heldCmds : List Nat := []
  /-- the plan kind that ran the last phase (R235) -/
  lastKind : PlanKind := .eval
  /-- the bank of the phase that started last, which the part's own dynamic traffic is tagged with (R247) -/
  lastBank : Nat := 0
  deriving DecidableEq, Repr

/-- The NMUs' register job (R230): its world, its record's address, and whether its elements have been processed, with the
result, and what COUNT shows once DONE is 1. -/
structure Nmu where
  world : World
  addr  : Nat
  ran   : Bool := false
  err   : Nat := 0
  count : Nat := 0
  deriving DecidableEq, Repr

/-- A dynamic multicast on its way (R300 to R302): its identifier (KEY), the packet, the targets it has not delivered to
or lost, those lost with a branch, the resends made, the branches in hold buffers that have not accepted, and since when. -/
structure Multicast where
  id      : Nat
  pkt     : MeshPacket
  ctx     : Ctx
  left    : List Nat
  missing : List Nat := []
  tries   : Nat := 0
  held    : List (Nat × Nat) := []
  since   : Nat := 0
  deriving DecidableEq, Repr

/-! ### The platform: flash, firmware, power, Amber (R435 to R494, R503 to R514) -/

/-- Bytes written to the module flash at an address; those of `len` beyond `data` are erased (0xFF). -/
structure FlashSeg where
  addr : Nat
  len  : Nat
  data : Bytes
  deriving DecidableEq, Repr

/-- What the platform units keep beside their registers. -/
structure Plat where
  /-- the input is above its threshold, and the Amber rail is up (R511) -/
  powered  : Bool := true
  /-- bring-up waits at step 1 for MOD_RESET_N, with its scope cold (R511) -/
  waitHigh : Bool := false
  /-- MOD_PWR_GOOD is released (R512), and JTAG_TDO has been handed over (R472) -/
  pwrGood  : Bool := true
  tdo      : Bool := false
  /-- writes to the module flash, newest first (R482) -/
  flash    : List FlashSeg := []
  /-- versions of the running components 1 to 8 (R484, R488) -/
  compVer  : List Nat := [0, 0, 0, 0, 0, 0, 0, 0]
  /-- after an in-place activation: links and channels that still run the older SerDes and LPDDR5X training components, and the
  versions that take over once none does (R484) -/
  oldLinks : List Nat := []
  oldChans : List Nat := []
  nextVer  : Nat × Nat := (0, 0)
  /-- a unit was left out of service in bring-up (R469, R491) -/
  unitsOut : Bool := false
  /-- the FW_ACTIVATE whose in-place restart runs (R489) -/
  restart  : Option Nat := none
  /-- Die resets that wait for a phase boundary (R309, R466) -/
  dies     : List Nat := []
  /-- target slot and length of an Ash download (R493) -/
  ash      : Option (Nat × Nat) := none
  /-- the driver's ceiling and the thermal point of each die, the power point, and readings in a row below the limit less
  100 W (R440, R442) -/
  ceil     : List Nat := [0, 0, 0, 0]
  therm    : List Nat := [0, 0, 0, 0]
  power    : Nat := 0
  lowReads : Nat := 0
  /-- the last five raw readings of a sensor, newest first; its filtered value with 8 fraction bits (R449) -/
  raws     : NMap (List Int) := []
  filt     : NMap Int := []
  /-- consecutive samples that meet a rule's condition (R450) -/
  dwell    : NMap Nat := []
  /-- a trip holds the part in Black (R451) -/
  tripped  : Bool := false
  /-- a wake trigger waits for the end of every SHADE action; a wake from Black is due (R445, R464) -/
  heldWake : Bool := false
  wakeDue  : Bool := false
  /-- the time base at entry to Black (R439) -/
  blackAt  : Nat := 0
  /-- the time of the last KICK of the watchdog, or of its restart (R453) -/
  wdogAt   : Nat := 0
  /-- bits [63:48] of the alarm's time (R457) -/
  alarmHi  : Nat := 0
  /-- unlock attempts are refused after a failed response (R429) -/
  dbgLock  : Bool := false
  /-- the peer being attested, and whether it has been reloaded (R428) -/
  attPeer  : Nat := 0
  reloaded : Bool := false
  /-- the endpoint's EID and its I3C dynamic address (R508) -/
  eid      : Nat := 0
  i3c      : Option Nat := none
  /-- the block being reset: its kind and its index (R467) -/
  blk      : Nat × Nat := (0, 0)
  /-- channels whose requested retrains run (R290) -/
  retrains : List Nat := []
  /-- the channel of the running evacuation; CHANNEL of MCT_EVAC may have been written since (R289) -/
  evac     : Option Nat := none
  /-- measurement 10: SEC_BOOT_STATUS as it stood at the last activation or reset (R427, log 179) -/
  meas     : Nat := 0x300000000000
  deriving DecidableEq, Repr

/-! ### Outputs -/

/-- What the part sends out: what an agent outside sees of a command. -/
inductive Output where
  /-- what an on-chip core's read of a register returns: its offset and the value -/
  | read (off val : Nat)
  /-- an LHL completion to a host request: tag, data (CPL_D) or none (CPL) -/
  | cpl (tag : Nat) (data : Option Nat)
  /-- an INTR message with its vector (R329) -/
  | intr (vector : Nat)
  /-- a fabric packet leaving through a port -/
  | fabric (port : Nat) (x : FabPacket)
  /-- a link flit: link number (0 LHL, 1 + p port p) and its 256 bytes -/
  | flit (link : Nat) (bytes : Bytes)
  /-- a bridge NAK or replayed flit: link, back, last good SEQ or the flit's; a flit's 64 B, its SEQ and CRC-16 -/
  | bridge (link : Nat) (back nak : Bool) (seq : Nat) (flit : Bytes)
  /-- a mesh packet delivered to a non-memory endpoint -/
  | mesh (dest : Nat) (x : MeshPacket)
  /-- a router frame leaving for a device -/
  | frame (f : Frame)
  /-- a sideband answer: a code for the message and its bytes -/
  | sideband (code : Nat) (data : Bytes)
  /-- an SPDM answer over a transport -/
  | spdm (t : Transport) (code : Nat) (data : Bytes)
  deriving DecidableEq, Repr

end Sys2Proof.Machine
end

