-- ==== Sys2Proof/Machine/State.lean ====
section
/-! DEFINITION. The state of the Parquel: its registers and everything else the rules give it, as plain data; the ways a
step can stop; and the state after reset. -/

namespace Sys2Proof.Machine

/-- Why the machine would stop with a fault. -/
inductive Fault where
  /-- Raised by no rule: the part raises no machine check, every error is counted and the work goes on (R387, R419).
  Safe: no meaning answers it. -/
  | machineCheck
  deriving DecidableEq, Repr

/-- Why a command has no meaning in the model. -/
inductive Refusal where
  /-- Raised by an arm of `exec` whose command is not modelled yet, with its mnemonic. Safe: the machine stops. -/
  | notModelled (mnemonic : String)
  /-- Raised by a command whose operands no event of the part can carry (a payload of a length no packet or message
  has; log 8). Safe: the machine stops. -/
  | illFormed
  deriving DecidableEq, Repr

/-- The state. -/
structure State where
  /-- registers by offset: the active stored value; one that is not listed holds its reset value (`regReset`) -/
  regs    : NMap W64 := []
  /-- values written to fields that take effect at the next step start or the next phase (R438) -/
  waiting : NMap (Option W64) := []
  /-- shadow copies of the non-secure and the secure world; one not listed equals the active value (R255; log 16) -/
  shadNs  : NMap (Option W64) := []
  shadS   : NMap (Option W64) := []
  /-- the global time base in ns (R439) -/
  time    : Nat := 0
  /-- device memory by device address; a byte not listed reads 0 (R265; log 4) -/
  mem     : NMap Byte := []
  /-- flipped bits held by stored SECDED words, as a mask over a word's bits: key = device address of the word (R270,
  R278) -/
  flips   : NMap Nat := []
  /-- channels evacuated so far, in the order of their bitmap slots, with the granules moved (R284); when the running
  scrub pass of each tile (key = tile ID) and channel (key = 1,536 + channel) began, and its next granule or burst (R271) -/
  evacs   : List (Nat × Nat) := []
  scrubs  : NMap (Nat × Nat) := []
  /-- accumulation slots: key = tile × 13 + slot (R90, R272) -/
  acc     : NMap (List Lp) := []
  /-- host memory as the part has read and written it (log 6) -/
  host    : NMap Byte := []
  /-- requests to the host that are out, and answers whose command has not ended (R324, R328) -/
  hostReqs : List HostReq := []
  hostAns : List HostAns := []
  hqe     : Hqe := {}
  seq     : Seq := {}
  lhl     : Link := {}
  ports   : NMap Link := []
  bridges : NMap Bridge := []
  /-- multicasts whose MC_DONE has not returned -/
  mcs     : List Multicast := []
  fab     : Fab := {}
  mir     : Mir := {}
  /-- tasks at the dense arrays: key = 12 × tile + n, where n below 8 is an accumulation slot, and 8 + a the task reserved for
  array a; which of its two slots each array claims next: key = 4 × tile + array (R90, R99) -/
  das     : NMap Da := []
  daAlt   : NMap Nat := []
  /-- vector engines, and row gatherers: key = 16 × die + number -/
  ves     : NMap Ve := []
  gath    : NMap Gatherer := []
  tkr     : Tkr := {}
  /-- the four mailboxes as their last runs left them: key = 2 × kind + world (R150, R151) -/
  mails   : NMap (NMap Mail) := []
  snp     : SnapEng := {}
  /-- the NMUs' register job, from GO until it ends -/
  nmu     : Option Nmu := none
  plat    : Plat := {}
  /-- host requests that wait for a free tag: world, use, address and length (R324) -/
  hostLine : List (World × HostUse × Nat × Nat) := []
  /-- the LFSR of each enabled fault injector, and flits seen by it (R376) -/
  fij     : NMap (Nat × Nat) := []
  /-- the sum of watched increments (R389) -/
  rasSum  : Nat := 0
  out     : List Output := []
  /-- the MODEL's own: how many free values have been drawn (log 1), and the commands that wait (log 5) -/
  freeCtr : Nat := 0
  pending : List Instr := []
  deriving DecidableEq, Repr

/-- The machine right after reset: every register at its reset value, every engine idle, nothing waiting. -/
def State.reset : State := {}

end Sys2Proof.Machine
end

