-- ==== Sys2Proof/Machine/Ops.lean ====
section
/-! DEFINITION. The register file: the one place where registers are read and written, and the worlds of the assignable
blocks (R414). -/

namespace Sys2Proof.Machine

/-- What a register that is not listed holds. -/
def regD (n : RegName) (i j : Nat) : Nat → W64 := fun _ => BitVec.ofNat 64 (regReset n i j)

/-- The active stored value of a register. -/
def State.rd (s : State) (n : RegName) (i : Nat := 0) (j : Nat := 0) : Nat :=
  (mapGet (regD n i j) s.regs (regOff n i j)).toNat

/-- Store a register's active value. -/
def State.wr (s : State) (n : RegName) (i j v : Nat) : State :=
  { s with regs := mapSet (regD n i j) s.regs (regOff n i j) (BitVec.ofNat 64 v) }

/-- Bits [hi:lo] of a register. -/
def State.rdf (s : State) (n : RegName) (i j hi lo : Nat) : Nat := bits (s.rd n i j) hi lo

/-- Store bits [hi:lo] of a register. -/
def State.wrf (s : State) (n : RegName) (i j hi lo v : Nat) : State := s.wr n i j (setBits (s.rd n i j) hi lo v)

/-- Add to a 64-bit event counter; the counters never wrap in service (R111, R347 and the like). -/
def cntAdd (s : State) (n : RegName) (i j k : Nat) : State := s.wr n i j (satAdd (2 ^ 64 - 1) (s.rd n i j) k)

/-- Bit `k` of a bank of 64-bit registers that hold one bit per block. -/
def bankBit (s : State) (n : RegName) (k : Nat) : Bool := bit (s.rd n (k / 64) 0) (k % 64)

/-- Set bit `k` of such a bank. -/
def bankSet (s : State) (n : RegName) (k : Nat) (b : Bool) : State :=
  s.wr n (k / 64) 0 (setBit (s.rd n (k / 64) 0) (k % 64) b)

/-- 1 means secure (R414). -/
def worldOf (b : Bool) : World := if b then .s else .ns

def tileWorld (s : State) (t : Nat) : World := worldOf (bankBit s .secWorldTile t)
def ringWorld (s : State) (n : Nat) : World := worldOf (bankBit s .secWorldRing n)
def portWorld (s : State) (p : Nat) : World := worldOf (bankBit s .secWorldPort p)
def streamWorld (s : State) (n : Nat) : World := worldOf (bankBit s .secWorldStream n)
def evtWorld (s : State) (n : Nat) : World := worldOf (bankBit s .secWorldEvt n)

/-- The world of an event-controller core register (R477); `none` is Both. -/
def coreWorld (c : Nat) : Option World :=
  if c < 16 then none else if c = 17 then some .ns else some .s

/-- A versioned region (R212). -/
def getRegion (s : State) (n : Nat) : Region := mapGet (fun _ => {}) s.seq.regions n

/-- Store a versioned region. -/
def setRegion (s : State) (n : Nat) (r : Region) : State :=
  { s with seq := { s.seq with regions := mapSet (fun _ => {}) s.seq.regions n r } }

/-- Whether an access from world `w` may touch instance `i` of register `n` (R7, R9). -/
def regWorldOk (s : State) (w : World) (n : RegName) (i : Nat) : Bool :=
  match (regInfo n).world with
  | .both => true
  | .nonSecure => w == .ns
  | .secure => w == .s
  | .tile => tileWorld s i == w
  | .ring => ringWorld s i == w
  | .stream => streamWorld s i == w
  | .region => (getRegion s i).world == w
  | .source => evtWorld s i == w
  | .port => portWorld s i == w
  | .core => match coreWorld i with
    | none => true
    | some v => v == w

/-- The value waiting for its moment, if a write left one (R438). -/
def waitingVal (s : State) (n : RegName) (i j : Nat) : Option Nat :=
  (mapGet (fun _ => none) s.waiting (regOff n i j)).map BitVec.toNat

/-- Leave a written value to take effect at its moment. -/
def setWaiting (s : State) (n : RegName) (i j v : Nat) : State :=
  { s with waiting := mapSet (fun _ => none) s.waiting (regOff n i j) (some (BitVec.ofNat 64 v)) }

/-- Nothing waits for a register. -/
def clearWaiting (s : State) (n : RegName) (i j : Nat) : State :=
  { s with waiting := mapDel s.waiting (regOff n i j) }

/-- The stored value a read returns: the waiting one if there is one (R438). -/
def rdStored (s : State) (n : RegName) (i j : Nat) : Nat :=
  (waitingVal s n i j).getD (s.rd n i j)

/-- Let every waiting value whose register takes effect at moment `m` become active. -/
def applyMomentList (m : Moment) : NMap (Option W64) → State → State
  | [], s => s
  | (off, some v) :: l, s =>
    match regDecode off with
    | some (n, i, j) =>
      if (regInfo n).moment = m then applyMomentList m l (clearWaiting (s.wr n i j v.toNat) n i j)
      else applyMomentList m l s
    | none => applyMomentList m l s
  | (_, none) :: l, s => applyMomentList m l s

/-- The next step start, or the next phase: waiting values of that moment take effect. -/
def applyMoment (m : Moment) (s : State) : State := applyMomentList m s.waiting s

/-- The shadow of a world (R255): the value written there, or the active value. -/
def shadowVal (s : State) (w : World) (n : RegName) (i j : Nat) : Nat :=
  let m := match w with | .ns => s.shadNs | .s => s.shadS
  match mapGet (fun _ => none) m (regOff n i j) with
  | some v => v.toNat
  | none => s.rd n i j

/-- Write a shadow. -/
def setShadow (s : State) (w : World) (n : RegName) (i j v : Nat) : State :=
  let o := regOff n i j
  match w with
  | .ns => { s with shadNs := mapSet (fun _ => none) s.shadNs o (some (BitVec.ofNat 64 v)) }
  | .s => { s with shadS := mapSet (fun _ => none) s.shadS o (some (BitVec.ofNat 64 v)) }

/-- Some shadow of the world differs from its active value in the bits of `mask` (DIRTY and QUIESCE of R263). -/
def shadowDiffers (s : State) (w : World) (mask : RegInfo → Nat) : Bool :=
  (match w with | .ns => s.shadNs | .s => s.shadS).any fun p =>
    match p.2, regDecode p.1 with
    | some v, some (n, i, j) =>
      Nat.land (Nat.xor v.toNat (s.rd n i j)) (mask (regInfo n)) != 0
    | _, _ => false

/-- `x` with the Shadowed and Quiesce fields of `v` (R255, R256). -/
def shadowMerge (n : RegName) (x v : Nat) : Nat :=
  let m := (regInfo n).sh + (regInfo n).qu
  x - Nat.land x m + Nat.land v m

/-- The value a block uses for a shadowed register: the committed shadow once the block has passed its marker in a
transition, else the active value (R258). -/
def blockVal (s : State) (b : EpochBlock) (n : RegName) (i j : Nat) : Nat :=
  match s.seq.trans with
  | none => s.rd n i j
  | some t =>
    if t.left.contains b then s.rd n i j
    else match (mapGet (fun _ => none) (t.vals.map fun p => (p.1, some p.2)) (regOff n i j)) with
      | some v => shadowMerge n (s.rd n i j) v.toNat
      | none => s.rd n i j

/-- Change the platform's state. -/
def modPlat (s : State) (f : Plat → Plat) : State := { s with plat := f s.plat }

/-- A link enters TRAIN or RETRAIN: the SerDes component of the running manifest is in force there, and it is the running version
once no link keeps the older one (R484). -/
def serdesTakes (s : State) (n : Nat) : State :=
  let l := s.plat.oldLinks.filter (· != n)
  let v := if l.isEmpty && !s.plat.oldLinks.isEmpty then s.plat.compVer.set 5 s.plat.nextVer.1 else s.plat.compVer
  modPlat s fun p => { p with oldLinks := l, compVer := v }

/-- A channel trains: the LPDDR5X training component of the running manifest is in force there (R484). -/
def trainingTakes (s : State) (c : Nat) : State :=
  let l := s.plat.oldChans.filter (· != c)
  let v := if l.isEmpty && !s.plat.oldChans.isEmpty then s.plat.compVer.set 6 s.plat.nextVer.2 else s.plat.compVer
  modPlat s fun p => { p with oldChans := l, compVer := v }

/-- The block is being reset and quiesces: new requests to it wait (R468, R480). -/
def blockQuiesces (s : State) (kind index : Nat) : Bool :=
  s.rdf .rscBlkrst 0 0 31 29 == 5 && s.plat.blk == (kind, index)

/-- Draw a fresh free value (log 1). -/
def drawFree (s : State) : State × Nat := ({ s with freeCtr := s.freeCtr + 1 }, Config.freeNat s.freeCtr)

/-- Add an output. -/
def emit (s : State) (o : Output) : State := { s with out := s.out ++ [o] }

/-- The die of a tile (R6). -/
def tileDie (t : Nat) : Nat := 2 * (t / 48 / 16) + (t % 48) / 24

/-- Tile ID of (x, y) (R6). -/
def tileId (x y : Nat) : Nat := y * 48 + x

/-- The current shade (R444). -/
def shade (s : State) : Nat := s.rdf .pwcStatus 0 0 63 62

/-- A tile is fenced, or gated (R304, R443). -/
def tileFenced (s : State) (t : Nat) : Bool := bankBit s .mshFenceTile t
/-- A tile is test-fenced while TIL_BIST.STATE reads 2 (R497 to R499). -/
def testFenced (s : State) (t : Nat) : Bool := s.rdf .tilBist t 0 31 30 == 2
/-- A tile is out of all work: fenced, or test-fenced (R498). -/
def tileOut (s : State) (t : Nat) : Bool := tileFenced s t || testFenced s t
def rtrFenced (s : State) (t : Nat) : Bool := bankBit s .mshFenceRtr t
def tileGated (s : State) (t : Nat) : Bool := bankBit s .pwcGated t
def dieQuar (s : State) (d : Nat) : Bool := bit (s.rd .mshQuar) d

/-- The three limits of die d's TCLK point (R440): driver ceiling, power point, thermal point. -/
def pointLimits (s : State) (d : Nat) : Nat × Nat × Nat := (s.plat.ceil.getD d 0, s.plat.power, s.plat.therm.getD d 0)

/-- The slowest of the three. -/
def pointTarget (s : State) (d : Nat) : Nat := let l := pointLimits s d; max l.1 (max l.2.1 l.2.2)

/-- Which of the three limits the die (the driver's, then the power limit, where they tie). -/
def pointReason (s : State) (d : Nat) : Nat :=
  let l := pointLimits s d
  if l.2.1 ≤ l.1 && l.2.2 ≤ l.1 then 0 else if l.2.2 ≤ l.2.1 then 1 else 2

/-- The point die d runs at. -/
def curPoint (s : State) (d : Nat) : Nat := s.rdf .pwcStatus 0 0 (5 * d + 2) (5 * d)

/-- Die d takes point `v`, and shows its limit. -/
def setPointOf (s : State) (d v : Nat) : State :=
  (s.wrf .pwcStatus 0 0 (5 * d + 2) (5 * d) v).wrf .pwcStatus 0 0 (5 * d + 4) (5 * d + 3) (pointReason s d)

/-- A limit has changed: a step down acts at once, a step up waits for the regulator (R441). -/
def refreshPoints (s : State) : State :=
  (List.range 4).foldl (fun s d => setPointOf s d (max (curPoint s d) (pointTarget s d))) s

/-- Every tile ID. -/
def allTiles : List Nat := List.range 1536

/-- Tiles of a rectangle in row-major order (R300). -/
def rectTiles (x0 y0 w h : Nat) : List Nat :=
  (List.range h).flatMap fun dy => (List.range w).map fun dx => tileId (x0 + dx) (y0 + dy)

/-- A rectangle lies in the grid. -/
def rectOk (x0 y0 w h : Nat) : Bool :=
  decide (0 < w) && decide (0 < h) && decide (x0 + w ≤ 48) && decide (y0 + h ≤ 32)

end Sys2Proof.Machine
end

