-- ==== Sys2Proof/Machine/Flags.lean ====
section
/-! DEFINITION. Event sources (R458 to R463) and the RAS counter bank (R385 to R390): counting an event, the watched set,
and what an event does to the step or command it happened in. -/

namespace Sys2Proof.Machine

/-- The darkest shade that an active SHADE rule of Amber holds (R450). -/
def amberHeld (s : State) : Nat :=
  ((List.range 64).map fun n =>
    let x := s.rd .ambRule n
    if bit x 63 && bit x 62 && bits x 60 58 == 2 then bits x 47 46 else 0).foldl max 0

/-- A trigger wakes the part from Grey or Charcoal to White (R445); while an Amber SHADE action holds a shade, it is kept
pending. -/
def wakeWhite (s : State) : State :=
  if shade s = 0 || 3 ≤ shade s then s
  else if 0 < amberHeld s then { s with plat := { s.plat with heldWake := true } }
  else s.wrf .pwcStatus 0 0 63 62 0

/-- A trip has not cleared: rule 4 is active (R451). -/
def tripHolds (s : State) : Bool := s.plat.tripped && bit (s.rd .ambRule 4) 62

/-- A wire-class wake sets its latch in EVC_WAKE and acts as the shade allows (R445, R464). -/
def wireWake (s : State) (i : Nat) : State :=
  let s := s.wr .evcWake 0 0 (setBit (s.rd .evcWake) i true)
  if shade s = 2 then wakeWhite s
  else if shade s = 3 && !tripHolds s then { s with plat := { s.plat with wakeDue := true } }
  else s

/-- A valid entry of the watch list names the source (R463). -/
def watched (s : State) (n : Nat) : Bool :=
  (List.range 256).any fun i => let x := s.rd .evcWatch i; bit x 31 && bits x 11 0 == n

/-- A watched source wakes the part: EVC_WAKE names it (R478). -/
def wakeWatched (s : State) (n : Nat) : State :=
  wakeWhite (s.wr .evcWake 0 0 (setBits (setBit (s.rd .evcWake) 5 true) 27 16 n))

/-- A non-IDLE source takes a waiting PRIO, TKIND and TIDX at its transition to READY (R462). -/
def evcTakeWaiting (s : State) (n : Nat) : State :=
  match waitingVal s .evcSrc n 0 with
  | none => s
  | some v =>
    let x := s.rd .evcSrc n
    clearWaiting (s.wr .evcSrc n 0 (setBits x 60 42 (bits v 60 42))) .evcSrc n 0

/-- A fire of source `n` (the table "Event source states" of R460), with the wakes of R463: a core's
source wakes the part from Grey, a watched one from Charcoal. -/
def evcFire (s : State) (n tag : Nat) : State :=
  let x := s.rd .evcSrc n
  let s :=
    if bit x 61 then s.wr .evcSrc n 0 (setBits x 39 32 (satAdd 255 (bits x 39 32) 1))
    else if bit x 62 then s.wr .evcSrc n 0 (setBits (setBit x 61 true) 31 16 tag)
    else
      let s := evcTakeWaiting s n
      s.wr .evcSrc n 0 (setBits (setBit (s.rd .evcSrc n) 61 true) 31 16 tag)
  if shade s == 1 && !bit (s.rd .evcSrc n) 60 then wakeWhite s
  else if shade s == 2 && watched s n then wakeWatched s n
  else s

/-- The increments of a saturating 32-bit RAS counter (R385). -/
def rasInc (s : State) (c k : Nat) : Nat := min k (2 ^ 32 - 1 - s.rd .rasCnt c)

/-- The watched set (R389): the sum grows by the increment; at THRESH, FIRED is set and the event is raised. -/
def rasWatch (s : State) (c inc : Nat) : State :=
  let w := s.rd .rasWatchCtl
  if bit w 30 && !bit w 31 && bankBit s .rasWatch c then
    let sum := s.rasSum + inc
    let s := { s with rasSum := sum }
    if orElse0 (bits w 15 0) 1 ≤ sum then evcFire (s.wr .rasWatchCtl 0 0 (setBit w 31 true)) (bits w 27 16) c else s
  else s

/-- Count `k` events of class `cls` at die `d` (R385). -/
def rasBump (s : State) (cls d k : Nat) : State :=
  let c := 4 * cls + d % 4
  let inc := rasInc s c k
  if inc = 0 then s else rasWatch (s.wr .rasCnt c 0 (s.rd .rasCnt c + inc)) c inc

/-- Classes of the corrected and the detected group (R386). -/
def rasCorrected (cls : Nat) : Bool := decide (cls < 16)
def rasDetected (cls : Nat) : Bool := decide (16 ≤ cls) && decide (cls < 64)

/-- Every detected-group event also updates the tile's RAS_TILEn (R388, R411). -/
def rasTileBump (s : State) (cls t : Nat) (k : Nat := 1) : State :=
  if rasDetected cls then
    let x := s.rd .rasTile t
    s.wr .rasTile t 0 (setBits (setBits x 31 16 (satAdd 65535 (bits x 31 16) k)) 6 0 cls)
  else s

/-- An SECDED event of a channel also updates RAS_CHANc (R388, R411). -/
def rasChanBump (s : State) (c : Nat) (ue : Bool) : State :=
  let x := s.rd .rasChan c
  if ue then s.wr .rasChan c 0 (setBits x 15 0 (satAdd 65535 (bits x 15 0) 1))
  else s.wr .rasChan c 0 (setBits x 31 16 (satAdd 65535 (bits x 31 16) 1))

/-- What an event does to a running step's checks. -/
inductive Verdict where
  /-- `overflow` replays with raised anchors (R54) -/
  | none | replay | atOnce | overflow
  deriving DecidableEq, Repr

/-- The step outcome of a class (the table "RAS classes" of R387); LAYOUT (24) passes its own. -/
def classVerdict (cls : Nat) : Verdict :=
  if !rasDetected cls then .none
  else if cls = 23 then .overflow
  else if [22, 24, 26, 27, 28, 30, 32, 33, 38].contains cls then .atOnce
  else .replay

/-- The running plan of a kind. -/
def getPlan (s : State) (k : PlanKind) : Option PlanRun :=
  match k with | .training => s.seq.train | .eval => s.seq.eval

/-- Store the running plan of a kind. -/
def setPlan (s : State) (k : PlanKind) (p : Option PlanRun) : State :=
  match k with
  | .training => { s with seq := { s.seq with train := p } }
  | .eval => { s with seq := { s.seq with eval := p } }

/-- Change the running plan of a kind, if there is one. -/
def modPlan (s : State) (k : PlanKind) (f : PlanRun → PlanRun) : State := setPlan s k ((getPlan s k).map f)

/-- Change an issued command. -/
def modIssued (s : State) (iid : Nat) (f : Issued → Issued) : State :=
  { s with hqe := { s.hqe with issued := updWhere (fun c => c.iid == iid) f s.hqe.issued } }

/-- Operation `sel` of the running phase has overflowed: its PINNED anchors rise in a replay (R54). `n` tells the combines of a
phase's routing entries apart (R179). -/
def noteOvf (s : State) (k : PlanKind) (sel : OpSel) (n : Nat := 0) : State :=
  modPlan s k fun p => { p with
    ovfOps := match p.phase with
      | some f =>
        let o := (f.index + 65536 * n, sel)
        if p.ovfOps.contains o then p.ovfOps else p.ovfOps ++ [o]
      | none => p.ovfOps }

/-- `k` events fail the checks of the work they happened in (R390, R391). -/
def failCtx (s : State) (ctx : Ctx) (v : Verdict) (tile : Option Nat) (k : Nat := 1) : State :=
  match v with
  | .none => s
  | v =>
    match ctx with
    | .plan q => modPlan s q fun p =>
        { p with
          atOnce := p.atOnce || v == .atOnce
          replay := p.replay || v == .replay
          ovf := p.ovf || v == .overflow
          tileEv := match tile with
            | some t => mapSet (fun _ => 0) p.tileEv t (mapGet (fun _ => 0) p.tileEv t + k)
            | none => p.tileEv }
    | .cmd i => modIssued s i fun c => { c with failed := true }
    | .snap => s
    | .other => s

/-- An event of a class in some work at a tile. -/
def tileEvent (s : State) (ctx : Ctx) (cls t k : Nat) : State :=
  if k = 0 then s
  else failCtx (rasTileBump (rasBump s cls (tileDie t) k) cls t k) ctx (classVerdict cls) (some t) k

/-- An event of a class in some work at a die, with no tile. -/
def dieEvent (s : State) (ctx : Ctx) (cls d k : Nat) : State :=
  if k = 0 then s else failCtx (rasBump s cls d k) ctx (classVerdict cls) none

/-- A failed block read has its own outcome by its reason (LAYOUT, R85); it counts at the reading tile's die, or at die
`d` for a reader that is no tile. -/
def layoutEvent (s : State) (ctx : Ctx) (reason : Nat) (tile : Option Nat) (d : Nat) : State :=
  let v : Verdict := if reason = 1 || reason = 2 then .replay else .atOnce
  match tile with
  | some t => failCtx (rasTileBump (rasBump s 24 (tileDie t) 1) 24 t) ctx v tile
  | none => failCtx (rasBump s 24 d 1) ctx v none

/-- Denied accesses, bad window accesses and dropped writes (classes 67, 68, 77). -/
def countDenied (s : State) (d : Nat) : State := rasBump s 67 d 1
def countBadAccess (s : State) : State := rasBump s 68 0 1
def countDropped (s : State) (d : Nat) : State := rasBump s 77 d 1

end Sys2Proof.Machine
end

