-- ==== Sys2Proof/Machine/Mem.lean ====
section
/-! DEFINITION. The device address map (R265), the region table (R417 to R419), SECDED words (R270, R278), the interleave
(R279) and plain reads and writes of device and host memory. -/

namespace Sys2Proof.Machine

/-- What an unlisted byte of memory reads as (R469 for SRAM; DESIGN CHOICE for LPDDR5X, log 4). -/
def memD : Nat → Byte := fun _ => 0

/-- The canonical form of a memory. -/
def memWf (m : NMap Byte) : Bool := mapWf memD m

/-- Where a device address lies (the table "Device address map" of R265). -/
inductive Area where
  | sys
  | dram
  | sram (tile off : Nat)
  | acc (tile off : Nat)
  | regSpace
  | unmapped
  deriving DecidableEq, Repr

/-- The end of the LPDDR5X range (R265, R287). -/
def dramLimit (s : State) : Nat := s.rdf .mctLimit 0 0 19 0 * 2 ^ 20

/-- The block an access comes from, whose epoch it is tagged with (R258): a plan's sequencers, or the HQE for a command; an
access that names its tile or port comes from there. -/
def ctxBlock : Ctx → EpochBlock
  | .plan _ => .die 0
  | .cmd _ => .hqe
  | .snap => .hqe
  | .other => .lhl

/-- The area of an address under a limit. -/
def areaAt (limit a : Nat) : Area :=
  if a < 0x4000000 then .sys
  else if a < limit then .dram
  else if 0x400000000000 ≤ a && a < 0x400000000000 + 1536 * 0x800000 then
    let o := a - 0x400000000000
    if o % 0x800000 < 0x600000 then .sram (o / 0x800000) (o % 0x800000) else .unmapped
  else if 0x480000000000 ≤ a && a < 0x480000000000 + 1536 * 0x40000 then
    let o := a - 0x480000000000
    if o % 0x40000 < 0x3C200 then .acc (o / 0x40000) (o % 0x40000) else .unmapped
  else if 0x7F0000000000 ≤ a && a < 0x7F0000000000 + 0x4000000 then .regSpace
  else .unmapped

/-- The area of an address. -/
def areaOf (s : State) (a : Nat) : Area := areaAt (dramLimit s) a

/-- The area of an address as an access of block b is mapped: by the limit of its epoch (R258, R287). -/
def areaFor (s : State) (b : EpochBlock) (a : Nat) : Area := areaAt (bits (blockVal s b .mctLimit 0 0) 19 0 * 2 ^ 20) a

/-- The device address of a tile's SRAM offset. -/
def sramAddr (t off : Nat) : Nat := 0x400000000000 + t * 0x800000 + off

/-- The interleave (R279): channel and channel data address of an LPDDR5X address. -/
def dramHash (a : Nat) : Nat :=
  let g := a / 4096
  Nat.xor (Nat.xor (g % 256) (g / 256 % 256)) (Nat.xor (g / 65536 % 256) (g / 16777216 % 256))

def dramChan (a : Nat) : Nat := dramHash a % 128
def dramLocal (a : Nat) : Nat := 2 * (a / 4096 / 256) + dramHash a / 128
def dramChAddr (a : Nat) : Nat := 4096 * dramLocal a + a % 4096

/-- Channels retired, and channels whose granules move (R283, R284). -/
def retired (s : State) (c : Nat) : Bool := bankBit s .mctRetire c

/-- The limit and the retire bit that channel c's controller works by, from its marker on (R258). -/
def mctBlock (c : Nat) : EpochBlock := .mct (Fin.ofNat 32 (c / 4))
def mctRetired (s : State) (c : Nat) : Bool := bit (blockVal s (mctBlock c) .mctRetire (c / 64) 0) (c % 64)
def mctL (s : State) (c : Nat) : Nat := bits (blockVal s (mctBlock c) .mctLimit 0 0) 19 0
def movedOf (s : State) (c : Nat) : Nat := ((s.evacs.find? fun q => q.1 == c).map Prod.snd).getD 0
def awayList (s : State) : List Nat := (upTo 128).filter fun c => mctRetired s c || s.evacs.any fun q => q.1 == c

/-- Where a granule lies: channel and local index, by the fixed interleave or by relocation (R279, R283, R284). -/
def physPlace (s : State) (a : Nat) : Nat × Nat :=
  let c := dramChan a
  let i := dramLocal a
  if mctRetired s c || decide (i < movedOf s c) then
    let r := awayList s
    let k := r.length
    let q := i * k + (r.findIdx (· == c))
    let srv := (upTo 128).filter fun x => !r.contains x
    (srv.getD (q % (128 - k)) 0, 2 * mctL s c + q / (128 - k))
  else (c, i)

def physChan (s : State) (a : Nat) : Nat := (physPlace s a).1

/-- The device address of local granule `i` of channel `c` (R279 backwards). -/
def granAddr (c i : Nat) : Nat :=
  let g := i / 2
  let low := Nat.xor (Nat.xor (i % 2 * 128 + c) (g % 256)) (Nat.xor (g / 256 % 256) (g / 65536 % 256))
  4096 * (256 * g + low)

/-- The die of an address: of the tile, or of the channel (R209, R385). -/
def addrDie (s : State) (a : Nat) : Nat :=
  match areaOf s a with
  | .sram t _ => tileDie t
  | .acc t _ => tileDie t
  | .dram => physChan s a / 32
  | .sys => physChan s a / 32
  | _ => 0

/-- The deciding region entry of an LPDDR5X address for an access of block b: the lowest-numbered valid one that holds it
(R417), of the table of the access's epoch (R420). -/
def regionEntry (s : State) (b : EpochBlock) (a : Nat) : Option Nat :=
  ((List.range 128).map fun n => blockVal s b .secRegion n 0).find? fun v =>
    bit v 63 && decide (bits v 31 0 * 65536 ≤ a) && decide (a < (bits v 31 0 + bits v 55 32) * 65536)

/-- Whether an access of block b, of world `w`, may read, or write, an address (R267, R417, R418, R420). -/
def permitted (s : State) (b : EpochBlock) (w : World) (wr : Bool) (a : Nat) : Bool :=
  match areaFor s b a with
  | .sys => w == .s
  | .dram => match regionEntry s b a with
    | none => true
    | some v => bit v (match w, wr with | .ns, false => 62 | .ns, true => 61 | .s, false => 60 | .s, true => 59)
  | .sram t _ => w == .s || tileWorld s t == .ns
  | .acc t _ => w == .s || tileWorld s t == .ns
  | _ => false

/-- An address counts as secure: its deciding entry denies the non-secure world read and write (R417). -/
def addrSecure (s : State) (b : EpochBlock) (a : Nat) : Bool :=
  match areaFor s b a with
  | .sys => true
  | .dram => match regionEntry s b a with
    | none => false
    | some v => !bit v 62 && !bit v 61
  | .sram t _ => tileWorld s t == .s
  | .acc t _ => tileWorld s t == .s
  | _ => false

/-- Every 64 KiB piece (the region table's grain) of [a, a+n) satisfies `f`; tiles' spans are whole multiples of it. -/
def allPieces (f : Nat → Bool) : Nat → Nat → Nat → Bool
  | 0, _, _ => true
  | k + 1, a, e => if e ≤ a then true else f a && allPieces f k ((a / 65536 + 1) * 65536) e

/-- World `w` may read or write the whole interval [a, a+n) from block b. -/
def rangePermitted (s : State) (w : World) (wr : Bool) (a n : Nat) (b : EpochBlock := .hqe) : Bool :=
  allPieces (permitted s b w wr) (n / 65536 + 2) a (a + n)

/-- Bytes of device memory as stored. -/
def memBytes (s : State) (a n : Nat) : Bytes := mapGetList memD s.mem a n

/-- Store bytes. -/
def setMem (s : State) (a : Nat) (bs : Bytes) : State := { s with mem := mapSetList memD s.mem a bs }

/-- Bytes of host memory. -/
def hostBytes (s : State) (a n : Nat) : Bytes := mapGetList memD s.host a n

/-- Store bytes of host memory (an MWR). -/
def setHost (s : State) (a : Nat) (bs : Bytes) : State := { s with host := mapSetList memD s.host a bs }

/-- Width of the SECDED word that holds an address: 8 B in SRAM, a 32 B half of a burst in LPDDR5X (R270, R277). -/
def eccWidth (s : State) (a : Nat) : Nat :=
  match areaOf s a with | .dram => 32 | .sys => 32 | _ => 8

/-- The SECDED word that holds an address. -/
def eccWord (s : State) (a : Nat) : Nat := a / eccWidth s a * eccWidth s a

/-- The flipped bits of the word at `a`, as a mask: its data bits, then its check bits; for the first half of a burst, bits 266 to
273 are those of the address tag in the burst's check word (R277). -/
def flipMask (s : State) (a : Nat) : Nat := mapGet (fun _ => 0) s.flips a

/-- How many bits of a mask of `n` bits are set. -/
def popBits : Nat → Nat → Nat
  | 0, _ => 0
  | n + 1, x => x % 2 + popBits n (x / 2)

/-- How many bits of the word at `a` are flipped: of a (72,64) or a (266,256) code word. -/
def flipsAt (s : State) (a : Nat) : Nat := popBits (if eccWidth s a = 32 then 266 else 72) (flipMask s a)

/-- The address tag of the burst that holds LPDDR5X word `a` does not match (R277, R278). -/
def tagBad (s : State) (a : Nat) : Bool := eccWidth s a == 32 && bits (flipMask s (a / 64 * 64)) 273 266 != 0

/-- Words with an error: the flipped ones, and both halves of a burst whose tag does not match. -/
def errWords (s : State) : List Nat :=
  ((s.flips.map Prod.fst).flatMap fun a => if tagBad s a then [a / 64 * 64, a / 64 * 64 + 32] else [a]).eraseDups

/-- Bytes as they are stored, flipped bits and all. -/
def flipBytes (s : State) (a : Nat) : Bytes → Bytes
  | [] => []
  | b :: bs =>
    let w := eccWord s a
    let m := if a - w < eccWidth s a then flipMask s w / 256 ^ (a - w) % 256 else 0
    BitVec.ofNat 8 (Nat.xor b.toNat m) :: flipBytes s (a + 1) bs

/-- Bytes of device memory as a read delivers them. -/
def storedBytes (s : State) (a n : Nat) : Bytes :=
  if s.flips.isEmpty then memBytes s a n else flipBytes s a (memBytes s a n)

/-- The accumulation slots (R90, R272): slot `n` of tile `t`. -/
def accD : Nat → List Lp := fun _ => []

def accGet (s : State) (t n : Nat) : List Lp := mapGet accD s.acc (13 * t + n)

/-- The device address of a slot (R272). -/
def accAddr (t n : Nat) : Nat := 0x480000000000 + t * 0x40000 + n * 0x4A00

/-- Write a slot: its words are written whole, and hold no error any more (R270, R272). -/
def accSet (s : State) (t n : Nat) (l : List Lp) : State :=
  { s with acc := mapSet accD s.acc (13 * t + n) l, flips := mapClearRange s.flips (accAddr t n) (accAddr t n + 0x4A00) }

/-- Long partial `i` of a slot. -/
def accLp (l : List Lp) (i : Nat) : Lp := l.getD i {}

/-- A cleared slot: 1,024 empty long partials are held as none. -/
def accClear (s : State) (t n : Nat) : State := accSet s t n []

/-- Store long partial `i` of a slot. -/
def lpSet (l : List Lp) (i : Nat) (x : Lp) : List Lp := (l ++ List.replicate (i + 1 - l.length) ({} : Lp)).set i x

/-- The LP128 dense planes of a slot (R59, R272). -/
def lpPlanes (l : List Lp) : Bytes :=
  let f := fun i => accLp l i
  let is := List.range 1024
  (is.flatMap fun i => natLe 16 (ofSigned 128 (f i).v)) ++
  (is.flatMap fun i => natLe 2 (ofSigned 16 (f i).anchor)) ++
  ((List.range 512).map fun i =>
    let st := fun k => b2n (f k).live * 8 + b2n (f k).ovf * 4 + spCode (f k).sp
    BitVec.ofNat 8 (st (2 * i) + 16 * st (2 * i + 1)))

/-- Long partials of LP128 dense planes. -/
def lpOfPlanes (bs : Bytes) : List Lp :=
  (List.range 1024).map fun i =>
    let st := fld bs (18432 + i / 2) 1 / (if i % 2 = 0 then 1 else 16) % 16
    { v := toSigned 128 (fld bs (16 * i) 16), anchor := toSigned 16 (fld bs (16384 + 2 * i) 2),
      live := bit st 3, ovf := bit st 2, sp := spOfCode st }

/-- Store bytes at an address: of a slot, into its planes. -/
def setWord (s : State) (a : Nat) (bs : Bytes) : State :=
  match areaOf s a with
  | .acc t o =>
    let k := 13 * t + o / 0x4A00
    let l := lpPlanes (mapGet accD s.acc k)
    { s with acc := mapSet accD s.acc k (lpOfPlanes (l.take (o % 0x4A00) ++ bs ++ l.drop (o % 0x4A00 + bs.length))) }
  | _ => setMem s a bs

/-- A corrected word: counted with its tile or channel (R270, R278). -/
def eccCorrected (s : State) (a : Nat) : State :=
  match areaOf s a with
  | .sram t _ => rasBump s 0 (tileDie t) 1
  | .acc t _ => rasBump s 1 (tileDie t) 1
  | _ => rasChanBump (rasBump s 2 (physChan s a / 32) 1) (physChan s a) false

/-- An uncorrectable word: counted, and the consuming operation fails its checks (R270, R278). -/
def eccUncorrectable (s : State) (ctx : Ctx) (a : Nat) : State :=
  match areaOf s a with
  | .sram t _ => tileEvent s ctx 16 t 1
  | .acc t _ => tileEvent s ctx 17 t 1
  | _ =>
    let c := physChan s a
    let s := dieEvent (rasChanBump s c true) ctx 18 (c / 32) 1
    match ctx with
    | .plan k => modPlan s k fun p => { p with badGran := p.badGran ++ [a / 4096] }
    | _ => s

/-- `n` bytes made of one free value. -/
def freeBytes (s : State) (n : Nat) : State × Bytes :=
  let r := drawFree s
  (r.1, natLe n r.2)

/-- The read of one flipped word: correction, an uncorrectable report, or what the code makes of three or more flips
(log 13): uncorrectable, miscorrected, or passed as valid. The flag says that the word is uncorrectable. -/
def eccReadWord (s : State) (ctx : Ctx) (a : Nat) : State × Bool :=
  let f := flipsAt s a
  if tagBad s a then (eccUncorrectable s ctx a, true)
  else if f = 0 then (s, false)
  else if f = 1 then (eccCorrected { s with flips := mapDel s.flips a } a, false)
  else if f = 2 || Config.tripleErr a % 3 = 0 then (eccUncorrectable s ctx a, true)
  else if Config.tripleErr a % 3 = 1 then
    let r := freeBytes s (eccWidth s a)
    (eccCorrected { setWord r.1 a r.2 with flips := mapDel s.flips a } a, false)
  else (s, false)

/-- The words with an error that overlap [a, a+n). -/
def flippedIn (s : State) (a n : Nat) : List Nat :=
  if s.flips.isEmpty then [] else (errWords s).filter fun x => decide (x + eccWidth s x > a) && decide (x < a + n)

/-- Read the listed flipped words. -/
def eccReadAll (ctx : Ctx) : List Nat → State → State
  | [], s => s
  | a :: l, s => eccReadAll ctx l (eccReadWord s ctx a).1

/-- An engine reads a slot by its number: flipped words are handled by their code (R270, R272). -/
def accRead (s : State) (ctx : Ctx) (t n : Nat) : State × List Lp :=
  if (flippedIn s (accAddr t n) 0x4A00).isEmpty then (s, accGet s t n)
  else
    let s := eccReadAll ctx (flippedIn s (accAddr t n) 0x4A00) s
    (s, lpOfPlanes (flipBytes s (accAddr t n) (lpPlanes (accGet s t n))))

/-- A read of device memory by an engine of world `w`: denied reads return 0 and are counted (R419); flipped words are
handled by their code. -/
def devRead (s : State) (w : World) (ctx : Ctx) (a n : Nat) (b : EpochBlock := ctxBlock ctx) : State × Bytes :=
  if rangePermitted s w false a n b then
    let s := eccReadAll ctx (flippedIn s a n) s
    (s, storedBytes s a n)
  else (countDenied s (addrDie s a), zeroBytes n)

/-- A read by the part's own engines, which no table governs. -/
def rawRead (s : State) (ctx : Ctx) (a n : Nat) : State × Bytes :=
  let s := eccReadAll ctx (flippedIn s a n) s
  (s, storedBytes s a n)

/-- A word of a burst is written whole: its check word is written with the burst's tag (R277). -/
def flipsGone (s : State) (x : Nat) : State :=
  let b := x / 64 * 64
  let s := { s with flips := mapDel s.flips x }
  if eccWidth s x = 32 then { s with flips := mapSet (fun _ => 0) s.flips b (flipMask s b % 2 ^ 266) } else s

/-- The write of the part of one flipped word that [a, a+n) covers: a whole word replaces any error; a partial one is a
read-modify-write of the word as it is read, not performed over an uncorrectable word (R270, R278).  Answers the word if its
bytes are kept. -/
def eccWriteWord (s : State) (ctx : Ctx) (a n x : Nat) : State × Option Nat :=
  if a ≤ x && x + eccWidth s x ≤ a + n then (flipsGone s x, none)
  else
    let r := eccReadWord s ctx x
    if r.2 then (r.1, some x)
    else ({ setMem r.1 x (storedBytes r.1 x (eccWidth s x)) with flips := mapDel r.1.flips x }, none)

/-- The flipped words a write meets, and which of them keep their bytes. -/
def eccWriteAll (ctx : Ctx) (a n : Nat) : List Nat → State → State × List Nat
  | [], s => (s, [])
  | x :: l, s =>
    let r := eccWriteWord s ctx a n x
    let q := eccWriteAll ctx a n l r.1
    (q.1, match r.2 with | some y => y :: q.2 | none => q.2)

/-- Bytes to store, with the bytes of kept words as they stand. -/
def keepWords (s : State) (ks : List Nat) (a : Nat) : Bytes → Bytes
  | [] => []
  | b :: bs =>
    (if ks.any (fun k => decide (k ≤ a) && decide (a < k + eccWidth s k)) then mapGet memD s.mem a else b)
      :: keepWords s ks (a + 1) bs

/-- A write of device memory with its SECDED words (no permission check). -/
def rawWrite (s : State) (ctx : Ctx) (a : Nat) (bs : Bytes) : State :=
  let fs := flippedIn s a bs.length
  if fs.isEmpty then setMem s a bs
  else
    let r := eccWriteAll ctx a bs.length fs s
    setMem r.1 a (keepWords r.1 r.2 a bs)

/-- Clear a tile's SRAM and accumulation memory (R304, R469). -/
def zeroTile (s : State) (t : Nat) : State :=
  { s with
    mem := mapClearRange s.mem (sramAddr t 0) (sramAddr t 0x600000)
    flips := mapClearRange (mapClearRange s.flips (sramAddr t 0) (sramAddr t 0x600000)) (accAddr t 0) (accAddr t 13)
    acc := mapClearRange s.acc (13 * t) (13 * t + 13) }

/-! ### Gated tiles (R443) -/

/-- The accumulation memory of a tile is lost: each slot holds a free value (log 1). -/
def accLose (t : Nat) : Nat → State → State
  | 0, s => s
  | n + 1, s => let r := drawFree s; accLose t n (accSet r.1 t n (lpOfPlanes (natLe 18944 r.2)))

/-- A tile's compute units are gated; `off` switches its SRAM off too. -/
def gateTile (s : State) (t : Nat) (off : Bool) : State :=
  bankSet (bankSet (accLose t 13 s) .pwcGated t true) .pwcGoff t off

/-- Clear a tile's SRAM. -/
def zeroSram (s : State) (t : Nat) : State :=
  { s with
    mem := mapClearRange s.mem (sramAddr t 0) (sramAddr t 0x600000)
    flips := mapClearRange s.flips (sramAddr t 0) (sramAddr t 0x600000) }

/-- A tile is ungated; SRAM that was off is written to zero. -/
def ungateTile (s : State) (t : Nat) : State :=
  if !tileGated s t then s
  else
    let s := { s with scrubs := mapDel s.scrubs t }
    let s := if bankBit s .pwcGoff t then zeroSram s t else s
    bankSet (bankSet s .pwcGated t false) .pwcGoff t false

/-- Every tile of a list is ungated. -/
def ungateTiles (s : State) (l : List Nat) : State := l.foldl ungateTile s

end Sys2Proof.Machine
end

