-- ==== Sys2Proof/Machine/Layout.lean ====
section
/-! DEFINITION. Tensor descriptors, block headers and encodings (R59 to R87): decoding, checking, and building blocks. -/

namespace Sys2Proof.Machine

/-! ### Completion statuses (R342) -/

def stOk : Nat := 0x0000
def stOkReplayed : Nat := 0x0001
def stCancelled : Nat := 0x0002
def stBadDescriptor : Nat := 0x0010
def stAccessDenied : Nat := 0x0011
def stOutOfRange : Nat := 0x0012
def stOverlapTooLarge : Nat := 0x0013
def stGroupTooLarge : Nat := 0x0014
def stFenceMismatch : Nat := 0x0015
def stNeedsQuiesce : Nat := 0x0016
def stCheckFailed : Nat := 0x0020
def stAnchorOverflow : Nat := 0x0021
def stVersionPinned : Nat := 0x0022
def stTimeout : Nat := 0x0030
def stPeerUnreachable : Nat := 0x0031
def stBusySelftest : Nat := 0x0032

/-! ### Tensor descriptors -/

/-- The tensor descriptor of 64 bytes (R75). A dimension at or beyond NDIM is missing: it takes index 0 and stride 0 (R62);
an extent of 0 stays, for the check of R76. -/
def parseTd (bs : Bytes) : Td :=
  let b9 := fld bs 9 1
  let nd := fld bs 10 1
  { base := fld bs 0 8, fmt := fld bs 8 1, loc := bit b9 7, linear := bit b9 6, packed := bit b9 5, mask := bit b9 4,
    padw := bit b9 3, world := worldOf (bit b9 2), policy := b9 % 4, ndim := nd,
    mxaxis := bit (fld bs 11 1) 0, cap := fld bs 12 4,
    ext := (List.range 5).map fun d => if d < nd then fld bs (16 + 4 * d) 4 else min 1 (fld bs (16 + 4 * d) 4),
    stride := (List.range 5).map fun d => if d < nd then fld bs (36 + 4 * d) 4 else 0,
    fill := fld bs 56 4,
    bad := fld bs 11 1 / 2 != 0 || !zeros bs 60 4 || decide (2 ≤ b9 % 4) || (!bit b9 7 && fld bs 6 2 != 0) }

def tdExt (t : Td) (d : Nat) : Nat := t.ext.getD d 1
def tdStride (t : Td) (d : Nat) : Nat := t.stride.getD d 0

/-- Bytes of an element of a LINEAR tensor; sub-byte elements are packed (R80). -/
def tdBits (t : Td) : Nat := if t.mask then 1 else fmtBits t.fmt

/-- Alignment of BASE (R75). -/
def tdAligned (t : Td) : Bool :=
  if t.linear then t.base % (max 1 (fmtBits t.fmt / 8)) == 0 else t.base % 4096 == 0

/-- The descriptor checks of R76 (and the format codes of R25): true when the TD passes. -/
def tdOk (t : Td) (isDest isProduct : Bool) : Bool :=
  !t.bad && fmtListed t.fmt && decide (1 ≤ t.ndim) && decide (t.ndim ≤ 5) && t.ext.all (· != 0) && tdAligned t
  && (if t.packed then t.cap != 0 && t.cap % 128 == 0 else t.cap == 0)
  && !(t.linear && (fmtMx t.fmt || t.fmt == 0x30 || t.mask || t.packed))
  && !(t.mxaxis && !fmtMx t.fmt)
  && !(t.mask && t.policy != 0)
  && !(isDest && (List.range 5).any fun d => tdStride t d == 0 && decide (1 < tdExt t d))
  && !(isProduct && t.fill != 0)

/-- CAP in bytes (R61). -/
def tdCap (t : Td) : Nat := if t.packed then t.cap * 32 else 64 * denseSize t.fmt

/-- The superblock size S (R60). -/
def tdS (t : Td) : Nat := 8192 + tdCap t

/-- Number of blocks of a dimension (rows or columns), and of superblocks. -/
def tdBlocks (t : Td) (d : Nat) : Nat := cdiv (tdExt t d) 32
def tdSupers (t : Td) (d : Nat) : Nat := cdiv (tdExt t d) 256

/-- Block coordinates: block column, block row and the outer indices. -/
structure BlkPos where
  bc : Nat
  br : Nat
  o2 : Nat := 0
  o3 : Nat := 0
  o4 : Nat := 0
  deriving DecidableEq, Repr

/-- The superblock that holds a block (R62). -/
def superAddr (t : Td) (p : BlkPos) : Nat :=
  t.base + tdS t * (p.bc / 8 * tdStride t 0 + p.br / 8 * tdStride t 1 + p.o2 * tdStride t 2 + p.o3 * tdStride t 3
    + p.o4 * tdStride t 4)

/-- The superblock index of a block (R60). -/
def blkIndex (p : BlkPos) : Nat := p.br % 8 * 8 + p.bc % 8

/-- The header address of a block (R62). -/
def hdrAddr (t : Td) (p : BlkPos) : Nat := superAddr t p + 128 * blkIndex p

/-- The byte offset of an element of a LINEAR tensor, in bits (R80). -/
def linBit (t : Td) (i : List Nat) : Nat :=
  tdBits t * ((List.range 5).map fun d => i.getD d 0 * tdStride t d).sum

/-- The footprint [lo, hi) of a TD's storage. -/
def tdFoot (t : Td) : Nat × Nat :=
  if t.linear then
    (t.base, t.base + cdiv (linBit t ((List.range 5).map fun d => tdExt t d - 1) + tdBits t) 8)
  else
    (t.base, t.base + tdS t * ((tdSupers t 0 - 1) * tdStride t 0 + (tdSupers t 1 - 1) * tdStride t 1
      + (tdExt t 2 - 1) * tdStride t 2 + (tdExt t 3 - 1) * tdStride t 3 + (tdExt t 4 - 1) * tdStride t 4) + tdS t)

/-- Two intervals intersect. -/
def overlaps (a b : Nat × Nat) : Bool := decide (a.1 < b.2) && decide (b.1 < a.2)

/-- The footprint check of R266: the status it completes the operation with, or OK. -/
def footStatus (s : State) (f : Nat × Nat) : Nat :=
  if f.1 < 0x4000000 then stAccessDenied
  else if overlaps f (0x7F0000000000, 0x7F0004000000)
      || (overlaps f (0x480000000000, 0x480000000000 + 1536 * 0x40000) &&
        allTiles.any fun t => overlaps f (0x480000000000 + t * 0x40000, 0x480000000000 + t * 0x40000 + 0x3C200)) then
    stBadDescriptor
  else if f.2 ≤ dramLimit s then stOk
  else if 0x400000000000 ≤ f.1 then
    let o := f.1 - 0x400000000000
    let t := o / 0x800000
    if t < 1536 && decide (f.2 ≤ 0x400000000000 + t * 0x800000 + 0x600000) && !tileOut s t then stOk
    else stOutOfRange
  else stOutOfRange

/-! ### Blocks -/

/-- The block that reads as ZERO (R71, R85). -/
def zeroBlk (t : Td) : Blk := { fmt := t.fmt, mask := t.mask, axis := t.mxaxis }

/-- Scale byte of element n. -/
def blkScale (b : Blk) (n : Nat) : Nat := if b.axis then b.scale.getD (n % 32) 0 else b.scale.getD (n / 32) 0

/-- Value of element n of a block; in a mask block 1 or 0. -/
def blkVal (b : Blk) (n : Nat) : Val :=
  if b.mask then .fin (b.els.getD n 0 % 2) 0
  else if b.fmt = 0x30 then lpVal (b.lps.getD n {})
  else elemVal b.fmt (b.els.getD n 0) (blkScale b n)

/-- Long partial n of a block. -/
def blkLp (b : Blk) (n : Nat) : Lp := b.lps.getD n {}

/-- Elements packed from bit 0 (R59). -/
def packEls (w : Nat) : List Nat → Nat
  | [] => 0
  | x :: xs => x % 2 ^ w + 2 ^ w * packEls w xs

/-- The first `n` packed elements. -/
def unpackEls (w n x : Nat) : List Nat := (List.range n).map fun i => x / 2 ^ (w * i) % 2 ^ w

/-- Element n counts as non-zero (R64). A live long partial of value 0 with a special state does not, as in LPZ, whose count
is of value records (DESIGN CHOICE, log 130). -/
def blkNz (b : Blk) (n : Nat) : Bool :=
  if b.mask then b.els.getD n 0 % 2 == 1
  else if b.fmt = 0x30 then (blkLp b n).live && (blkLp b n).v != 0
  else !valZero (blkVal b n)

/-- Non-zero count (R64). -/
def blkNnz (b : Blk) : Nat := ((List.range 1024).filter (blkNz b)).length

/-- A block holds a NaN or an infinity, or a state entry with SPECIAL (R67). -/
def blkSpecial (b : Blk) : Bool :=
  if b.mask then false
  else if b.fmt = 0x30 then b.lps.any fun l => l.live && l.sp != .none
  else (List.range 1024).any fun n => spOf (blkVal b n) != .none

/-- One value record of LPZ (R74). -/
def lpzRecord (v : Int) : Bytes :=
  let w := (if v < 0 then (if v = -1 then 0 else ilog2 (-v - 1).natAbs + 1) else ilog2 v.natAbs + 1) + 1
  let sh := w - 40
  if v % (2 ^ sh : Nat) = 0 then natLe 1 sh ++ natLe 5 (ofSigned 40 (v / (2 ^ sh : Nat)))
  else (0x80 : Byte) :: natLe 16 (ofSigned 128 v)

/-- The LPZ payload of a block (R73). -/
def lpzPayload (b : Blk) : Bytes :=
  let is := List.range 1024
  let live := is.filter fun i => (blkLp b i).live
  let a0 := match live with | [] => 0 | i :: _ => (blkLp b i).anchor
  let form : Nat :=
    if live.all fun i => (blkLp b i).anchor == a0 then 0
    else if live.all fun i => decide (a0 - 128 ≤ (blkLp b i).anchor) && decide ((blkLp b i).anchor ≤ a0 + 127) then 1
    else 2
  let anc := fun i => if (blkLp b i).live then (blkLp b i).anchor else a0
  let st := fun k => b2n (blkLp b k).live * 8 + b2n (blkLp b k).ovf * 4 + spCode (blkLp b k).sp
  ((List.range 512).map fun i => BitVec.ofNat 8 (st (2 * i) + 16 * st (2 * i + 1)))
    ++ natLe 2 (ofSigned 16 a0) ++ natLe 1 form ++ natLe 1 0
    ++ (if form = 1 then is.flatMap fun i => natLe 1 (ofSigned 8 (anc i - a0))
        else if form = 2 then is.flatMap fun i => natLe 2 (ofSigned 16 (anc i)) else [])
    ++ natLe 128 (packEls 1 (is.map fun i => b2n (blkNz b i)))
    ++ (is.filter (blkNz b)).flatMap fun i => lpzRecord (blkLp b i).v

/-- Read `n` value records. -/
def lpzRecords : Nat → Bytes → List Int
  | 0, _ => []
  | n + 1, bs =>
    if fld bs 0 1 = 0x80 then toSigned 128 (fld bs 1 16) :: lpzRecords n (bs.drop 17)
    else toSigned 40 (fld bs 1 5) * (2 ^ (fld bs 0 1 % 128) : Nat) :: lpzRecords n (bs.drop 6)

/-- Spread values over the set positions of a map. -/
def spread {α : Type} (d : α) : List Bool → List α → List α
  | [], _ => []
  | true :: ms, x :: xs => x :: spread d ms xs
  | true :: ms, [] => d :: spread d ms []
  | false :: ms, xs => d :: spread d ms xs

/-- The long partials of an LPZ payload; `none` when a set map bit belongs to an element that is not live (R73). An anchor
form above 2 has no meaning and no check of R84 names it: it reads as form 0 (DESIGN CHOICE, log 132). -/
def lpzDecode (bs : Bytes) : Option (List Lp) :=
  let is := List.range 1024
  let st := fun i => fld bs (i / 2) 1 / (if i % 2 = 0 then 1 else 16) % 16
  let a0 := toSigned 16 (fld bs 512 2)
  let form := fld bs 514 1
  let alen := if form = 1 then 1024 else if form = 2 then 2048 else 0
  let anc := fun i => if form = 1 then a0 + toSigned 8 (fld bs (516 + i) 1)
    else if form = 2 then toSigned 16 (fld bs (516 + 2 * i) 2) else a0
  let mapn := fld bs (516 + alen) 128
  let ms := is.map fun i => bit mapn i
  let vs := spread (0 : Int) ms (lpzRecords (ms.filter id).length (bs.drop (644 + alen)))
  if is.any fun i => bit mapn i && !bit (st i) 3 then none
  else some ((is.zip vs).map fun p =>
    if bit (st p.1) 3 then
      ({ v := p.2, anchor := anc p.1, live := true, ovf := bit (st p.1) 2, sp := spOfCode (st p.1) } : Lp)
    else ({} : Lp))

/-- The encoding the writer chooses (R69), with its payload. -/
def chooseEnc (t : Td) (b : Blk) : Nat × Bytes :=
  let nnz := blkNnz b
  let w := fmtBits t.fmt
  let dense : Bytes := if t.fmt = 0x30 then lpPlanes b.lps
    else natLe (denseSize t.fmt) (packEls w ((List.range 1024).map fun n => b.els.getD n 0))
  if t.mask then
    if nnz = 0 then (0x02, []) else (0x03, natLe 128 (packEls 1 ((List.range 1024).map fun n => b2n (blkNz b n))))
  else if t.policy = 1 then (0x00, dense)
  else if nnz = 0 && !(t.fmt == 0x30 && b.lps.any fun l => l.live && l.sp != .none) then (0x02, [])
  else if t.fmt = 0x30 then
    let z := lpzPayload b
    if z.length < 18944 then (0x04, z) else (0x00, dense)
  else if 128 + cdiv (nnz * w) 8 < denseSize t.fmt then
    let ns := (List.range 1024).filter (blkNz b)
    (0x01, natLe 128 (packEls 1 ((List.range 1024).map fun n => b2n (blkNz b n)))
      ++ natLe (cdiv (nnz * w) 8) (packEls w (ns.map fun n => b.els.getD n 0)))
  else (0x00, dense)

/-- Sum of bytes mod 255 (R65). -/
def residue (bs : Bytes) : Nat := leNat bs % 255

/-- XOR of the little-endian 32-bit words (R66). -/
def xorWords : Nat → Bytes → Nat
  | 0, _ => 0
  | n + 1, bs => Nat.xor (fld bs 0 4) (xorWords n (bs.drop 4))

/-- Maximum byte of row r, or of column c (R30). -/
def rowMaxByte (b : Blk) (r : Nat) : Nat := maxOf ((List.range 32).map fun c => maxByte (blkVal b (32 * r + c)))
def colMaxByte (b : Blk) (c : Nat) : Nat := maxOf ((List.range 32).map fun r => maxByte (blkVal b (32 * r + c)))

/-- Header and payload of a block as a writer builds them (R63 to R69, R81), at payload offset `poff` (32 B units). A MASK1
block has MX 0 and no maxima (R72); a ZERO block of a mask tensor has MX by its format (R67). FLAGS.AXIS matches MXAXIS
in every block of an MX format, MASK1 blocks too (R81; DEDUCED, log 131). -/
def buildBlk (t : Td) (b : Blk) (poff : Nat) : Bytes × Bytes :=
  let e := chooseEnc t b
  let z := e.1 = 0x02
  let mk := t.mask
  let mx := fmtMx t.fmt && e.1 != 0x03
  let flags := (if mk && b.saved then 8 else 0) + (if fmtMx t.fmt && t.mxaxis then 4 else 0) + (if mx then 2 else 0)
    + (if blkSpecial b then 1 else 0)
  let bytes := fun f => (List.range 32).flatMap fun i => natLe 1 (if mk || z then 0 else f i)
  let h := bytes (rowMaxByte b) ++ bytes (colMaxByte b) ++ natLe 1 t.fmt ++ natLe 1 e.1 ++ natLe 2 (blkNnz b)
    ++ natLe 4 poff ++ natLe 4 e.2.length ++ natLe 1 (residue e.2) ++ natLe 1 flags ++ natLe 2 0
    ++ ((List.range 32).flatMap fun i => natLe 1 (if mx && !mk && !z then b.scale.getD i 0 else 0))
    ++ zeroBytes 12
  (h ++ natLe 4 (xorWords 31 h), e.2)

/-- The payload offset of block b in a FIXED tensor (R61). -/
def fixedPoff (t : Td) (b : Nat) : Nat := b * denseSize t.fmt / 32

/-! ### Reading a block -/

/-- The header checks of R84, in the order of its table: the reason of the first that fails, 0 for a good header. -/
def hdrReason (t : Td) (h : Bytes) : Nat :=
  let fmt := fld h 64 1
  let enc := fld h 65 1
  let nnz := fld h 66 2
  let plen := fld h 72 4
  let flags := fld h 77 1
  let isMask := t.mask
  let w := fmtBits fmt
  let maxr := maxOf ((List.range 32).map fun i => fld h i 1)
  let maxc := maxOf ((List.range 32).map fun i => fld h (32 + i) 1)
  if fld h 124 4 != xorWords 31 h then 1
  else if !fmtListed fmt || (fmt != t.fmt && !isMask) then 3
  else if (if isMask then !(enc == 0x02 || enc == 0x03)
      else !(enc == 0x00 || (enc == 0x01 && fmt != 0x30) || enc == 0x02 || (enc == 0x04 && fmt == 0x30))) then 4
  else if decide (1024 < nnz) ||
      (if enc = 0x00 then plen != denseSize fmt
       else if enc = 0x01 then plen != 128 + cdiv (nnz * w) 8
       else if enc = 0x02 then plen != 0 || nnz != 0
       else if enc = 0x03 then plen != 128
       else decide (plen < 644)) then 5
  else if decide (tdCap t < fld h 68 4 * 32 + plen) then 6
  else if decide (16 ≤ flags) || (bit flags 3 && !isMask) || (bit flags 1 != (fmtMx fmt && enc != 0x03))
      || (bit flags 2 && !fmtMx fmt)
      || (bit flags 0 && (isMask || enc == 0x02 || fmt == 0x03 || fmt == 0x20)) then 7
  else if maxr != maxc then 8
  else if !zeros h 78 2 || !zeros h 112 12 || (!bit flags 1 && !zeros h 80 32)
      || (enc == 0x03 && !zeros h 0 64) then 9
  else 0

/-- The length of `n` value records (R74). -/
def lpzLen : Nat → Bytes → Nat
  | 0, _ => 0
  | n + 1, bs => if fld bs 0 1 = 0x80 then 17 + lpzLen n (bs.drop 17) else 6 + lpzLen n (bs.drop 6)

/-- The payload checks of R84: residue, and the counts of BITMAP and LPZ with the length of the latter. -/
def payloadReason (h p : Bytes) : Nat :=
  let enc := fld h 65 1
  let nnz := fld h 66 2
  let pop := fun o => ((List.range 1024).filter fun i => bit (fld p o 128) i).length
  if fld h 76 1 != residue p then 2
  else if enc == 0x01 && pop 0 != nnz then 5
  else if enc = 0x04 then
    let form := fld p 514 1
    let alen := if form = 1 then 1024 else if form = 2 then 2048 else 0
    if pop (516 + alen) != nnz || (lpzDecode p).isNone || p.length != 644 + alen + lpzLen nnz (p.drop (644 + alen)) then 5
    else 0
  else 0

/-- The block of a good header and payload. -/
def decodeBlk (t : Td) (h p : Bytes) : Blk :=
  let fmt := if t.mask then t.fmt else fld h 64 1
  let enc := fld h 65 1
  let flags := fld h 77 1
  let w := fmtBits fmt
  let base : Blk :=
    { fmt := fmt, mask := t.mask, saved := bit flags 3, axis := bit flags 2,
      scale := if bit flags 1 then (List.range 32).map fun i => fld h (80 + i) 1 else [] }
  if enc = 0x02 then base
  else if enc = 0x03 then { base with els := unpackEls 1 1024 (leNat p) }
  else if enc = 0x04 then { base with lps := (lpzDecode p).getD [] }
  else if enc = 0x01 then
    let ms := (List.range 1024).map fun i => bit (fld p 0 128) i
    { base with els := spread 0 ms (unpackEls w (fld h 66 2) (leNat (p.drop 128))) }
  else if fmt = 0x30 then { base with lps := lpOfPlanes p }
  else { base with els := unpackEls w 1024 (leNat p) }

/-- The indices of element n of a block (R59, R62). -/
def elemIdx (p : BlkPos) (n : Nat) : List Nat := [32 * p.bc + n % 32, 32 * p.br + n / 32, p.o2, p.o3, p.o4]

/-- An index lies inside the logical bounds (R77). -/
def inBounds (t : Td) (i : List Nat) : Bool := (List.range 5).all fun d => decide (i.getD d 0 < tdExt t d)

/-- The linear index in the logical index space, innermost dimension fastest (R46). -/
def linIndex (t : Td) (i : List Nat) : Nat :=
  i.getD 0 0 + tdExt t 0 * (i.getD 1 0 + tdExt t 1 * (i.getD 2 0 + tdExt t 2 * (i.getD 3 0 + tdExt t 3 * i.getD 4 0)))

/-- FILL as the value a read outside the bounds returns (R77): converted to the element format with RNE and the
saturation of R43; in an MX format, as a group of its own. -/
def fillVal (t : Td) : Val :=
  if t.mask then .fin (t.fill % 2) 0
  else if t.fmt = 0x03 || t.fmt = 0x20 then
    .fin (toSigned (fmtBits t.fmt) (intEncode (fmtBits t.fmt) .rne 0 (.fin (toSigned 32 t.fill) 0)).1) 0
  else
    let v := fp32Val t.fill
    if fmtMx t.fmt then
      let sc := mxScale t.fmt [v]
      elemVal t.fmt (mxElem t.fmt .rne 0 sc v) sc
    else match floatFmt t.fmt with
      | some f => floatDecode f (floatEncode f .rne 0 v)
      | none => v

/-- Every block position of a TD in linear order (R523): dimension 4 slowest, block column fastest. -/
def tdPositions (t : Td) : List BlkPos :=
  (List.range (tdExt t 4)).flatMap fun o4 => (List.range (tdExt t 3)).flatMap fun o3 =>
    (List.range (tdExt t 2)).flatMap fun o2 => (List.range (tdBlocks t 1)).flatMap fun br =>
      (List.range (tdBlocks t 0)).map fun bc => ⟨bc, br, o2, o3, o4⟩

/-- The number of a block in that order. -/
def blkNumber (t : Td) (p : BlkPos) : Nat :=
  p.bc + tdBlocks t 0 * (p.br + tdBlocks t 1 * (p.o2 + tdExt t 2 * (p.o3 + tdExt t 3 * p.o4)))

/-- Elements of a block from values, in a destination's format: codes, scales and the number of R44 substitutions.
`draw` is the 16-bit draw of an element. Positions outside the bounds hold 0 (R77). -/
def encodeVals (t : Td) (r : Rnd) (draw : Nat → Nat) (inb : Nat → Bool) (v : Nat → Val) : Blk × Nat :=
  let is := List.range 1024
  let val := fun n => if inb n then v n else Val.fin 0 0
  if t.fmt = 0x03 || t.fmt = 0x20 then
    let rs := is.map fun n => intEncode (fmtBits t.fmt) r (draw n) (val n)
    ({ fmt := t.fmt, els := rs.map Prod.fst }, (rs.filter Prod.snd).length)
  else if fmtMx t.fmt then
    let grp := fun g => (List.range 32).map fun k => val (if t.mxaxis then 32 * k + g else 32 * g + k)
    let sc := (List.range 32).map fun g => mxScale t.fmt (grp g)
    let els := is.map fun n => if inb n then
        mxElem t.fmt r (draw n) (sc.getD (if t.mxaxis then n % 32 else n / 32) 0) (val n) else 0
    ({ fmt := t.fmt, axis := t.mxaxis, scale := sc, els := els }, 0)
  else match floatFmt t.fmt with
    | some f => ({ fmt := t.fmt, els := is.map fun n => floatEncode f r (draw n) (val n) }, 0)
    | none => ({ fmt := t.fmt }, 0)

/-- Elements of a block from long partials, rounded once (R43 to R46, R53), or kept as LP128. -/
def encodeLps (t : Td) (r : Rnd) (draw : Nat → Nat) (inb : Nat → Bool) (l : Nat → Lp) : Blk × Nat :=
  let is := List.range 1024
  let lp := fun n => if inb n then l n else ({} : Lp)
  if t.fmt = 0x30 then ({ fmt := 0x30, lps := is.map lp }, 0)
  else if fmtMx t.fmt then
    encodeVals t r draw inb fun n =>
      let x := lp n
      if x.live && x.ovf && x.sp == .none then mxOver t.fmt (lpNeg x) else lpVal x
  else
    let rs := is.map fun n => lpRound t.fmt r (draw n) (lp n)
    ({ fmt := t.fmt, els := rs.map Prod.fst }, (rs.filter Prod.snd).length)

end Sys2Proof.Machine
end

