-- ==== Sys2Proof/Machine/Link.lean ====
section
/-! DEFINITION. The link layer the LHL and the QXF ports share (R317 to R323, R355): sending flits, taking them, replay,
training; and the part's use of host memory over the LHL (R324 to R329). -/

namespace Sys2Proof.Machine

/-- Which link: the LHL, or a QXF port. -/
inductive LinkId where
  | lhl
  | port (p : Nat)
  deriving DecidableEq, Repr

/-- Number of a link in outputs and injectors. -/
def linkNo : LinkId → Nat
  | .lhl => 0
  | .port p => 1 + p

def getLink (s : State) : LinkId → Link
  | .lhl => s.lhl
  | .port p => mapGet (fun _ => {}) s.ports p

def setLink (s : State) (i : LinkId) (l : Link) : State :=
  match i with
  | .lhl => { s with lhl := l }
  | .port p => { s with ports := mapSet (fun _ => {}) s.ports p l }

/-- Count on a link's counter k (R347, R381). -/
def linkCount (s : State) (i : LinkId) (k n : Nat) : State :=
  match i with
  | .lhl => cntAdd s .lhlCnt k 0 n
  | .port p => cntAdd s .qxfPortCnt p k n

/-- The die a link is on (R385). -/
def linkDie : LinkId → Nat
  | .lhl => 0
  | .port p => p / 16

/-- Number of lanes of a link. -/
def linkLanes : LinkId → Nat
  | .lhl => 8
  | .port _ => 4

/-- The fault injector of a link (R375). -/
def linkInj : LinkId → Nat
  | .lhl => 64
  | .port p => p

/-- CRC-32 of IEEE 802.3 (R318), bit by bit. -/
def crc32Bits : Nat → Nat → Nat
  | 0, c => c
  | n + 1, c => crc32Bits n (if c % 2 = 1 then Nat.xor (c / 2) 0xEDB88320 else c / 2)

def crc32Step (c : Nat) (b : Byte) : Nat := crc32Bits 8 (Nat.xor c b.toNat)

def crc32 (bs : Bytes) : Nat := Nat.xor (bs.foldl crc32Step 0xFFFFFFFF) 0xFFFFFFFF

/-- CRC-16 with polynomial 0x1021 and initial value all ones (R303). -/
def crc16Bits : Nat → Nat → Nat
  | 0, c => c
  | n + 1, c => crc16Bits n (if c / 32768 % 2 = 1 then Nat.xor (c * 2 % 65536) 0x1021 else c * 2 % 65536)

def crc16 (bs : Bytes) : Nat := bs.foldl (fun c b => crc16Bits 8 (Nat.xor c (b.toNat * 256))) 0xFFFF

/-! ### The fault injectors (R375, R376) -/

/-- The LFSR's next value: x^32 + x^22 + x^2 + x + 1. -/
def lfsrNext (x : Nat) : Nat :=
  let b := (x / 2 ^ 31 + x / 2 ^ 21 + x / 2 + x) % 2
  (2 * x + b) % 2 ^ 32

/-- An injector sees a transmission of die `d`: the LFSR advances once per flit; the answer says that the flit is eligible. -/
def injStep (s : State) (inj d : Nat) : State × Bool :=
  let c := s.rd .fijCtl inj
  if bit (s.rd .fijAuth) 31 && bit (s.rd .fijAuth) 0 && bit c 63 then
    let st := mapGet (fun _ => (orElse0 (bits c 31 0) 1, 0)) s.fij inj
    let lf := lfsrNext st.1
    let n := st.2 + 1
    let param := orElse0 (bits c 47 32) 1
    let hit := if bits c 62 61 = 0 && bit c 60 then decide (lf % 65536 < param) else n % param == 0
    let s := { s with fij := mapIns s.fij inj (lf, n) }
    if hit then (rasBump (cntAdd s .fijCnt inj 0 1) 74 d 1, true) else (s, false)
  else (s, false)

/-- Flip bit `k` of some bytes. -/
def flipBit (bs : Bytes) (k : Nat) : Bytes :=
  bs.mapIdx fun n b => if n = k / 8 then BitVec.ofNat 8 (Nat.xor b.toNat (2 ^ (k % 8))) else b

/-- What goes out of a flit `body` with CRC `crc` under injector `inj`: nothing where it is dropped, and the bytes with one payload
bit flipped before or after the CRC is formed; the payload is the `len` bytes from `first` on (R376). The flag says that a reordering is due. -/
def injected (s : State) (inj d first len : Nat) (crc : Bytes → Bytes) (body : Bytes) : State × Option Bytes × Bool :=
  let r := injStep s inj d
  let c := s.rd .fijCtl inj
  let lf := (mapGet (fun _ => (0, 0)) r.1.fij inj).1
  let k := 8 * first + lf % (8 * len)
  if !r.2 then (r.1, some (body ++ crc body), false)
  else match bits c 62 61 with
    | 0 => (r.1, none, false)
    | 1 =>
      let bad := flipBit body k
      (r.1, some (bad ++ crc (if bit c 60 then body else bad)), false)
    | _ => (r.1, some (body ++ crc body), true)

/-! ### Flits out (R318, R320) -/

/-- The first 252 bytes of a flit. -/
def flitWords (seq ack kind : Nat) (ackv : Bool) (rsvd : Nat) (payload : Bytes) : Bytes :=
  natLe 4 (seq * 2 ^ 20 + ack * 2 ^ 8 + kind * 2 ^ 6 + b2n ackv * 2 ^ 5 + rsvd) ++ slice payload 0 248

/-- A flit goes out with the acknowledgement of the last one received in order, through the link's injector. -/
def flitOut (s : State) (i : LinkId) (kind seq : Nat) (payload : Bytes) : State :=
  let l := getLink s i
  let body := flitWords seq ((l.rxSeq + 4095) % 4096) kind l.got 0 payload
  let r := injected (setLink s i { l with ackOwed := 0 }) (linkInj i) (linkDie i) 4 248 (fun b => natLe 4 (crc32 b)) body
  let s := if r.2.2 then setLink r.1 i { getLink r.1 i with swap := some (bit (s.rd .fijCtl (linkInj i)) 60) } else r.1
  match r.2.1 with
  | some bs => emit s (.flit (linkNo i) bs)
  | none => s

/-- Waiting flits enter the replay buffer of 512 flits and go out, while the link is ACTIVE (R320). -/
def refill (s : State) (i : LinkId) : Nat → State
  | 0 => s
  | n + 1 =>
    let l := getLink s i
    match l.wait with
    | [] => s
    | f :: fs =>
      if l.replay.length < 512 && l.st == .active then
        let s := setLink s i { l with wait := fs, txSeq := (l.txSeq + 1) % 4096, replay := l.replay ++ [{ f with seq := l.txSeq }] }
        refill (flitOut (linkCount s i 0 1) i f.kind l.txSeq f.payload) i n
      else s

/-! ### Credits and what waits for them (R321, R355) -/

/-- Credits left of a class: those granted less those spent, modulo `m`. -/
def creditLeft (granted used : NMap Nat) (cls m : Nat) : Nat :=
  (mapGet (fun _ => 0) granted cls + m - mapGet (fun _ => 0) used cls % m) % m

/-- A transaction has its credit: a header, and one data credit for each 32 B. The answers to the host's own requests need none
(log 174). -/
def creditOk (i : LinkId) (l : Link) (m : TxMsg) : Bool :=
  (i == .lhl && m.cls == 2)
    || (decide (0 < creditLeft l.crHdr l.usedHdr m.cls 65536) && decide (m.data ≤ creditLeft l.crData l.usedData m.cls (2 ^ 32)))

/-- Spend it. -/
def creditSpend (l : Link) (m : TxMsg) : Link :=
  { l with
    usedHdr := mapSet (fun _ => 0) l.usedHdr m.cls ((mapGet (fun _ => 0) l.usedHdr m.cls + 1) % 65536)
    usedData := mapSet (fun _ => 0) l.usedData m.cls ((mapGet (fun _ => 0) l.usedData m.cls + m.data) % 2 ^ 32) }

/-- The first transaction that has its credit and none of whose class stands before it. -/
def firstReady (i : LinkId) (l : Link) : List Nat → List TxMsg → Option (TxMsg × List TxMsg)
  | _, [] => none
  | held, m :: ms =>
    if !held.contains m.cls && creditOk i l m then some (m, ms)
    else (firstReady i l (m.cls :: held) ms).map fun p => (p.1, m :: p.2)

/-- Two packets must stay in order: segments of one message, or two MWRs of one world (R376). -/
def keepOrder (m x : TxMsg) : Bool :=
  match m.use, x.use with
  | .fabric a _, .fabric b _ => a.src == b.src && a.msg == b.msg
  | .write v _ _, .write w _ _ => v == w
  | _, _ => false

/-- Two packets may pass each other: of different messages, MWRs of different worlds, or two requests (R325, R376). -/
def mayPass (m x : TxMsg) : Bool :=
  match m.use, x.use with
  | .fabric a _, .fabric b _ => !(a.src == b.src && a.msg == b.msg)
  | .write v _ _, .write w _ _ => v != w
  | .req _, .req _ => true
  | _, _ => false

/-- What goes out next, what still waits, and the reordering that is still due: one injected swap lets the second of two packets go
first. -/
def nextOut (i : LinkId) (l : Link) : Option (TxMsg × List TxMsg × Option Bool) :=
  match firstReady i l [] l.hold with
  | none => none
  | some (m, rest) =>
    let pair := fun (sub : Bool) (x : TxMsg) => (if sub then keepOrder m x else mayPass m x) && creditOk i (creditSpend l m) x
    match l.swap with
    | none => some (m, rest, none)
    | some sub => match takeFirst (pair sub) rest with
      | none => some (m, rest, some sub)
      | some (x, others) => some (x, m :: others, none)

/-- The flits of a transaction: it begins one, and the rest of its last is PAD (log 19). Its last flit stands for it. -/
def flitsOf (m : TxMsg) : List TxFlit :=
  let ps := chunk 248 (m.bytes.length / 248 + 1) m.bytes
  let pkt := match m.use with
    | .fabric x _ => (x.typ.toNat, x.src.toNat, x.dst.toNat)
    | _ => (0, 0, 0)
  ps.mapIdx fun n p => { seq := 0, payload := p, ctx := m.ctx, pkt := pkt, posted := if n + 1 = ps.length then b2n m.posted else 0 }

/-- What a transaction does as it goes out. -/
def wentOut (s : State) (i : LinkId) (m : TxMsg) : State :=
  match m.use with
  | .write _ a bs => setHost s a bs
  | .intr v => emit s (.intr v)
  | .cpl tag d => emit s (.cpl tag d)
  | .fabric x _ => match i with
    | .port p => emit (cntAdd (cntAdd s .qxfPortCnt p 6 1) .qxfPortCnt p 7 x.payload.length) (.fabric p x)
    | .lhl => s
  | _ => s

/-- The link's block is being reset and quiesces: it accepts no new request (R468). -/
def linkQuiesces (s : State) : LinkId → Bool
  | .lhl => false
  | .port p => blockQuiesces s 1 p

/-- What waits goes out while the link is ACTIVE and its replay buffer takes whole transactions, as credit allows: a class without
credit blocks no other. -/
def pump (i : LinkId) : Nat → State → State
  | 0, s => s
  | n + 1, s =>
    let l := getLink s i
    if l.st != .active || !l.wait.isEmpty || linkQuiesces s i then s
    else match nextOut i l with
      | none => s
      | some (m, rest, swap) =>
        let l := creditSpend { l with hold := rest, swap := swap, wait := flitsOf m } m
        pump i n (refill (wentOut (setLink s i l) i m) i 512)

/-- Everything that can go out does. -/
def pumpAll (s : State) (i : LinkId) : State :=
  let s := refill s i 512
  pump i (getLink s i).hold.length s

/-- Transactions join what waits, and go out as they can. -/
def linkSend (s : State) (i : LinkId) (ms : List TxMsg) : State :=
  let l := getLink s i
  pumpAll (setLink s i { l with hold := l.hold ++ ms }) i

/-- Classes of a link that the part grants credit for, with the first grant of headers and of 32 B data units (R321, R355). -/
def linkGrants : LinkId → List (Nat × Nat × Nat)
  | .lhl => [(0, 128, 2048), (1, 64, 64)]
  | .port _ => (upTo 4).map fun vc => (vc, 16, 1024)

/-- The credit updates: cumulative, each for one class (R321). -/
def grantBytes (i : LinkId) (l : Link) : Bytes :=
  (linkGrants i).flatMap fun g => natLe 1 g.1 ++ [0] ++ natLe 2 ((g.2.1 + mapGet (fun _ => 0) l.rxHdr g.1) % 65536)
    ++ natLe 4 ((g.2.2 + mapGet (fun _ => 0) l.rxData g.1) % 2 ^ 32)

/-- Owed credit updates go out in a CONTROL flit. -/
def sendGrants (s : State) (i : LinkId) : State :=
  let l := getLink s i
  if l.grantDue then
    refill (setLink s i { l with grantDue := false, wait := l.wait ++ [{ seq := 0, kind := 1, payload := grantBytes i l }] }) i 512
  else s

/-- Flits up to and including `ack` are acknowledged: they leave the replay buffer (R320). -/
def dropAcked (ack : Nat) (r : List TxFlit) : List TxFlit :=
  if r.any (fun f => f.seq == ack) then (r.dropWhile fun f => f.seq != ack).drop 1 else r

def takeAck (s : State) (i : LinkId) (ack : Nat) : State :=
  let l := getLink s i
  pumpAll (setLink s i { l with replay := dropAcked ack l.replay }) i

/-- Replay every buffered flit, in SEQ order (R320); after 4 replays of one flit the link retrains (by its own row). -/
def replayAll (s : State) (i : LinkId) : State :=
  let l := getLink s i
  if l.replay.isEmpty then s
  else
    let s := setLink s i { l with replay := l.replay.map fun f => { f with tries := f.tries + 1 } }
    let s := linkCount s i 3 l.replay.length
    let s := rasBump s 4 (linkDie i) l.replay.length
    l.replay.foldl (fun s f => flitOut s i f.kind f.seq f.payload) s

/-- Enter RETRAIN (R322, R484). -/
def enterRetrain (s : State) (i : LinkId) (fb : Option (Nat × Nat)) : State :=
  let l := getLink s i
  setLink (serdesTakes s (linkNo i)) i
    { l with st := .retrain, retrains := satAdd (2 ^ 32 - 1) l.retrains 1, fallback := fb,
             replay := l.replay.map fun f => { f with tries := 0 } }

/-- The width that working lanes form, up to the configured one (R316, R354): answers the lane set, 0 if none. -/
def laneGroups (n w : Nat) : List Nat :=
  (List.range (n / w)).map fun g => (2 ^ w - 1) * 2 ^ (g * w)

def formWidth (n : Nat) (ok : Nat) : List Nat → Option (Nat × Nat)
  | [] => none
  | w :: ws => match (laneGroups n w).find? (fun g => Nat.land g ok == g) with
    | some g => some (w, g)
    | none => formWidth n ok ws

/-- Widths allowed by a WIDTH field: LHL 8, 4, 2, 1; ports 4, 2, 1. -/
def widths (i : LinkId) (code : Nat) : List Nat :=
  match i with
  | .lhl => [8, 4, 2, 1].drop code
  | .port _ => [4, 2, 1].drop code

/-- Width code of a number of lanes. -/
def widthCode (i : LinkId) (w : Nat) : Nat :=
  match i with
  | .lhl => if w = 8 then 0 else if w = 4 then 1 else if w = 2 then 2 else 3
  | .port _ => if w = 4 then 0 else if w = 2 then 1 else 2

/-! ### Host memory over the LHL -/

/-- What a host access answers. -/
inductive HostRes where
  | ok (bs : Bytes)
  | fail (status : Nat)
  | wait
  deriving DecidableEq, Repr

def lhlActive (s : State) : Bool := s.lhl.st == .active

/-- A free request tag (R324): the lowest that no request holds. -/
def freeTag (s : State) : Nat :=
  ((List.range 4096).find? fun t => s.hostReqs.all fun r => r.tag != t).getD 0

/-- The bytes of a transaction header (R324). -/
def lhlHdr (typ w sub tag len addr : Nat) : Bytes :=
  natLe 1 typ ++ natLe 1 (w + 2 * sub) ++ natLe 2 tag ++ natLe 2 len ++ natLe 2 0 ++ natLe 8 addr

def worldBit (w : World) : Nat := match w with | .ns => 0 | .s => 1

/-- A request goes out with a free tag: an MRD, or an ATOM SWAP with 0 as its data. -/
def hostIssue (s : State) (w : World) (use : HostUse) (a n : Nat) : State :=
  let t := freeTag s
  let s := { s with hostReqs := s.hostReqs ++ [{ tag := t, use := use, addr := a, len := n }] }
  let bs := match use with
    | .swap _ _ => lhlHdr 0x03 (worldBit w) 0 t n a ++ zeroBytes 8
    | _ => lhlHdr 0x01 (worldBit w) 0 t n a
  linkSend s .lhl [{ cls := 1, data := (bs.length - 16 + 31) / 32, use := .req t, bytes := bs }]

/-- Ask the host for `n` bytes at `a`; with every tag in use the request waits for one (R324). -/
def hostPut (s : State) (w : World) (use : HostUse) (a n : Nat) : State :=
  if 4096 ≤ s.hostReqs.length || !s.hostLine.isEmpty then { s with hostLine := s.hostLine ++ [(w, use, a, n)] }
  else hostIssue s w use a n

/-- The same, unless the request is out or waits already. -/
def hostAsk (s : State) (w : World) (use : HostUse) (a n : Nat) : State :=
  if s.hostReqs.any (fun r => r.use == use && r.addr == a && r.len == n) || s.hostLine.contains (w, use, a, n) then s
  else hostPut s w use a n

/-- Requests that waited take the tags that are free. -/
def hostNext : Nat → State → State
  | 0, s => s
  | k + 1, s => match s.hostLine with
    | [] => s
    | x :: xs =>
      if 4096 ≤ s.hostReqs.length then s
      else hostNext k (hostIssue { s with hostLine := xs } x.1 x.2.1 x.2.2.1 x.2.2.2)

/-- A request has gone out: it waits in front of the link no longer. -/
def reqSent (s : State) (tag : Nat) : Bool := s.lhl.hold.all fun m => m.use != .req tag

/-- [a, a+n) cut at multiples of 4 KiB into pieces of at most `m` bytes (R324). -/
def hostPieces (m : Nat) : Nat → Nat → Nat → List (Nat × Nat)
  | 0, _, _ => []
  | k + 1, a, n =>
    if n = 0 then []
    else
      let l := min n (min m (4096 - a % 4096))
      (a, l) :: hostPieces m k (a + l) (n - l)

/-- The answer that has come to a request. -/
def hostAnsOf (s : State) (use : HostUse) (p : Nat × Nat) : Option HostAns :=
  s.hostAns.find? fun r => r.use == use && r.addr == p.1 && r.len == p.2

/-- Bytes of host memory that a command needs, read by MRDs of at most 4,096 B: the data once every answer has come, the
first failure among them, or a wait. -/
def hostRead (s : State) (w : World) (use : HostUse) (a n : Nat) : State × HostRes :=
  let ps := hostPieces 4096 (n / 4096 + 2) a n
  let as := ps.map (hostAnsOf s use)
  if as.all Option.isSome then
    (s, match (as.filterMap id).find? fun r => r.status != 0 with
      | some r => .fail r.status
      | none => .ok (hostBytes s a n))
  else (ps.foldl (fun s p => if (hostAnsOf s use p).isSome then s else hostAsk s w use p.1 p.2) s, .wait)

/-- A command's answers are no longer needed. -/
def clearAns (s : State) (use : HostUse) : State :=
  { s with
    hostAns := s.hostAns.filter fun r => r.use != use
    hostReqs := s.hostReqs.filter fun r => r.use != use
    hostLine := s.hostLine.filter fun x => x.2.1 != use }

/-- The MWRs of a write: at most 512 B each, their data padded to 8 B (R324). -/
def mwrs (w : World) (a : Nat) (bs : Bytes) : List TxMsg :=
  (hostPieces 512 (bs.length / 512 + bs.length / 4096 + 3) a bs.length).map fun p =>
    let d := slice bs (p.1 - a) p.2
    { cls := 0, data := (p.2 + 31) / 32, posted := true, use := .write w p.1 d,
      bytes := lhlHdr 0x02 (worldBit w) 0 0 p.2 p.1 ++ d ++ zeroBytes ((8 - p.2 % 8) % 8) }

/-- A posted write of host memory: its MWRs are performed as they go out, in order (R323, R325). -/
def hostWrite (s : State) (w : World) (a : Nat) (bs : Bytes) : State := linkSend s .lhl (mwrs w a bs)

/-- An INTR message of a world's ring, behind every earlier MWR (R325, R326, R329, R341). -/
def sendIntr (s : State) (w : World) (v : Nat) : State :=
  linkSend (cntAdd s .hqeCnt 4 0 1) .lhl
    [{ cls := 0, posted := true, use := .intr v, bytes := lhlHdr 0x10 (worldBit w) 0 0 0 v }]

/-- Credit updates of a CONTROL flit (R321): entries of 8 B. -/
def takeCredits (l : Link) : List Bytes → Link
  | [] => l
  | e :: es =>
    if e.length < 8 then l
    else
      let c := fld e 0 1
      takeCredits { l with crHdr := mapSet (fun _ => 0) l.crHdr c (fld e 2 2)
                           crData := mapSet (fun _ => 0) l.crData c (fld e 4 4) } es

/-- The first 252 bytes of a received flit. -/
def flitBody (f : Flit) : Bytes := flitWords f.seq.val f.ack.val f.kind.val f.ackv f.rsvd.val f.payload

/-- A received flit's CRC holds. -/
def flitGood (f : Flit) : Bool := crc32 (flitBody f) == f.crc.toNat

/-- Discard a flit: counted, and one NAK with the last good SEQ until the expected SEQ arrives (R319, R320). -/
def discardFlit (s : State) (i : LinkId) : State :=
  let s := linkCount s i 2 1
  let l := getLink s i
  if l.naked then s else flitOut (setLink s i { l with naked := true }) i 3 0 []

/-- A transaction or packet of a class with `n` data bytes has begun to come. -/
def rxTook (l : Link) (cls n : Nat) : Link :=
  { l with
    grantDue := true
    rxHdr := mapSet (fun _ => 0) l.rxHdr cls ((mapGet (fun _ => 0) l.rxHdr cls + 1) % 65536)
    rxData := mapSet (fun _ => 0) l.rxData cls ((mapGet (fun _ => 0) l.rxData cls + (n + 31) / 32) % 2 ^ 32) }

/-- Class of a transaction (R321). -/
def txClass (typ : Nat) : Nat := if typ = 0x02 || typ = 0x10 then 0 else if typ = 0x06 || typ = 0x07 then 2 else 1

/-- The 8 B words of a DATA payload: the transactions or packets that begin in it are counted for the credits they free; a PAD
ends it. -/
def rxWords (i : LinkId) : List Bytes → Link → Link
  | [], l => l
  | w :: ws, l =>
    match l.rxVc with
    | some vc =>
      let n := fld w 6 2
      rxWords i ws { rxTook l vc n with rxVc := none, rxLeft := 2 + (n + 7) / 8 }
    | none =>
      if 0 < l.rxLeft then rxWords i ws { l with rxLeft := l.rxLeft - 1 }
      else match i with
        | .lhl =>
          let t := fld w 0 1
          let n := if t = 0x05 || t = 0x07 then fld w 4 2 else 0
          if t = 0 then l else rxWords i ws { rxTook l (txClass t) n with rxLeft := 1 + (n + 7) / 8 }
        | .port _ => if fld w 4 1 = 0 then l else rxWords i ws { l with rxVc := some (bits (fld w 5 1) 4 3) }

/-- Messages with a reserved code that begin in a DATA payload of the LHL: each is dropped (R329). -/
def badCodes (l : Link) : List Bytes → Nat
  | [] => 0
  | w :: ws =>
    let more := badCodes (rxWords .lhl [w] l) ws
    if l.rxLeft = 0 then
      if fld w 0 1 = 0 then 0
      else if fld w 0 1 = 0x10 && decide (4 ≤ bits (fld w 1 1) 3 1) then more + 1 else more
    else more

/-- What a flit received in order brings: the transactions of DATA, or the credits of CONTROL. -/
def takePayload (s : State) (i : LinkId) (f : Flit) : State :=
  let l := getLink s i
  let bs := slice f.payload 0 248
  if f.kind.val = 1 then setLink s i (takeCredits l (chunk 8 31 bs))
  else
    let n := match i with | .lhl => badCodes l (chunk 8 31 bs) | .port _ => 0
    let s := setLink s i (rxWords i (chunk 8 31 bs) l)
    if n = 0 then s else rasBump (cntAdd s .lhlCnt 7 0 n) 77 0 n

/-- A flit is received on an ACTIVE link: checked, acknowledged, its payload taken (R319 to R321). A discarded flit does nothing
more. -/
def receiveFlit (s : State) (i : LinkId) (f : Flit) : State :=
  let l := getLink s i
  if l.st != .active then s
  else if !flitGood f then discardFlit s i
  else match f.kind.val with
    | 2 => if f.ackv then takeAck s i f.ack.val else s
    | 3 => replayAll (takeAck s i f.ack.val) i
    | _ =>
      if f.seq.val != l.rxSeq then discardFlit s i
      else
        let s := setLink s i { l with rxSeq := (l.rxSeq + 1) % 4096, got := true, naked := false, ackOwed := l.ackOwed + 1 }
        let s := linkCount (takePayload s i f) i 1 1
        if f.ackv then takeAck s i f.ack.val else pumpAll s i

/-- The owed acknowledgement is sent: with the credit updates that are owed, else in an IDLE flit (R320). -/
def sendAck (s : State) (i : LinkId) : State :=
  let l := getLink s i
  if l.st == .active && decide (0 < l.ackOwed) then
    let s := sendGrants s i
    if (getLink s i).ackOwed = 0 then s else flitOut s i 2 0 []
  else s

end Sys2Proof.Machine
end

