-- ==== Sys2Proof/Machine/Hqe.lean ====
section
/-! DEFINITION. The host queue engine (R330 to R344): rings, scanning, fetching, issuing, completions and event records. -/

namespace Sys2Proof.Machine

/-! ### Rings -/

def getRing (s : State) (n : Nat) : Ring := mapGet (fun _ => {}) s.hqe.rings n

def setRing (s : State) (n : Nat) (r : Ring) : State :=
  { s with hqe := { s.hqe with rings := mapSet (fun _ => {}) s.hqe.rings n r } }

/-- Fields of HQE_RINGn_CFG (R353). -/
def ringType (s : State) (n : Nat) : Nat := s.rdf .hqeRingCfg n 0 61 60
def ringLog2 (s : State) (n : Nat) : Nat := s.rdf .hqeRingCfg n 0 59 55
def ringSize (s : State) (n : Nat) : Nat := 2 ^ ringLog2 s n
def ringCq (s : State) (n : Nat) : Nat := s.rdf .hqeRingCfg n 0 49 36
def ringBase (s : State) (n : Nat) : Nat := s.rd .hqeRingBase n
def ringEnabled (s : State) (n : Nat) : Bool := bit (s.rd .hqeRingCfg n) 63

/-- The doorbell area of a world: base, when it is enabled (R331, R349). -/
def dbArea (s : State) (w : World) : Option Nat :=
  let v := s.rd (match w with | .ns => .hqeDbBaseNs | .s => .hqeDbBaseS)
  if bit v 0 then some (v / 4096 * 4096) else none

/-- The address of ring n's doorbell word (R331). -/
def doorbell (s : State) (n : Nat) : Option Nat := (dbArea s (ringWorld s n)).map (· + 8 * n)

/-- A ring enters its error state; each error is counted (R344, R352). -/
def ringError (s : State) (n e : Nat) : State :=
  cntAdd (setRing s n { getRing s n with st := .error, err := e, recheck := false }) .hqeCnt 7 0 1

/-- A context write that is dropped and counted (R343, R352). -/
def ringWriteDropped (s : State) : State := countDropped (cntAdd s .hqeCnt 7 0 1) 0

/-- HQE_RINGn_STATE as it reads (R353). -/
def ringStateVal (s : State) (n : Nat) : Nat :=
  let r := getRing s n
  let sz := ringSize s n
  let st := match r.st with | .disabled => 0 | .active => 1 | .draining => 2 | .error => 3
  let ph := if ringType s n = 0 then 0 else 1 - r.count / sz % 2
  st * 2 ^ 62 + r.err * 2 ^ 58 + ph * 2 ^ 52 + r.count % sz * 2 ^ 32 + r.count % 2 ^ 32

/-! ### Completion entries and event records -/

/-- A completion or event ring is full: 2^LOG2_ENTRIES entries are unconsumed (R338). -/
def ringFull (s : State) (n : Nat) : Bool := decide (ringSize s n ≤ (getRing s n).count - (getRing s n).seen)

/-- Entry k's PHASE (R338). -/
def phaseBit (s : State) (n : Nat) : Nat := 1 - (getRing s n).count / ringSize s n % 2

/-- An entry of a ring has been written: INTR by R341. -/
def signalRing (s : State) (n : Nat) (irq : Bool) : State :=
  let r := getRing s n
  let cfg := s.rd .hqeRingCfg n
  let u := r.unsig + 1
  if bit cfg 51 && (decide (orElse0 (bits cfg 24 17) 1 ≤ u) || irq) then
    sendIntr (setRing s n { r with unsig := 0, oldest := 0 }) (ringWorld s n) (bits cfg 35 25)
  else setRing s n { r with unsig := u, oldest := if r.unsig = 0 then s.time else r.oldest }

/-- Write 32 bytes as the next entry of a completion or event ring. -/
def putEntry (s : State) (n : Nat) (bs : Bytes) (irq : Bool) : State :=
  let r := getRing s n
  let s := hostWrite s (ringWorld s n) (ringBase s n + 32 * (r.count % ringSize s n)) bs
  signalRing (setRing s n { r with count := r.count + 1 }) n irq

/-- The bytes of a completion entry written now (R338). -/
def cplBytes (s : State) (c : Cpl) : Bytes :=
  natLe 4 c.seq ++ natLe 8 c.tag ++ natLe 2 c.status ++ natLe 2 (phaseBit s c.cq * 2 ^ 15 + c.src % 2 ^ 14)
    ++ natLe 6 (s.time % 2 ^ 48) ++ natLe 2 c.op ++ slice c.info 0 8

/-- Write a completion entry, or keep it in the buffer while its ring is full or the link is lost (R323, R338). -/
def putCpl (s : State) (c : Cpl) : State :=
  if s.plat.restart.isSome || s.lhl.lost || ringFull s c.cq || s.hqe.buf.any (fun d => d.cq == c.cq) then
    { s with hqe := { s.hqe with buf := s.hqe.buf ++ [c] } }
  else cntAdd (putEntry s c.cq (cplBytes s c) c.irq) .hqeCnt 3 0 1

/-- Entries of one ring leave the buffer while there is room. -/
def drainBuf (n : Nat) : Nat → State → State
  | 0, s => s
  | k + 1, s =>
    if ringFull s n || s.lhl.lost then s
    else match takeFirst (fun c => c.cq == n) s.hqe.buf with
      | none => s
      | some (c, rest) =>
        let s := { s with hqe := { s.hqe with buf := rest } }
        drainBuf n k (cntAdd (putEntry s n (cplBytes s c) c.irq) .hqeCnt 3 0 1)

/-- An event record of source `src` for event ring n (R340); held while the link is lost (R323). -/
def putEvent (s : State) (n src tag : Nat) (data : Bytes) : State :=
  let r := getRing s n
  if r.st ≠ .active then s
  else if s.lhl.lost then { s with hqe := { s.hqe with evHeld := s.hqe.evHeld ++ [(n, src, tag, data)] } }
  else if ringFull s n then cntAdd (setRing s n { r with lost := r.lost + 1 }) .hqeCnt 6 0 1
  else
    let bs := natLe 4 (r.count % 2 ^ 32) ++ natLe 2 (src % 4096) ++ natLe 2 tag ++ natLe 6 (s.time % 2 ^ 48)
      ++ natLe 1 (phaseBit s n) ++ natLe 1 (min 255 r.lost) ++ slice data 0 16
    putEntry (setRing s n { r with lost := 0 }) n bs false

/-- The link is back: held events and the buffered completions of every ring are written (R323). -/
def hqeResume (s : State) : State :=
  let held := s.hqe.evHeld
  let s := held.foldl (fun s e => putEvent s e.1 e.2.1 e.2.2.1 e.2.2.2) { s with hqe := { s.hqe with evHeld := [] } }
  if s.plat.restart.isSome then s else ((s.hqe.buf.map fun c => c.cq).eraseDups).foldl (fun s n => drainBuf n 4096 s) s

/-! ### The RAS deltas of a completion (R339, R386) -/

/-- The RAS counters as they stand. -/
def rasSnap (s : State) : NMap W64 := mapKeep (fun o => decide (0x801000 ≤ o) && decide (o < 0x801400)) s.regs

/-- The increment of RAS counter c since a snapshot. -/
def rasDelta (s : State) (ras0 : NMap W64) (c : Nat) : Nat :=
  s.rd .rasCnt c - (mapGet (fun _ => 0) ras0 (regOff .rasCnt c 0)).toNat

/-- The counter with the largest delta among `cs`, the lower number winning a tie. -/
def largestDelta (d : Nat → Nat) (cs : List Nat) : Nat :=
  (cs.foldl (fun b c => if b.2 < d c then (c, d c) else b) (0xFFFF, 0)).1

/-- Bytes 0 to 5 of the default INFO. -/
def deltaInfo (s : State) (ras0 : NMap W64) : Bytes :=
  let d := rasDelta s ras0
  natLe 2 (min 65535 ((upTo 64).map d).sum) ++ natLe 2 (min 65535 (((upTo 192).map fun i => d (64 + i)).sum))
    ++ natLe 2 (largestDelta d (upTo 256))

/-! ### Completing a command -/

/-- The issued command with an identifier. -/
def getIssued (s : State) (iid : Nat) : Option Issued := s.hqe.issued.find? fun c => c.iid == iid

/-- The command leaves the issued list, and nothing of it is held. -/
def dropIssued (s : State) (iid : Nat) : State :=
  { s with
    hqe := { s.hqe with issued := s.hqe.issued.filter fun c => c.iid != iid }
    seq := { s.seq with
      heldCmds := s.seq.heldCmds.filter (· != iid)
      copies := s.seq.copies.filter fun c => c.iid != iid }
    hostAns := s.hostAns.filter fun r => r.use != .cmd iid
    hostReqs := s.hostReqs.filter fun r => r.use != .cmd iid
    hostLine := s.hostLine.filter fun x => x.2.1 != .cmd iid }

/-- Write the completion of command `iid` with given INFO bytes (R338). -/
def completeInfo (s : State) (iid status : Nat) (info : Bytes) : State :=
  match getIssued s iid with
  | none => s
  | some c =>
    putCpl (dropIssued s iid)
      { cq := ringCq s c.ring, irq := c.irq, seq := c.seq, tag := c.tag, status := status, src := c.ring, op := c.op,
        info := info }

/-- INFO of a command that ends without an effect of its own: the default form, or what CANCEL_BATCH and CONFIG_COMMIT carry
whatever their status (R339). -/
def plainInfo (s : State) (c : Issued) : Bytes :=
  match c.op with
  | 0x0022 => [1, 0, 0, 0] ++ natLe 4 (s.rd .tkrEpoch)
  | 0x0023 => natLe 4 (s.seq.epoch % 2 ^ 32)
  | _ => deltaInfo s c.ras0 ++ [0, 0]

/-- Write the completion of command `iid` with the INFO of R339. -/
def complete (s : State) (iid status : Nat) : State :=
  match getIssued s iid with
  | none => s
  | some c => completeInfo s iid status (plainInfo s c)

/-! ### Scanning (R332) -/

/-- A fresh PI of a submission ring (R331, R344). -/
def takePi (s : State) (n pi : Nat) : State :=
  let r := getRing s n
  if pi < r.count || r.count + ringSize s n < pi then ringError s n 2 else setRing s n { r with seen := pi }

/-- Ask for a ring's doorbell word: a read of its own, also while an earlier one is out (R332). -/
def readDoorbell (s : State) (n : Nat) : State :=
  match doorbell s n with
  | none => s
  | some a => hostPut s (ringWorld s n) (.doorbell n) a 8

/-- The ring is a submission ring that fetches; none does in Charcoal or Black, or while the control cores restart (R445,
R489). -/
def fetches (s : State) (n : Nat) : Bool :=
  (getRing s n).st == .active && ringType s n == 0 && s.plat.restart.isNone && decide (shade s < 2)

/-- The 64 B lines of a world's bitmap that hold an enabled submission ring. -/
def bitmapLines (s : State) (w : World) : List Nat :=
  let rings := (s.hqe.rings.map Prod.fst).filter fun n => fetches s n && ringWorld s n == w
  (upTo 32).filter fun k => rings.any fun n => n / 512 == k

/-- Ask for the bitmap lines of one world's area; each is one line the scan waits for. -/
def scanWorld (s : State) (w : World) : State :=
  match dbArea s w with
  | none => s
  | some base => (bitmapLines s w).foldl (fun s k =>
      let s := hostPut s w (.bitmap w k) (base + 0x20000 + 64 * k) 64
      { s with hqe := { s.hqe with scanLeft := s.hqe.scanLeft + 1 } }) s

/-- Scan bounds in units of 10 ns (R348). -/
def scanMin (s : State) : Nat :=
  let v := blockVal s .hqe .hqeScan 0 0
  min (orElse0 (bits v 7 0) 1) (orElse0 (bits v 19 8) 1)
def scanBase (s : State) : Nat := orElse0 (bits (blockVal s .hqe .hqeScan 0 0) 19 8) 1
def scanGrey (s : State) : Nat := 100 * orElse0 (bits (blockVal s .hqe .hqeScan 0 0) 31 20) 1

def setInterval (s : State) (v : Nat) : State := { s with hqe := { s.hqe with interval := v } }

/-- A scan has all its lines: the interval adapts (R332). -/
def scanEnd (s : State) : State :=
  if s.hqe.scanLeft ≠ 0 then s
  else
    let i := s.hqe.interval
    setInterval s
      (if shade s = 1 then scanGrey s
       else if s.hqe.scanFound then max (scanMin s) (i / 2) else min (scanBase s) (i * 2))

/-- A scan begins (R332); one that still waits for its lines is not overtaken. -/
def hqeScanOnce (s : State) : State :=
  if s.hqe.scanLeft ≠ 0 || 2 ≤ shade s || s.plat.restart.isSome then s
  else
    let s := cntAdd { s with hqe := { s.hqe with scanFound := false } } .hqeCnt 0 0 1
    scanEnd (scanWorld (scanWorld s .ns) .s)

/-- One line fewer to wait for. -/
def scanLineDone (s : State) (found : Bool) : State :=
  scanEnd { s with hqe := { s.hqe with scanLeft := s.hqe.scanLeft - 1, scanFound := s.hqe.scanFound || found } }

/-- A bitmap line has come: its non-zero words are swapped with 0. -/
def bitmapCame (s : State) (w : World) (k a : Nat) : State :=
  let ws := (upTo 8).filter fun i => leNat (hostBytes s (a + 8 * i) 8) != 0
  scanLineDone (ws.foldl (fun s i => hostPut s w (.swap w (8 * k + i)) (a + 8 * i) 8) s) !ws.isEmpty

/-- The old value of a swapped word has come: the named rings' doorbell words are read. -/
def swapCame (s : State) (w : World) (k a : Nat) : State :=
  let old := leNat (hostBytes s a 8)
  let s := cntAdd (setHost s a (zeroBytes 8)) .hqeCnt 1 0 1
  (((upTo 64).filter fun i => bit old i).map (64 * k + ·)).foldl
    (fun s n => if fetches s n && ringWorld s n == w then readDoorbell s n else s) s

/-! ### Fetching (R334) -/

/-- Descriptors on their way. -/
def fetchingSum (s : State) : Nat :=
  ((s.hostReqs.map (fun r => r.use) ++ s.hostLine.map fun x => x.2.1).map fun u => match u with | .fetch _ m => m | _ => 0).sum

/-- Ring n has something fetchable and nothing forbids the fetch (R338). -/
def fetchable (s : State) (n : Nat) : Bool :=
  fetches s n && decide ((getRing s n).count < (getRing s n).seen) && !ringFull s (ringCq s n)
    && decide (s.hqe.buf.length < 4096) && decide (s.hqe.fetched.length + fetchingSum s < 256)
    && (s.hostReqs.map (fun r => r.use) ++ s.hostLine.map fun x => x.2.1).all fun u => match u with | .fetch k _ => k != n | _ => true

def ringClass (s : State) (n : Nat) : Nat := s.rdf .hqeRingCfg n 0 54 52

/-- The rings that could be fetched from. -/
def fetchableRings (s : State) : List Nat := (s.hqe.rings.map Prod.fst).filter (fetchable s)

/-- Weight of a class (R350). -/
def classWeight (s : State) (c : Nat) : Nat :=
  orElse0 (bits (blockVal s .hqe .hqeWrr 0 0) (8 * c + 7) (8 * c)) 1

/-- Grants class c has used in this round. -/
def grantsUsed (s : State) (c : Nat) : Nat := mapGet (fun _ => 0) s.hqe.grants c

/-- The ring of class c that the next grant of the class goes to. -/
def nextOfClass (s : State) (c : Nat) : Option Nat :=
  let rs := (fetchableRings s).filter fun n => ringClass s n == c
  let last := mapGet (fun _ => 0) s.hqe.last c
  match rs.find? fun n => decide (last ≤ n) with
  | some n => some n
  | none => rs.head?

/-- Every class with something fetchable has used its grants: the round is over. -/
def roundOver (s : State) : Bool := (fetchableRings s).all fun n =>
  decide (classWeight s (ringClass s n) ≤ grantsUsed s (ringClass s n))

/-- Grant one fetch to ring n. -/
def takeGrant (s : State) (n : Nat) : State :=
  let c := ringClass s n
  { s with hqe := { s.hqe with
      grants := mapSet (fun _ => 0) s.hqe.grants c (grantsUsed s c + 1)
      last := mapSet (fun _ => 0) s.hqe.last c (n + 1) } }

/-- Ask for up to 8 consecutive descriptors of ring n, without crossing its end or, as an MRD, 4 KiB of host memory (R324,
R334). -/
def fetchFrom (s : State) (n : Nat) : State :=
  let r := getRing s n
  let sz := ringSize s n
  let a := ringBase s n + 64 * (r.count % sz)
  let m := min (min (min 8 (r.seen - r.count)) (min (sz - r.count % sz) (256 - (s.hqe.fetched.length + fetchingSum s))))
    ((4096 - a % 4096) / 64)
  hostPut s (ringWorld s n) (.fetch n m) a (64 * m)

/-- Fetched descriptors have come; the fetched count is written back (R334, R353). -/
def fetchCame (s : State) (n m a : Nat) : State :=
  let r := getRing s n
  let bs := hostBytes s a (64 * m)
  let ds := (upTo m).map fun i =>
    ({ ring := n, seq := (r.count + i) % 2 ^ 32, desc := slice bs (64 * i) 64 } : Fetched)
  let s := if shade s = 1 then wakeWhite s else s
  let s := setRing (cntAdd s .hqeCnt 2 0 m) n { r with count := r.count + m }
  let s := { s with hqe := { s.hqe with fetched := s.hqe.fetched ++ ds } }
  let aux := s.rd .hqeRingAux n
  if bit aux 0 then hostWrite s (ringWorld s n) (aux / 8 * 8) (natLe 8 (r.count + m)) else s

/-- DESCRIPTOR_FETCH: a grant of the weighted round-robin goes to ring n. -/
def execDescriptorFetch (n : RingNo) (s : State) : Host.Outcome State Fault Refusal :=
  let s1 := if roundOver s then { s with hqe := { s.hqe with grants := [] } } else s
  if fetchable s n && decide (nextOfClass s1 (ringClass s n) = some n.val)
      && decide (grantsUsed s1 (ringClass s n) < classWeight s (ringClass s n)) then
    .next (fetchFrom (takeGrant s1 n) n)
  else .next s

/-! ### Issuing (R335, R337) -/

/-- The operand bytes and bits of an opcode that no rule defines are 0 (R333), and the opcode is known. -/
def opReservedOk (op : Nat) (o : Bytes) : Bool :=
  match op with
  | 0x0001 => zeros o 0 48
  | 0x0010 | 0x0011 | 0x0012 =>
    fld o 25 1 / 8 == 0 && !bit (fld o 26 2) 15 && fld o 36 2 / 4096 == 0 && zeros o 38 10
  | 0x0020 => zeros o 6 2 && fld o 32 1 / 4 == 0 && zeros o 33 15
  | 0x0021 => zeros o 12 36
  | 0x0022 => zeros o 4 44
  | 0x0023 => fld o 4 1 / 2 == 0 && zeros o 5 43
  | 0x0030 => zeros o 13 1 && zeros o 36 12
  | 0x0031 => zeros o 0 12 && zeros o 13 1 && zeros o 24 24
  | 0x0040 | 0x0041 => fld o 4 1 / 4 == 0 && zeros o 6 42
  | 0x0042 => fld o 4 1 / 8 == 0 && fld o 5 1 / 4 == 0 && zeros o 6 42
  | 0x0050 => zeros o 10 2 && zeros o 20 28
  | 0x0060 => zeros o 12 36
  | 0x0061 => decide (fld o 0 1 ≤ 3) && zeros o 1 47
  | 0x0062 => fld o 0 1 / 2 == 0 && zeros o 1 47
  | 0x0070 =>
    let c := fld o 0 1
    decide (1 ≤ c) && decide (c ≤ 4) && decide (fld o 1 1 ≤ if c = 1 then 3 else 0) && fld o 2 1 / 16 == 0
      && (c != 2 || decide (fld o 3 1 ≤ 4)) && decide (fld o 8 1 ≤ if c = 3 then 1 else 0) && zeros o 9 39
  | _ => false

/-- The descriptor's own reserved bits and PRIO (R333, R335). -/
def descOk (s : State) (f : Fetched) : Bool :=
  fld f.desc 2 1 / 4 == 0 && fld f.desc 3 1 / 8 == 0 && fld f.desc 3 1 % 8 == ringClass s f.ring
    && opReservedOk (fld f.desc 0 2) (slice f.desc 16 48)

/-- The descriptor waits for every earlier descriptor of its ring: FENCE, or a copy with ORDERED (R337). -/
def descFence (f : Fetched) : Bool :=
  let op := fld f.desc 0 2
  bit (fld f.desc 2 1) 1 || ((op == 0x10 || op == 0x11 || op == 0x12) && bit (fld f.desc 41 1) 0)

/-- Ring n has issued descriptors whose completion is not written. -/
def ringBusy (s : State) (n : Nat) : Bool :=
  s.hqe.issued.any (fun c => c.ring == n) || s.hqe.buf.any (fun c => c.src == n)

/-- The fetched descriptor that can issue next: the first whose ring is not held behind a fence or a SEQ recheck. -/
def nextToIssue (s : State) : List Nat → List Fetched → Option (Fetched × List Fetched)
  | _, [] => none
  | held, f :: fs =>
    if held.contains f.ring || (getRing s f.ring).recheck || (descFence f && ringBusy s f.ring) then
      (nextToIssue s (f.ring :: held) fs).map fun p => (p.1, f :: p.2)
    else some (f, fs)

/-- The bounce register of a world (R168). -/
def bounceReg (s : State) (w : World) : Nat := s.rd (match w with | .ns => .gblBounceBaseNs | .s => .gblBounceBaseS)

/-- The issued command of a descriptor. -/
def issuedOf (s : State) (f : Fetched) : Issued :=
  { iid := s.hqe.nextIid, ring := f.ring, world := ringWorld s f.ring, op := fld f.desc 0 2, seq := f.seq,
    tag := fld f.desc 8 8, irq := bit (fld f.desc 2 1) 0, fence := descFence f, ops := slice f.desc 16 48,
    ras0 := rasSnap s, bounce := bounceReg s (ringWorld s f.ring) }

/-- Places of the completion buffer a command may need: its completion, and a training RUN_PLAN's question (R338). -/
def cplNeed (op : Nat) (ops : Bytes) : Nat := if op = 0x0020 && !bit (fld ops 32 1) 0 then 2 else 1

/-- Places of the completion buffer that are taken or kept for issued commands. -/
def cplKept (s : State) : Nat := s.hqe.buf.length + (s.hqe.issued.map fun c => cplNeed c.op c.ops).sum

/-- Issue the next fetched descriptor (R335) once the completion buffer keeps places for it (R338); none while the link is lost
(R323), in an in-place restart (R489), or in Charcoal or Black (R444). -/
def issueNext (s : State) : State :=
  if s.lhl.lost || s.plat.restart.isSome || decide (2 ≤ shade s) then s
  else match nextToIssue s [] s.hqe.fetched with
  | none => s
  | some (f, rest) =>
    if 4096 < cplKept s + cplNeed (fld f.desc 0 2) (slice f.desc 16 48) then s
    else if fld f.desc 4 4 ≠ f.seq then setRing s f.ring { getRing s f.ring with recheck := true }
    else
      let c := issuedOf s f
      let s1 := { s with hqe := { s.hqe with
        fetched := rest, issued := s.hqe.issued ++ [c], nextIid := s.hqe.nextIid + 1 } }
      if descOk s f then s1 else complete s1 c.iid stBadDescriptor

/-- DESCRIPTOR_ISSUE: the next fetched descriptor is checked and issued. -/
def execDescriptorIssue (s : State) : Host.Outcome State Fault Refusal := .next (issueNext s)

/-- Replace the first fetched descriptor of ring n. -/
def replaceFetched (n : Nat) (d : Bytes) : List Fetched → List Fetched
  | [] => []
  | f :: fs => if f.ring = n then { f with desc := d } :: fs else f :: replaceFetched n d fs

/-- DESCRIPTOR_SEQ_RECHECK: 1 µs after a SEQ mismatch the descriptor is read again (R335). -/
def execDescriptorSeqRecheck (n : RingNo) (s : State) : Host.Outcome State Fault Refusal :=
  if !(getRing s n).recheck then .next s
  else match s.hqe.fetched.find? fun f => f.ring == n.val with
    | none => .next s
    | some f => .next (hostAsk s (ringWorld s n) (.recheck n) (ringBase s n + 64 * (f.seq % ringSize s n)) 64)

/-- The ring's fetched descriptors are not issued. -/
def dropFetched (s : State) (n : Nat) : State :=
  { s with hqe := { s.hqe with fetched := s.hqe.fetched.filter fun g => g.ring != n } }

/-- The ring's fetched descriptors are given up: the first of them is the next expected again (R353). -/
def unfetch (s : State) (n : Nat) : State :=
  let m := (s.hqe.fetched.filter fun g => g.ring == n).length
  setRing (dropFetched s n) n { getRing s n with count := (getRing s n).count - m }

/-- The second read has come: the ring goes on, or enters ERROR with ERR 1. -/
def recheckCame (s : State) (n a : Nat) : State :=
  match s.hqe.fetched.find? fun f => f.ring == n with
  | none => s
  | some f =>
    let d := hostBytes s a 64
    if fld d 4 4 = f.seq then
      let s := setRing s n { getRing s n with recheck := false }
      { s with hqe := { s.hqe with fetched := replaceFetched n d s.hqe.fetched } }
    else ringError (unfetch s n) n 1

/-! ### Full rings and timers -/

/-- CQ_SPACE_POLL: the doorbell word of a full completion or event ring is read (R338). -/
def execCqSpacePoll (n : RingNo) (s : State) : Host.Outcome State Fault Refusal :=
  if (getRing s n).st != .active || ringType s n == 0 || !ringFull s n then .next s
  else match doorbell s n with
    | none => .next s
    | some a => .next (hostAsk s (ringWorld s n) (.space n) a 8)

/-- CC has come: buffered entries are written as far as there is room. -/
def spaceCame (s : State) (n a : Nat) : State :=
  drainBuf n 4096 (setRing s n { getRing s n with seen := leNat (hostBytes s a 8) })

/-- What one of the HQE's own requests does when its data comes. -/
def hqeCame (s : State) (r : HostReq) : State :=
  match r.use with
  | .bitmap w k => bitmapCame s w k r.addr
  | .swap w k => swapCame s w k r.addr
  | .doorbell n => if fetches s n then takePi s n (leNat (hostBytes s r.addr 8)) else s
  | .fetch n m => if fetches s n then fetchCame s n m r.addr else s
  | .recheck n => recheckCame s n r.addr
  | .space n => spaceCame s n r.addr
  | _ => s

/-- What one of the HQE's own requests does when it fails (R331, R344). -/
def hqeFailed (s : State) (r : HostReq) : State :=
  match r.use with
  | .bitmap _ _ => scanLineDone (cntAdd s .hqeCnt 7 0 1) false
  | .swap _ _ => cntAdd s .hqeCnt 7 0 1
  | .doorbell n => ringError s n 3
  | .fetch n _ => ringError s n 3
  | .recheck n => ringError (dropFetched s n) n 3
  | .space n => ringError s n 3
  | _ => s

/-- COALESCE_TIMER: COAL_US have passed since the ring's oldest unsignalled entry (R341). -/
def execCoalesceTimer (n : RingNo) (s : State) : Host.Outcome State Fault Refusal :=
  let r := getRing s n
  let cfg := s.rd .hqeRingCfg n
  if bit cfg 51 && bits cfg 16 5 != 0 && ringType s n != 0 && decide (0 < r.unsig) then
    .next (sendIntr (setRing s n { r with unsig := 0, oldest := 0 }) (ringWorld s n) (bits cfg 35 25))
  else .next s

/-! ### Ring contexts (R343) -/

/-- The context of ring n with configuration `v` passes the checks of enabling. -/
def ringContextOk (s : State) (n v : Nat) : Bool :=
  let ty := bits v 61 60
  let l := bits v 59 55
  let cq := bits v 49 36
  decide (ty < 3) && decide (4 ≤ l) && decide (l ≤ 20) && (dbArea s (ringWorld s n)).isSome
    && (if ty = 0 then
          ringType s cq == 1 && (getRing s cq).st == .active && ringWorld s cq == ringWorld s n
            && !bit v 51 && bits v 35 5 == 0
        else bits v 54 52 == 0 && cq == 0 && s.rd .hqeRingAux n == 0)

/-- A completion ring is named by an enabled or draining submission ring, or entries wait for it. -/
def cqInUse (s : State) (n : Nat) : Bool :=
  s.hqe.buf.any (fun c => c.cq == n) ||
    s.hqe.rings.any fun p => (ringEnabled s p.1 || p.2.st == .draining) && ringType s p.1 == 0 && ringCq s p.1 == n

/-- The stored bits of HQE_RINGn_CFG. -/
def ringCfgMask : Nat := 0xBFFBFFFFFFFFFFE0

/-- A ring that has become DISABLED: its counts stand until it is enabled again (R343). -/
def ringOff (s : State) (n : Nat) : State :=
  let r := getRing s n
  setRing s n { count := r.count, seen := r.seen }

/-- A write of HQE_RINGn_CFG (R343): enabling, disabling, RESET, or a change of a disabled ring's context. -/
def ringCfgWrite (s : State) (n v : Nat) : State :=
  let v := Nat.land v (ringCfgMask + 2 ^ 62)
  let x := s.rd .hqeRingCfg n
  let r := getRing s n
  let stored := setBit v 62 false
  if bit x 63 then
    if bit v 63 then ringWriteDropped s
    else if ringType s n = 1 && cqInUse s n then ringWriteDropped s
    else
    let s := if stored != setBit x 63 false then ringWriteDropped s else s
    if r.st == .error then
      let s := s.wr .hqeRingCfg n 0 (setBit x 63 false)
      if bit v 62 then ringOff s n else s
    else if ringType s n = 0 then
      setRing (s.wr .hqeRingCfg n 0 (setBit x 63 false)) n { r with st := .draining }
    else ringOff (s.wr .hqeRingCfg n 0 (setBit x 63 false)) n
  else if bit v 63 then
    if r.st != .disabled then ringWriteDropped s
    else
      let s1 := s.wr .hqeRingCfg n 0 stored
      if ringContextOk s n stored then setRing s1 n { st := .active } else ringError s1 n 4
  else if bit v 62 then
    if r.st == .draining then s else ringOff (s.wr .hqeRingCfg n 0 stored) n
  else if r.st == .draining then ringWriteDropped s
  else s.wr .hqeRingCfg n 0 stored

/-- RING_DRAINED: every descriptor a draining ring issued has written its completion (R343). -/
def execRingDrained (n : RingNo) (s : State) : Host.Outcome State Fault Refusal :=
  if (getRing s n).st == .draining && !ringBusy s n && s.hqe.fetched.all (fun f => f.ring != n.val) then
    .next (ringOff s n)
  else .next s

/-- NOP: completes OK once issued (R335). -/
def execNop (iid : Nat) (s : State) : Host.Outcome State Fault Refusal :=
  match getIssued s iid with
  | some c => if c.op = 0x0001 then .next (complete s iid stOk) else .next s
  | none => .next s

end Sys2Proof.Machine
end

