-- ==== Sys2Proof/Machine/PlanBase.lean ====
section
/-! DEFINITION. What every engine needs to know of a running plan, and how a RUN_PLAN ends (R217, R232, R237, R250). -/

namespace Sys2Proof.Machine

/-- The plan kind of an issued RUN_PLAN's operands (R236). -/
def planKindOf (c : Issued) : PlanKind := if bit (fld c.ops 32 1) 0 then .eval else .training

/-- The step number of a plan's coordinate draws (R234). -/
def drawStep (k : PlanKind) (p : PlanRun) : Nat := match k with | .training => p.step | .eval => 2 ^ 63 + p.step

/-- STEP and ATTEMPT of traffic in a context. -/
def ctxStep (s : State) : Ctx → Nat
  | .plan k => match getPlan s k with | some p => drawStep k p | none => 0
  | _ => s.rd .seqStep

def ctxAttempt (s : State) : Ctx → Nat
  | .plan k => match getPlan s k with | some p => p.attempt | none => 0
  | _ => 0

/-- The bank that the part's own dynamic traffic is tagged with: that of the phase that started last (R247). -/
def ownBank (s : State) : Nat := s.seq.lastBank

/-- Some RUN_PLAN runs. -/
def planRuns (s : State) : Bool := s.seq.train.isSome || s.seq.eval.isSome

/-- RUN_PLANs issued and waiting (R237). -/
def planHeld (s : State) : Bool := !s.seq.held.isEmpty

/-- QUIET of SEQ_PLAN_STATUS (R260). -/
def quiet (s : State) : Bool := !planRuns s && !planHeld s && s.seq.copies.all (fun c => !c.running) && s.seq.trans.isNone

/-- The running transition changes a Quiesce field: the part stays quiet until it has switched (R256; log 71). -/
def quiesceRuns (s : State) : Bool :=
  match s.seq.trans with
  | none => false
  | some t => t.vals.any fun p => match regDecode p.1 with
    | some (n, i, j) => Nat.land (Nat.xor p.2.toNat (s.rd n i j)) (regInfo n).qu != 0
    | none => false

/-- The parity of the epoch that a block tags its traffic with (R258). -/
def blockTag (s : State) (b : EpochBlock) : Nat :=
  match s.seq.trans with
  | none => s.seq.epoch % 2
  | some t => (if t.left.contains b then s.seq.epoch else s.seq.epoch + 1) % 2

/-! ### Stream counters (R231, R232) -/

/-- The offset is a counter register of a stream whose class is TRAIN, or EVAL. -/
def isCtrOf (s : State) (eval : Bool) (o : Nat) : Bool :=
  decide (0xE80000 ≤ o) && decide (o < 0xEA0000) && (o % 32 == 8 || o % 32 == 16)
    && (bit (s.rd .rngCfg ((o - 0xE80000) / 32)) 30 == eval)

/-- The counters of one class as they stand. -/
def ctrSnap (s : State) (eval : Bool) : NMap W64 := mapKeep (isCtrOf s eval) s.regs

/-- Restore the counters of one class. -/
def ctrRestore (s : State) (eval : Bool) (snap : NMap W64) : State :=
  { s with regs := snap.foldl (fun m p => mapIns m p.1 p.2) (mapKeep (fun o => !isCtrOf s eval o) s.regs) }

/-- A stream's 128-bit counter. -/
def streamCtr (s : State) (n : Nat) : Nat := s.rd .rngCtrLo n + 2 ^ 64 * s.rd .rngCtrHi n

/-- Advance a stream's counter. -/
def streamAdvance (s : State) (n k : Nat) : State :=
  let c := (streamCtr s n + k) % 2 ^ 128
  (s.wr .rngCtrLo n 0 (c % 2 ^ 64)).wr .rngCtrHi n 0 (c / 2 ^ 64)

/-! ### Pins (R215) -/

/-- Add to the pin count of one copy of a region. -/
def pinAdd (s : State) (n copy : Nat) : State :=
  let r := getRegion s n
  setRegion s n (if copy = 0 then { r with pins0 := r.pins0 + 1 } else { r with pins1 := r.pins1 + 1 })

def pinDrop (s : State) (n copy : Nat) : State :=
  let r := getRegion s n
  setRegion s n (if copy = 0 then { r with pins0 := r.pins0 - 1 } else { r with pins1 := r.pins1 - 1 })

/-- Release every pin of a list. -/
def pinsDrop (s : State) (l : List (Nat × Nat × Nat)) : State := l.foldl (fun s p => pinDrop s p.2.1 p.2.2) s

/-- No region stalls on a FREE write any more. -/
def clearStalls (s : State) (l : List Nat) : State :=
  l.foldl (fun s n => setRegion s n { getRegion s n with stall := false }) s

/-! ### Ending a RUN_PLAN -/

/-- INFO of a RUN_PLAN's completion (R339). -/
def planInfo (s : State) (iid : Nat) (p : PlanRun) : Bytes :=
  match getIssued s iid with
  | none => []
  | some c => deltaInfo s c.ras0 ++ natLe 1 (b2n p.reused + 2 * (p.retries % 8)) ++ [0]

/-- Failures that count for the automatic snapshot interval (R406). -/
def countAutoFail (s : State) (k : PlanKind) (status : Nat) : State :=
  if k = .training && bit (s.rd .snpAuto) 63
      && (status == stCheckFailed || status == stAnchorOverflow || status == stPeerUnreachable) then
    { s with snp := { s.snp with fails := s.snp.fails + 1 } }
  else s

/-- The key of what a tile's arrays hold: n below 8 is the task in accumulation slot n, 8 + a the task reserved for array a
(R90, R99). -/
def daKey (t n : Nat) : Nat := 12 * t + n
def daTile (key : Nat) : Nat := key / 12
def daNo (key : Nat) : Nat := key % 12

/-- The engines drop what they hold of a plan: tasks and the slots they fold into. -/
def dropEngines (s : State) (k : PlanKind) : State :=
  let mine := s.das.filter fun p => p.2.k == k
  let s := mine.foldl (fun s p => if daNo p.1 < 8 then accClear s (daTile p.1) p.2.slot else s) s
  let own := match getPlan s k with
    | some p => match p.phase with | some f => f.owned | none => []
    | none => []
  let s := own.foldl (fun s o => match o.slot with | some n => accClear s o.tile n | none => s) s
  { s with das := s.das.filter fun p => p.2.k != k, ves := s.ves.filter fun p => p.2.k != k,
           gath := if (match getPlan s k with | some p => (match p.phase with | some f => f.waits.isEmpty | none => false) | none => false)
             then [] else s.gath }

/-- An entry at its identity. -/
def freshMail (kinds : List Nat) (n : Nat) : Mail := { kind := kinds.getD n 0xFF }

def getMail (p : PlanRun) (n : Nat) : Mail := ((p.mail.find? fun q => q.1 == n).map Prod.snd).getD (freshMail p.summKind n)

/-- The plan of kind k leaves the sequencers, and its mailbox keeps what its entries hold (R151): its pins are
released, its stalls end, and anchor messages of its step leave the buffer (R215, R216, R367). -/
def leavePlan (s : State) (k : PlanKind) (p : PlanRun) : State :=
  let s := pinsDrop (dropEngines s k) p.pins
  let s := clearStalls s (match p.phase with | some f => f.waits | none => [])
  let other := match getPlan s (match k with | .training => .eval | .eval => .training) with | some q => q.step == p.step | none => false
  let s := if other then s
    else { s with fab := { s.fab with anchors := s.fab.anchors.filter fun m => m.step != p.step % 2 ^ 32 } }
  let s := { s with mails := mapIns s.mails (2 * (match k with | .training => 0 | .eval => 1) + worldBit p.world) ((upTo 64).map fun n => (n, getMail p n)) }
  setPlan s k none

/-- The RUN_PLAN of kind k ends without a commit: the counters of its class return to their values before the step
(R216; log 20), and its completion is written. -/
def failPlan (s : State) (k : PlanKind) (status : Nat) : State :=
  match getPlan s k with
  | none => s
  | some p =>
    let s := ctrRestore s (k == .eval) p.ctr0
    let s := leavePlan s k p
    completeInfo (countAutoFail s k status) p.iid status (planInfo s p.iid p)

/-- The running snapshot ends: its tracking bits are cleared and its completion is written; an automatic one goes to ring
SNP_AUTO.CQ (R404, R406). -/
def endSnap (s : State) (status : Nat) : State :=
  match s.snp.cur with
  | none => s
  | some n =>
    let s := { s with snp := { s.snp with cur := none }, mem := mapClearRange s.mem 0x1C00000 0x1DE0000 }
    let e := s.snp
    let s := if status ≠ stOk then s
      else if s.seq.train.isSome then { s with snp := { e with openEnd := true } }
      else { s with snp := { e with cost := e.run, ever := true } }
    match n.iid with
    | some i => complete s i status
    | none =>
      let cq := s.rdf .snpAuto 0 0 13 0
      putCpl s { cq := cq, irq := false, seq := 0xFFFFFFFF, tag := n.step, status := status, src := cq, op := 0x0030,
                 info := deltaInfo s n.ras0 ++ [0, 0] }

/-- The work of a context ends with a status. -/
def failWork (s : State) (ctx : Ctx) (status : Nat) : State :=
  match ctx with
  | .plan k => failPlan s k status
  | .cmd iid => complete s iid status
  | .snap => endSnap s status
  | .other => s

end Sys2Proof.Machine
end

