-- ==== Sys2Proof/Machine/Fabric.lean ====
section
/-! DEFINITION. The Quodex Fabric's originating side (R356 to R366): packets, bundles, routes, the peer directory and its
cache, and sending messages. -/

namespace Sys2Proof.Machine

/-! ### Packets (R357) -/

/-- Header bytes 0 to 27. -/
def pktHead (x : FabPacket) : Bytes :=
  natLe 2 x.dst.toNat ++ natLe 2 x.src.toNat ++ [x.typ, x.flags, x.hops, x.attempt] ++ natLe 4 x.msg.toNat
    ++ natLe 2 x.seg.toNat ++ natLe 2 x.len.toNat ++ natLe 6 x.addr.toNat ++ natLe 2 x.key.toNat
    ++ natLe 2 x.step.toNat ++ [x.rsvd, x.pres]

/-- The 32 B header. -/
def pktHdr (x : FabPacket) : Bytes := pktHead x ++ natLe 4 x.hpar.toNat

def pktWorld (x : FabPacket) : World := worldOf (bit x.flags.toNat 0)
def pktBank (x : FabPacket) : Nat := bits x.flags.toNat 2 1
def pktLast (x : FabPacket) : Bool := bit x.flags.toNat 5

/-- HPAR, PRES, the reserved bits and LEN hold (R358). -/
def pktGood (x : FabPacket) : Bool :=
  x.hpar.toNat == xorWords 7 (pktHead x) && x.pres.toNat == residue x.payload && x.flags.toNat / 64 == 0
    && x.attempt.toNat / 8 == 0 && x.rsvd == 0 && x.payload.length == x.len.toNat && decide (x.len.toNat ≤ 2048)

/-- Every segment is good and in order, and all but the last are full (R358). -/
def segsGood : Nat → List FabPacket → Bool
  | _, [] => false
  | i, [x] => pktGood x && x.seg.toNat == i && pktLast x
  | i, x :: xs => pktGood x && x.seg.toNat == i && !pktLast x && x.len.toNat == 2048 && segsGood (i + 1) xs

/-- The payload of a message. -/
def msgBytes (m : List FabPacket) : Bytes := m.flatMap fun x => x.payload

/-! ### Errors and counters -/

/-- QXF_ERR captures the first failure since it was read (R380). -/
def qxfErrSet (s : State) (reason port typ src dst : Nat) : State :=
  if bit (s.rd .qxfErr) 63 then s
  else s.wr .qxfErr 0 0 (2 ^ 63 + reason * 2 ^ 60 + port * 2 ^ 54 + typ * 2 ^ 40 + src * 2 ^ 16 + dst)

/-- The device's own ID, when it is valid (R362). -/
def ownId (s : State) : Option Nat := let v := s.rd .qxfDevid; if bit v 31 then some (v % 65536) else none

/-! ### The peer directory (R363) -/

def peerAddr (id : Nat) : Nat := 0x1800000 + 64 * id
def peerFlags (s : State) (id : Nat) : Nat := fld (memBytes s (peerAddr id + 2) 1) 0 1
def peerValid (s : State) (id : Nat) : Bool := bit (peerFlags s id) 0
def peerAttested (s : State) (id : Nat) : Bool := bit (peerFlags s id) 1
def peerUnreachable (s : State) (id : Nat) : Bool := bit (peerFlags s id) 3

/-- Set or clear a flag of an entry. -/
def setPeerFlag (s : State) (id i : Nat) (b : Bool) : State :=
  setMem s (peerAddr id + 2) (natLe 1 (setBit (peerFlags s id) i b))

/-! ### Bundles and routes (R356, R360) -/

/-- A port's configuration as its block uses it. -/
def portCfg (s : State) (p : Nat) : Nat := blockVal s (.qxf (Fin.ofNat 64 p)) .qxfPortCfg p 0

/-- Active ports of a bundle, ascending. -/
def activePorts (s : State) (b : Nat) : List Nat :=
  (upTo 64).filter fun p =>
    bit (portCfg s p) 27 && bits (portCfg s p) 23 20 == b && (getLink s (.port p)).st == .active

/-- The hash of a packet's message. -/
def pktHash (x : FabPacket) : Nat :=
  Nat.xor (Nat.xor x.src.toNat x.dst.toNat) (Nat.xor (x.msg.toNat % 65536) (x.msg.toNat / 65536))

/-- The bundle that bank and device name: BUNDLE, or ALT when it is down; `none` when unroutable. -/
def routeBundle (s : State) (bank dst : Nat) : Option Nat :=
  let e := mapGet (fun _ => 0) s.fab.routes (bank * 65536 + dst)
  if !bit e 15 then none
  else if !(activePorts s (e % 16)).isEmpty then some (e % 16)
  else if bit e 14 && !(activePorts s (bits e 11 8)).isEmpty then some (bits e 11 8)
  else none

/-- The port a packet leaves on: the fixed bundle if it is up, else by the route table (R356, R360, R374). -/
def pickPort (s : State) (bundle : Option Nat) (x : FabPacket) : Option Nat :=
  let b := match bundle with
    | some b => if (activePorts s b).isEmpty then routeBundle s (pktBank x) x.dst.toNat else some b
    | none => routeBundle s (pktBank x) x.dst.toNat
  match b with
  | none => none
  | some b => let ps := activePorts s b; ps[pktHash x % ps.length]?

/-- A packet as it waits at its port, in its virtual channel (R355, R358). -/
def portMsg (ctx : Ctx) (bundle : Option Nat) (x : FabPacket) : TxMsg :=
  { cls := bits x.flags.toNat 4 3, data := (x.payload.length + 31) / 32, posted := true, ctx := ctx, use := .fabric x bundle,
    bytes := pktHdr x ++ x.payload }

/-- A packet that cannot be routed is dropped and counted, at the port it came in by, if it did (R360, R380). -/
def unroutable (s : State) (ctx : Ctx) (p : Nat) (x : FabPacket) : State :=
  dieEvent (qxfErrSet (cntAdd s .qxfCnt 3 0 1) 1 p x.typ.toNat x.src.toNat x.dst.toNat) ctx 35 (p / 16) 1

/-- Route packets of one message out, together, by the port that the first of them takes (R356, R360). -/
def routeAll (s : State) (ctx : Ctx) (bundle : Option Nat) (xs : List FabPacket) : State :=
  match xs with
  | [] => s
  | x :: _ => match pickPort s bundle x with
    | some p => linkSend s (.port p) (xs.map (portMsg ctx bundle))
    | none => xs.foldl (fun s x => unroutable s ctx 0 x) s

/-- Route a packet out. -/
def routeOut (s : State) (ctx : Ctx) (bundle : Option Nat) (x : FabPacket) : State := routeAll s ctx bundle [x]

/-- A port has left ACTIVE: messages it has not started go to other ports, by their bundles (R356). -/
def spreadHold (s : State) (p : Nat) : State :=
  let l := getLink s (.port p)
  let starts := fun (m : TxMsg) => match m.use with | .fabric x _ => some (x.src, x.msg) | _ => none
  let fresh := l.hold.filterMap fun m => match m.use with | .fabric x b => if x.seg = 0 then some (x.src, x.msg, m.ctx, b) else none | _ => none
  let moves := fun (m : TxMsg) => fresh.any fun q => starts m == some (q.1, q.2.1)
  let s := setLink s (.port p) { l with hold := l.hold.filter fun m => !moves m }
  fresh.foldl (fun s q =>
    routeAll s q.2.2.1 q.2.2.2 (l.hold.filterMap fun m => match m.use with
      | .fabric x _ => if (x.src, x.msg) == (q.1, q.2.1) then some x else none
      | _ => none)) s

/-! ### Messages (R358) -/

/-- What a message carries. -/
structure MsgReq where
  peer    : Nat
  typ     : Nat
  vc      : Nat
  key     : Nat := 0
  addr    : Nat := 0
  world   : World
  ctx     : Ctx
  bundle  : Option Nat := none
  payload : Bytes
  mirror  : Bool := false
  seed    : Option (Nat × Nat) := none
  sync    : Bool := false
  into    : Nat := 0
  /-- an answer carries the asker's message number -/
  msg     : Option Nat := none
  deriving DecidableEq, Repr

/-- A packet with its parity. -/
def mkPacket (s : State) (q : MsgReq) (own msg i : Nat) (last : Bool) (pay : Bytes) : FabPacket :=
  let x : FabPacket :=
    { dst := BitVec.ofNat 16 q.peer, src := BitVec.ofNat 16 own, typ := BitVec.ofNat 8 q.typ,
      flags := BitVec.ofNat 8 (worldBit q.world + 2 * (ownBank s) + 8 * q.vc + 32 * b2n last),
      hops := 16, attempt := BitVec.ofNat 8 (ctxAttempt s q.ctx % 8), msg := BitVec.ofNat 32 msg,
      seg := BitVec.ofNat 16 i, len := BitVec.ofNat 16 pay.length, addr := BitVec.ofNat 48 q.addr,
      key := BitVec.ofNat 16 q.key, step := BitVec.ofNat 16 (ctxStep s q.ctx), rsvd := 0,
      pres := BitVec.ofNat 8 (residue pay), hpar := 0, payload := pay }
  { x with hpar := BitVec.ofNat 32 (xorWords 7 (pktHead x)) }

/-- Number the segments. -/
def numberSegs (f : Nat → Bool → Bytes → FabPacket) : Nat → List Bytes → List FabPacket
  | _, [] => []
  | i, [p] => [f i true p]
  | i, p :: ps => f i false p :: numberSegs f (i + 1) ps

/-- The segments of a payload; an empty one takes a single empty segment. -/
def segments (pay : Bytes) : List Bytes := if pay.isEmpty then [[]] else chunk 2048 (pay.length / 2048 + 1) pay

/-- TYPE values that a DONE or a RESPONSE answers. -/
def awaitsDone (typ : Nat) : Bool := [0x01, 0x02, 0x04, 0x06, 0x07, 0x08].contains typ

/-- Send a message's packets and keep it while its answer is out. -/
def transmit (s : State) (m : OutMsg) : State :=
  let s := cntAdd s .qxfCnt 0 0 1
  let s := routeAll s m.ctx m.bundle m.packets
  if m.awaits then { s with fab := { s.fab with out := s.fab.out ++ [m] } } else s

/-- Messages to a peer without their answer. -/
def outstanding (s : State) (peer : Nat) : Nat := (s.fab.out.filter fun m => m.peer == peer).length

/-- The entry is in the peer cache, and becomes the most recently used (R364). -/
def cacheTouch (s : State) (peer : Nat) : State :=
  { s with fab := { s.fab with cache := peer :: s.fab.cache.filter (· != peer) } }

/-- Why a message cannot be sent, or that it was sent or waits. -/
inductive SendRes where
  | ok
  | unreachable
  | denied
  deriving DecidableEq, Repr

/-- The checks at the originator: own ID, a valid and reachable peer, attestation for the secure world (R359, R362, R363,
R365). -/
def sendCheck (s : State) (peer : Nat) (w : World) : SendRes :=
  if (ownId s).isNone || !peerValid s peer || peerUnreachable s peer then .unreachable
  else if w = .s && !peerAttested s peer then .denied
  else .ok

/-- Originate a message: transmitted at once, or waiting for its peer's cache entry or for one of 256 places (R358,
R364). -/
def sendMsg (s : State) (q : MsgReq) : State × SendRes :=
  match sendCheck s q.peer q.world with
  | .ok =>
    let own := (ownId s).getD 0
    let no := q.msg.getD s.fab.nextMsg
    let s1 := if q.msg.isSome then s
      else { s with fab := { s.fab with nextMsg := (s.fab.nextMsg + 1) % 2 ^ 32 } }
    let m : OutMsg :=
      { peer := q.peer, msg := no,
        packets := numberSegs (mkPacket s q own no) 0 (segments q.payload), ctx := q.ctx, bundle := q.bundle,
        awaits := awaitsDone q.typ, mirror := q.mirror, seed := q.seed, sync := q.sync, into := q.into }
    if !s1.fab.cache.contains q.peer then
      let s2 := if s1.fab.queued.any fun o => o.peer == q.peer then s1 else cntAdd s1 .qxfCnt 4 0 1
      ({ s2 with fab := { s2.fab with queued := s2.fab.queued ++ [m] } }, .ok)
    else if m.awaits && (decide (256 ≤ outstanding s1 q.peer) || s1.fab.queued.any fun o => o.peer == q.peer) then
      ({ s1 with fab := { s1.fab with queued := s1.fab.queued ++ [m] } }, .ok)
    else (transmit (cacheTouch s1 q.peer) m, .ok)
  | r => (s, r)

/-- Send what waited for a peer, as far as 256 places allow. -/
def flushQueued (peer : Nat) : Nat → State → State
  | 0, s => s
  | n + 1, s =>
    if !s.fab.cache.contains peer || decide (256 ≤ outstanding s peer) then s
    else match takeFirst (fun m : OutMsg => m.peer == peer) s.fab.queued with
      | none => s
      | some (m, rest) => flushQueued peer n (transmit (cacheTouch { s with fab := { s.fab with queued := rest } } peer) m)

/-- The entry of a peer comes into the cache, in place of the least recently used one beyond 4,096, and what waited for it goes on
(R364). -/
def cacheFill (s : State) (peer : Nat) : State :=
  flushQueued peer (s.fab.queued.length + 1) { s with fab := { s.fab with cache := (peer :: s.fab.cache).take 4096 } }

/-- A message from a peer uses its entry: a miss is counted, unless the fetch is under way, and the message waits for it (R364). -/
def peerSeen (s : State) (peer : Nat) : State :=
  if s.fab.cache.contains peer then cacheTouch s peer
  else cacheFill (if s.fab.queued.any fun o => o.peer == peer then s else cntAdd s .qxfCnt 4 0 1) peer

/-- What the checks of a received message decide (R358, R359, R363). -/
inductive Verdict2 where
  | perform
  | drop
  | refuse
  deriving DecidableEq, Repr

/-- The checks of a message's source: its directory entry is valid, and attested for the secure world (R359, R363). -/
def peerCheck (s : State) (p typ src dst : Nat) (w : World) : State × Verdict2 :=
  let s := peerSeen s src
  if !peerValid s src then (rasBump (cntAdd (qxfErrSet s 6 p typ src dst) .qxfCnt 7 0 1) 72 (p / 16) 1, .drop)
  else if w == .s && !peerAttested s src then
    (rasBump (cntAdd (qxfErrSet s 3 p typ src dst) .qxfCnt 7 0 1) 71 (p / 16) 1, .refuse)
  else (s, .perform)

/-- The peer can take a copy: it is known, reachable and routed (R163). -/
def peerRoutable (s : State) (peer bank : Nat) : Bool :=
  sendCheck s peer .ns == .ok && (routeBundle s bank peer).isSome

/-- A WRITE of one contiguous run to a peer, cut into messages of 64 KiB (R358). -/
def sendRun (s : State) (peer : Nat) (w : World) (ctx : Ctx) (a : Nat) : List Bytes → State × SendRes
  | [] => (s, .ok)
  | b :: bs =>
    match sendMsg s { peer := peer, typ := 0x01, vc := 2, addr := a, world := w, ctx := ctx, payload := b } with
    | (s, .ok) => sendRun s peer w ctx (a + b.length) bs
    | r => r

/-- A READ of `n` bytes at the peer's address `a`; its payload is the length in 4 bytes (log 21). -/
def sendRead (s : State) (peer : Nat) (w : World) (ctx : Ctx) (a n into : Nat) : State × SendRes :=
  sendMsg s { peer := peer, typ := 0x02, vc := 0, addr := a, world := w, ctx := ctx, payload := natLe 4 n, into := into }

/-- A DONE to a peer (R358). -/
def sendDone (s : State) (peer : Nat) (w : World) (msg status : Nat) : State :=
  (sendMsg s { peer := peer, typ := 0x09, vc := 1, world := w, ctx := .other,
               payload := natLe 4 msg ++ natLe 1 status ++ zeroBytes 11, msg := some msg }).1

/-- A PROBE to a peer, sent even while it is marked unreachable (R365). -/
def sendProbe (s : State) (peer : Nat) : State :=
  match ownId s with
  | none => s
  | some own =>
    let q : MsgReq := { peer := peer, typ := 0x0A, vc := 3, world := .ns, ctx := .other, payload := [] }
    let x := mkPacket s q own s.fab.nextMsg 0 true []
    routeOut { s with fab := { s.fab with nextMsg := (s.fab.nextMsg + 1) % 2 ^ 32 } } .other none x

end Sys2Proof.Machine
end

