-- ==== Sys2Proof/Machine/Route.lean ====
section
/-! DEFINITION. Paths over the on-die mesh (R294, R295, R306, R313), the epoch that a packet's tag names (R258), and packets lost on
their way (R305, R307, R314). -/

namespace Sys2Proof.Machine

/-- The router of an endpoint code (R294, R313); `none` is no endpoint. -/
def endpointTile (e : Nat) : Option Nat :=
  if e < 1536 then some e
  else if 0x800 ≤ e && e < 0x820 then some (epTile (e - 0x800))
  else if 0x900 ≤ e && e < 0x940 then some (epTile (32 + (e - 0x900)))
  else if 0xA00 ≤ e && e < 0xA10 then some (epTile (96 + (e - 0xA00)))
  else if 0xB00 ≤ e && e < 0xB04 then some (epTile (112 + (e - 0xB00)))
  else if e = 0xC00 then some (epTile 116)
  else if e = 0xD00 then some (epTile 117)
  else none

def tileX (t : Nat) : Nat := t % 48
def tileY (t : Nat) : Nat := t / 48

/-- The numbers passed going from a to b, without a. -/
def span (a b : Nat) : List Nat :=
  if a ≤ b then (upTo (b - a)).map (a + 1 + ·) else (upTo (a - b)).map (a - 1 - ·)

/-- Routers from a to b in dimension order, first along x and then along y (R295). -/
def meshPath (a b : Nat) : List Nat :=
  a :: (span (tileX a) (tileX b)).map (fun x => tileId x (tileY a))
    ++ (span (tileY a) (tileY b)).map (fun y => tileId (tileX b) y)

/-- The rectangle of a detour entry holds a tile. -/
def inRect (x0 y0 x1 y1 t : Nat) : Bool :=
  decide (x0 ≤ tileX t) && decide (tileX t ≤ x1) && decide (y0 ≤ tileY t) && decide (tileY t ≤ y1)

/-- The value of a shadowed register for traffic tagged with an epoch's parity: in a transition the old one for the old epoch's,
the committed one for the new epoch's (R258). -/
def taggedVal (s : State) (tag : Nat) (n : RegName) (i j : Nat) : Nat :=
  match s.seq.trans with
  | none => s.rd n i j
  | some t =>
    if tag = s.seq.epoch % 2 then s.rd n i j
    else match mapGet (fun _ => none) (t.vals.map fun p => (p.1, some p.2)) (regOff n i j) with
      | some v => shadowMerge n (s.rd n i j) v.toNat
      | none => s.rd n i j

/-- The first entry of a die's bank that holds source and destination gives the waypoint (R306, R312). -/
def detourOf (s : State) (tag d bank src dst : Nat) : Option Nat :=
  ((upTo 64).find? fun e =>
    let v := taggedVal s tag .mshDetour (4 * d + bank) e
    bit v 63 && inRect (bits v 18 13) (bits v 12 8) (bits v 29 24) (bits v 23 19) src
      && inRect (bits v 40 35) (bits v 34 30) (bits v 51 46) (bits v 45 41) dst).map fun e =>
    bits (taggedVal s tag .mshDetour (4 * d + bank) e) 62 52

/-- The path of a packet: to its waypoint on NET 0 and on from there on NET 1, if it is detoured (R306). -/
def routePath (s : State) (tag bank src dst : Nat) : List Nat × Bool :=
  match detourOf s tag (tileDie src) bank src dst with
  | some w => (meshPath src w ++ (meshPath w dst).drop 1, true)
  | none => (meshPath src dst, false)

/-- A router's links are down: it is fenced, or there is none (R306). -/
def routerDown (s : State) (r : Nat) : Bool := rtrFenced s r || decide (1536 ≤ r)

/-- Routers of a path up to the first that is down; a fenced router forwards nothing, its own tile's packets included. -/
def clearPath (s : State) (p : List Nat) : List Nat := p.takeWhile fun r => !routerDown s r

/-- The router where a packet that cannot go on is discarded: the one upstream of the link that is down (R307). -/
def stopRouter (s : State) (p : List Nat) : Nat := (clearPath s p).getLastD (p.headD 0)

/-- MSH_ERR captures the first failure since it was read (R314). -/
def meshErrAt (s : State) (reason tile src dest : Nat) : State :=
  if bit (s.rd .mshErr) 63 then s
  else s.wr .mshErr 0 0 (2 ^ 63 + reason * 2 ^ 60 + tile * 2 ^ 32 + src * 2 ^ 16 + dest)

/-- Packets discarded at a router: class 33 (MESH_UNROUTABLE, R307) or 32 (FENCED_DROP, R305). -/
def meshLost (s : State) (ctx : Ctx) (cls reason tile src dest n : Nat) : State :=
  if n = 0 then s else tileEvent (cntAdd (meshErrAt s reason tile src dest) .mshCnt (tileDie tile) 6 n) ctx cls tile n

/-- The endpoint that an address lies behind (R294). -/
def addrEndpoint (s : State) (a : Nat) : Option Nat :=
  match areaOf s a with
  | .sram t _ => some t
  | .acc t _ => some t
  | .dram => some (0x800 + physChan s a / 4)
  | .sys => some (0x800 + physChan s a / 4)
  | _ => none

/-- Some router is fenced. -/
def anyRouterDown (s : State) : Bool := (upTo 24).any fun k => s.rd .mshFenceRtr k != 0

/-- The router at which a packet of the part's own traffic from one endpoint to another stops, if its way is not clear. -/
def pathStop (s : State) (src dst : Nat) : Option Nat :=
  if !anyRouterDown s then none
  else match endpointTile src, endpointTile dst with
    | some a, some b =>
      let p := (routePath s (blockTag s (.die (Fin.ofNat 4 (tileDie a)))) (ownBank s) a b).1
      if (clearPath s p).length < p.length then some (stopRouter s p) else none
    | _, _ => none

/-- What becomes of an access to an address from endpoint `src` whose packets do not arrive: they are discarded at the fenced
tile's router, or where their way, or for a read the answer's, is down (R304, R305, R307). -/
def accessLost (s : State) (ctx : Ctx) (src : Nat) (wr : Bool) (a : Nat) : Option State :=
  match addrEndpoint s a with
  | none => none
  | some d =>
    if d < 1536 && tileOut s d then some (meshLost s ctx 32 4 d src d 1)
    else match (pathStop s src d).or (if wr then none else pathStop s d src) with
      | some r => some (meshLost s ctx 33 3 r src d 1)
      | none => none

end Sys2Proof.Machine
end

