-- ==== Sys2Proof/Machine/Dev.lean ====
section
/-! DEFINITION. Writes of device memory as every engine makes them: permission, declared ranges (R244), copy-on-write
(R403), mirroring (R395, R396), the state digest (R408); and reading and writing whole blocks (R81 to R87). -/

namespace Sys2Proof.Machine

/-! ### Digest lanes (R404, R408) -/

/-- rot of R56: a rotation of a residue is a multiplication by a power of two mod 255. -/
def rotRes (r n : Nat) : Nat := r * 2 ^ n % 255

/-- One 32 B granule's contribution to its lane. -/
def digestGran (l : List Nat) (g : Nat) (v : Bytes) : List Nat :=
  l.set (g % 8) ((l.getD (g % 8) 0 + rotRes (residue v) (g / 8 % 8)) % 255)

/-- The contributions of consecutive granules from number g on. -/
def digestGrans (l : List Nat) (g : Nat) : List Bytes → List Nat
  | [] => l
  | v :: vs => digestGrans (digestGran l g v) (g + 1) vs

/-- DIGEST as 8 bytes (R408). -/
def digestBytes (l : List Nat) : Bytes := l.map fun x => BitVec.ofNat 8 x

/-! ### Snapshot pages (R401 to R404) -/

/-- The tracking bit of a 64 KiB page (R267). -/
def trackAddr (page : Nat) : Nat := 0x1C00000 + page / 8
def tracked (s : State) (page : Nat) : Bool := bit (fld (memBytes s (trackAddr page) 1) 0 1) (page % 8)
def setTracked (s : State) (page : Nat) (b : Bool) : State :=
  setMem s (trackAddr page) (natLe 1 (setBit (fld (memBytes s (trackAddr page) 1) 0 1) (page % 8) b))

/-- Page numbers of a snapshot, in list order. -/
def snapPages (n : Snap) : List Nat := n.list.flatMap fun e => (upTo e.pages).map (e.addr / 65536 + ·)

/-- Position of a page in the image. -/
def pagePos (n : Snap) (page : Nat) : Option Nat := (snapPages n).findIdx? (· == page)

/-- The peer of a snapshot's destination: the twin or PEER. -/
def snapPeer (s : State) (kind peer : Nat) : Nat := if kind = 1 then s.rdf .qxfTwin 0 0 15 0 else peer

/-- Bytes of the image go to their place at DEST; an unreachable or refusing peer ends the snapshot. -/
def snapPut (s : State) (n : Snap) (off : Nat) (bs : Bytes) : State :=
  if n.kind = 0 then hostWrite s n.world (n.dest + off) bs
  else match sendRun s (snapPeer s n.kind n.peer) n.world .snap (n.dest + off) (chunk 65536 (bs.length / 65536 + 1) bs) with
    | (s, .ok) => s
    | (s, .unreachable) => endSnap s stPeerUnreachable
    | (s, .denied) => endSnap s stAccessDenied

/-- A page's content is sent, and enters the image digest (R404). -/
def snapSendPage (s : State) (page : Nat) (bs : Bytes) : State :=
  match s.snp.cur with
  | none => s
  | some n =>
    match pagePos n page with
    | none => s
    | some k =>
      let off := 0x20000 + 65536 * k
      let n := { n with digest := digestGrans n.digest (off / 32) (chunk 32 2048 bs) }
      snapPut { s with snp := { s.snp with cur := some n } } n off bs

/-- The oldest buffered page is sent and its buffer page freed. -/
def snapSendBuffered (s : State) : State :=
  match s.snp.cur with
  | none => s
  | some n =>
    match n.buffered with
    | [] => s
    | (page, slot) :: l =>
      let r := rawRead { s with snp := { s.snp with cur := some { n with buffered := l } } } .snap (n.cowBuf + 65536 * slot) 65536
      snapSendPage r.1 page r.2

/-- A free buffer page. -/
def cowSlot (n : Snap) : Option Nat := (upTo n.cowPages).find? fun k => n.buffered.all fun p => p.2 != k

/-- The first write to a page whose bit is set: the old content goes to a free buffer page, one being freed first if none
is, and the bit is cleared (R403). -/
def cowPage (s : State) (page : Nat) : State :=
  match s.snp.cur with
  | none => s
  | some n =>
    if !n.captured || !tracked s page then s
    else
      let s := rasBump s 76 (addrDie s (page * 65536)) 1
      let s := if (cowSlot n).isNone then snapSendBuffered s else s
      match s.snp.cur with
      | none => s
      | some n =>
        match cowSlot n with
        | none => setTracked s page false
        | some k =>
          let r := rawRead s .snap (page * 65536) 65536
          let s := rawWrite r.1 .snap (n.cowBuf + 65536 * k) r.2
          setTracked { s with snp := { s.snp with cur := some { n with buffered := n.buffered ++ [(page, k)] } } } page false

/-- Every page of [a, a+n). -/
def cowRange (s : State) (a n : Nat) : State :=
  if n = 0 then s
  else ((upTo ((a + n - 1) / 65536 - a / 65536 + 1)).map (a / 65536 + ·)).foldl cowPage s

/-! ### Mirroring (R394 to R397) -/

/-- Fields of a mirror entry. -/
def mirCfg (s : State) (n : Nat) : Nat := s.rd .mirRegCfg n
def mirOut (s : State) (n : Nat) : Bool := bit (mirCfg s n) 31 && !bit (mirCfg s n) 30
def mirSrc (s : State) (n : Nat) : Nat × Nat :=
  let b := s.rd .mirRegSrc n
  (b, b + 65536 * bits (mirCfg s n) 22 0)

/-- Page k of an entry has been sent by the seed, or the region is MIRRORED (R396). -/
def mirSent (s : State) (n k : Nat) : Bool :=
  bit (mirCfg s n) 28 || match s.mir.seeding.find? fun p => p.1 == n with
    | some p => decide (k < p.2)
    | none => false

/-- The entry that mirrors a write at `a`. -/
def mirEntry (s : State) (a : Nat) : Option Nat :=
  (upTo 64).find? fun n => mirOut s n && decide ((mirSrc s n).1 ≤ a) && decide (a < (mirSrc s n).2)

/-- The twin: the device that QXF_TWIN names, where it is VALID and its directory entry carries TWIN (R374). -/
def twinId (s : State) : Option Nat :=
  let v := blockVal s (.qxf 0) .qxfTwin 0 0
  let id := bits v 15 0
  if bit v 31 && bit (peerFlags s id) 2 then some id else none

/-- Send a MIRROR message of bytes written at `a` to the twin, if there is one (R374, R394). -/
def mirSend (s : State) (ctx : Ctx) (n a : Nat) (bs : Bytes) (seed : Option (Nat × Nat)) : State :=
  match twinId s with
  | none => s
  | some twin =>
    let w := if addrSecure s (ctxBlock ctx) a then World.s else World.ns
    (sendMsg s { peer := twin, typ := 0x07, vc := 2, world := w, ctx := ctx, addr := s.rd .mirRegDst n + (a - (mirSrc s n).1),
                 payload := bs, mirror := true, seed := seed, sync := !bit (mirCfg s n) 29, bundle := some (bits (blockVal s (.qxf 0) .qxfCtl 0 0) 31 28) }).1

/-- Mirror a performed write (R395). -/
def mirWrite (s : State) (ctx : Ctx) (a : Nat) (bs : Bytes) : State :=
  if !bit (s.rd .mirCtl) 31 || bit (s.rd .mirStatus) 63 then s
  else match mirEntry s a with
    | none => s
    | some n => if mirSent s n ((a - (mirSrc s n).1) / 65536) then mirSend s ctx n a bs none else s

/-- Mirror bytes awaiting DONE (R412). -/
def mirOutBytes (s : State) : Nat :=
  ((s.fab.out ++ s.fab.queued).filter fun m => m.mirror).map (fun m => (m.packets.map fun x => x.payload.length).sum) |>.sum

/-- The mirrored writes of a context are not performed yet: those of SYNC entries until their DONE, those of LAG entries while
OUTSTANDING reaches LAG_MAX (R395, log 178). -/
def mirHolds (s : State) (ctx : Ctx) : Bool :=
  let full := decide (max 1 (s.rdf .mirCtl 0 0 8 0) * 2 ^ 20 ≤ mirOutBytes s)
  (s.fab.out ++ s.fab.queued).any fun m => m.mirror && m.seed.isNone && m.ctx == ctx && (m.sync || full)

/-! ### The state digest of a step (R408) -/

/-- The free copy of region n is copy 1 - comm; its base. -/
def regionBase (r : Region) (copy : Nat) : Nat := if copy = 0 then r.base0 else r.base1

/-- The region whose free copy holds [a, a+n), with the offset. -/
def freeRegionOf (s : State) (a n : Nat) : Option (Nat × Nat) :=
  match s.seq.regions.find? fun p =>
      p.2.valid && decide (regionBase p.2 (1 - p.2.comm) ≤ a)
        && decide (a + n ≤ regionBase p.2 (1 - p.2.comm) + 65536 * p.2.size) with
  | some p => some (p.1, a - regionBase p.2 (1 - p.2.comm))
  | none => none

/-- The running phase writes region r through FREE role. -/
def freeRole (s : State) (r : Nat) : Bool :=
  match s.seq.train with
  | some p => match p.phase with | some f => f.free.contains r | none => false
  | none => false

/-- From the first FREE write of a region in a step, its free copy holds no version, and the commit will switch it (R214,
R217). -/
def freeBegins (s : State) (n : Nat) : State :=
  let r := getRegion s n
  let r := if r.comm = 0 then { r with v1 := none } else { r with v0 := none }
  modPlan (setRegion s n r) .training fun p => { p with written := (p.written ++ [n]).eraseDups }

/-- A training plan's write into a free copy enters its digest, by whole granules. -/
def digestWrite (s : State) (ctx : Ctx) (a n : Nat) : State :=
  match ctx with
  | .plan .training =>
    match freeRegionOf s a n with
    | none => s
    | some (r, o) =>
      let o0 := o / 32 * 32
      let vs := chunk 32 ((n + 63) / 32) (memBytes s (a - o % 32) ((o + n + 31) / 32 * 32 - o0))
      let s := if freeRole s r then freeBegins s r else s
      modPlan s .training fun p => { p with digest := digestGrans p.digest ((r * 2 ^ 38 + o0) / 32) vs }
  | _ => s

/-! ### Writes -/

/-- A write that is performed: copy-on-write first, then the bytes, the digest and the mirror. -/
def performWrite (s : State) (ctx : Ctx) (a : Nat) (bs : Bytes) : State :=
  let s := cowRange s a bs.length
  let s := rawWrite s ctx a bs
  let s := digestWrite s ctx a bs.length
  mirWrite s ctx a bs

/-- A write by an engine of world `w`: a denied one is dropped and counted (R419). -/
def devWrite (s : State) (w : World) (ctx : Ctx) (a : Nat) (bs : Bytes) (b : EpochBlock := ctxBlock ctx) : State :=
  if bs.isEmpty then s
  else if rangePermitted s w true a bs.length b then performWrite s ctx a bs
  else countDenied s (addrDie s a)

/-- A read cut at 64 KiB boundaries, so that each piece has one permission. -/
def devReadB (w : World) (ctx : Ctx) (b : EpochBlock) : Nat → State → Nat → Nat → State × Bytes
  | 0, s, _, _ => (s, [])
  | k + 1, s, a, n =>
    if n = 0 then (s, [])
    else
      let m := min n (65536 - a % 65536)
      let r := devRead s w ctx a m b
      let q := devReadB w ctx b k r.1 (a + m) (n - m)
      (q.1, r.2 ++ q.2)

/-- A write cut at 64 KiB boundaries. -/
def devWriteB (w : World) (ctx : Ctx) (b : EpochBlock) : Nat → State → Nat → Bytes → State
  | 0, s, _, _ => s
  | k + 1, s, a, bs =>
    if bs.isEmpty then s
    else
      let m := 65536 - a % 65536
      devWriteB w ctx b k (devWrite s w ctx a (bs.take m) b) (a + m) (bs.drop m)

/-- The same from a context's own block. -/
def devReadL (w : World) (ctx : Ctx) (k : Nat) (s : State) (a n : Nat) : State × Bytes := devReadB w ctx (ctxBlock ctx) k s a n
def devWriteL (w : World) (ctx : Ctx) (k : Nat) (s : State) (a : Nat) (bs : Bytes) : State :=
  devWriteB w ctx (ctxBlock ctx) k s a bs

/-! ### Declared ranges (R244) -/

/-- An engine's access in a plan: its operation's owner code. -/
structure Eng where
  w     : World
  ctx   : Ctx
  owner : Option Nat := none
  /-- the reading or writing tile -/
  tile  : Option Nat := none
  /-- the port a peer's access has come in by -/
  port  : Option PortNo := none
  deriving DecidableEq, Repr

/-- The block whose epoch an access is tagged with: its receiving port, its tile's die, or its context's (R258). -/
def engBlock (g : Eng) : EpochBlock :=
  match g.port, g.tile with
  | some p, _ => .qxf p
  | none, some t => .die (Fin.ofNat 4 (tileDie t))
  | none, none => ctxBlock g.ctx

/-- The access lies in a declared range of its operation, or has no operation. -/
def rangeOk (s : State) (g : Eng) (wr : Bool) (a n : Nat) : Bool :=
  match g.owner, g.ctx with
  | some o, .plan k => match getPlan s k with
    | some p => match p.phase with
      | some f => f.ranges.any fun r =>
          r.owner == o && (if wr then r.write else r.read) && decide (r.lo ≤ a) && decide (a + n ≤ r.hi)
      | none => true
    | none => true
  | _, _ => true

/-- An access outside the declared ranges is counted and ends the step (R244). -/
def rangeViol (s : State) (g : Eng) (a : Nat) : State :=
  match g.tile with
  | some t => tileEvent s g.ctx 27 t 1
  | none => dieEvent s g.ctx 27 (addrDie s a) 1

/-- The mesh endpoint an access comes from: a tile, a port, or the sequencers (R294; log 172). -/
def engEndpoint (g : Eng) : Nat :=
  match g.tile, g.port with
  | some t, _ => t
  | none, some p => 0x900 + p.val
  | none, none => 0xB00

/-- An engine's read: outside its ranges, and where its packets do not arrive, it returns 0. -/
def engRead (s : State) (g : Eng) (a n : Nat) : State × Bytes :=
  if !rangeOk s g false a n then (rangeViol s g a, zeroBytes n)
  else match accessLost s g.ctx (engEndpoint g) false a with
    | some s => (s, zeroBytes n)
    | none => devReadB g.w g.ctx (engBlock g) (n / 65536 + 2) s a n

/-- An engine's write: outside its ranges, and where its packets do not arrive, it is dropped. -/
def engWrite (s : State) (g : Eng) (a : Nat) (bs : Bytes) : State :=
  if !rangeOk s g true a bs.length then rangeViol s g a
  else match accessLost s g.ctx (engEndpoint g) true a with
    | some s => s
    | none => devWriteB g.w g.ctx (engBlock g) (bs.length / 65536 + 2) s a bs

/-! ### Address spaces and blocks -/

/-- Where a tensor lies: in the device, in host memory, or at a peer, of which the fetched bytes are here. -/
inductive Space where
  | dev
  | host
  | peer (id : Nat) (m : NMap Byte)
  deriving DecidableEq, Repr

/-- Store the bytes of an element. -/
def putBytes (m : NMap Byte) (a : Nat) : Bytes → NMap Byte
  | [] => m
  | b :: bs => putBytes (mapIns m a b) (a + 1) bs

/-- Where a byte fetched from a peer is kept. -/
def peerKey (id a : Nat) : Nat := 2 ^ 48 * (id + 1) + a

/-- Read bytes of a tensor.  A host access that cannot be made returns zeros; its caller has checked it before. -/
def spRead (s : State) (g : Eng) (sp : Space) (a n : Nat) : State × Bytes :=
  match sp with
  | .dev => engRead s g a n
  | .host => (s, hostBytes s a n)
  | .peer id m => (s, mapGetList memD m (peerKey id a) n)

/-- The status of work whose message could not be sent (R163, R365). -/
def sendStatus : SendRes → Nat
  | .ok => stOk
  | .unreachable => stPeerUnreachable
  | .denied => stAccessDenied

/-- Work goes on once its message is sent, and ends where it cannot be. -/
def sentOr (ctx : Ctx) (r : State × SendRes) : State :=
  match r.2 with
  | .ok => r.1
  | x => failWork r.1 ctx (sendStatus x)

/-- READs of [lo, hi) at a peer, in runs of 64 KiB; each run is kept where `peerKey` says. -/
def askRuns (s : State) (peer : Nat) (w : World) (ctx : Ctx) (g : Nat × Nat) : State × SendRes :=
  (upTo (cdiv (g.2 - g.1) 65536)).foldl (fun (z : State × SendRes) i =>
    let a := g.1 + 65536 * i
    match z.2 with
    | .ok => sendRead z.1 peer w ctx a (min 65536 (g.2 - a)) (peerKey peer a)
    | _ => z) (s, .ok)

/-- The messages of a contiguous run, at most 64 KiB each, until one cannot be sent (R358). -/
def sendRuns (g : Eng) (peer key : Nat) : List (Nat × Bytes) → State → State
  | [], s => s
  | x :: l, s =>
    match sendMsg s { peer := peer, typ := 0x01, vc := 2, key := key, addr := x.1, world := g.w, ctx := g.ctx, payload := x.2 } with
    | (s, .ok) => sendRuns g peer key l s
    | r => sentOr g.ctx r

/-- Write bytes of a tensor; a message to a peer carries `key` (log 21). -/
def spWrite (s : State) (g : Eng) (sp : Space) (key a : Nat) (bs : Bytes) : State :=
  match sp with
  | .dev => engWrite s g a bs
  | .host => hostWrite s g.w a bs
  | .peer id _ => sendRuns g id key ((chunk 65536 (bs.length / 65536 + 1) bs).zipIdx.map fun q => (a + 65536 * q.2, q.1)) s

/-- What was fetched of a peer's block follows the write of the block, for the copies of the work that come after. -/
def peerNote (s : State) (g : Eng) (sp : Space) (a : Nat) (bs : Bytes) : State :=
  match sp with
  | .peer id m =>
    if m.any fun q => q.1 == peerKey id a then
      let note := fun (iid : Nat) => modIssued s iid fun c => { c with fetched := putBytes c.fetched (peerKey id a) bs }
      match g.ctx with
      | .cmd iid => note iid
      | .plan k => match getPlan s k with | some p => note p.iid | none => s
      | _ => s
    else s
  | _ => s

/-- GBL_LAYOUT_ERR captures the first failed block read (R87). -/
def layoutCapture (s : State) (reason : Nat) (tile : Option Nat) (host : Bool) (a : Nat) : State :=
  if s.rdf .gblLayoutErr 0 0 63 60 ≠ 0 then s
  else s.wr .gblLayoutErr 0 0 (reason * 2 ^ 60 + (tile.getD 0x7FF) * 2 ^ 49 + b2n host * 2 ^ 48 + a % 2 ^ 48)

/-- A failed block read: captured, counted and reported; outside a step the command fails (R85). A reader that is no tile
(a merger, the router, a reduction window) counts at the die of the header's address (DESIGN CHOICE, log 133). -/
def layoutFail (s : State) (g : Eng) (sp : Space) (reason a : Nat) : State :=
  layoutEvent (layoutCapture s reason g.tile (sp == .host) a) g.ctx reason g.tile (if sp == .dev then addrDie s a else 0)

/-- A block of a zero payload needs none; the address and length of a block's payload (R61). -/
def payAddr (t : Td) (p : BlkPos) (h : Bytes) : Nat := superAddr t p + 8192 + 32 * fld h 68 4

/-- An engine may read `n` bytes at `a`: its declared ranges and the region table let it. -/
def spMay (s : State) (g : Eng) (sp : Space) (a n : Nat) : Bool :=
  sp != .dev || (rangeOk s g false a n && rangePermitted s g.w false a n (engBlock g))

/-- The header of a block, when its checks pass (R84). -/
def readHeaderAt (s : State) (g : Eng) (sp : Space) (t : Td) (p : BlkPos) : State × Option Bytes :=
  let a := hdrAddr t p
  let r := spRead s g sp a 128
  if !spMay s g sp a 128 then (r.1, none)
  else if hdrReason t r.2 ≠ 0 then (layoutFail r.1 g sp (hdrReason t r.2) a, none)
  else (r.1, some r.2)

/-- The payload of a block with a good header, of which `pre` has been fetched, and the block (R84, R85). A block of length 0
is read without a fetch (R71). -/
def readPayload (s : State) (g : Eng) (sp : Space) (t : Td) (p : BlkPos) (h : Bytes) (pre : Bytes := []) : State × Blk :=
  let n := fld h 72 4
  let a := payAddr t p h + pre.length
  let m := n - pre.length
  let q := if m = 0 then (s, []) else spRead s g sp a m
  if m ≠ 0 && !spMay s g sp a m then (q.1, zeroBlk t)
  else if payloadReason h (pre ++ q.2) ≠ 0 then (layoutFail q.1 g sp (payloadReason h (pre ++ q.2)) (hdrAddr t p), zeroBlk t)
  else (q.1, decodeBlk t h (pre ++ q.2))

/-- Read one block (R84, R85); a failed one reads as ZERO. -/
def readBlock (s : State) (g : Eng) (sp : Space) (t : Td) (p : BlkPos) : State × Blk :=
  match readHeaderAt s g sp t p with
  | (s, none) => (s, zeroBlk t)
  | (s, some h) => readPayload s g sp t p h

/-- The header of a block in device memory. -/
def readHeader (s : State) (g : Eng) (t : Td) (p : BlkPos) : State × Option Bytes := readHeaderAt s g .dev t p

/-- The agent that owns a block's header address, and makes its read-modify-writes: the tile of its SRAM, or no tile, the
LPDDR5X controller's merger (R82, R87). -/
def ownerTile (s : State) (a : Nat) : Option Nat :=
  match areaOf s a with
  | .sram t _ => some t
  | _ => none

/-- Count R44 substitutions at a die (class 69). -/
def countSubst (s : State) (d n : Nat) : State := if n = 0 then s else rasBump s 69 d n

/-- KEY of a block message: the superblock index of its block (log 21). -/
def blockKey (p : BlkPos) : Nat := 0x8000 + blkIndex p

/-! ### Reduction windows (R370 to R372) -/

/-- The element format of a window's mode. -/
def winFmt (m : Nat) : Nat := if m = 0 then 0x30 else if m = 1 then 0x04 else 0x06

def winSuper (w : Window) : Nat := 8192 + 64 * denseSize (winFmt w.mode)

/-- The window that holds an address, with the number of the block whose header lies there. -/
def windowAt (s : State) (a : Nat) : Option (Nat × Window × Nat) :=
  match s.fab.windows.find? fun p => p.2.valid && decide (p.2.base ≤ a) && decide (a < p.2.base + 4096 * p.2.size) with
  | none => none
  | some (n, w) =>
    let o := a - w.base
    let r := o % winSuper w
    if r < 8192 && r % 128 == 0 then some (n, w, o / winSuper w * 64 + r / 128) else none

/-- The count of a block. -/
def winCount (s : State) (w : Window) (k : Nat) : Nat := fld (memBytes s (w.counts + 2 * k) 2) 0 2

def setWinCount (s : State) (w : Window) (k v : Nat) : State := setMem s (w.counts + 2 * k) (natLe 2 v)

/-- The window's tensor as one superblock per row position, and the place of block k. -/
def winTd (w : Window) (k : Nat) : Td × BlkPos :=
  ({ base := w.base + winSuper w * (k / 64), fmt := winFmt w.mode, world := w.world, ndim := 2,
     ext := [256, 256, 1, 1, 1], stride := [0, 0, 0, 0, 0] }, ⟨k % 8, k % 64 / 8, 0, 0, 0⟩)

/-- Element-wise exact addition of long partials; the flags count anchor mismatches and overflows (R52, R371). -/
def lpsAdd (a b : Nat → Lp) : List Lp × Nat × Nat :=
  let r := (upTo 1024).map fun n => lpAdd (a n) (b n)
  (r.map Prod.fst, (r.filter fun x => x.2.1).length, (r.filter fun x => x.2.2).length)

/-- The RNE sum of two values in a floating format. -/
def valAdd (a b : Val) : Val :=
  match a, b with
  | .nan, _ => .nan
  | _, .nan => .nan
  | .inf x, .inf y => if x == y then .inf x else .nan
  | .inf x, _ => .inf x
  | _, .inf y => .inf y
  | .fin m e, .fin n f =>
    let g := if e < f then e else f
    .fin (m * (2 ^ (e - g).toNat : Nat) + n * (2 ^ (f - g).toNat : Nat)) g

/-- Write one block of a FIXED tensor (R81): payload, then header; wholly or not at all (R419). -/
def putBlock (s : State) (g : Eng) (sp : Space) (t : Td) (p : BlkPos) (b : Blk) : State :=
  let r := buildBlk t b (fixedPoff t (blkIndex p))
  let a := hdrAddr t p
  let pa := superAddr t p + 8192 + 32 * fixedPoff t (blkIndex p)
  if sp == .host then hostWrite (if r.2.isEmpty then s else hostWrite s g.w pa r.2) g.w a r.1
  else if sp != .dev then peerNote (peerNote (spWrite s g sp (blockKey p) a (r.1 ++ r.2)) g sp a r.1) g sp pa r.2
  else if !rangeOk s g true a 128 || (!r.2.isEmpty && !rangeOk s g true pa r.2.length) then rangeViol s g a
  else if !rangePermitted s g.w true a 128 (engBlock g) || !rangePermitted s g.w true pa (max 1 r.2.length) (engBlock g) then
    countDenied s (addrDie s a)
  else engWrite (engWrite s g pa r.2) g a r.1

/-- The stored block and its new contribution make the new block (R371, R372); the sum of two negative zeros is one. -/
def winMerge (w : Window) (old new : Blk) : Blk × Nat × Nat :=
  if w.mode = 0 then
    let r := lpsAdd (blkLp old) (blkLp new)
    ({ fmt := 0x30, lps := r.1 }, r.2.1, r.2.2)
  else
    let b := (encodeVals (winTd w 0).1 .rne (fun _ => 0) (fun _ => true) fun n => valAdd (blkVal old n) (blkVal new n)).1
    let z := 2 ^ (fmtBits b.fmt - 1)
    let els := b.els.mapIdx fun n c => if old.els.getD n 0 = z && new.els.getD n 0 = z then z else c
    ({ b with els := els }, 0, 0)

/-- A final block of an ORDERED window goes to NEXT as a RED message (R372). -/
def winForward (s : State) (n : Nat) (w : Window) (k : Nat) (b : Blk) : State :=
  if w.mode = 0 || some w.next == ownId s then s
  else
    let t := winTd w k
    let r := buildBlk t.1 b (fixedPoff t.1 (blkIndex t.2))
    let ctx : Ctx := if s.seq.train.isSome then .plan .training else .other
    sentOr ctx (sendMsg s { peer := w.next, typ := 0x04, vc := 2, key := n, addr := hdrAddr t.1 t.2, world := w.world,
                            ctx := ctx, payload := r.1 ++ r.2 })

/-- The operation of an owner code of R244. -/
def selOf (o : Nat) : OpSel := if o = 0 then .dense else if o = 1 then .gme else if o = 2 then .ve else .route

/-- What QXF_ERR captures of a block that this device's own engine writes: no port, and this device. -/
def ownWho (s : State) : Nat × Nat × Nat × Nat := (0, 0x04, (ownId s).getD 0, (ownId s).getD 0)

/-- A contribution to block k of window n (R370 to R372). A stored block that fails its checks fails the running step's
(R85). Where the sum overflows, the PINNED anchors of the operation `op` that contributes rise in a replay (R54). -/
def contribute (s : State) (n : Nat) (w : Window) (k : Nat) (b : Blk) (op : Option Nat) (who : Nat × Nat × Nat × Nat) : State :=
  let ctx : Ctx := if s.seq.train.isSome then .plan .training else .other
  let g : Eng := { w := w.world, ctx := .other }
  let t := winTd w k
  let rd : Eng := { w := w.world, ctx := ctx, tile := ownerTile s (hdrAddr t.1 t.2) }
  let c := winCount s w k
  if w.ncontrib ≤ c then dieEvent (qxfErrSet s 4 who.1 who.2.1 who.2.2.1 who.2.2.2) ctx 38 (addrDie s (hdrAddr t.1 t.2)) 1
  else
    let r := if c = 0 then (s, b, 0, 0)
      else let q := readBlock s rd .dev t.1 t.2; (q.1, winMerge w q.2 b)
    let d := addrDie s (hdrAddr t.1 t.2)
    let s := dieEvent (dieEvent r.1 ctx 22 d r.2.2.1) ctx 23 d r.2.2.2
    let s := match ctx, op with
      | .plan q, some o => if r.2.2.2 = 0 then s else noteOvf s q (selOf o)
      | _, _ => s
    let s := setWinCount (putBlock s g .dev t.1 t.2 r.2.1) w k (c + 1)
    if c + 1 = w.ncontrib then winForward s n w k r.2.1 else s

/-- Write one block: a write of a whole block into a reduction window is a contribution (R370). -/
def writeBlockAt (s : State) (g : Eng) (sp : Space) (t : Td) (p : BlkPos) (b : Blk) : State :=
  match (if sp == .dev then windowAt s (hdrAddr t p) else none) with
  | some (n, w, k) => contribute s n w k b g.owner (ownWho s)
  | none => putBlock s g sp t p b

/-- A block of a window can be read once every contribution has come (R370). -/
def windowReady (s : State) (a : Nat) : Bool :=
  match windowAt s a with
  | none => true
  | some (_, w, k) => winCount s w k == w.ncontrib

/-- The same in device memory. -/
def writeBlock (s : State) (g : Eng) (t : Td) (p : BlkPos) (b : Blk) : State := writeBlockAt s g .dev t p b

/-- Write a whole PACKED superblock of 64 blocks in ascending b (R61, R83); the flag says whether the payloads fit CAP. -/
def packBlocks (t : Td) (b : Nat → Blk) : Nat → Nat → Nat → Bytes → Bytes → Option (Bytes × Bytes)
  | 0, _, _, hs, ps => some (hs, ps)
  | n + 1, i, off, hs, ps =>
    let r := buildBlk t (b i) (off / 32)
    let len := cdiv r.2.length 32 * 32
    if tdCap t < off + r.2.length then none
    else packBlocks t b n (i + 1) (off + len) (hs ++ r.1) (ps ++ r.2 ++ zeroBytes (len - r.2.length))

/-- CAP exceeded: counted (class 28); within a step at once, outside a step the command fails (R83). -/
def capExceeded (s : State) (g : Eng) (a : Nat) : State :=
  match g.tile with
  | some t => tileEvent s g.ctx 28 t 1
  | none => dieEvent s g.ctx 28 (addrDie s a) 1

def writePacked (s : State) (g : Eng) (sp : Space) (t : Td) (p : BlkPos) (b : Nat → Blk) : State :=
  let a := superAddr t p
  match packBlocks t b 64 0 0 [] [] with
  | none => capExceeded s g a
  | some (hs, ps) =>
    if sp != .dev then spWrite s g sp 0 a (hs ++ zeroBytes (8192 - hs.length) ++ ps.take (tdCap t))
    else if !rangeOk s g true a (8192 + ps.length) then rangeViol s g a
    else if !rangePermitted s g.w true a (8192 + ps.length) (engBlock g) then countDenied s (addrDie s a)
    else engWrite (engWrite s g (a + 8192) (ps.take (tdCap t))) g a hs

end Sys2Proof.Machine
end

