-- ==== Sys2Proof/Machine/Operands.lean ====
section
/-! DEFINITION. Tensor operands: reading the blocks or elements an operation needs, and writing elements into a blocked or
LINEAR destination (R77 to R86, R160, R161). -/

namespace Sys2Proof.Machine

/-- A tensor's contents as an operation has read them: blocks by header address, or the bytes of a LINEAR footprint. -/
structure Tens where
  td   : Td
  blks : NMap Blk := []
  lin  : Bytes := []
  deriving DecidableEq, Repr

/-- Read each block of a list of positions once. -/
def readBlocks (g : Eng) (sp : Space) (t : Td) : List BlkPos → State → NMap Blk → State × NMap Blk
  | [], s, m => (s, m)
  | p :: ps, s, m =>
    if m.any fun q => q.1 == hdrAddr t p then readBlocks g sp t ps s m
    else
      let r := readBlock s g sp t p
      readBlocks g sp t ps r.1 (mapIns m (hdrAddr t p) r.2)

/-- The block position of an index. -/
def posOf (i : List Nat) : BlkPos := ⟨i.getD 0 0 / 32, i.getD 1 0 / 32, i.getD 2 0, i.getD 3 0, i.getD 4 0⟩

/-- The element number of an index in its block (R59). -/
def numOf (i : List Nat) : Nat := i.getD 1 0 % 32 * 32 + i.getD 0 0 % 32

/-- Read a whole tensor: every block it names, or its footprint. -/
def readTens (s : State) (g : Eng) (sp : Space) (t : Td) : State × Tens :=
  if t.linear then
    let f := tdFoot t
    let r := spRead s g sp f.1 (f.2 - f.1)
    (r.1, { td := t, lin := r.2 })
  else
    let r := readBlocks g sp t (tdPositions t) s []
    (r.1, { td := t, blks := r.2 })

/-- Read the blocks of a tensor that hold the listed indices. -/
def readTensAt (s : State) (g : Eng) (sp : Space) (t : Td) (is : List (List Nat)) : State × Tens :=
  if t.linear then readTens s g sp t
  else
    let r := readBlocks g sp t ((is.filter (inBounds t)).map posOf) s []
    (r.1, { td := t, blks := r.2 })

/-- The block that holds an index. -/
def tensBlk (x : Tens) (p : BlkPos) : Blk := mapGet (fun _ => zeroBlk x.td) x.blks (hdrAddr x.td p)

/-- Code of the element at an index inside the bounds. -/
def tensCode (x : Tens) (i : List Nat) : Nat :=
  if x.td.linear then fld x.lin (linBit x.td i / 8) (fmtBits x.td.fmt / 8)
  else (tensBlk x (posOf i)).els.getD (numOf i) 0

/-- Value of the element at an index: outside the bounds, the fill (R77). -/
def tensVal (x : Tens) (i : List Nat) : Val :=
  if !inBounds x.td i then fillVal x.td
  else if x.td.linear then elemVal x.td.fmt (tensCode x i) 0
  else blkVal (tensBlk x (posOf i)) (numOf i)

/-- Long partial at an index. -/
def tensLp (x : Tens) (i : List Nat) : Lp :=
  if inBounds x.td i then blkLp (tensBlk x (posOf i)) (numOf i) else {}

/-- Integer at an index of an INT32 list; a value that is no integer is no index. -/
def valInt (v : Val) : Int :=
  match v with
  | .fin m e => shiftTrunc m e
  | _ => -2

/-- Index of flat position n (innermost dimension fastest). -/
def idxOf (t : Td) (n : Nat) : List Nat :=
  let e := tdExt t
  [n % e 0, n / e 0 % e 1, n / (e 0 * e 1) % e 2, n / (e 0 * e 1 * e 2) % e 3, n / (e 0 * e 1 * e 2 * e 3) % e 4]

/-- Number of elements of a tensor. -/
def tdCount (t : Td) : Nat := tdExt t 0 * tdExt t 1 * tdExt t 2 * tdExt t 3 * tdExt t 4

/-- The entries of an index list in flat order (R165). -/
def tensInts (x : Tens) : List Int := (upTo (tdCount x.td)).map fun n => valInt (tensVal x (idxOf x.td n))

/-- The storage of an element as bit ranges [lo, hi): its bits, and in a dense LP128 block those of the value, the anchor and
the state plane (R59, R272). -/
def storedBits (t : Td) (i : List Nat) : List (Nat × Nat) :=
  let run := fun (o w : Nat) => (o + w * numOf i, o + w * numOf i + w)
  let o := 8 * (superAddr t (posOf i) + 8192 + 32 * fixedPoff t (blkIndex (posOf i)))
  if t.linear then [(8 * t.base + linBit t i, 8 * t.base + linBit t i + fmtBits t.fmt)]
  else if t.fmt = 0x30 && !t.mask then [run o 128, run (o + 8 * 16384) 16, run (o + 8 * 18432) 4]
  else [run o (tdBits t)]

/-! ### Writing elements -/

def Elt.isKeep : Elt → Bool
  | .keep => true
  | _ => false

/-- The value an element takes in an MX block. -/
def eltVal (fmt : Nat) (old : Val) : Elt → Val
  | .keep => old
  | .code c sc => elemVal fmt c sc
  | .bit c _ => .fin (c % 2) 0
  | .val v => v
  | .lp l => if l.live && l.ovf && l.sp == .none then mxOver fmt (lpNeg l) else lpVal l

/-- One element of a non-MX block: its code and whether R44 counts it. -/
def eltCode (fmt : Nat) (r : Rnd) (draw old : Nat) : Elt → Nat × Bool
  | .keep => (old, false)
  | .code c _ => (c, false)
  | .bit c _ => (c % 2, false)
  | .val v =>
    if fmt = 0x03 || fmt = 0x20 then intEncode (fmtBits fmt) r draw v
    else match floatFmt fmt with
      | some f => (floatEncode f r draw v, false)
      | none => (0, false)
  | .lp l => lpRound fmt r draw l

/-- SAVED of a mask block after a write: that of the source blocks of the bits written; with none, it stays (DEDUCED from
R67 and R81, log 134). -/
def eltSaved (old : Blk) (inb : Nat → Bool) (e : Nat → Elt) : Bool :=
  let src := ((upTo 1024).filter inb).filterMap fun n => match e n with
    | .bit _ v => some v
    | _ => none
  if src.isEmpty then old.saved else src.any id

/-- The block that a write of elements makes of an old block (R81, R82): positions outside the bounds hold 0 (R77). -/
def encodeElts (t : Td) (r : Rnd) (draw : Nat → Nat) (old : Blk) (inb : Nat → Bool) (e : Nat → Elt) : Blk × Nat :=
  let is := upTo 1024
  if t.mask then
    ({ fmt := t.fmt, mask := true, saved := eltSaved old inb e,
       els := is.map fun n => if inb n then (match e n with
         | .keep => old.els.getD n 0
         | .code c _ => c % 2
         | .bit c _ => c % 2
         | .val v => b2n (!valZero v)
         | .lp l => b2n (l.live && l.v != 0)) else 0 }, 0)
  else if t.fmt = 0x30 then
    ({ fmt := 0x30, lps := is.map fun n => if inb n then (match e n with
        | .keep => blkLp old n
        | .lp l => l
        | _ => {}) else {} }, 0)
  else if fmtMx t.fmt then encodeVals t r draw inb fun n => eltVal t.fmt (blkVal old n) (e n)
  else
    let rs := is.map fun n => if inb n then eltCode t.fmt r (draw n) (old.els.getD n 0) (e n) else (0, false)
    ({ fmt := t.fmt, els := rs.map Prod.fst }, (rs.filter Prod.snd).length)

/-- In-bounds elements of a block. -/
def blkIn (t : Td) (p : BlkPos) (n : Nat) : Bool := inBounds t (elemIdx p n)

/-- Write some elements of one block of a FIXED tensor: wholly new, or merged by the block's owner, whose read of the old
block is none of the operation's own accesses and fails as the owner's (R82, R87, R244). -/
def writeElts (s : State) (g : Eng) (sp : Space) (t : Td) (r : Rnd) (draw : Nat → Nat) (p : BlkPos) (e : Nat → Elt) :
    State :=
  let ins := (upTo 1024).filter (blkIn t p)
  if ins.all fun n => (e n).isKeep then s
  else
    let q := if ins.any fun n => (e n).isKeep then readBlock s
        { g with owner := none, tile := if sp == .dev then ownerTile s (hdrAddr t p) else g.tile } sp t p
      else (s, zeroBlk t)
    let b := encodeElts t r (fun n => draw (linIndex t (elemIdx p n))) q.2 (blkIn t p) e
    writeBlockAt (countSubst q.1 (addrDie s (hdrAddr t p)) b.2) g sp t p b.1

/-- Superblock positions of a tensor: the block b = 0 of each. -/
def superPositions (t : Td) : List BlkPos := (tdPositions t).filter fun p => p.bc % 8 == 0 && p.br % 8 == 0

/-- The position of block b of a superblock. -/
def superBlk (p : BlkPos) (b : Nat) : BlkPos := { p with bc := p.bc + b % 8, br := p.br + b / 8 }

/-- Consecutive bytes of a table of bytes, as runs. -/
def byteRuns : NMap Byte → List (Nat × Bytes)
  | [] => []
  | (a, b) :: m =>
    match byteRuns m with
    | (a', bs) :: l => if a' = a + 1 then (a, b :: bs) :: l else (a, [b]) :: (a', bs) :: l
    | [] => [(a, [b])]

/-- Write elements of a LINEAR tensor (R80): `e` gives each element by index.  Answers the substitutions of R44 too. -/
def linearBytes (t : Td) (r : Rnd) (draw : Nat → Nat) (e : List Nat → Elt) : NMap Byte × Nat :=
  (upTo (tdCount t)).foldl (fun (m : NMap Byte × Nat) n =>
    let i := idxOf t n
    match e i with
    | .keep => m
    | x =>
      let c := eltCode t.fmt r (draw n) 0 x
      (putBytes m.1 (t.base + linBit t i / 8) (natLe (fmtBits t.fmt / 8) c.1), m.2 + b2n c.2)) ([], 0)

/-- Write a tensor's elements: `e` gives each by index (R81 to R83, R160). -/
def writeTens (s : State) (g : Eng) (sp : Space) (t : Td) (r : Rnd) (draw : Nat → Nat) (e : List Nat → Elt) : State :=
  if t.linear then
    let b := linearBytes t r draw e
    (byteRuns b.1).foldl (fun s x => spWrite s g sp 0 x.1 x.2) (countSubst s (addrDie s t.base) b.2)
  else if t.packed then
    (superPositions t).foldl (fun s p =>
      let enc := fun b =>
        let q := superBlk p b
        if decide (q.bc < tdBlocks t 0) && decide (q.br < tdBlocks t 1) then
          encodeElts t r (fun n => draw (linIndex t (elemIdx q n))) (zeroBlk t) (blkIn t q) fun n => e (elemIdx q n)
        else (zeroBlk t, 0)
      let s := countSubst s (addrDie s (hdrAddr t p)) ((upTo 64).map fun b => (enc b).2).sum
      writePacked s g sp t p fun b => (enc b).1) s
  else (tdPositions t).foldl (fun s p => writeElts s g sp t r draw p fun n => e (elemIdx p n)) s

end Sys2Proof.Machine
end

