-- ==== Sys2Proof/Machine/Copy.lean ====
section
/-! DEFINITION. Copies (R160 to R175): the operands, the element mapping, and ring copies with their checks, holds and
overlap handling. -/

namespace Sys2Proof.Machine

/-! ### Operands (R164) -/

/-- A copy's operands; `tdField` says how a TD field is read (8 bytes of an address, or an index byte). -/
def parseCopy (o : Bytes) : CopyOp :=
  let f := fld o 25 1
  { src := fld o 0 8, dst := fld o 8 8, idx := fld o 16 8, kind := fld o 24 1, ordered := bit f 0, rnd := bits f 2 1,
    perm := fld o 26 2, group := fld o 28 2, peer := fld o 30 2, side := fld o 32 1, xtiles := fld o 33 1,
    salt := fld o 34 2, stream := fld o 36 2 % 4096,
    bad := f / 8 != 0 || bit (fld o 26 2) 15 || fld o 36 2 / 4096 != 0 || !zeros o 38 10 || decide (4 < fld o 24 1)
      || bits f 2 1 == 3 || decide (2 < fld o 32 1) }

/-- PERM[k]. -/
def permDim (c : CopyOp) (k : Nat) : Nat := bits c.perm (3 * k + 2) (3 * k)

/-- PERM is a permutation for PERMUTE and 0 otherwise; IDX_TD is named exactly by GATHER and SCATTER. -/
def copyFieldsOk (c : CopyOp) : Bool :=
  !c.bad
    && (if c.kind = 2 then (upTo 5).all fun d => (upTo 5).any fun k => permDim c k == d else c.perm == 0)
    && ((c.idx != 0) == (c.kind == 3 || c.kind == 4))

def rndOf (n : Nat) : Rnd := if n = 0 then .rne else if n = 1 then .rtz else .sr

/-- The conversion restrictions of R161 and the index list of R165. -/
def copyTdsOk (c : CopyOp) (a d : Td) (i : Option Td) : Bool :=
  a.mask == d.mask && !(d.fmt == 0x30 && a.fmt != 0x30)
    && (match i with
        | none => true
        | some x => x.fmt == 0x20 && !x.mask && tdCount x == (if c.kind = 3 then tdExt d 1 else tdExt a 1))
    && !(c.kind == 4 && (d.packed || d.linear))

/-! ### The mapping (R160, R165) -/

/-- The source index of a destination index; `none` is a padding row of GATHER. -/
def copySrc (c : CopyOp) (a : Td) (l : List Int) (i : List Nat) : Option (List Nat) :=
  match c.kind with
  | 1 => some [i.getD 1 0, i.getD 0 0, i.getD 2 0, i.getD 3 0, i.getD 4 0]
  | 2 => some ((upTo 5).map fun d => match (upTo 5).find? fun k => permDim c k == d with
      | some k => i.getD k 0
      | none => 0)
  | 3 =>
    let r := l.getD (i.getD 1 0) (-1)
    if 0 ≤ r ∧ r < (tdExt a 1 : Int) then some [i.getD 0 0, r.toNat, i.getD 2 0, i.getD 3 0, i.getD 4 0] else none
  | _ => some i

/-- The highest source row that SCATTER writes to destination row t. -/
def scatterRow (l : List Int) (t : Nat) : Option Nat :=
  ((upTo l.length).filter fun s => l.getD s (-1) == (t : Int)).getLast?

/-- A source value that stands for padding in an LP128 destination (log 23). -/
def lpOfVal (v : Val) : Lp :=
  match v with
  | .fin m e => if m = 0 then {} else { v := shiftTrunc m (e + 96), anchor := 0, live := true }
  | v => { live := true, sp := spOf v }

/-- What a destination element takes from source element j. -/
def copyElt (x : Tens) (d : Td) (j : List Nat) : Elt :=
  if d.mask then .bit (tensCode x j % 2) (tensBlk x (posOf j)).saved
  else if x.td.fmt = 0x30 then .lp (tensLp x j)
  else if x.td.fmt = d.fmt && !fmtMx d.fmt then .code (tensCode x j)
  else .val (tensVal x j)

/-- A padding element: the source's fill (R77, R79). -/
def padElt (a d : Td) : Elt :=
  if d.fmt = 0x30 then .lp (lpOfVal (fillVal a))
  else if d.mask then .code (a.fill % 2)
  else .val (fillVal a)

/-- The destination element at index i takes a valid source element, or a padding one. -/
inductive Took where
  | valid (j : List Nat)
  | pad
  | none
  deriving DecidableEq, Repr

def copyTook (c : CopyOp) (a : Td) (l : List Int) (i : List Nat) : Took :=
  if c.kind = 4 then
    match scatterRow l (i.getD 1 0) with
    | none => .none
    | some s =>
      let j := [i.getD 0 0, s, i.getD 2 0, i.getD 3 0, i.getD 4 0]
      if inBounds a j then .valid j else .pad
  else match copySrc c a l i with
    | some j => if inBounds a j then .valid j else .pad
    | Option.none => .pad

/-- The element written at index i; `hard` says that a padding element's granule is hard-written (R171). -/
def copyElts (c : CopyOp) (x : Tens) (d : Td) (l : List Int) (hard : List Nat → Bool) (i : List Nat) : Elt :=
  match copyTook c x.td l i with
  | .valid j => copyElt x d j
  | .pad => if d.padw && !hard i then padElt x.td d else .keep
  | .none => .keep

/-- Padding elements of a copy may keep their contents. -/
def copyPads (c : CopyOp) (a d : Td) : Bool :=
  c.kind == 3 || c.kind == 4 || (upTo (tdCount d)).any fun n => match copyTook c a [] (idxOf d n) with
    | .valid _ => false
    | _ => true

/-- Some elements of a blocked destination are kept, so its old blocks are read (R82, R165, R171). -/
def copyOld (c : CopyOp) (a d : Td) : Bool := !d.linear && (c.kind == 4 || !d.padw || c.group != 0) && copyPads c a d

/-- A partial write of a PACKED destination: padding that is not written (R82). -/
def copyPartial (c : CopyOp) (a d : Td) (l : List Int) : Bool :=
  d.packed && !d.padw && (upTo (tdCount d)).any fun n => match copyTook c a l (idxOf d n) with
    | .valid _ => false
    | _ => true

/-- The index entries out of range are counted (R165): IDX_RANGE for GATHER, OOB_DROP for SCATTER. -/
def copyCountIdx (s : State) (die : Nat) (c : CopyOp) (a d : Td) (l : List Int) : State :=
  let bad := fun (e : Nat) => (l.filter fun v => v != -1 && !(decide (0 ≤ v) && decide (v < (e : Int)))).length
  if c.kind = 3 then (if bad (tdExt a 1) = 0 then s else rasBump s 65 die (bad (tdExt a 1)))
  else if c.kind = 4 then (if bad (tdExt d 1) = 0 then s else rasBump s 64 die (bad (tdExt d 1)))
  else s

/-- The draw of destination element n in the copy's stream (R46). -/
def copyDraw (s : State) (step : Nat) (c : CopyOp) (n : Nat) : Nat :=
  if c.rnd = 2 then srDraw (s.rd .rngKey c.stream) step c.salt n else 0

/-- Where an access of a copy runs. -/
structure CopyAt where
  src : Eng
  dst : Eng
  idx : Eng
  ssp : Space
  dsp : Space
  isp : Space
  deriving DecidableEq, Repr

/-- The whole copy: the source is read first, `mid` puts the overlapped part into the staging areas or the bounce region, then
every destination element is written (R166). A partial write of a PACKED destination ends the work before any write (R82). -/
def copyMove (s : State) (q : CopyAt) (c : CopyOp) (a d : Td) (it : Option Td) (step : Nat) (hard : List Nat → Bool)
    (mid : State → State) : State :=
  let r := match it with
    | none => (s, ([] : List Int))
    | some t => let x := readTens s q.idx q.isp t; (x.1, tensInts x.2)
  if copyPartial c a d r.2 then failWork r.1 q.dst.ctx stBadDescriptor
  else
  let s := copyCountIdx r.1 ((q.src.tile.map tileDie).getD 0) c a d r.2
  let need := (upTo (tdCount d)).filterMap fun n => match copyTook c a r.2 (idxOf d n) with
    | .valid j => some j
    | _ => none
  let x := readTensAt s q.src q.ssp a need
  writeTens (mid x.1) q.dst q.dsp d (rndOf c.rnd) (copyDraw x.1 step c) (copyElts c x.2 d r.2 hard)

/-! ### Overlaps (R166 to R169) -/

/-- Bounce range of a register value. -/
def bounceRange (v : Nat) : Nat × Nat :=
  let b := bits v 47 16 * 65536
  (b, b + bits v 62 48 * 2 ^ 20)

/-- XTILES (R164). -/
def copyXtiles (c : CopyOp) : Nat := orElse0 c.xtiles 16

/-- Unfenced tiles, lowest first. -/
def openTiles (s : State) : List Nat := allTiles.filter fun t => !tileOut s t

/-- The overlap of two footprints in bytes (R166). -/
def overlapBytes (a b : Nat × Nat) : Nat := min a.2 b.2 - max a.1 b.1

/-- The size of the overlap of a ring copy with both sides in one space. -/
def copyOverlap (c : CopyOp) (a d : Td) : Nat :=
  if a.loc == d.loc && c.side == 0 then overlapBytes (tdFoot a) (tdFoot d) else 0

/-- The bounce region is usable: in LPDDR5X, writable by its world, apart from both footprints (R168). -/
def bounceOk (s : State) (w : World) (v : Nat) (a d : Td) : Bool :=
  let r := bounceRange v
  decide (0x4000000 ≤ r.1) && decide (r.2 ≤ dramLimit s) && rangePermitted s w true r.1 (r.2 - r.1)
    && !overlaps r (tdFoot a) && !overlaps r (tdFoot d)

/-- How an overlap is handled (R166): none or staged, bounced, or a status. -/
inductive OvPlan where
  | direct
  | staged
  | bounced
  | refuse (st : Nat)
  deriving DecidableEq, Repr

/-- The decision for a copy of world w that n tiles execute. -/
def overlapPlan (s : State) (w : World) (c : CopyOp) (a d : Td) (bounce n : Nat) : OvPlan :=
  let v := copyOverlap c a d
  if v = 0 then .direct
  else if v ≤ n * 524288 then .staged
  else if bit bounce 63 && decide (v ≤ (bounceRange bounce).2 - (bounceRange bounce).1) then
    if bounceOk s w bounce a d then .bounced else .refuse stBadDescriptor
  else .refuse stOverlapTooLarge

/-- The overlapped source goes to the tiles' staging areas: an equal share each, in address order, at a free place of the area
(R166, R167; log 145). -/
def stageWrite (s : State) (ctx : Ctx) (tiles : List Nat) (lo n : Nat) : State :=
  let sh := cdiv n (max 1 tiles.length)
  (tiles.zipIdx.map fun q => (q.1, memBytes s (lo + sh * q.2) (min sh (n - sh * q.2)))).foldl (fun s q =>
    if q.2.isEmpty then s
    else
      let f := drawFree s
      performWrite f.1 ctx (sramAddr q.1 (0x580000 + f.2 % (524288 - sh + 1))) q.2) s

/-- The overlapped source goes through the staging areas, or from the start of the bounce region on (R166, R169; log 145). -/
def ovWrite (s : State) (w : World) (ctx : Ctx) (staged bounced : Bool) (bounce : Nat) (tiles : List Nat) (a d : Td) : State :=
  let lo := max (tdFoot a).1 (tdFoot d).1
  let n := overlapBytes (tdFoot a) (tdFoot d)
  if staged then stageWrite s ctx tiles lo n
  else if bounced then devWriteL w ctx (n / 65536 + 2) s (bounceRange bounce).1 (memBytes s lo n)
  else s

/-! ### Ring copies -/

/-- LOC of the two sides by opcode (R162). -/
def copyLocOk (op : Nat) (a d : Td) : Bool :=
  if op = 0x10 then a.loc && !d.loc else if op = 0x11 then !a.loc && d.loc else !a.loc && !d.loc

/-- The first failing status among those that hold, in the order of R501. -/
def firstStatus (l : List Nat) : Nat :=
  if l.contains stBadDescriptor then stBadDescriptor
  else if l.contains stAccessDenied then stAccessDenied
  else if l.contains stOutOfRange then stOutOfRange
  else stOk

/-- The footprint check of a TD that lies in this device. -/
def localFoot (s : State) (t : Td) (far : Bool) : Nat := if t.loc || far then stOk else footStatus s (tdFoot t)

/-- The checks of a ring copy before any read (R76, R78, R161 to R165, R266). -/
def copyChecks (s : State) (k : Issued) (c : CopyOp) (a d : Td) (i : Option Td) : Nat :=
  let bad := !tdOk a false false || !tdOk d true false || (match i with | some t => !tdOk t false false | none => false)
    || !copyLocOk k.op a d || !copyTdsOk c a d i || c.group != 0 || (c.side != 0 && k.op != 0x12)
  let sec := k.world == .ns && (a.world == .s || d.world == .s || (match i with | some t => t.world == .s | none => false)
    || (c.rnd == 2 && streamWorld s c.stream == .s))
  firstStatus
    ([if bad then stBadDescriptor else stOk, if sec then stAccessDenied else stOk]
      ++ (if bad then [] else [localFoot s a (c.side == 2), localFoot s d (c.side == 1),
            match i with | some t => localFoot s t false | none => stOk])
      ++ [if (openTiles s).length < copyXtiles c then stOutOfRange else stOk])

/-- The peer's side: reachable, and attested for a secure TD (R163). -/
def copyPeerStatus (s : State) (c : CopyOp) (a d : Td) : Nat :=
  if c.side = 0 then stOk
  else if !peerRoutable s c.peer (ownBank s) then stPeerUnreachable
  else if (a.world == .s || d.world == .s) && !peerAttested s c.peer then stAccessDenied
  else stOk

/-- A side of a copy: where it lies (0 this device, 1 host memory, 2 + n device n), its footprint, and whether it is the
destination. -/
structure Foot where
  spc : Nat
  rng : Nat × Nat
  dst : Bool
  deriving DecidableEq, Repr

/-- Both sides of a copy. -/
def copyFoots (c : CopyRun) : List Foot :=
  let place := fun (t : Td) (n : Nat) => if t.loc then 1 else if c.op.side = n then 2 + c.op.peer else 0
  [{ spc := place c.src 2, rng := tdFoot c.src, dst := false }, { spc := place c.dst 1, rng := tdFoot c.dst, dst := true }]

/-- An earlier copy keeps a later one waiting (R168, R173, R501). -/
def copyBlocks (e c : CopyRun) : Bool :=
  ((copyFoots e).any fun f => (copyFoots c).any fun g =>
    f.spc == g.spc && overlaps f.rng g.rng && (f.dst || (!e.running && g.dst)))
    || (e.bounced && c.bounced && e.world == c.world)

/-- The running phases. -/
def runningPhases (s : State) : List PhaseRun :=
  ([s.seq.train, s.seq.eval].filterMap id).filterMap fun p => p.phase

/-- The declared ranges of a phase conflict with a ring copy (R174). -/
def phaseBlocks (c : CopyRun) (f : PhaseRun) : Bool :=
  f.ranges.any fun r => (copyFoots c).any fun x => x.spc == 0 && overlaps (r.lo, r.hi) x.rng && (r.write || (r.read && x.dst))

/-- A phase keeps the staging area of a tile for itself (R167): the tile is of one of its dies. -/
def phaseStages (f : PhaseRun) (t : Nat) : Bool := !f.stagingFree && f.dies.contains (tileDie t)

/-- Tiles whose staging areas a ring copy could use now (R167). -/
def stageTiles (s : State) : List Nat :=
  (openTiles s).filter fun t => !(runningPhases s).any (fun f => phaseStages f t)
    && !s.seq.copies.any fun e => e.running && e.staged && e.tiles.contains t

/-- Too few of them for a copy (R167). -/
def stagingFull (s : State) (c : CopyRun) : Bool := c.staged && decide ((stageTiles s).length < copyXtiles c.op)

/-- The copy must wait. -/
def copyHeld (s : State) (c : CopyRun) : Bool :=
  (s.seq.copies.any fun e => decide (e.iid < c.iid) && copyBlocks e c)
    || (runningPhases s).any (phaseBlocks c) || stagingFull s c || quiesceRuns s

/-- A ring copy has been issued and waits for what it fetches (R173). -/
def copyFetches (s : State) (c : Issued) : Bool :=
  (c.op == 0x10 || c.op == 0x11 || c.op == 0x12) && !s.seq.copies.any (fun e => e.iid == c.iid)
    && (s.hostReqs.any (fun r => r.use == .cmd c.iid) || s.hostAns.any fun r => r.use == .cmd c.iid)

/-- Ring copies keep a phase from starting (R167, R173, R174): one that has started, by being issued and not held, with
conflicting ranges; one whose footprints are not known yet; one that stages on the phase's tiles. -/
def copiesStop (s : State) (f : PhaseRun) : Bool :=
  s.hqe.issued.any (copyFetches s) || s.seq.copies.any fun c =>
    ((c.running || !copyHeld s c) && phaseBlocks c f) || (c.running && c.staged && c.tiles.any (phaseStages f))

/-- An earlier ring copy has been issued and not yet begun: copies begin in issue order (R173). -/
def copyTurn (s : State) (iid : Nat) : Bool :=
  s.hqe.issued.all fun c => !(decide (c.iid < iid) && (c.op == 0x10 || c.op == 0x11 || c.op == 0x12))
    || s.seq.copies.any fun e => e.iid == c.iid

/-- Change a copy of the table. -/
def modCopy (s : State) (iid : Nat) (f : CopyRun → CopyRun) : State :=
  { s with seq := { s.seq with copies := updWhere (fun c => c.iid == iid) f s.seq.copies } }

/-- Messages of a command whose answer is out or that wait to be sent; of its mirrored writes, those not performed yet. -/
def cmdOut (s : State) (iid : Nat) : Bool :=
  let mine := fun (m : OutMsg) => m.ctx == .cmd iid && !m.mirror
  s.fab.out.any mine || s.fab.queued.any mine || mirHolds s (.cmd iid)

/-- The copy's writes are visible, or it fails: its completion (R85, R173, R175). -/
def copyFinish (s : State) (iid : Nat) : State :=
  match getIssued s iid with
  | none => s
  | some k => if cmdOut s iid then s else complete s iid (if k.failed then stCheckFailed else stOk)

/-- Mirror traffic has changed: the written copies and RESTOREs that waited for it end (R395, R397). -/
def mirOn (s : State) : State :=
  (((s.seq.copies.filter fun c => c.written).map fun c => c.iid)
    ++ (s.hqe.issued.filter fun c => c.op == 0x31 && c.stage == 3).map fun c => c.iid).foldl copyFinish s

/-- Step number of the SR draws of a ring copy: the spec names none outside a step, so it is free (log 1). -/
def copyStep (s : State) (c : CopyOp) : State × Nat :=
  if c.rnd = 2 then (let r := drawFree s; (r.1, r.2 % 2 ^ 64)) else (s, 0)

/-- Take n tiles in turn from several lists. -/
def spreadTiles : Nat → List (List Nat) → List Nat
  | 0, _ => []
  | n + 1, ls =>
    match ls.filter fun l => !l.isEmpty with
    | (x :: l) :: rest => x :: spreadTiles n (rest ++ [l])
    | _ => []

/-- The tiles that execute a ring copy: XTILES open ones, spread evenly over the dies; which ones is a free value (R164;
log 41). -/
def pickTiles (s : State) (c : CopyRun) : State × List Nat :=
  let f := drawFree s
  let turn := fun (l : List Nat) => l.rotateLeft (f.2 % max 1 l.length)
  let ts := if c.staged then stageTiles s else openTiles s
  (f.1, spreadTiles (copyXtiles c.op) (((upTo 4).map fun d => turn (ts.filter fun t => tileDie t == d)).rotateLeft (f.2 % 4)))

/-- Read and write (R166); what was fetched of a peer is here. -/
def copyDo (s : State) (c : CopyRun) : State :=
  let r := copyStep s c.op
  let eng := fun (t : Td) => ({ w := t.world, ctx := .cmd c.iid, tile := c.tiles.head? } : Eng)
  let it := c.idx.getD {}
  let far := Space.peer c.op.peer (match getIssued r.1 c.iid with | some k => k.fetched | none => [])
  let place := fun (t : Td) (n : Nat) => if t.loc then .host else if c.op.side = n then far else .dev
  let q : CopyAt :=
    { src := eng c.src, dst := eng c.dst, idx := eng it, ssp := place c.src 2, dsp := place c.dst 1,
      isp := if it.loc then .host else .dev }
  let s := modCopy r.1 c.iid fun e => { e with running := true, written := true }
  copyFinish (copyMove s q c.op c.src c.dst c.idx r.2 (fun _ => false)
    fun s => ovWrite s c.world (.cmd c.iid) c.staged c.bounced c.bounce c.tiles c.src c.dst) c.iid

/-- What a ring copy fetches of its peer: its source there, or the old blocks of its destination there. -/
def copyFar (c : CopyRun) : Option Td :=
  if c.op.side = 2 then some c.src
  else if c.op.side = 1 && copyOld c.op c.src c.dst then some c.dst else none

/-- Host tensors that a copy reads: its source, its index list, the old blocks of its destination. -/
def copyHostNeeds (c : CopyRun) : List Td :=
  [some c.src, c.idx, if copyOld c.op c.src c.dst then some c.dst else none].filterMap fun o => o.filter fun t => t.loc

/-- Fetch the footprints of host tensors. -/
def copyHostReady (iid : Nat) : List Td → State → State × HostRes
  | [], s => (s, .ok [])
  | t :: ts, s =>
    match hostRead s t.world (.cmd iid) (tdFoot t).1 ((tdFoot t).2 - (tdFoot t).1) with
    | (s, .ok _) => copyHostReady iid ts s
    | r => r

/-- The copy runs now: its READs of a peer go out, or it reads and writes. A message that cannot be sent ends it (R163). -/
def copyStart (s : State) (c : CopyRun) : State :=
  match copyHostReady c.iid (copyHostNeeds c) s with
  | (s, .wait) => s
  | (s, .fail st) => complete s c.iid st
  | (s, .ok _) =>
    let r := pickTiles s c
    let c := { c with tiles := r.2, running := true }
    let s := modCopy r.1 c.iid fun _ => c
    match copyFar c with
    | some t => sentOr (.cmd c.iid) (askRuns s c.op.peer t.world (.cmd c.iid) (tdFoot t))
    | none => copyDo s c

/-- Fetch one TD named by a host address. -/
def fetchTd (s : State) (k : Issued) (a : Nat) : State × HostRes := hostRead s k.world (.cmd k.iid) a 64

/-- The TDs are here: check, decide the overlap, and start or hold (R162 to R168). -/
def copyAccept (s : State) (k : Issued) (c : CopyOp) (a d : Td) (i : Option Td) : State :=
  if copyChecks s k c a d i ≠ stOk then complete s k.iid (copyChecks s k c a d i)
  else if copyPeerStatus s c a d ≠ stOk then complete s k.iid (copyPeerStatus s c a d)
  else
    let ov := overlapPlan s k.world c a d k.bounce (copyXtiles c)
    match ov with
    | .refuse st => complete s k.iid st
    | _ =>
      let r : CopyRun :=
        { iid := k.iid, world := k.world, op := c, src := a, dst := d, idx := i, bounce := k.bounce, staged := ov == .staged,
          bounced := ov == .bounced }
      if c.kind ≠ 3 && copyPartial c a d [] then complete s k.iid stBadDescriptor
      else
        let s := { s with seq := { s.seq with copies := s.seq.copies ++ [r] } }
        if copyHeld s r then s else copyStart s r

/-- A copy of the table that does not run yet starts when nothing holds it. -/
def copyTry (s : State) (iid : Nat) : State :=
  match s.seq.copies.find? fun c => c.iid == iid with
  | none => s
  | some c => if c.running || copyHeld s c then s else copyStart s c

/-- A ring copy's row: operands, then its TDs from host memory (R162 to R164). -/
def copyRow (s : State) (iid op : Nat) : State :=
  match getIssued s iid with
  | none => s
  | some k =>
    if k.op ≠ op || !copyTurn s iid then s
    else if s.seq.copies.any (fun e => e.iid == iid) then copyTry s iid
    else
      let c := parseCopy k.ops
      if !copyFieldsOk c || c.src % 64 != 0 then complete s iid stBadDescriptor
      else
        match fetchTd s k c.src with
        | (s, .wait) => s
        | (s, .fail st) => complete s iid st
        | (s, .ok a) =>
          match fetchTd s k c.dst with
          | (s, .wait) => s
          | (s, .fail st) => complete s iid st
          | (s, .ok d) =>
            if c.idx = 0 then copyAccept s k c (parseTd a) (parseTd d) none
            else match fetchTd s k c.idx with
              | (s, .wait) => s
              | (s, .fail st) => complete s iid st
              | (s, .ok i) => copyAccept s k c (parseTd a) (parseTd d) (some (parseTd i))

/-- COPY_IN (R162). -/
def execCopyIn (iid : Nat) (s : State) : Host.Outcome State Fault Refusal := .next (copyRow s iid 0x10)
/-- COPY_OUT (R162). -/
def execCopyOut (iid : Nat) (s : State) : Host.Outcome State Fault Refusal := .next (copyRow s iid 0x11)
/-- COPY_DEV (R163). -/
def execCopyDev (iid : Nat) (s : State) : Host.Outcome State Fault Refusal := .next (copyRow s iid 0x12)

/-- HELD_COPY_START: a held copy whose hold has ended starts (R167, R168, R173, R174). -/
def execHeldCopyStart (iid : Nat) (s : State) : Host.Outcome State Fault Refusal := .next (copyTry s iid)

end Sys2Proof.Machine
end

