-- ==== Sys2Proof/Machine/Work.lean ====
section
/-! DEFINITION. What the tile engines share: the running phase, work lists (R21, R103), ready bits (R20), operands in
either orientation (R86), block partials (R31 to R34), anchors (R38 to R41), draws, and the owners of destination blocks
(R104, R121). -/

namespace Sys2Proof.Machine

/-! ### The running phase (R235: one at a time) -/

/-- The plan kind, plan and phase that run. -/
structure Cur where
  k : PlanKind
  p : PlanRun
  f : PhaseRun
  /-- the operation at work -/
  sel : OpSel := .dense
  deriving DecidableEq, Repr

/-- The running phase of a kind. -/
def curOf (s : State) (k : PlanKind) : Option Cur :=
  match getPlan s k with
  | none => none
  | some p => match p.phase with
    | none => none
    | some f => if p.st == .phase && f.waits.isEmpty then some { k := k, p := p, f := f } else none

/-- The running phase. -/
def curPhase (s : State) : Option Cur :=
  match curOf s .training with
  | some c => some c
  | none => curOf s .eval

/-- Change the running phase of a kind. -/
def modPhase (s : State) (k : PlanKind) (f : PhaseRun → PhaseRun) : State :=
  modPlan s k fun p => { p with phase := p.phase.map f }

/-- Owner code of an operation's declared ranges (R244). -/
def selCode : OpSel → Nat
  | .dense => 0 | .gme => 1 | .ve => 2 | .route => 0x50

/-- The operation entry of a phase. -/
def opOf (f : PhaseRun) : OpSel → OpEntry
  | .dense => f.dense
  | .gme => f.gme.getD {}
  | .ve => f.ve.getD {}
  | .route => {}

/-- An access of an operation to a tensor, at a tile. -/
def opEng (c : Cur) (sel : OpSel) (td : Td) (t : Nat) : Eng :=
  { w := td.world, ctx := .plan c.k, owner := some (selCode sel), tile := some t }

/-- Descriptor-table entry n. -/
def tdOf (f : PhaseRun) (n : Nat) : Td := f.tds.getD n {}

/-! ### Work lists (R21, R103) -/

def getQ (f : PhaseRun) : OpSel → List Task
  | .dense => f.denseQ
  | .gme => f.gmeQ
  | .ve => f.veQ
  | .route => []

def setQ (f : PhaseRun) (sel : OpSel) (l : List Task) : PhaseRun :=
  match sel with
  | .dense => { f with denseQ := l }
  | .gme => { f with gmeQ := l }
  | .ve => { f with veQ := l }
  | .route => f

/-- The healthy die that adopts the work of a quarantined one (R309). -/
def adopter (s : State) (d : Nat) : Nat := (([1, 2, 3].map fun i => (d + i) % 4).find? fun e => !dieQuar s e).getD d

/-- The die whose tiles work die e's lists. -/
def workDie (s : State) (e : Nat) : Nat := if dieQuar s e then adopter s e else e

/-- The lists a tile of die d may take from, in order: its own, those its die has adopted, those it may steal from (R21,
R309). -/
def stealOrder (s : State) (f : PhaseRun) (d : Nat) : List Nat :=
  d :: ((upTo 4).filter fun e => dieQuar s e && adopter s e == d)
    ++ (if f.steal then ([1, 2, 3].map fun i => (d + i) % 4).filter fun e => !dieQuar s e else [])

/-- The next record for a tile: one placed on it, or the head of the first list that has one to take. -/
def headTask (s : State) (f : PhaseRun) (sel : OpSel) (t : Nat) : Option Task :=
  match (getQ f sel).find? fun x => match x.place with | some q => q.1 == t | none => false with
  | some x => some x
  | none => ((stealOrder s f (tileDie t)).filterMap fun d =>
      (getQ f sel).find? fun x => x.die == d && x.place.isNone).head?

/-- SEQ of a record, by its operation's layout. -/
def taskSeq (sel : OpSel) (x : Task) : Nat :=
  match sel with
  | .dense => fld x.bytes 16 4
  | _ => fld x.bytes 24 4

/-- LIST of a record. -/
def taskList (sel : OpSel) (b : Bytes) : Nat :=
  match sel with
  | .dense => fld b 27 1
  | .gme => fld b 23 1
  | _ => fld b 19 1

/-- Records appended to a list so far. -/
def listKey (sel : OpSel) (d : Nat) : Nat := 4 * selCode sel + d
def listedOf (f : PhaseRun) (sel : OpSel) (d : Nat) : Nat := mapGet (fun _ => 0) f.listed (listKey sel d)

/-- Where record n of a die's list lies in the spill area of the list (R267, R274; log 116). -/
def listSpill (sel : OpSel) (d n : Nat) : Nat := 0x200000 * (3 * d + selCode sel) + 32 * (n % 65536)

/-- Records of a die's list that find no room in list memory, of 8,192 records, go to its spill area, of 65,536; what finds no
room there either waits with its producer (R274). -/
def spillOut (s : State) (k : PlanKind) (sel : OpSel) (d : Nat) : State :=
  match getPlan s k with
  | none => s
  | some p => match p.phase with
    | none => s
    | some f =>
      let l := (getQ f sel).filter fun x => x.die == d && x.place.isNone
      let n := mapGet (fun _ => 0) f.spilled (listKey sel d)
      let new := ((l.drop 8192).take 65536).filter fun x => decide (n ≤ x.want)
      match new.getLast? with
      | none => s
      | some z => modPhase (new.foldl (fun s x => rawWrite s .other (listSpill sel d x.want) x.bytes) s) k fun f =>
          { f with spilled := mapSet (fun _ => 0) f.spilled (listKey sel d) (z.want + 1) }

/-- A record left list memory: the spilled record that comes into its last place is read back from the spill area, as the
plan's own read (R270, R274). -/
def refillList (s : State) (k : PlanKind) (sel : OpSel) (d : Nat) : State :=
  match getPlan s k with
  | none => s
  | some p => match p.phase with
    | none => s
    | some f =>
      match ((getQ f sel).filter fun x => x.die == d && x.place.isNone)[8191]? with
      | none => s
      | some y =>
        if mapGet (fun _ => 0) f.spilled (listKey sel d) ≤ y.want then s
        else
          let r := rawRead s (.plan k) (listSpill sel d y.want) 32
          modPhase r.1 k fun f => setQ f sel ((getQ f sel).map fun z => if z == y then { z with bytes := r.2 } else z)

/-- Remove a record from its list: list memory refills from the spill, and what waited outside takes the spill's room. -/
def popTask (s : State) (k : PlanKind) (sel : OpSel) (x : Task) : State :=
  let s := modPhase s k fun f => setQ f sel ((getQ f sel).erase x)
  spillOut (if x.place.isNone then refillList s k sel x.die else s) k sel x.die

/-- Every list of a phase as its records are placed. -/
def spillAll (s : State) (k : PlanKind) : State :=
  (upTo 4).foldl (fun s d => spillOut (spillOut (spillOut s k .dense d) k .gme d) k .ve d) s

/-- The record's SEQ and LIST are in order (R103). -/
def seqOk (c : Cur) (sel : OpSel) (x : Task) : Bool :=
  taskSeq sel x == x.want && decide (taskList sel x.bytes < 4) && c.f.dies.contains (taskList sel x.bytes)

/-- A bad task or a failure on data: counted; the step ends at once (R103, R132, R156). -/
def taskBad (s : State) (k : PlanKind) (t : Nat) : State := tileEvent s (.plan k) 26 t 1

/-- A tile takes work of this plan: it is unfenced, powered, and of the plan's world (R415, R443). -/
def tileWorks (s : State) (c : Cur) (t : Nat) : Bool :=
  !tileOut s t && !tileGated s t && tileWorld s t == c.p.world 
    && (c.f.dies.contains (tileDie t) || (upTo 4).any fun e => dieQuar s e && c.f.dies.contains e && adopter s e == tileDie t)

/-! ### Ready bits (R20) -/

/-- The dense operation gathers rows, and its producers have not closed: any of its output blocks may get another fold. -/
def gathOpen (f : PhaseRun) : Bool := bit f.dense.flags 2 && !f.gathDone && !f.elided.contains .dense

/-- An output block of the dense operation is not finished: no ready bit, or rows may still be gathered for it (R20, R105). -/
def outWaits (f : PhaseRun) (a : Nat) : Bool :=
  f.openOut.contains a || (gathOpen f && (let g := tdFoot (tdOf f f.dense.c); decide (g.1 ≤ a) && decide (a < g.2)))

/-- Some output block of the dense operation that lies in a tensor's footprint is not finished. -/
def tdWaits (f : PhaseRun) (t : Td) : Bool :=
  let g := tdFoot t
  (f.openOut.any fun a => decide (g.1 ≤ a) && decide (a < g.2)) || (gathOpen f && overlaps g (tdFoot (tdOf f f.dense.c)))

/-- A tensor's blocks can all be read: ready bits, and reduction windows complete (R20, R370). -/
def tdReady (s : State) (f : PhaseRun) (t : Td) : Bool :=
  !tdWaits f t && (s.fab.windows.isEmpty || t.linear || (tdPositions t).all fun p => windowReady s (hdrAddr t p))

/-! ### Operands in either orientation (R86) -/

def viewRows (v : View) : Nat := tdExt v.td (if v.trans then 0 else 1)
def viewCols (v : View) : Nat := tdExt v.td (if v.trans then 1 else 0)

/-- The stored position of view block (br, bc). -/
def viewPos (v : View) (br bc : Nat) : BlkPos := if v.trans then ⟨br, bc, v.o2, 0, 0⟩ else ⟨bc, br, v.o2, 0, 0⟩

/-- The stored number of view element (r, c) of a block. -/
def viewN (v : View) (r c : Nat) : Nat := if v.trans then 32 * c + r else 32 * r + c

/-- The view position lies in the bounds. -/
def viewIn (v : View) (br bc r c : Nat) : Bool :=
  decide (32 * br + r < viewRows v) && decide (32 * bc + c < viewCols v) && decide (v.o2 < tdExt v.td 2)

/-- A block of a view wholly outside the bounds, or that could not be read: it reads as zero. -/
def zeroOper (v : View) (br bc : Nat) : Oper := { v := v, br := br, bc := bc, blk := zeroBlk v.td }

/-- The header of a block of a view; `none` for a block outside the bounds, which is not fetched, and for one that fails its
checks. -/
def readOperHdr (s : State) (g : Eng) (v : View) (br bc : Nat) : State × Option Bytes :=
  if viewIn v br bc 0 0 then readHeader s g v.td (viewPos v br bc) else (s, none)

/-- The block of a view whose header, and the first bytes of its payload, have been read. -/
def readOperAt (s : State) (g : Eng) (v : View) (br bc : Nat) (h : Option Bytes) (pre : Bytes := []) : State × Oper :=
  match h with
  | none => (s, zeroOper v br bc)
  | some b =>
    let q := readPayload s g .dev v.td (viewPos v br bc) b pre
    (q.1, { zeroOper v br bc with blk := q.2, hdr := b })

/-- Read a block of a view. -/
def readOper (s : State) (g : Eng) (v : View) (br bc : Nat) : State × Oper :=
  let h := readOperHdr s g v br bc
  readOperAt h.1 g v br bc h.2

/-- Row maximum byte r, and column maximum byte c, of a header in a view's orientation. -/
def hdrRow (trans : Bool) (h : Bytes) (r : Nat) : Nat := fld h (if trans then 32 + r else r) 1
def hdrCol (trans : Bool) (h : Bytes) (c : Nat) : Nat := fld h (if trans then c else 32 + c) 1

def operRow (o : Oper) (r : Nat) : Nat := hdrRow o.v.trans o.hdr r
def operCol (o : Oper) (c : Nat) : Nat := hdrCol o.v.trans o.hdr c
def operSpecial (o : Oper) : Bool := bit (fld o.hdr 77 1) 0

/-- Value of view element (r, c) of a block: 0 outside the bounds. -/
def operVal (o : Oper) (r c : Nat) : Val :=
  if viewIn o.v o.br o.bc r c then blkVal o.blk (viewN o.v r c) else .fin 0 0

/-! ### Products (R29, R31 to R34, R42) -/

/-- A maximum byte as an exponent (R30). -/
def maxExp (b : Nat) : Int := (b : Int) - 128

/-- Special state of a product (R42). -/
def spMul (a b : Val) : Sp :=
  match a, b with
  | .nan, _ => .nan
  | _, .nan => .nan
  | .inf x, .inf y => if x == y then .pinf else .ninf
  | .inf x, .fin m _ => if m = 0 then .nan else if x == decide (m < 0) then .pinf else .ninf
  | .fin m _, .inf x => if m = 0 then .nan else if x == decide (m < 0) then .pinf else .ninf
  | .fin _ _, .fin _ _ => .none

/-- The exact product of two finite values. -/
def valMul (a b : Val) : Val :=
  match a, b with
  | .fin m e, .fin n f => .fin (m * n) (e + f)
  | _, _ => .fin 0 0

def valNeg : Val → Val
  | .fin m e => .fin (-m) e
  | .inf x => .inf (!x)
  | .nan => .nan

/-- The BF16 split of R29. -/
def splitHi (v : Val) : Val := floatDecode fBF16 (floatEncode fBF16 .rne 0 v)
def splitLo (v : Val) : Val := floatDecode fBF16 (floatEncode fBF16 .rne 0 (valAdd v (valNeg (splitHi v))))

/-- The passes of a product: one, or the three of an FP32 pair. A finite element whose `hi` rounds to infinity: its passes
with an infinite factor contribute 0, and it makes no special state (DESIGN CHOICE, log 24). -/
def passes (fp32 : Bool) (a b : Val) : List Val :=
  if fp32 then [valMul (splitHi a) (splitHi b), valMul (splitHi a) (splitLo b), valMul (splitLo a) (splitHi b)]
  else [valMul a b]

/-- A product as a cell sees it: its exact value, by which the header's maxima are judged (R34), and its passes. -/
structure Prod where
  exact  : Val
  passes : List Val
  deriving DecidableEq, Repr

def product (fp32 : Bool) (a b : Val) : Prod := { exact := valMul a b, passes := passes fp32 a b }

/-- A value truncated toward zero to the grid 2^g. -/
def onGrid (g : Int) (v : Val) : Int :=
  match v with
  | .fin m e => shiftTrunc m (e - g)
  | _ => 0

/-- A value of magnitude 2^x or more. -/
def magGe (v : Val) (x : Int) : Bool :=
  match v with
  | .fin m e => m != 0 && decide (x ≤ expOf m e)
  | _ => false

/-- A block partial: its sum in units of its grid, and whether a product broke the header's maxima (R34). -/
structure Bp where
  v    : Int := 0
  bad  : Bool := false
  deriving DecidableEq, Repr

/-- The end of the BP48 range on a value's side (R34). -/
def bpMost (v : Val) : Int :=
  match v with
  | .fin m _ => if m < 0 then -(2 ^ 47) else 2 ^ 47 - 1
  | _ => 0

/-- Add products to a BP48 with anchor e: each pass truncated to its grid (R33); a product of magnitude 2^(e + 1) or more
saturates it (R34). -/
def bpAdd (e : Int) (b : Bp) : List Prod → Bp
  | [] => b
  | x :: xs =>
    if b.bad then b
    else if magGe x.exact (e + 1) then { v := bpMost x.exact, bad := true }
    else bpAdd e { b with v := b.v + (x.passes.map (onGrid (e - 40))).sum } xs

/-- The block anchor of element (i, j) of a block pair (R31). -/
def blkAnchor (ra cb : Nat) : Option Int := if ra = 0 || cb = 0 then none else some (maxExp ra + maxExp cb + 1)

/-- The block partial of element (i, j) over the k inside both bounds, with its special state (R33). -/
def blockPartial (fp32 : Bool) (a b : Oper) (i j : Nat) : Option (Int × Bp) × Sp :=
  let ks := (upTo 32).filter fun k => viewIn a.v a.br a.bc i k && viewIn b.v b.br b.bc k j
  let sp := if operSpecial a || operSpecial b then
      ks.foldl (fun x k => spAdd x (spMul (operVal a i k) (operVal b k j))) Sp.none
    else .none
  match blkAnchor (operRow a i) (operCol b j) with
  | none => (none, sp)
  | some e => (some (e, bpAdd e {} (ks.map fun k => product fp32 (operVal a i k) (operVal b k j))), sp)

/-- Larger of two optional anchors. -/
def maxAnchor : Option Int → Option Int → Option Int
  | none, x => x
  | x, none => x
  | some a, some b => some (if a < b then b else a)

/-- Formats of a product pair (R28). -/
def pairOk (a b : Nat) : Bool :=
  fmtOperand a && fmtOperand b
    && (if a = 0x03 || b = 0x03 then a == b else if a = 0x06 || b = 0x06 then a == b else true)

/-! ### Anchors and observations (R38, R41, R54, R519) -/

/-- The entry of an anchor or observation table that belongs to a destination block. -/
def ancIdx (t : Td) (p : BlkPos) : List Nat :=
  if tdCount t = 1 then [0, 0, 0, 0, 0] else [p.bc, p.br, p.o2, p.o3, p.o4]

/-- The cumulative raise of an operation, a combine by the number of its routing entry (R54, R179). -/
def raiseOf (c : Cur) (sel : OpSel) (n : Nat := 0) : Int :=
  (((c.p.raises.filter fun r => r.1 == (c.f.index + 65536 * n, sel)).map fun r => r.2).sum : Nat)

/-- A PINNED anchor from the operation's table, with the raises in force (R54). The sum is taken as an integer: that it may
leave the 16 bits of an anchor, and is neither wrapped nor clamped until the anchor planes are written, is a DESIGN CHOICE
(log 135). -/
def pinnedAnchor (s : State) (c : Cur) (sel : OpSel) (tab : Nat) (t : Nat) (p : BlkPos) (n : Nat := 0) : State × Int :=
  let td := tdOf c.f tab
  let x := readTensAt s (opEng c sel td t) .dev td [ancIdx td p]
  (x.1, toSigned 16 (ofSigned 16 (valInt (tensVal x.2 (ancIdx td p)))) + raiseOf c sel n)

/-- Record an observation of a destination block (R41, R519). -/
def observe (s : State) (c : Cur) (sel : OpSel) (tab : Nat) (t : Nat) (p : BlkPos) (v : Int) : State :=
  if tab = 0xFF then s
  else
    let td := tdOf c.f tab
    let one := tdCount td == 1
    let old := match curOf s c.k with
      | some d => match d.f.obs.find? fun o => o.1 == tab with | some o => o.2 | none => -32768
      | none => -32768
    let w := if one && decide (v < old) then old else v
    let s := modPhase s c.k fun f => { f with obs := (tab, w) :: f.obs.filter fun o => o.1 != tab }
    let g := opEng c sel td t
    if td.linear then
      writeTens s g .dev td .rne (fun _ => 0) fun i => if i = ancIdx td p then .val (.fin w 0) else .keep
    else
      let q := posOf (ancIdx td p)
      writeElts s g .dev td .rne (fun _ => 0) q fun n => if n = numOf (ancIdx td p) then .val (.fin w 0) else .keep

/-- An operation's overflow: counted with its tile, and its PINNED anchors rise in a replay (R53, R54). -/
def overflowed (s : State) (k : PlanKind) (sel : OpSel) (t n : Nat) (e : Nat := 0) : State :=
  if n = 0 then s else noteOvf (tileEvent s (.plan k) 23 t n) k sel e

/-- SR draws of an operation (R46). -/
def opDraw (s : State) (c : Cur) (e : OpEntry) (n : Nat) : Nat :=
  if e.rnd = 2 then srDraw (s.rd .rngKey e.stream) (drawStep c.k c.p) e.salt n else 0

/-- Write a destination block from long partials (R43 to R46, R91); the flag of R44 is counted at the tile's die. -/
def lpsBlock (s : State) (c : Cur) (e : OpEntry) (td : Td) (p : BlkPos) (l : Nat → Lp) : Blk × Nat :=
  encodeLps td (rndOf e.rnd) (fun n => opDraw s c e (linIndex td (elemIdx p n))) (blkIn td p) l

/-! ### Placement (R523) -/

/-- Destination TDs that an operation or its tasks name, ascending. -/
def destTds (c : Cur) (sel : OpSel) (named : List Nat) : List Nat :=
  (upTo c.f.tds.length).filter fun n => named.contains n && sel != .ve

/-- Blocks of a TD. -/
def tdBlockCount (t : Td) : Nat := tdBlocks t 0 * tdBlocks t 1 * tdExt t 2 * tdExt t 3 * tdExt t 4

/-! ### Owners (R104, R121) -/

/-- Accumulation slots 8 to 12 that an entry allots. -/
def slotsOf (e : OpEntry) : List Nat := ((upTo 5).filter fun n => bit e.slots n).map (8 + ·)

/-- Blocks of one operation that a tile owns and that are live. -/
def ownedBy (f : PhaseRun) (sel : OpSel) (t : Nat) : List Owned := f.owned.filter fun o => o.sel == sel && o.tile == t

/-- Slots of a tile that hold the tags of a SCATTER, for the operation's lifetime (R119): the lowest of its entry (DESIGN CHOICE,
log 170). -/
def tagsAt (f : PhaseRun) (sel : OpSel) (t : Nat) : List Nat :=
  if sel == .gme then (slotsOf (opOf f sel)).take (mapGet (fun _ => 0) f.tagSlots t) else []

/-- A slot that no block of the tile holds and that holds no tags. -/
def freeSlot (f : PhaseRun) (sel : OpSel) (t : Nat) : Option Nat :=
  (slotsOf (opOf f sel)).find? fun n =>
    !(tagsAt f sel t).contains n && (f.owned.filter fun o => o.tile == t).all fun o => o.slot != some n

/-- The long partials of an owned block, as they are read. -/
def ownedLps (s : State) (k : PlanKind) (o : Owned) : State × List Lp :=
  match o.slot with
  | some n => accRead s (.plan k) o.tile n
  | none => (s, o.lps)

/-- The blocks of an operation's scratch tensor in a tile's own SRAM, in the tensor's order (R121). -/
def scratchSpots (s : State) (f : PhaseRun) (sel : OpSel) (t : Nat) : List BlkPos :=
  let e := opOf f sel
  if f.tds.length ≤ e.scratch then []
  else (tdPositions (tdOf f e.scratch)).filter fun p => ownerTile s (hdrAddr (tdOf f e.scratch) p) == some t

/-- The block of scratch that a block of a tile takes: the one it has, or the first that no other holds (DESIGN CHOICE,
log 50). -/
def scratchNo (f : PhaseRun) (o : Owned) : Nat :=
  match o.scr with
  | some j => j
  | none =>
    let used := (ownedBy f o.sel o.tile).filterMap Owned.scr
    ((upTo (used.length + 1)).find? fun j => !used.contains j).getD 0

/-- A block held in scratch is written to its owner's SRAM (R121). -/
def scratchWrite (s : State) (k : PlanKind) (o : Owned) (j : Nat) (l : List Lp) : State :=
  match curOf s k with
  | none => s
  | some c => match (scratchSpots s c.f o.sel o.tile)[j]? with
    | none => s
    | some p =>
      let td := tdOf c.f (opOf c.f o.sel).scratch
      writeBlock s (opEng c o.sel td o.tile) td p { fmt := 0x30, lps := l }

/-- Move a block out of its slot into scratch. -/
def evict (s : State) (k : PlanKind) (o : Owned) : State :=
  match o.slot with
  | none => s
  | some n =>
    let r := accRead s (.plan k) o.tile n
    let j := match curOf s k with | some c => scratchNo c.f o | none => 0
    let s := scratchWrite r.1 k o j r.2
    accClear (modPhase s k fun f => { f with
      owned := updWhere (· == o) (fun q => { q with slot := none, lps := r.2, scr := some j }) f.owned }) o.tile n

/-- The owned block at a spot, if it is live. -/
def findOwned (f : PhaseRun) (sel : OpSel) (q : Spot) : Option Owned :=
  f.owned.find? fun o => o.sel == sel && o.spot == q

/-- A block becomes the most recently folded one of its tile. -/
def touchOwned (f : PhaseRun) (o : Owned) : PhaseRun := { f with owned := f.owned.filter (· != o) ++ [o] }

/-- The tile takes the block into a slot: a free one, or the one of its least recently folded block; with no slot
allotted it stays in scratch (R121). -/
def bringIn (s : State) (k : PlanKind) (o : Owned) : State :=
  match o.slot with
  | some _ => modPhase s k fun f => touchOwned f o
  | none =>
    match curOf s k with
    | none => s
    | some c =>
      if (slotsOf (opOf c.f o.sel)).isEmpty then modPhase s k fun f => touchOwned f o
      else
        let s := match freeSlot c.f o.sel o.tile with
          | some _ => s
          | none => match (ownedBy c.f o.sel o.tile).find? fun q => q.slot.isSome with
            | some q => evict s k q
            | none => s
        match curOf s k with
        | none => s
        | some c => match freeSlot c.f o.sel o.tile with
          | none => s
          | some n =>
            let s := accSet s o.tile n o.lps
            modPhase s k fun f => { f with
              owned := f.owned.filter (· != o) ++ [{ o with slot := some n, lps := [], scr := none }] }

/-- Store new long partials of an owned block: in its slot, or as a read-modify-write of its scratch (R121). -/
def setOwnedLps (s : State) (k : PlanKind) (o : Owned) (l : List Lp) : State :=
  match o.slot with
  | some n => accSet s o.tile n l
  | none =>
    let j := match curOf s k with | some c => scratchNo c.f o | none => 0
    modPhase (scratchWrite s k o j l) k fun f =>
      { f with owned := updWhere (· == o) (fun q => { q with lps := l, scr := some j }) f.owned }

/-- The block is no longer live: its slot is released. -/
def dropOwned (s : State) (k : PlanKind) (o : Owned) : State :=
  let s := match o.slot with
    | some n => accClear s o.tile n
    | none => s
  modPhase s k fun f => { f with owned := f.owned.filter (· != o) }

/-- Read the long partials of a CIN block (R91). -/
def readCin (s : State) (c : Cur) (sel : OpSel) (cin t : Nat) (p : BlkPos) : State × List Lp :=
  let td := tdOf c.f cin
  let r := readBlock s (opEng c sel td t) .dev td p
  (r.1, r.2.lps)

/-- The last write of a destination block has been made: its ready bit is set (R20). -/
def setReady (s : State) (k : PlanKind) (a : Nat) : State :=
  modPhase s k fun f => { f with openOut := f.openOut.filter (· != a), ready := if f.ready.contains a then f.ready else f.ready ++ [a] }

/-- Packets of the phase for a fenced tile's local port: discarded at its router, and the step fails at once (R305). -/
def fencedDrop (s : State) (k : PlanKind) (src t n : Nat) : State := meshLost s (.plan k) 32 4 t src t n

/-- Write some elements of a block that an operation writes in parts. Where an MX scale spans the rows of the block
(MXAXIS = 1), the elements written so far are kept unrounded, so that each is rounded once, under the scale of the whole
block, however the operation's work is cut (R45, R106, R112, R118). -/
def writePart (s : State) (c : Cur) (sel : OpSel) (td : Td) (t : Nat) (rnd : Rnd) (draw : Nat → Nat) (p : BlkPos)
    (e : Nat → Elt) : State :=
  let g := opEng c sel td t
  if !(fmtMx td.fmt && td.mxaxis && !td.mask) then writeElts s g .dev td rnd draw p e
  else if (upTo 1024).all fun n => !blkIn td p n || (e n).isKeep then s
  else
    let a := hdrAddr td p
    let raws := match curOf s c.k with | some d => d.f.raws | none => []
    let old : State × List Elt := match raws.find? fun q => q.1 == a with
      | some q => (s, q.2)
      | none =>
        if (upTo 1024).all fun n => !blkIn td p n || !(e n).isKeep then (s, [])
        else
          let r := readBlock s { g with owner := none, tile := ownerTile s a } .dev td p
          (r.1, (upTo 1024).map fun n => .val (blkVal r.2 n))
    let new := (upTo 1024).map fun n => if (e n).isKeep then old.2.getD n (.val (.fin 0 0)) else e n
    let s := modPhase old.1 c.k fun f => { f with raws := mapIns f.raws a new }
    writeElts s g .dev td rnd draw p fun n => new.getD n .keep

/-- Send contributions of tile t to their owners; a fenced owner's are dropped (R305), and those whose way is down (R307). -/
def sendFly (s : State) (k : PlanKind) (t : Nat) (l : List Contrib) : State :=
  l.foldl (fun s x =>
    if tileFenced s x.owner then fencedDrop s k t x.owner 1
    else match pathStop s t x.owner with
      | some r => meshLost s (.plan k) 33 3 r t x.owner 1
      | none => modPhase s k fun f => { f with fly := f.fly ++ [x] }) s

/-- A block's place in its tensor, and the spot of block b = 0 of its superblock (R61, R83). -/
def spotPos (q : Spot) : BlkPos := ⟨q.bc, q.br, q.o2, q.o3, q.o4⟩
def superSpot (q : Spot) : Spot := { q with bc := q.bc / 8 * 8, br := q.br / 8 * 8 }

/-- Destinations of the launches that routing entries append to an operation (TASKOP `o`): its entry's C_TD, or RET_TD (R191). -/
def routeDests (f : PhaseRun) (o : Nat) (e : OpEntry) : List Nat :=
  (f.routes.filter fun r => fld r 9 1 == o).map fun r => if e.c = 0xFF then fld r 5 1 else e.c

/-- Destination TDs of the dense operation, ascending: those that its records, its entry and its launches name (R523). -/
def denseDests (f : PhaseRun) : List Nat :=
  (upTo f.tds.length).filter fun n => f.dense.c == n || f.placeDense.contains n || (routeDests f 0 f.dense).contains n

/-- Destination TDs of the GME operation, ascending (R125, R523). -/
def gmeDests (f : PhaseRun) : List Nat :=
  let e := f.gme.getD {}
  (upTo f.tds.length).filter fun n => e.c == n || f.placeGme.contains n || (routeDests f 1 e).contains n

/-- Destination TDs that the records of an operation name. -/
def opDests (f : PhaseRun) : OpSel → List Nat
  | .dense => denseDests f
  | .gme => gmeDests f
  | .ve => f.vePacked
  | .route => []

/-- Bytes of scratch that a PACKED superblock takes: a header plane and 64 DENSE payloads (R83). -/
def superBuf (td : Td) : Nat := 8192 + 64 * denseSize td.fmt

/-- Where the scratch tensor keeps the superblock of a spot: the operation's superblocks one after another, in the order of the
descriptor table and of their tensors (log 155). -/
def packedBuf (f : PhaseRun) (sel : OpSel) (q : Spot) : Option Nat :=
  let e := opOf f sel
  if f.tds.length ≤ e.scratch then none
  else
    let pk := ((opDests f sel).filter fun n => (tdOf f n).packed).takeWhile (· != q.td)
    let td := tdOf f q.td
    some ((tdFoot (tdOf f e.scratch)).1 + (pk.map fun n => (superPositions (tdOf f n)).length * superBuf (tdOf f n)).sum
      + (superPositions td).findIdx (· == spotPos (superSpot q)) * superBuf td)

/-- The writer keeps an encoded block in the operation's scratch until its superblock is complete (R83). -/
def packedKeep (s : State) (c : Cur) (sel : OpSel) (writer : Nat) (q : Spot) (b : Blk) : State :=
  match packedBuf c.f sel q with
  | none => s
  | some a =>
    let td := tdOf c.f q.td
    let i := q.br % 8 * 8 + q.bc % 8
    let r := buildBlk td b (i * (denseSize td.fmt / 32))
    let g := opEng c sel (tdOf c.f (opOf c.f sel).scratch) writer
    engWrite (if r.2.isEmpty then s else engWrite s g (a + 8192 + i * denseSize td.fmt) r.2) g (a + 128 * i) r.1

/-- Write a finished destination block, or send it to the writer of its PACKED superblock (R81, R83, R305). -/
def finishBlock (s : State) (c : Cur) (sel : OpSel) (t writer : Nat) (q : Spot) (b : Blk) : State :=
  let td := tdOf c.f q.td
  let p := spotPos q
  if td.packed then
    if tileFenced s writer then fencedDrop s c.k t writer 1
    else modPhase (packedKeep s c sel writer q b) c.k fun f =>
      { f with packed := f.packed ++ [{ tile := writer, sel := sel, spot := q, blk := b }] }
  else setReady (writeBlock s (opEng c sel td t) td p b) c.k (hdrAddr td p)

end Sys2Proof.Machine
end

