-- ==== Sys2Proof/Machine/Dense.lean ====
section
/-! DEFINITION. The dense arrays (R88 to R104) and the row gatherers (R105): taking tasks, header pre-pass and anchors,
folds, finishing output blocks, split-K, sheet slots, PACKED superblocks and partial-block writes. -/

namespace Sys2Proof.Machine

/-! ### Task records (R102) -/

def dtBrow (b : Bytes) : Nat := fld b 0 3
def dtA (b : Bytes) : Nat := fld b 3 1
def dtBcol (b : Bytes) : Nat := fld b 4 3
def dtB (b : Bytes) : Nat := fld b 7 1
def dtAIdx (b : Bytes) : Nat := fld b 8 2
def dtBIdx (b : Bytes) : Nat := fld b 10 2
def dtCIdx (b : Bytes) : Nat := fld b 12 2
def dtC (b : Bytes) : Nat := fld b 14 1
def dtCin (b : Bytes) : Nat := fld b 15 1
def dtLo (b : Bytes) : Nat := fld b 20 3
def dtPart (b : Bytes) : Nat := fld b 23 1
def dtHi (b : Bytes) : Nat := fld b 24 3

/-- Build a dense task record. -/
def mkDense (brow bcol a b c cin aIdx bIdx cIdx seq list : Nat) : Bytes :=
  natLe 3 brow ++ natLe 1 a ++ natLe 3 bcol ++ natLe 1 b ++ natLe 2 aIdx ++ natLe 2 bIdx ++ natLe 2 cIdx ++ natLe 1 c
    ++ natLe 1 cin ++ natLe 4 seq ++ natLe 3 0 ++ natLe 1 1 ++ natLe 3 0 ++ natLe 1 list ++ natLe 4 0

def dtSpot (b : Bytes) : Spot := { td := dtC b, bc := dtBcol b, br := dtBrow b, o2 := dtCIdx b }

/-- The operands of a task, as the operation reads them. -/
def viewA (f : PhaseRun) (b : Bytes) : View := ⟨tdOf f (dtA b), bit f.dense.flags 0, dtAIdx b⟩
def viewB (f : PhaseRun) (b : Bytes) : View := ⟨tdOf f (dtB b), bit f.dense.flags 1, dtBIdx b⟩

/-- n_kb: the K-blocks that lie at least partly inside both operands (R93); 1 in diagonal mode (R58). -/
def nKb (f : PhaseRun) (b : Bytes) : Nat :=
  if f.dense.kind = 2 then 1 else min (cdiv (viewCols (viewA f b)) 32) (cdiv (viewRows (viewB f b)) 32)

/-- A task is bad (R103, R104, R522). -/
def denseBad (c : Cur) (x : Task) : Bool :=
  let b := x.bytes
  let f := c.f
  let n := f.tds.length
  let rest := fld b 27 1 / 4 != 0 || !zeros b 28 4
  let tds := decide (n ≤ dtA b) || decide (n ≤ dtB b) || decide (n ≤ dtC b) || (dtCin b != 0xFF && decide (n ≤ dtCin b))
  let td := tdOf f (dtC b)
  let out := decide (tdBlocks td 0 ≤ dtBcol b) || decide (tdBlocks td 1 ≤ dtBrow b) || decide (tdExt td 2 ≤ dtCIdx b)
  let part := if dtPart b = 1 then dtLo b != 0 || dtHi b != 0
    else dtPart b == 0 || !bit f.dense.flags 3 || decide (dtHi b ≤ dtLo b) || decide (nKb f b < dtHi b)
  let rnd := (f.dense.rnd == 3) != (td.fmt == 0x30)
  (x.place.isNone && !seqOk c .dense x) || rest || tds || out || part || rnd
    || !pairOk (tdOf f (dtA b)).fmt (tdOf f (dtB b)).fmt
    || (dtCin b != 0xFF && (tdOf f (dtCin b)).fmt != 0x30)

/-! ### Operands of a task -/

/-- Rows of a launch as bytes: the element codes packed, then in an MX format one scale byte for each 32 (log 25). -/
def rowCode (td : Td) (bs : Bytes) (k : Nat) : Nat :=
  let w := fmtBits td.fmt
  leNat (slice bs (w * k / 8) 5) / 2 ^ (w * k % 8) % 2 ^ w

def rowScale (td : Td) (bs : Bytes) (k : Nat) : Nat :=
  if fmtMx td.fmt then fld bs (cdiv (fmtBits td.fmt * tdExt td 0) 8 + k / 32) 1 else 0

/-- The A block kb of a gathered launch: its rows with their own maxima (R105, R106). -/
def launchOper (v : View) (rows : List (Nat × Bytes)) (kb : Nat) : Oper :=
  let td := v.td
  let k := fun c => 32 * kb + c
  let row := fun r => (rows.getD r (0, [])).2
  let live := fun r c => decide (r < rows.length) && decide (k c < tdExt td 0)
  let els := (upTo 1024).map fun n => if live (n / 32) (n % 32) then rowCode td (row (n / 32)) (k (n % 32)) else 0
  let b : Blk := { fmt := td.fmt, els := els, scale := if fmtMx td.fmt then (upTo 32).map fun r => rowScale td (row r) (k 0) else [] }
  let h := ((upTo 32).flatMap fun r => natLe 1 (rowMaxByte b r)) ++ ((upTo 32).flatMap fun c => natLe 1 (colMaxByte b c))
    ++ zeroBytes 13 ++ natLe 1 (b2n (blkSpecial b)) ++ zeroBytes 50
  { v := { td := { td with ext := [tdExt td 0, 32, 1, 1, 1] }, trans := false, o2 := 0 }, br := 0, bc := kb, blk := b, hdr := h }

/-- The launch of a task. -/
def launchOf (f : PhaseRun) (x : Task) : Option (List (Nat × Bytes)) :=
  match x.launch with
  | some n => f.launches[n]?
  | none => none

/-- The destination block rows of a task: its own, or those of the rows of its launch (R105). -/
def taskBrs (f : PhaseRun) (x : Task) : List Nat :=
  match launchOf f x with
  | some rows => (rows.map fun r => r.1 / 32).eraseDups
  | none => [dtBrow x.bytes]

/-- Where element n of a task's block is written: destination block row and element number; `none` for a row that a launch
does not have. -/
def taskElem (f : PhaseRun) (x : Task) (n : Nat) : Option (Nat × Nat) :=
  match launchOf f x with
  | some rows => (rows[n / 32]?).map fun r => (r.1 / 32, 32 * (r.1 % 32) + n % 32)
  | none => some (dtBrow x.bytes, n)

/-- The destination block of a task in a block row. -/
def taskPos (b : Bytes) (br : Nat) : BlkPos := { spotPos (dtSpot b) with br := br }

/-- Block of A, and of B, that K-block kb takes (R58 for diagonal mode). -/
def aBlk (c : Cur) (x : Task) (kb : Nat) : Nat × Nat := (dtBrow x.bytes, if c.f.dense.kind = 2 then dtBcol x.bytes else kb)
def bBlk (c : Cur) (x : Task) (kb : Nat) : Nat × Nat := (if c.f.dense.kind = 2 then dtBrow x.bytes else kb, dtBcol x.bytes)

/-- The header pair of K-block kb, fetched and checked (R92). -/
def taskHeads (s : State) (c : Cur) (t : Nat) (x : Task) (kb : Nat) : State × Heads :=
  let va := viewA c.f x.bytes
  let vb := viewB c.f x.bytes
  let a := match launchOf c.f x with
    | some rows => (s, some (launchOper va rows kb).hdr)
    | none => readOperHdr s (opEng c c.sel va.td t) va (aBlk c x kb).1 (aBlk c x kb).2
  let b := readOperHdr a.1 (opEng c c.sel vb.td t) vb (bBlk c x kb).1 (bBlk c x kb).2
  (b.1, (a.2, b.2))

/-- The header pair of K-block kb: held in the feeder's header cache, or fetched (R92). -/
def kbHeads (s : State) (c : Cur) (t : Nat) (x : Task) (heads : NMap Heads) (kb : Nat) : State × Heads :=
  match heads.find? fun q => q.1 == kb with
  | some q => (s, q.2)
  | none => taskHeads s c t x kb

/-- Operand blocks of K-block kb, whose headers and first payload bytes are here. -/
def taskOperA (s : State) (c : Cur) (t : Nat) (x : Task) (kb : Nat) (h : Option Bytes) (pre : Bytes) : State × Oper :=
  let v := viewA c.f x.bytes
  match launchOf c.f x with
  | some rows => (s, launchOper v rows kb)
  | none => readOperAt s (opEng c c.sel v.td t) v (aBlk c x kb).1 (aBlk c x kb).2 h pre

def taskOperB (s : State) (c : Cur) (t : Nat) (x : Task) (kb : Nat) (h : Option Bytes) (pre : Bytes) : State × Oper :=
  let v := viewB c.f x.bytes
  readOperAt s (opEng c c.sel v.td t) v (bBlk c x kb).1 (bBlk c x kb).2 h pre

/-- Both operand blocks of K-block kb. -/
def taskOpers (s : State) (c : Cur) (t : Nat) (x : Task) (heads : NMap Heads) (kb : Nat) : State × Oper × Oper :=
  let h := kbHeads s c t x heads kb
  let a := taskOperA h.1 c t x kb h.2.1 []
  let b := taskOperB a.1 c t x kb h.2.2 []
  (b.1, a.2, b.2)

/-- Block partial of element n for a pair: of the product, or in diagonal mode of one element product (R58). -/
def pairPartial (kind : Nat) (a b : Oper) (n : Nat) : Option (Int × Bp) × Sp :=
  let i := n / 32
  let j := n % 32
  let fp := a.v.td.fmt == 0x06
  if kind = 2 then
    let x := operVal a i j
    let y := operVal b i j
    let inb := viewIn a.v a.br a.bc i j && viewIn b.v b.br b.bc i j
    let sp := if (operSpecial a || operSpecial b) && inb then spMul x y else .none
    match blkAnchor (operRow a i) (operRow b i) with
    | none => (none, sp)
    | some e => (some (e, bpAdd e {} (if inb then [product fp x y] else [])), sp)
  else blockPartial fp a b i j

/-! ### Header pre-pass (R39, R92) -/

/-- The orientation in which a task reads A; a launch's rows stand as they are. -/
def transA (c : Cur) (x : Task) : Bool := (launchOf c.f x).isNone && bit c.f.dense.flags 0

/-- Block anchor of element n from a header pair (R31, R58). -/
def headAnchor (c : Cur) (x : Task) (h : Heads) (n : Nat) : Option Int :=
  match h with
  | (some a, some b) => blkAnchor (hdrRow (transA c x) a (n / 32))
      (if c.f.dense.kind = 2 then hdrRow (bit c.f.dense.flags 1) b (n / 32) else hdrCol (bit c.f.dense.flags 1) b (n % 32))
  | _ => none

/-- Element-wise maximum of the block anchors of a list of K-blocks, and their header pairs. -/
def prepass (c : Cur) (t : Nat) (x : Task) : List Nat → State → List (Option Int) → NMap Heads →
    State × List (Option Int) × NMap Heads
  | [], s, m, hs => (s, m, hs)
  | kb :: l, s, m, hs =>
    let h := taskHeads s c t x kb
    prepass c t x l h.1 ((upTo 1024).map fun n => maxAnchor (m.getD n none) (headAnchor c x h.2 n)) (mapIns hs kb h.2)

/-- What a header pre-pass leaves: the HEADER anchors of a task's 1,024 elements (`none` where no K-block contributes), and
the header pairs that stay in the cache of 16 pairs, or in a GME's of 16 blocks (R92, R117). -/
structure Passed where
  anchors : List (Option Int)
  heads   : NMap Heads
  deriving DecidableEq, Repr

/-- Run the header pre-pass of a task. -/
def headerPass (s : State) (c : Cur) (t : Nat) (x : Task) : State × Passed :=
  let n := nKb c.f x.bytes
  let r := prepass c t x (upTo n) s [] []
  (r.1, { anchors := (upTo 1024).map fun i => (r.2.1.getD i none).map (· + (clog2 n : Int)),
          heads := if n ≤ (if c.sel = .gme then 8 else 16) then r.2.2 else [] })

/-- The largest HEADER anchor of a block, for an observation (R41). -/
def largestAnchor (l : List (Option Int)) : Int :=
  (l.filterMap id).foldl (fun a b => if a < b then b else a) (-32768)

/-- An anchor as a message carries it: 0x8000 for none (R367). -/
def anchorWord : Option Int → Nat
  | none => 0x8000
  | some a => ofSigned 16 a

def anchorOfWord (w : Nat) : Option Int := if w % 65536 = 0x8000 then none else some (toSigned 16 w)

/-! ### Folds (R37, R91) -/

/-- Fold one K-block into the long partials of a block's elements that are `mine`; the numbers count overflows and header
inconsistencies. -/
def foldPair (kind : Nat) (a b : Oper) (eOut : Nat → Int) (acc : List Lp × Nat × Nat) (mine : Nat → Bool := fun _ => true) :
    List Lp × Nat × Nat :=
  let r := (upTo 1024).map fun n =>
    let q := if mine n then pairPartial kind a b n else (none, .none)
    match q.1 with
    | some (e, bp) => (lpFold (accLp acc.1 n) (eOut n) bp.v (e - 40) q.2, bp.bad)
    | none => if q.2 = Sp.none then ((accLp acc.1 n, false), false)
              else (lpFold (accLp acc.1 n) (eOut n) 0 (eOut n - 96) q.2, false)
  (r.map fun x => x.1.1, acc.2.1 + (r.filter fun x => x.1.2).length, acc.2.2 + (r.filter fun x => x.2).length)

/-- The K-blocks a task computes. -/
def taskKbs (f : PhaseRun) (b : Bytes) : List Nat :=
  if dtPart b = 1 then upTo (nKb f b) else (upTo (dtHi b - dtLo b)).map (dtLo b + ·)

/-- Occupancy of a line of an operand block along K (R95): a DENSE block's lines all count as occupied. -/
def operOcc (o : Oper) (col : Bool) (k : Nat) : Bool :=
  (!o.hdr.isEmpty && fld o.hdr 65 1 == 0) || (upTo 32).any fun i => !valZero (if col then operVal o i k else operVal o k i)

/-- Non-zero elements of a line of an operand block along K. -/
def operNnz (o : Oper) (col : Bool) (k : Nat) : Nat :=
  ((upTo 32).filter fun i => !valZero (if col then operVal o i k else operVal o k i)).length

/-- Useful slices of a pair of blocks (R95). -/
def operUse (a b : Oper) : Nat := ((upTo 32).filter fun k => operOcc a true k && operOcc b false k).length

/-- A dense K-block is counted: with no useful slice, or executed with its useful slices (R95, R111). One with SPECIAL is
executed whatever its useful slices are. -/
def countUse (s : State) (t u : Nat) (special : Bool) : State :=
  if u = 0 && !special then cntAdd s .tilDaCnt t 2 1 else cntAdd (cntAdd s .tilDaCnt t 1 1) .tilDaCnt t 4 u

/-- Useful products of a block pair are counted: all rows of A, or those a segment computes (R116, R136). -/
def countProducts (s : State) (t : Nat) (a b : Oper) (mine : Nat → Bool) : State :=
  let nz := fun k => ((upTo 32).filter fun i => mine i && !valZero (operVal a i k)).length
  let m := ((upTo 32).map fun k => nz k * operNnz b false k).sum
  if m = 0 then s else cntAdd (cntAdd s .tilGmeCnt t 1 m) .tilGmeCnt t 2 1

/-- K-blocks that a whole task leaves out: beyond the shorter of its two operands (R93). -/
def kbElided (f : PhaseRun) (b : Bytes) : Nat :=
  if f.dense.kind = 2 || dtPart b != 1 then 0
  else max (cdiv (viewCols (viewA f b)) 32) (cdiv (viewRows (viewB f b)) 32) - nKb f b

/-- An encoding of an operand block that was not read, or reads as zero: ZERO (R64). -/
def headZero (h : Option Bytes) : Bool :=
  match h with
  | none => true
  | some b => fld b 65 1 == 2

def headSpecial (h : Option Bytes) : Bool :=
  match h with
  | none => false
  | some b => bit (fld b 77 1) 0

/-- The lines of an operand block along K that are occupied, with the payload bytes fetched to know it: a BITMAP block's
bitmap (R95; DEDUCED that the feeder fetches the bitmap before it knows u, log 136). -/
structure Occ where
  lines : List Bool
  pre   : Bytes := []
  deriving DecidableEq, Repr

def headOcc (s : State) (g : Eng) (v : View) (br bc : Nat) (h : Option Bytes) (col : Bool) : State × Occ :=
  match h with
  | none => (s, { lines := [] })
  | some b =>
    if fld b 65 1 = 0 then (s, { lines := (upTo 32).map fun _ => true })
    else if fld b 65 1 = 1 then
      let r := spRead s g .dev (payAddr v.td (viewPos v br bc) b) 128
      (r.1, { lines := (upTo 32).map fun k => (upTo 32).any fun i =>
                let n := if col then viewN v i k else viewN v k i
                bit (fld r.2 (n / 8) 1) (n % 8),
              pre := r.2 })
    else (s, { lines := [] })

/-- What the feeder knows of a K-block before it streams it (R58, R95): its useful slices, and whether it is left out, with
the payload bytes fetched so far. -/
structure KbUse where
  u    : Nat
  skip : Bool
  preA : Bytes := []
  preB : Bytes := []
  deriving DecidableEq, Repr

/-- Useful slices of K-block kb, and whether its payloads are fetched at all: with TIL_DA_CTL.ZSKIP, not where there is no
useful slice and no SPECIAL (R95, R108). In diagonal mode only a pair with a ZERO block is left out (R58). -/
def kbUse (s : State) (c : Cur) (t : Nat) (x : Task) (kb : Nat) (h : Heads) : State × KbUse :=
  let go := headSpecial h.1 || headSpecial h.2 || !bit (s.rd .tilDaCtl t) 1
  if headZero h.1 || headZero h.2 then (s, { u := 0, skip := !go })
  else if c.f.dense.kind = 2 then (s, { u := 32, skip := false })
  else
    let va := viewA c.f x.bytes
    let vb := viewB c.f x.bytes
    let a := if (launchOf c.f x).isSome then (s, { lines := (upTo 32).map fun _ => true })
      else headOcc s (opEng c c.sel va.td t) va (aBlk c x kb).1 (aBlk c x kb).2 h.1 true
    let b := headOcc a.1 (opEng c c.sel vb.td t) vb (bBlk c x kb).1 (bBlk c x kb).2 h.2 false
    let u := ((upTo 32).filter fun k => a.2.lines.getD k false && b.2.lines.getD k false).length
    (b.1, { u := u, skip := u == 0 && !go, preA := a.2.pre, preB := b.2.pre })

/-- Fold K-blocks of a dense task in order (any order gives the same bits, R48); counts of R111. -/
def foldKbs (c : Cur) (t : Nat) (x : Task) (heads : NMap Heads) (eOut : Nat → Int) : List Nat → State →
    List Lp × Nat × Nat → State × (List Lp × Nat × Nat)
  | [], s, acc => (s, acc)
  | kb :: l, s, acc =>
    let h := kbHeads s c t x heads kb
    let q := kbUse h.1 c t x kb h.2
    let s := countUse q.1 t q.2.u (headSpecial h.2.1 || headSpecial h.2.2)
    if q.2.skip then foldKbs c t x heads eOut l s acc
    else
      let a := taskOperA s c t x kb h.2.1 q.2.preA
      let b := taskOperB a.1 c t x kb h.2.2 q.2.preB
      foldKbs c t x heads eOut l b.1 (foldPair c.f.dense.kind a.2 b.2 eOut acc)

/-! ### The arrays (R90, R99) -/

/-- Slot an array claims next, and its other one: 2n and 2n + 1 alternately (R90). -/
def daSlot (s : State) (t a : Nat) : Nat := 2 * a + mapGet (fun _ => 0) s.daAlt (4 * t + a)
def daOther (s : State) (t a : Nat) : Nat := 2 * a + (1 - mapGet (fun _ => 0) s.daAlt (4 * t + a))

/-- The task at number n of a tile (`daKey`). -/
def getDa (s : State) (t n : Nat) : Option Da := (s.das.find? fun p => p.1 == daKey t n).map Prod.snd
def setDa (s : State) (t n : Nat) (d : Da) : State := { s with das := mapIns s.das (daKey t n) d }
def dropDa (s : State) (t n : Nat) : State := { s with das := mapDel s.das (daKey t n) }

/-- The task of an array that is still running. -/
def daRunning (s : State) (t a : Nat) : Option Da :=
  [daSlot s t a, daOther s t a].findSome? fun n => (getDa s t n).bind fun d => if d.folded then none else some d

/-- An array is free: it runs no task, and the slot it claims next holds none. -/
def daFree (s : State) (t a : Nat) : Bool := (daRunning s t a).isNone && (getDa s t (daSlot s t a)).isNone

/-- An array has no reserved task (R99). -/
def daOpen (s : State) (t a : Nat) : Bool := (getDa s t (8 + a)).isNone

/-- The oldest block of an array that waits for its write-back. -/
def daOldest (s : State) (t a : Nat) : Option (Nat × Da) :=
  [daSlot s t a, daOther s t a].findSome? fun n => (getDa s t n).bind fun d => if d.folded then some (n, d) else none

/-! ### GROUP rounds (R40, R366, R367) -/

/-- Members of a close group other than this device, with their bundles (R366). -/
def groupPeers (g : CloseGroup) : List (Nat × Nat) :=
  ((upTo g.n).filter (· != g.rank)).map fun i => (g.members.getD i 0, g.bundles.getD i 0)

/-- Send the anchors of an output block to every member of its close group (R40, R367); the first failure ends the
operation. -/
def sendAnchors (c : Cur) (op blk : Nat) (grp : Nat) (g : CloseGroup) (an : List (Option Int)) :
    List (Nat × Nat) → State → State × SendRes
  | [], s => (s, .ok)
  | m :: ms, s =>
    let pay := natLe 4 (c.p.step % 2 ^ 32) ++ natLe 1 c.p.attempt ++ natLe 1 op ++ natLe 2 c.f.index ++ natLe 4 blk
      ++ natLe 4 0 ++ an.flatMap fun x => natLe 2 (anchorWord x)
    match sendMsg s { peer := m.1, typ := 0x06, vc := 3, key := grp, world := g.world, ctx := .plan c.k, payload := pay,
                      bundle := if m.2 = 0xFF then none else some m.2 } with
    | (s, .ok) => sendAnchors c op blk grp g an ms s
    | r => r

/-- Close group of an operation. -/
def groupOf (s : State) (n : Nat) : CloseGroup := mapGet (fun _ => {}) s.fab.groups n

/-- The anchor messages of a block that have come from the other members. -/
def groupMsgs (s : State) (c : Cur) (op blk grp : Nat) (src : Nat) : Option AnchorMsg :=
  s.fab.anchors.find? fun m => m.group == grp && m.src == src && m.step == c.p.step % 2 ^ 32 && m.attempt == c.p.attempt
    && m.op == op && m.phase == c.f.index && m.blk == blk

/-- The element-wise maximum over the group, when every member's message is here. -/
def groupMax (s : State) (c : Cur) (op blk grp : Nat) (own : List (Option Int)) : Option (List (Option Int)) :=
  (groupPeers (groupOf s grp)).foldl (fun r m =>
    match r, groupMsgs s c op blk grp m.1 with
    | some l, some q => some (l.zipIdx.map fun x => maxAnchor x.1 (anchorOfWord (q.anchors.getD x.2 0x8000)))
    | _, _ => none) (some own)

/-- Messages of a block that has been reached leave the buffer. -/
def dropGroupMsgs (s : State) (c : Cur) (op blk grp : Nat) : State :=
  { s with fab := { s.fab with anchors := s.fab.anchors.filter fun m =>
      !(m.group == grp && m.step == c.p.step % 2 ^ 32 && m.attempt == c.p.attempt && m.op == op && m.phase == c.f.index
        && m.blk == blk) } }

/-- The linear index of a destination block (R523). -/
def spotBlk (f : PhaseRun) (q : Spot) : Nat := blkNumber (tdOf f q.td) (spotPos q)

/-- The rounds of the running phase. -/
def roundsOf (s : State) (k : PlanKind) : List (OpSel × Spot × Nat) :=
  match curOf s k with
  | some c => c.f.rounds
  | none => []

/-- Open the round of a block, one for all its parts: its first part sends the anchors (R104). -/
def openRound (s : State) (c : Cur) (q : Spot) (an : List (Option Int)) : State :=
  let e := c.f.dense
  if (roundsOf s c.k).any fun r => r.1 == .dense && r.2.1 == q then s
  else
    match sendAnchors c 0 (spotBlk c.f q) e.group (groupOf s e.group) an (groupPeers (groupOf s e.group)) s with
    | (s, .ok) => modPhase s c.k fun f => { f with rounds := f.rounds ++ [(.dense, q, 0)] }
    | (s, _) => failPlan s c.k stPeerUnreachable

/-- A part has its anchors; with the block's last part its round is over, and its messages leave the buffer. -/
def closeRound (s : State) (c : Cur) (q : Spot) (np : Nat) : State :=
  let mine := fun (r : OpSel × Spot × Nat) => r.1 == .dense && r.2.1 == q
  let n := match (roundsOf s c.k).find? mine with | some r => r.2.2 + 1 | none => np
  if n < np then modPhase s c.k fun f => { f with rounds := updWhere mine (fun r => (r.1, r.2.1, n)) f.rounds }
  else dropGroupMsgs (modPhase s c.k fun f => { f with rounds := f.rounds.filter fun r => !mine r }) c 0 (spotBlk c.f q) c.f.dense.group

/-! ### Starting a task (R90 to R92) -/

/-- Load CIN into the slot (R91): into a launch, each row from its own destination block. A part fixes its anchors as the
whole task would (R104): where CIN is live its stored anchors hold, with nothing added yet, since the block's owner adds CIN
itself. -/
def loadCin (s : State) (c : Cur) (t slot : Nat) (x : Task) : State :=
  let b := x.bytes
  if dtCin b = 0xFF then s
  else
    let r := (taskBrs c.f x).foldl (fun (z : State × NMap (List Lp)) br =>
      let q := readCin z.1 c .dense (dtCin b) t (taskPos b br)
      (q.1, mapIns z.2 br q.2)) (s, [])
    accSet r.1 t slot ((upTo 1024).map fun n => match taskElem c.f x n with
      | none => {}
      | some (br, m) =>
        let l := accLp (mapGet (fun _ => []) r.2 br) m
        if dtPart b = 1 then l else if l.live then ({ live := true, anchor := l.anchor } : Lp) else {})

/-- The slot is live already: every element of the destination has its anchor from CIN (R92). -/
def cinLive (s : State) (c : Cur) (t slot : Nat) (x : Task) : Bool :=
  let l := accGet s t slot
  let td := tdOf c.f (dtC x.bytes)
  dtCin x.bytes != 0xFF && (upTo 1024).all fun n => match taskElem c.f x n with
    | none => true
    | some (br, m) => !blkIn td (taskPos x.bytes br) m || (accLp l n).live

/-- The pre-pass of a task, unless it has run. -/
def daPass (s : State) (c : Cur) (t : Nat) (d : Da) : State × Da :=
  if d.passed then (s, d)
  else
    let h := headerPass s c t d.task
    (h.1, { d with passed := true, heads := h.2.heads, anchors := h.2.anchors.map fun a => (anchorWord a : Int) })

/-- The HEADER anchors of a task whose pre-pass has run. -/
def daAnchors (d : Da) : List (Option Int) := d.anchors.map fun a => anchorOfWord a.toNat

/-- Record what a PINNED task observes, for each of its destination blocks (R41, R519). The entry of a row of a launch is
that of its own destination block (DESIGN CHOICE, log 137). -/
def daObserve (s : State) (c : Cur) (t : Nat) (d : Da) : State :=
  (taskBrs c.f d.task).foldl (fun s br =>
    observe s c .dense c.f.dense.obs t (taskPos d.task.bytes br)
      (largestAnchor ((daAnchors d).zipIdx.filterMap fun x =>
        match taskElem c.f d.task x.2 with
        | some q => if q.1 = br then some x.1 else none
        | none => none))) s

/-- E_out of a PINNED task: a row of a launch takes the anchor of its own destination block (R106, R519; DESIGN CHOICE,
log 137). -/
def daPinned (s : State) (c : Cur) (t : Nat) (x : Task) : State × List Int :=
  let r := (taskBrs c.f x).foldl (fun (z : State × NMap Int) br =>
    let q := pinnedAnchor z.1 c .dense c.f.dense.anc t (taskPos x.bytes br)
    (q.1, mapIns z.2 br q.2)) (s, [])
  (r.1, (upTo 1024).map fun n => match taskElem c.f x n with
    | some q => mapGet (fun _ => 0) r.2 q.1
    | none => 0)

/-- Elements of a block that a fold has not made live become LIVE with their anchors (R38, R91). -/
def allLive (l : List Lp) (eOut : Nat → Int) : List Lp :=
  (upTo 1024).map fun n => let x := accLp l n; if x.live then x else { x with live := true, anchor := eOut n }

def daOut (d : Da) (n : Nat) : Int := d.eOut.getD n 0

/-- Store what folds into a slot have made, with what they count (R34, R53). -/
def daStore (s : State) (c : Cur) (t slot : Nat) (r : List Lp × Nat × Nat) : State :=
  tileEvent (overflowed (accSet s t slot r.1) c.k .dense t r.2.1) (.plan c.k) 21 t r.2.2

/-- Fold a task into its slot, every computed element LIVE with its anchor (R38, R91). -/
def daFold (s : State) (c : Cur) (t n : Nat) (d : Da) : State :=
  let l := accRead s (.plan c.k) t d.slot
  let r := foldKbs c t d.task d.heads (daOut d) (taskKbs c.f d.task.bytes) l.1 ((upTo 1024).map fun n => accLp l.2 n, 0, 0)
  setDa (daStore r.1 c t d.slot (allLive r.2.1 (daOut d), r.2.2)) t n { d with folded := true }

/-- The blocks of a sheet's slots come from its neighbours; diagonal pairs have one slot, and are the tile's own (R100). -/
def sheetFeeds (f : PhaseRun) : Bool := f.sheet && f.dense.kind != 2

/-- E_out of a task is fixed: its folds run, in a sheet slot by slot. -/
def daFix (s : State) (c : Cur) (t n : Nat) (d : Da) (eOut : List Int) : State :=
  let d := { d with eOut := eOut }
  if sheetFeeds c.f then setDa s t n d else daFold (setDa s t n d) c t n d

/-- The operands of a task can be read. -/
def denseReady (s : State) (c : Cur) (x : Task) : Bool :=
  let w := fun n => s.fab.windows.isEmpty || tdReady s { c.f with openOut := [], gathDone := true } (tdOf c.f n)
  w (dtA x.bytes) && w (dtB x.bytes) && (dtCin x.bytes == 0xFF || w (dtCin x.bytes))

/-- A task in slot n whose operands can be read starts its anchors: CIN, pre-pass, E_out, or a GROUP round (R92). A slot
that is live already runs no pre-pass but for an observation. -/
def daBegin (s : State) (c : Cur) (t n : Nat) (d : Da) : State :=
  let e := c.f.dense
  if d.begun || !denseReady s c d.task then s
  else
    let s := loadCin s c t d.slot d.task
    let d := { d with begun := true }
    let live := cinLive s c t d.slot d.task
    let h := if (e.anchor != 2 && !live) || (e.anchor == 2 && e.obs != 0xFF) then daPass s c t d else (s, d)
    let s := if e.anchor = 2 && e.obs ≠ 0xFF then daObserve h.1 c t h.2 else h.1
    if live then daFix s c t n h.2 ((upTo 1024).map fun _ => 0)
    else if e.anchor = 2 then
      let r := daPinned s c t d.task
      daFix r.1 c t n h.2 r.2
    else if e.anchor = 1 then openRound (setDa s t n h.2) c (dtSpot d.task.bytes) (daAnchors h.2)
    else daFix s c t n h.2 ((daAnchors h.2).map fun a => a.getD 0)

/-- A task claims the next slot of array a, cleared (R90), and begins. -/
def daClaim (s : State) (c : Cur) (t a : Nat) (d : Da) : State :=
  let n := daSlot s t a
  let s := { s with daAlt := mapIns s.daAlt (4 * t + a) (1 - mapGet (fun _ => 0) s.daAlt (4 * t + a)) }
  let s := accClear (cntAdd s .tilDaCnt t 3 (kbElided c.f d.task.bytes)) t n
  daBegin (setDa s t n { d with slot := n }) c t n { d with slot := n }

/-- Start a task on array a of tile t. -/
def daStart (s : State) (c : Cur) (t a : Nat) (x : Task) : State := daClaim s c t a { k := c.k, task := x, slot := 0 }

/-- Reserve a task for array a: its pre-pass runs while the running task computes (R99). With a CIN named, whose load may
make the pre-pass needless, it waits for the slot. -/
def daReserve (s : State) (c : Cur) (t a : Nat) (x : Task) : State :=
  let d : Da := { k := c.k, task := x, slot := 0 }
  let e := c.f.dense
  if dtCin x.bytes = 0xFF && denseReady s c x && (e.anchor != 2 || e.obs != 0xFF) then
    let h := daPass s c t d
    setDa h.1 t (8 + a) h.2
  else setDa s t (8 + a) d

/-- A free array starts its reserved task. -/
def daNext (s : State) (c : Cur) (t a : Nat) : State :=
  match getDa s t (8 + a) with
  | none => s
  | some d => if daFree s t a then daClaim (dropDa s t (8 + a)) c t a d else s

/-- The anchors of a GROUP round, when they have all come. -/
def daGroup (s : State) (c : Cur) (d : Da) : Option (List (Option Int)) :=
  groupMax s c 0 (spotBlk c.f (dtSpot d.task.bytes)) c.f.dense.group (daAnchors d)

/-- A task waits for its GROUP round. -/
def daWaits (d : Da) : Bool := d.begun && d.eOut.isEmpty && !d.folded

/-- A task whose operands have become readable begins; one whose GROUP round has ended has its anchors. -/
def daGo (s : State) (c : Cur) (t n : Nat) : State :=
  match getDa s t n with
  | none => s
  | some d =>
    if !d.begun then daBegin s c t n d
    else if daWaits d then
      match daGroup s c d with
      | none => s
      | some m => daFix (closeRound s c (dtSpot d.task.bytes) (dtPart d.task.bytes)) c t n d (m.map fun a => a.getD 0)
    else s

/-! ### Sheet slots (R100, R101) -/

/-- Waves of a sheet along the columns, and along the rows. -/
def sheetNx (f : PhaseRun) : Nat := cdiv (tdBlocks (tdOf f f.dense.c) 0) (2 * f.rect.2.2.1)
def sheetNy (f : PhaseRun) : Nat := cdiv (tdBlocks (tdOf f f.dense.c) 1) (2 * f.rect.2.2.2)

/-- A tile's place in the sheet. -/
def sheetU (f : PhaseRun) (t : Nat) : Nat := t % 48 - f.rect.1
def sheetV (f : PhaseRun) (t : Nat) : Nat := t / 48 - f.rect.2.1

/-- The wave of a task. -/
def sheetWave (f : PhaseRun) (b : Bytes) : Nat :=
  dtBrow b / (2 * f.rect.2.2.2) * sheetNx f + dtBcol b / (2 * f.rect.2.2.1)

/-- Which of a tile's two block rows, and block columns, a wave computes. -/
def sheetRows (f : PhaseRun) (t w : Nat) : List Nat :=
  (upTo 2).filter fun i => decide (2 * f.rect.2.2.2 * (w / sheetNx f) + 2 * sheetV f t + i < tdBlocks (tdOf f f.dense.c) 1)
def sheetCols (f : PhaseRun) (t w : Nat) : List Nat :=
  (upTo 2).filter fun i => decide (2 * f.rect.2.2.1 * (w % sheetNx f) + 2 * sheetU f t + i < tdBlocks (tdOf f f.dense.c) 0)

/-- The wave has work for the tile. -/
def sheetHas (f : PhaseRun) (t w : Nat) : Bool := !(sheetRows f t w).isEmpty && !(sheetCols f t w).isEmpty

/-- n_kb of a sheet operation. -/
def sheetKb (f : PhaseRun) : Nat :=
  nKb f (mkDense 0 0 f.dense.a f.dense.b f.dense.c f.dense.cin 0 0 0 0 0)

/-- Blocks that a tile's neighbour forwards to it for each slot but the first of a wave: one for each of its block columns
from the north, one for each of its block rows from the west, and none at the sheet's own edge (R100). -/
def sheetDue (f : PhaseRun) (t : Nat) (north : Bool) (w : Nat) : Nat :=
  if !sheetHas f t w || (if north then sheetV f t else sheetU f t) = 0 then 0
  else if north then (sheetCols f t w).length else (sheetRows f t w).length

/-- The slot of the j-th block of a direction, over a list of waves. -/
def slotOfBlk (f : PhaseRun) (t : Nat) (north : Bool) (nkb : Nat) : List Nat → Nat → Nat
  | [], _ => 0
  | w :: ws, j =>
    let m := sheetDue f t north w
    if j < m * (nkb - 1) then (w * nkb + j / m + 1) % 65536 else slotOfBlk f t north nkb ws (j - m * (nkb - 1))

/-- The slot in which the next forwarded block of a direction is to be used. The global slot number is 0 at the phase's
start, and a wave's slots follow those of the wave before (DESIGN CHOICE, log 138). -/
def expectedSlot (f : PhaseRun) (t : Nat) (north : Bool) (nkb : Nat) : Nat :=
  slotOfBlk f t north nkb (upTo (sheetNx f * sheetNy f)) (mapGet (fun _ => 0) f.arrivals (2 * t + b2n north))

/-- TIL_SLOT_ERR captures the first mismatch since it was read (R110). -/
def slotErr (s : State) (c : Cur) (t : Nat) (north : Bool) (ex got : Nat) : State :=
  let s := tileEvent s (.plan c.k) 25 t 1
  if bit (s.rd .tilSlotErr t) 63 then s
  else s.wr .tilSlotErr t 0 (2 ^ 63 + b2n north * 2 ^ 62 + ex * 2 ^ 40 + got * 2 ^ 24 + c.f.index % 65536)

/-- The task of a wave at array 2r + c, once its E_out is fixed: its number and itself. -/
def sheetDa (s : State) (f : PhaseRun) (t w r c : Nat) : Option (Nat × Da) :=
  let a := 2 * r + c
  [2 * a, 2 * a + 1].findSome? fun n => (getDa s t n).bind fun d =>
    if !d.folded && !d.eOut.isEmpty && sheetWave f d.task.bytes == w then some (n, d) else none

/-- The blocks that have come for a tile from a direction, oldest first. -/
def sheetCame (f : PhaseRun) (t : Nat) (north : Bool) : List SheetBlk :=
  f.sheetIn.filter fun x => x.tile == t && x.north == north

/-- Forward the blocks used in slot sl to a neighbour that uses them in its next slot of the same wave (R100; DEDUCED that a
block no slot of the neighbour uses is not forwarded, log 138). -/
def sheetForward (s : State) (c : Cur) (w sl : Nat) (north : Bool) (dst : Nat) (l : List Oper) : State :=
  modPhase s c.k fun f => { f with
    sheetFly := f.sheetFly ++ l.map fun o => { tile := dst, north := north, slot := (w * sheetKb c.f + sl + 1) % 65536, oper := o } }

/-- What a tile knows of an operand block of its slot before it fetches a payload: the tile's own block by its header and
occupancy, or a block that has come (R95, R100). -/
structure SheetSrc where
  da   : Da
  hdr  : Option Bytes
  occ  : Occ
  come : Option Oper := none
  deriving DecidableEq, Repr

/-- The tile's own blocks of a direction, by their headers. -/
def sheetOwn (c : Cur) (t kb : Nat) (north : Bool) : List Da → State → State × List SheetSrc
  | [], s => (s, [])
  | d :: ds, s =>
    let h := kbHeads s c t d.task d.heads kb
    let v := if north then viewB c.f d.task.bytes else viewA c.f d.task.bytes
    let p := if north then bBlk c d.task kb else aBlk c d.task kb
    let hd := if north then h.2.2 else h.2.1
    let o := headOcc h.1 (opEng c c.sel v.td t) v p.1 p.2 hd (!north)
    let r := sheetOwn c t kb north ds o.1
    (r.1, { da := d, hdr := hd, occ := o.2 } :: r.2)

/-- The operand blocks of a slot from one direction: the tile's own, or those that have come (R100); `none` while one is
late (R101). -/
def sheetTake (s : State) (c : Cur) (t kb : Nat) (north own : Bool) (ds : List Da) : Option (State × List SheetSrc) :=
  if own then some (sheetOwn c t kb north ds s)
  else
    let l := (sheetCame c.f t north).take ds.length
    if l.length < ds.length then none
    else some (modPhase s c.k fun f => { f with sheetIn := l.foldl (fun m x => m.erase x) f.sheetIn },
      (ds.zip l).map fun q =>
        let o := q.2.oper
        { da := q.1, hdr := some o.hdr, occ := { lines := (upTo 32).map (operOcc o (!north)) }, come := some o })

/-- A pair of blocks has nothing to fetch a payload for: no useful slice and no SPECIAL, with TIL_DA_CTL.ZSKIP (R95, R108). -/
def sheetSkips (s : State) (t : Nat) (x y : SheetSrc) : Bool :=
  bit (s.rd .tilDaCtl t) 1 && !headSpecial x.hdr && !headSpecial y.hdr
    && (upTo 32).all fun k => !(x.occ.lines.getD k false && y.occ.lines.getD k false)

/-- The blocks of one direction: an own payload is fetched where a pair uses it, or where the tile forwards it (R95, R100). -/
def sheetFetch (c : Cur) (t kb : Nat) (north fwd : Bool) (others : List SheetSrc) : List SheetSrc → State → State × List Oper
  | [], s => (s, [])
  | x :: xs, s =>
    let v := if north then viewB c.f x.da.task.bytes else viewA c.f x.da.task.bytes
    let p := if north then bBlk c x.da.task kb else aBlk c x.da.task kb
    let o := match x.come with
      | some o => (s, o)
      | none =>
        if !fwd && others.all (sheetSkips s t x) then (s, { v := v, br := p.1, bc := p.2, hdr := x.hdr.getD [] })
        else readOperAt s (opEng c c.sel v.td t) v p.1 p.2 x.hdr x.occ.pre
    let r := sheetFetch c t kb north fwd others xs o.1
    (r.1, o.2 :: r.2)

/-- Fold one slot's pair at an array. -/
def sheetFold (c : Cur) (t : Nat) (last : Bool) (s : State) (x : Nat × Da) (a b : Oper) : State :=
  let l := accRead (countUse s t (operUse a b) (operSpecial a || operSpecial b)) (.plan c.k) t x.2.slot
  let r := foldPair 1 a b (daOut x.2) ((upTo 1024).map fun n => accLp l.2 n, 0, 0)
  let s := daStore l.1 c t x.2.slot (if last then (allLive r.1 (daOut x.2), r.2) else r)
  if last then setDa s t x.1 { x.2 with folded := true } else s

/-- One slot of tile t: once every array of the wave has its task and E_out, and the slot's blocks are here, the four pairs
are folded and the blocks forwarded (R100). `none` while the tile waits. -/
def sheetStep (s : State) (k : PlanKind) (t : Nat) : Option State :=
  match curOf s k with
  | none => none
  | some c =>
    let at' := mapGet (fun _ => (0, 0)) c.f.sheetAt t
    let w := at'.1
    let sl := at'.2
    let go := fun (s : State) (q : Nat × Nat) => modPhase s k fun f => { f with sheetAt := mapIns f.sheetAt t q }
    if !sheetFeeds c.f || sheetNx c.f * sheetNy c.f ≤ w then none
    else if !sheetHas c.f t w then some (go s (w + 1, 0))
    else
      let rows := sheetRows c.f t w
      let cols := sheetCols c.f t w
      let das := rows.map fun r => cols.filterMap fun j => sheetDa s c.f t w r j
      if das.any fun l => l.length < cols.length then none
      else
        let nkb := sheetKb c.f
        let u := sheetU c.f t
        let v := sheetV c.f t
        let kb := (((sl : Int) - (u : Int) - (v : Int)) % (nkb : Int)).toNat
        let ta := das.filterMap fun l => l.head?.map Prod.snd
        let tb := (das.headD []).map Prod.snd
        match sheetTake s c t kb false (u = 0 || sl = 0) ta with
        | none => none
        | some a => match sheetTake a.1 c t kb true (v = 0 || sl = 0) tb with
          | none => none
          | some b =>
            let last := decide (nkb ≤ sl + 1)
            let fa := u + 1 < c.f.rect.2.2.1 && !last && sheetHas c.f (t + 1) w
            let fb := v + 1 < c.f.rect.2.2.2 && !last && sheetHas c.f (t + 48) w
            let oa := sheetFetch c t kb false fa b.2 a.2 b.1
            let ob := sheetFetch c t kb true fb a.2 b.2 oa.1
            let s := (das.zip oa.2).foldl (fun s x => (x.1.zip ob.2).foldl (fun s y => sheetFold c t last s y.1 x.2 y.2) s) ob.1
            let s := if fa then sheetForward s c w sl false (t + 1) oa.2 else s
            let s := if fb then sheetForward s c w sl true (t + 48) ob.2 else s
            some (go s (if last then (w + 1, 0) else (w, sl + 1)))

/-- A tile of a sheet works on while its slots' blocks are here; its arrays start their reserved tasks. -/
def sheetGo (c : Cur) (t : Nat) : Nat → State → State
  | 0, s => s
  | n + 1, s => match sheetStep s c.k t with
    | none => s
    | some s => sheetGo c t n ((upTo 4).foldl (fun s a => daNext s c t a) s)

/-- What a tile's arrays can do now: begin tasks whose operands have become readable, take up the anchors of ended rounds,
work the slots of a sheet, and start reserved tasks. -/
def daResume (s : State) (c : Cur) (t : Nat) : State :=
  let s := (upTo 8).foldl (fun s n => daGo s c t n) s
  let s := (upTo 4).foldl (fun s a => daNext s c t a) s
  if sheetFeeds c.f then sheetGo c t (sheetNx c.f * sheetNy c.f * (sheetKb c.f + 1) + 1) s else s

/-! ### Taking tasks (R21, R99, R103) -/

/-- The array for a task, and whether it starts at once or is reserved: the lowest-numbered free array, else the
lowest-numbered with no reserved task; a sheet's task names its own (R99, R100, R103; the array of a reserved task is a
DESIGN CHOICE, log 139). -/
def takeArray (s : State) (t : Nat) (x : Task) : Option (Nat × Bool) :=
  let l := match x.place with
    | some (_, a) => [a]
    | none => upTo 4
  match l.find? (daFree s t) with
  | some a => some (a, true)
  | none => (l.find? (daOpen s t)).map fun a => (a, false)

/-- The next record for a tile. A sheet's tile takes the first record of its own that one of its arrays can take. -/
def denseTask (s : State) (f : PhaseRun) (t : Nat) : Option Task :=
  if f.sheet then
    let mine := fun (free : Bool) (x : Task) => match x.place with
      | some q => q.1 == t && (if free then daFree s t q.2 && daOpen s t q.2 else (takeArray s t x).isSome)
      | none => false
    match f.denseQ.find? (mine true) with
    | some x => some x
    | none => f.denseQ.find? (mine false)
  else headTask s f .dense t

/-- Output blocks at whose spot no task will finish any more because its task was discarded. -/
def discardTask (s : State) (c : Cur) (t : Nat) (sel : OpSel) (x : Task) : State :=
  taskBad (popTask s c.k sel x) c.k t

/-- The TSQ of tile t has taken a task: an array starts it, or it is reserved, and the tile's arrays go on. -/
def denseTake (s : State) (c : Cur) (t : Nat) (x : Task) (q : Nat × Bool) : State :=
  let s := popTask s c.k .dense x
  daResume (if q.2 then daStart s c t q.1 x else daReserve s c t q.1 x) c t

/-- DENSE_TASK_TAKE: the TSQ of tile t takes a task from its die's list, or by stealing (R99, R103). -/
def execDenseTaskTake (t : Tile) (s : State) : Host.Outcome State Fault Refusal :=
  match curPhase s with
  | none => .next s
  | some c =>
    if !tileWorks s c t then .next s
    else
      let s := daResume s c t
      match curOf s c.k with
      | none => .next s
      | some c => match denseTask s c.f t with
        | none => .next s
        | some x =>
          if denseBad c x then .next (discardTask s c t .dense x)
          else match takeArray s t x with
            | none => .next s
            | some q => .next (denseTake s c t x q)

/-! ### Finishing (R91) -/

/-- Placement index of a destination block: the blocks of lower-numbered destination TDs come first (R523). -/
def placeIndex (f : PhaseRun) (dests : List Nat) (q : Spot) : Nat :=
  (((dests.filter fun n => decide (n < q.td)).map fun n => tdBlockCount (tdOf f n)).sum) + spotBlk f q

/-- The tile that the dense placement table names for a block, or the finishing tile where there is no table. -/
def denseOwner (f : PhaseRun) (t : Nat) (q : Spot) : Nat :=
  if f.placeD.isEmpty then t else f.placeD.getD (placeIndex f (denseDests f) q) t

/-- Another launch, not finished, has rows of the same output block. -/
def launchPends (s : State) (c : Cur) (x : Task) (br : Nat) : Bool :=
  let other := fun (y : Task) =>
    y.launch.isSome && y != x && dtBcol y.bytes == dtBcol x.bytes && (taskBrs c.f y).contains br
  c.f.denseQ.any other || s.das.any fun p => p.2.k == c.k && other p.2.task

/-- Rows of a launch are written to their own destination rows, and the ready bits of the blocks set that no other launch has
rows of (R91, R105). -/
def writeLaunch (s : State) (c : Cur) (t : Nat) (x : Task) (rows : List (Nat × Bytes)) (l : List Lp) : State :=
  let td := tdOf c.f (dtC x.bytes)
  (taskBrs c.f x).foldl (fun s br =>
    let p := taskPos x.bytes br
    let s := writePart s c .dense td t (rndOf c.f.dense.rnd) (opDraw s c c.f.dense) p fun n =>
      match rows.zipIdx.find? fun r => r.1.1 == 32 * br + n / 32 with
      | some r => .lp (accLp l (32 * r.2 + n % 32))
      | none => .keep
    if launchPends s c x br then s else setReady s c.k (hdrAddr td p)) s

/-- The finished block is rounded once, encoded and written; the slot is released (R91). -/
def finishLps (s : State) (c : Cur) (t : Nat) (x : Task) (l : List Lp) : State :=
  match launchOf c.f x with
  | some rows => writeLaunch s c t x rows l
  | none =>
    let q := dtSpot x.bytes
    let td := tdOf c.f q.td
    let b := lpsBlock s c c.f.dense td (spotPos q) fun n => accLp l n
    finishBlock (countSubst s (tileDie t) b.2) c .dense t (denseOwner c.f t (superSpot q)) q b.1

/-- The slot of a block that has been dealt with is released; its array starts its reserved task. -/
def daRelease (s : State) (c : Cur) (t n : Nat) : State := daResume (dropDa (accClear s t n) t n) c t

/-- OUTPUT_BLOCK_FINISH: the last fold of the oldest block of array a has been written (R91). -/
def execOutputBlockFinish (t : Tile) (a : Fin 4) (s : State) : Host.Outcome State Fault Refusal :=
  match curPhase s with
  | none => .next s
  | some c =>
    let s := daResume s c t
    match daOldest s t a with
    | none => .next s
    | some (n, d) =>
      if dtPart d.task.bytes ≠ 1 then .next s
      else
        let l := accRead s (.plan c.k) t n
        .next (daRelease (finishLps l.1 c t d.task l.2) c t n)

/-! ### Split-K (R104) -/

/-- Contributions of a part for its owner: the block's row pieces, then its CLOSE. -/
def partPieces (owner : Nat) (q : Spot) (l : List Lp) (kbs npart : Nat) : List Contrib :=
  ((upTo 32).map fun r => { owner := owner, sel := .dense, kind := .lps, spot := q, row := r, lps := (upTo 32).map fun j => accLp l (32 * r + j) })
    ++ [{ owner := owner, sel := .dense, kind := .close kbs npart, spot := q }]

/-- SPLITK_PART_DONE: the part's last fold is written; its row pieces and its CLOSE go to the owner. -/
def execSplitkPartDone (t : Tile) (a : Fin 4) (s : State) : Host.Outcome State Fault Refusal :=
  match curPhase s with
  | none => .next s
  | some c =>
    let s := daResume s c t
    match daOldest s t a with
    | none => .next s
    | some (n, d) =>
      let b := d.task.bytes
      if dtPart b = 1 then .next s
      else
        let q := dtSpot b
        let l := accRead s (.plan c.k) t n
        let ps := partPieces (denseOwner c.f t q) q l.2 (taskKbs c.f b).length (dtPart b)
        .next (daRelease (sendFly l.1 c.k t ps) c t n)

/-- The owner's block, made live at its first contribution, loaded from CIN if its tasks name one. -/
def ownBlock (s : State) (c : Cur) (sel : OpSel) (t : Nat) (q : Spot) (cin : Nat) : State :=
  match curOf s c.k with
  | none => s
  | some d =>
    let s := match findOwned d.f sel q with
      | some _ => s
      | none =>
        let r := if cin = 0xFF then (s, []) else readCin s c sel cin t (spotPos q)
        modPhase r.1 c.k fun f => { f with owned := f.owned ++ [{ tile := t, sel := sel, spot := q, lps := r.2, loaded := true }] }
    match curOf s c.k with
    | none => s
    | some d => match findOwned d.f sel q with
      | some o => bringIn s c.k o
      | none => s

/-- Add a row piece of long partials exactly (R52, R104, R122); `mis` handles anchor mismatches. -/
def addRow (s : State) (k : PlanKind) (o : Owned) (row : Nat) (l : List Lp) : State × Nat × Nat :=
  let cur := ownedLps s k o
  let r := l.zipIdx.map fun x => (32 * row + x.2, lpAdd (accLp cur.2 (32 * row + x.2)) x.1)
  let new := r.foldl (fun m x => lpSet m x.1 x.2.1) cur.2
  (setOwnedLps cur.1 k o new, (r.filter fun x => x.2.2.1).length, (r.filter fun x => x.2.2.2).length)

/-- The contributions for a tile's blocks of one operation that come before its next CLOSE. -/
def nextFor (f : PhaseRun) (sel : OpSel) (t : Nat) : Option Contrib := f.fly.find? fun x => x.owner == t && x.sel == sel

def dropFly (s : State) (k : PlanKind) (x : Contrib) : State := modPhase s k fun f => { f with fly := f.fly.erase x }

/-- CIN of a split-K block: the one its records name. -/
def splitCin (f : PhaseRun) (q : Spot) : Nat := ((f.cins.find? fun x => x.1 == q).map Prod.snd).getD 0xFF

/-- A CLOSE has come. -/
def addClose (kbs np : Nat) (q : Owned) : Owned :=
  { q with closes := q.closes + 1, npart := np, kcount := q.kcount + kbs }

/-- Take row pieces up to and including a CLOSE. -/
def takePieces (c : Cur) (t : Nat) : Nat → State → State
  | 0, s => s
  | n + 1, s =>
    match curOf s c.k with
    | none => s
    | some d => match nextFor d.f .dense t with
      | none => s
      | some x =>
        let s := ownBlock (dropFly s c.k x) c .dense t x.spot (splitCin d.f x.spot)
        match curOf s c.k with
        | none => s
        | some d => match findOwned d.f .dense x.spot with
          | none => s
          | some o => match x.kind with
            | .close kbs np =>
              modPhase s c.k fun f => { f with owned := updWhere (· == o) (addClose kbs np) f.owned }
            | _ =>
              let r := addRow s c.k o x.row x.lps
              takePieces c t n (tileEvent (overflowed r.1 c.k .dense t r.2.2) (.plan c.k) 22 t r.2.1)

/-- The contraction extent of the block at a spot: that of the record that names it. -/
def splitExtent (f : PhaseRun) (q : Spot) : Nat := ((f.exts.find? fun x => x.1 == q).map Prod.snd).getD 0

/-- Finish the owner's split-K blocks that have all their CLOSEs. -/
def splitFinish (s : State) (c : Cur) (t : Nat) : State :=
  match curOf s c.k with
  | none => s
  | some d => match (ownedBy d.f .dense t).find? fun o => o.npart != 0 && decide (o.npart ≤ o.closes) with
    | none => s
    | some o =>
      if o.kcount ≠ splitExtent d.f o.spot then taskBad (dropOwned s c.k o) c.k t
      else
        let l := ownedLps s c.k o
        let td := tdOf d.f o.spot.td
        let b := lpsBlock l.1 d d.f.dense td (spotPos o.spot) fun n => accLp l.2 n
        finishBlock (countSubst (dropOwned l.1 c.k o) (tileDie t) b.2) d .dense t (denseOwner d.f t (superSpot o.spot)) o.spot b.1

/-- SPLITK_CLOSE: the owner tile t receives a part's row pieces and its CLOSE (R104). -/
def execSplitkClose (t : Tile) (s : State) : Host.Outcome State Fault Refusal :=
  match curPhase s with
  | none => .next s
  | some c => .next (splitFinish (takePieces c t 33 s) c t)

/-! ### A sheet's blocks (R101) -/

/-- A forwarded block reaches tile t: the oldest on its way from that side waits for its slot. -/
def sheetTaken (f : PhaseRun) (t : Nat) (north : Bool) : PhaseRun :=
  match takeFirst (fun x : SheetBlk => x.tile == t && x.north == north) f.sheetFly with
  | none => f
  | some (x, l) => { f with
      sheetFly := l, sheetIn := f.sheetIn ++ [x]
      arrivals := mapIns f.arrivals (2 * t + b2n north) (mapGet (fun _ => 0) f.arrivals (2 * t + b2n north) + 1) }

/-- SHEET_BLOCK_ARRIVE: a forwarded block arrives with a slot number, which is compared with the feeder's own count; then
the tile works on (R101). -/
def execSheetBlockArrive (t : Tile) (north : Bool) (slot : BitVec 16) (s : State) : Host.Outcome State Fault Refusal :=
  match curPhase s with
  | none => .next s
  | some c =>
    if !c.f.sheet || !tileWorks s c t then .next s
    else
      let ex := expectedSlot c.f t north (sheetKb c.f)
      let s := if ex = slot.toNat then s else slotErr s c t north ex slot.toNat
      .next (daResume (modPhase s c.k fun f => sheetTaken f t north) c t)

/-! ### Row gatherers (R105) -/

def getGath (s : State) (d g : Nat) : Gatherer := mapGet (fun _ => {}) s.gath (16 * d + g)
def setGath (s : State) (d g : Nat) (x : Gatherer) : State :=
  { s with gath := mapSet (fun _ => {}) s.gath (16 * d + g) x }

/-- Append tasks to a die's list with the next SEQ numbers; an elided operation lists none (R206). -/
def appendTasks (s : State) (k : PlanKind) (sel : OpSel) (d : Nat) (mk : Nat → List Task) : State :=
  let s := modPhase s k fun f =>
    if f.elided.contains sel then f
    else
      let n := listedOf f sel d
      let l := mk n
      { (setQ f sel (getQ f sel ++ l)) with listed := mapSet (fun _ => 0) f.listed (listKey sel d) (n + l.length) }
  spillOut s k sel d

/-- The gathered rows launch: one task per output block column (R105). -/
def gathLaunch (s : State) (c : Cur) (d g : Nat) : State :=
  let x := getGath s d g
  if x.rows.isEmpty then s
  else match curOf s c.k with
    | none => s
    | some c =>
      let n := c.f.launches.length
      let e := c.f.dense
      let td := tdOf c.f e.c
      let hs := ((x.rows.map fun r => r.1 / 32).eraseDups).flatMap fun br =>
        (upTo (tdBlocks td 0)).map fun j => hdrAddr td ⟨j, br, 0, 0, 0⟩
      let s := setGath (modPhase s c.k fun f => { f with
        launches := f.launches ++ [x.rows], openOut := (f.openOut ++ hs).eraseDups, ready := f.ready.filter fun a => !hs.contains a }) d g {}
      appendTasks s c.k .dense d fun q => (upTo (tdBlocks (tdOf c.f e.c) 0)).map fun j =>
        { die := d, bytes := mkDense 0 j e.a e.b e.c e.cin 0 0 0 (q + j) d, want := q + j, launch := some n }

/-- Launches of a die whose tasks are not all finished: both staging block-rows may be held. -/
def heldLaunches (s : State) (c : Cur) (d : Nat) : Nat :=
  ((upTo c.f.launches.length).filter fun n =>
    c.f.denseQ.any (fun x => x.die == d && x.launch == some n) || s.das.any fun p => p.2.task.launch == some n && p.2.task.die == d).length

/-- The gatherer that an operation has bound on a die: the one that its first posting reaches (DESIGN CHOICE, log 140). -/
def gathOk (f : PhaseRun) (d g : Nat) : Bool := mapGet (fun _ => g) f.gathOf d == g

/-- Rows enter a gatherer that has room, and launch at GATHER_FILL. While both staging block-rows are held they wait
(R105). -/
def gathAdd (s : State) (c : Cur) (d g : Nat) (rows : List (Nat × Bytes)) : State :=
  if 2 ≤ heldLaunches s c d then s
  else
    let x := getGath s d g
    let y : Gatherer := { rows := x.rows ++ rows, since := if x.rows.isEmpty then s.time else x.since }
    let s := modPhase (setGath s d g y) c.k fun f => { f with gathOf := mapIns f.gathOf d g }
    if c.f.dense.gfill ≤ y.rows.length then gathLaunch s c d g else s

/-- A posting has 1 to 32 rows, and stays in one block row of its destination (R105, R106). -/
def postingOk (p : Posting) : Bool :=
  !p.rows.isEmpty && decide (p.rows.length ≤ 32)
    && p.rows.all fun r => r.1 / 32 == (p.rows.headD (0, [])).1 / 32

/-- GATHER_POSTING: rows reach gatherer g of die d, and may launch. -/
def execGatherPosting (d : Die) (g : Fin 16) (p : Posting) (s : State) : Host.Outcome State Fault Refusal :=
  if !postingOk p then .refused .illFormed
  else match curPhase s with
    | none => .next s
    | some c =>
      if !gathOpen c.f || !c.f.dies.contains d.val || !gathOk c.f d g || decide (2 ≤ heldLaunches s c d) then .next s
      else if tileFenced s c.f.dense.gtile then .next (fencedDrop s c.k (0xB00 + d.val) c.f.dense.gtile 1)
      else
        let s := if 32 < (getGath s d g).rows.length + p.rows.length then gathLaunch s c d g else s
        match curOf s c.k with
        | none => .next s
        | some c => .next (gathAdd s c d g p.rows)

/-- GATHER_FLUSH_EXPIRE: GATHER_FLUSH µs of the global time base have passed since the first gathered row. -/
def execGatherFlushExpire (d : Die) (g : Fin 16) (s : State) : Host.Outcome State Fault Refusal :=
  match curPhase s with
  | none => .next s
  | some c =>
    let x := getGath s d g
    if c.f.dense.gflush ≠ 0 && !x.rows.isEmpty && decide (x.since + 1000 * c.f.dense.gflush ≤ s.time) then
      .next (gathLaunch s c d g)
    else .next s

/-- The gatherers of the running phase that hold rows: (die, gatherer). -/
def gathHolds (s : State) : List (Nat × Nat) := (s.gath.filter fun q => !q.2.rows.isEmpty).map fun q => (q.1 / 16, q.1 % 16)

/-- The operation's producers have closed: what the gatherers still hold launches (R105). -/
def gathClose (s : State) (c : Cur) : State :=
  modPhase ((gathHolds s).foldl (fun s q => gathLaunch s c q.1 q.2) s) c.k fun f => { f with gathDone := true }

/-! ### PACKED superblocks and partial blocks (R82, R83) -/

/-- Every task of an operation has ended: its lists are empty and no engine holds one. -/
def opEnded (s : State) (f : PhaseRun) (sel : OpSel) : Bool :=
  (getQ f sel).isEmpty && (f.fly.filter fun x => x.sel == sel).isEmpty && (f.owned.filter fun o => o.sel == sel).isEmpty
    && (match sel with
        | .dense => s.das.isEmpty && s.gath.isEmpty
        | .gme => f.gmeHeld.isEmpty
        | .ve => s.ves.all fun p => p.2.task.isNone
        | .route => true)

/-- The superblock a waiting block belongs to. -/
def samePacked (a b : PackedBlk) : Bool := a.sel == b.sel && superSpot a.spot == superSpot b.spot

/-- Write the superblock of one waiting block. -/
def packedWrite (s : State) (c : Cur) (x : PackedBlk) : State :=
  let all := c.f.packed.filter (samePacked x)
  let td := tdOf c.f x.spot.td
  let blk := fun b => match all.find? fun y => y.spot.br % 8 * 8 + y.spot.bc % 8 == b with
    | some y => y.blk
    | none => zeroBlk td
  let s := writePacked s (opEng c x.sel td x.tile) .dev td (spotPos (superSpot x.spot)) blk
  let s := modPhase s c.k fun f => { f with packed := f.packed.filter fun y => !samePacked x y }
  all.foldl (fun s y => setReady s c.k (hdrAddr td (spotPos y.spot))) s

/-- PACKED_SUPERBLOCK_WRITE: tile t writes a superblock whole, once every task has ended and its blocks are here. -/
def execPackedSuperblockWrite (t : Tile) (s : State) : Host.Outcome State Fault Refusal :=
  match curPhase s with
  | none => .next s
  | some c => match c.f.packed.find? fun x => x.tile == t.val && opEnded s c.f x.sel with
    | none => .next s
    | some x => .next (packedWrite s c x)

/-- The element that a partial-block write names, by the destination's format (log 141): a long partial as its 128-bit value
with the anchor in [143:128] and the state entry of R36 in [147:144]; else a code in [31:0], in an MX format with its scale byte in
[39:32]. -/
def mergeElt (t : Td) (v : Nat) : Elt :=
  if t.fmt = 0x30 && !t.mask then
    .lp { v := toSigned 128 v, anchor := toSigned 16 (v / 2 ^ 128), live := bit v 147, ovf := bit v 146, sp := spOfCode (bits v 145 144) }
  else .code (v % 2 ^ 32) (bits v 39 32)

/-- A partial-block write of the elements listed: those outside the bounds are dropped and counted (R77), and the block's
owner merges the others into the whole block (R82). -/
def mergeBlock (s : State) (g : Eng) (t : Td) (p : BlkPos) (els : List (Nat × Nat)) : State :=
  let out := ((els.map Prod.fst).eraseDups.filter fun n => !blkIn t p n).length
  let s := if out = 0 then s else rasBump s 64 (addrDie s (hdrAddr t p)) out
  writeElts s g .dev t .rne (fun _ => 0) p fun n =>
    match els.find? fun e => e.1 == n with
    | some e => mergeElt t e.2
    | none => .keep

/-- The context of an access that no command and no operation makes: the running phase's step, if one runs. -/
def phaseCtx (s : State) : Ctx :=
  match curPhase s with
  | some c => .plan c.k
  | none => .other

/-- BLOCK_MERGE: a partial-block write is a read-modify-write of the whole block by its owner (R82). -/
def execBlockMerge (w : World) (td : Bytes) (pos : List Nat) (els : List (Fin 1024 × BitVec 152)) (s : State) :
    Host.Outcome State Fault Refusal :=
  let t := parseTd td
  if td.length ≠ 64 || pos.length ≠ 5 then .refused .illFormed
  else if !tdOk t true false || t.packed || t.linear then .next s
  else
    let p : BlkPos := ⟨pos.getD 0 0, pos.getD 1 0, pos.getD 2 0, pos.getD 3 0, pos.getD 4 0⟩
    .next (mergeBlock s { w := w, ctx := phaseCtx s } t p (els.map fun e => (e.1.val, e.2.toNat)))

end Sys2Proof.Machine
end

