-- ==== Sys2Proof/Machine/Events.lean ====
section
/-! DEFINITION. The event controller (R458 to R464): doorbells, claims, ends of service, records and the wake pin. -/

namespace Sys2Proof.Machine

/-- A write of a world's doorbell register (R458): a source of the other world is denied, a reserved bit is a bad access. -/
def doorbellWrite (s : State) (w : World) (v : Nat) : State :=
  if evtWorld s (bits v 11 0) ≠ w then countDenied s 0
  else if bits v 15 12 ≠ 0 then countBadAccess s
  else evcFire s (bits v 11 0) (bits v 31 16)

/-- Source n is READY, enabled and aimed at a target (R460). -/
def deliverable (s : State) (ring : Bool) (idx n : Nat) : Bool :=
  let x := s.rd .evcSrc n
  bit x 63 && !bit x 62 && bit x 61 && bit x 60 == ring && bits x 59 46 == idx

/-- The sources whose register has been written. -/
def listedSrcs (s : State) : List Nat :=
  s.regs.filterMap fun p => if 0x908000 ≤ p.1 && p.1 < 0x910000 then some ((p.1 - 0x908000) / 8) else none

/-- The source a target takes next: the highest PRIO, and among equals the lowest number (R461). -/
def nextSource (s : State) (ring : Bool) (idx : Nat) : Option Nat :=
  ((listedSrcs s).filter (deliverable s ring idx)).foldl (fun b n => match b with
    | none => some n
    | some m => if bits (s.rd .evcSrc m) 45 42 < bits (s.rd .evcSrc n) 45 42 then some n else some m) none

/-- The interrupt line of core c: a READY source for it has a PRIO above every source ACTIVE at it (R461). -/
def coreLine (s : State) (c : Nat) : Bool :=
  let active := (listedSrcs s).filter fun n => let x := s.rd .evcSrc n; bit x 62 && !bit x 60 && bits x 59 46 == c
  match nextSource s false c with
  | none => false
  | some n => active.all fun m => decide (bits (s.rd .evcSrc m) 45 42 < bits (s.rd .evcSrc n) 45 42)

/-- A core takes a source: READY becomes ACTIVE, ATAG is PTAG, and MERGED returns to 0 (R460). -/
def takeSource (s : State) (n : Nat) : State :=
  let x := s.rd .evcSrc n
  s.wr .evcSrc n 0 (setBits (setBits (setBit (setBit x 62 true) 61 false) 39 32 0) 15 0 (bits x 31 16))

/-- A read of EVC_CLAIMc (R461, R477): the value it returns. -/
def claim (s : State) (c : Nat) : State × Nat :=
  match nextSource s false c with
  | none => (s, 0)
  | some n =>
    let x := s.rd .evcSrc n
    (takeSource s n, 2 ^ 63 + bits x 39 32 * 2 ^ 36 + bits x 45 42 * 2 ^ 32 + bits x 31 16 * 2 ^ 16 + n)

/-- End of service (R460): IDLE, or READY at once with a written PRIO, TKIND and TIDX in force (R462). -/
def endService (s : State) (n : Nat) : State :=
  let s := s.wr .evcSrc n 0 (setBit (s.rd .evcSrc n) 62 false)
  if bit (s.rd .evcSrc n) 61 then evcTakeWaiting s n else s

/-- A write of EVC_EOIc: a source not ACTIVE at that core is ignored and counted (R462). -/
def eoi (s : State) (c n : Nat) : State :=
  let x := s.rd .evcSrc n
  if bit x 62 && !bit x 60 && bits x 59 46 == c then endService s n else countDropped s 0

/-- EVENT_RECORD_WRITE: the HQE takes an event ring's next source, and its service ends with the record written or counted
lost. -/
def execEventRecordWrite (n : RingNo) (s : State) : Host.Outcome State Fault Refusal :=
  if (getRing s n).st != .active || ringType s n != 2 || decide (2 ≤ shade s) then .next s
  else match nextSource s true n with
    | none => .next s
    | some k =>
      let x := s.rd .evcSrc k
      .next (endService (putEvent (takeSource s k) n k (bits x 31 16) (natLe 4 (bits x 39 32))) k)

/-- MOD_WAKE_N: a wire-class wake. -/
def execModWakeN (s : State) : Host.Outcome State Fault Refusal := .next (if s.plat.powered then wireWake s 0 else s)

end Sys2Proof.Machine
end

