-- ==== Sys2Proof/Machine/FabricRows.lean ====
section
/-! DEFINITION. The fabric's receiving side (R358 to R374): messages that arrive, their answers, timeouts and probes; twin
mirroring's own events (R395 to R399). -/

namespace Sys2Proof.Machine

/-- Every packet of a message, with operands no packet has refused. -/
def pktsWellFormed (m : List FabPacket) : Bool := !m.isEmpty && m.all fun x => decide (x.payload.length ≤ 2048)

/-- Events of a received message count in the running training step, if there is one (R358, R390). -/
def stepCtx (s : State) : Ctx := if s.seq.train.isSome then .plan .training else .other

/-- The failed ID this part stands in for (R399). -/
def standinId (s : State) : Option Nat := let v := s.rd .mirStandin; if bit v 31 then some (v % 65536) else none

/-- The packet is addressed to this part, or to the device it stands in for. -/
def forUs (s : State) (dst : Nat) : Bool := (ownId s).isSome && (ownId s == some dst || standinId s == some dst)

/-- The address at this part: in stand-in, an inbound entry's DST in place of its SRC; `none` is DENIED (R399). -/
def localAddr (s : State) (dst a : Nat) : Option Nat :=
  if ownId s == some dst then some a
  else match (upTo 64).find? fun n =>
      bit (mirCfg s n) 31 && bit (mirCfg s n) 30 && decide ((mirSrc s n).1 ≤ a) && decide (a < (mirSrc s n).2) with
    | some n => some (s.rd .mirRegDst n + (a - (mirSrc s n).1))
    | none => none

/-- Packet checks, the peer's entry, and the secure world's attestation. -/
def msgCheck (s : State) (p : Nat) (x : FabPacket) (m : List FabPacket) : State × Verdict2 :=
  if !segsGood 0 m then
    (dieEvent (qxfErrSet s 5 p x.typ.toNat x.src.toNat x.dst.toNat) (stepCtx s) 29 (p / 16) 1, .drop)
  else peerCheck s p x.typ.toNat x.src.toNat x.dst.toNat (pktWorld x)

/-- DONE statuses (R358). -/
def doneOk : Nat := 0
def doneRetry : Nat := 1
def doneDenied : Nat := 2

/-- A message has been performed: counted and answered. -/
def performed (s : State) (x : FabPacket) : State :=
  sendDone (cntAdd s .qxfCnt 1 0 1) x.src.toNat (pktWorld x) x.msg.toNat doneOk

/-- Deliver a message that a DONE answers: `f` performs it. -/
def deliver (s : State) (p typ : Nat) (m : List FabPacket) (f : State → FabPacket → State) : State :=
  match m with
  | [] => s
  | x :: _ =>
    if x.typ.toNat ≠ typ || !forUs s x.dst.toNat then s
    else match msgCheck s p x m with
      | (s, .drop) => s
      | (s, .refuse) => if typ = 0x02 then s else sendDone s x.src.toNat .ns x.msg.toNat doneDenied
      | (s, .perform) => f s x

/-- A block message's payload of header and stored bytes goes to its place (R369), or into a reduction window; both are checked in the
packet's world (R359). -/
def putBlockMsg (s : State) (p : Option PortNo) (w : World) (a k : Nat) (bs : Bytes) (who : Nat × Nat × Nat × Nat) : State :=
  let h := bs.take 128
  let g : Eng := { w := w, ctx := .other, port := p }
  match windowAt s a with
  | some (n, win, b) =>
    let t := winTd win b
    let pa := superAddr t.1 t.2 + 8192 + 32 * fixedPoff t.1 (blkIndex t.2)
    if !rangePermitted s w true a 128 (engBlock g) || !rangePermitted s w true pa (max 1 (bs.length - 128)) (engBlock g) then
      countDenied s (addrDie s a)
    else if hdrReason t.1 h = 0 && payloadReason h (bs.drop 128) = 0 then contribute s n win b (decodeBlk t.1 h (bs.drop 128)) none who
    else layoutFail s g .dev (if hdrReason t.1 h = 0 then payloadReason h (bs.drop 128) else hdrReason t.1 h) a
  | none =>
    let pa := a - 128 * k + 8192 + 32 * fld h 68 4
    if rangePermitted s w true a 128 (engBlock g) && rangePermitted s w true pa (max 1 (bs.length - 128)) (engBlock g) then
      engWrite (engWrite s g pa (bs.drop 128)) g a h
    else countDenied s (addrDie s a)

/-- A peer's access, come in by port p. -/
def portEng (x : FabPacket) (p : PortNo) : Eng := { w := pktWorld x, ctx := .other, port := some p }

/-- What QXF_ERR captures of a packet: port, TYPE, SRC and DST (R380). -/
def pktWho (p : Nat) (x : FabPacket) : Nat × Nat × Nat × Nat := (p, x.typ.toNat, x.src.toNat, x.dst.toNat)

/-- Perform a WRITE: a check result stores nothing (R390), a block message goes block-wise, a run byte by byte. -/
def performWriteMsg (p : PortNo) (m : List FabPacket) (s : State) (x : FabPacket) : State :=
  let key := x.key.toNat
  if key = 0xFFFF then performed s x
  else match localAddr s x.dst.toNat x.addr.toNat with
    | none => sendDone s x.src.toNat (pktWorld x) x.msg.toNat doneDenied
    | some a =>
      let bs := msgBytes m
      let s := if 0x8000 ≤ key then putBlockMsg s (some p) (pktWorld x) a (key % 64) bs (pktWho p x)
        else engWrite s (portEng x p) a bs
      performed s x

/-- FABRIC_WRITE (R358, R370). -/
def execFabricWrite (p : PortNo) (m : List FabPacket) (s : State) : Host.Outcome State Fault Refusal :=
  if pktsWellFormed m then .next (deliver s p 0x01 m (performWriteMsg p m)) else .refused .illFormed

/-- Perform a READ and answer with RESPONSE packets. -/
def performReadMsg (p : PortNo) (m : List FabPacket) (s : State) (x : FabPacket) : State :=
  let n := min 65536 (fld (msgBytes m) 0 4)
  match localAddr s x.dst.toNat x.addr.toNat with
  | none => sendDone s x.src.toNat (pktWorld x) x.msg.toNat doneDenied
  | some a =>
    let r := engRead s (portEng x p) a n
    (sendMsg (cntAdd r.1 .qxfCnt 1 0 1)
      { peer := x.src.toNat, typ := 0x03, vc := 1, addr := x.addr.toNat, world := pktWorld x, ctx := .other,
        payload := r.2, msg := some x.msg.toNat }).1

/-- FABRIC_READ (R358). -/
def execFabricRead (p : PortNo) (m : List FabPacket) (s : State) : Host.Outcome State Fault Refusal :=
  if pktsWellFormed m then .next (deliver s p 0x02 m (performReadMsg p m)) else .refused .illFormed

/-- The message of ours that an answer from `src` names. -/
def findOut (s : State) (src msg : Nat) : Option OutMsg := s.fab.out.find? fun o => o.peer == src && o.msg == msg

/-- Change that message. -/
def modOut (s : State) (src msg : Nat) (f : OutMsg → OutMsg) : State :=
  { s with fab := { s.fab with out := updWhere (fun m => m.peer == src && m.msg == msg) f s.fab.out } }

/-- It has its answer. -/
def dropOut (s : State) (src msg : Nat) : State :=
  flushQueued src 256
    { s with fab := { s.fab with out := s.fab.out.filter fun o => !(o.peer == src && o.msg == msg) } }

/-- RESPONSE data reaches what asked for it: a command's fetched bytes, or between phases a granule repaired from the twin
(R393). -/
def takeResponse (s : State) (o : OutMsg) (bs : Bytes) : State :=
  match o.ctx with
  | .cmd iid => modIssued s iid fun c => { c with fetched := putBytes c.fetched o.into bs }
  | .plan k => match getPlan s k with
    | some p => if p.phase.isSome then modIssued s p.iid fun c => { c with fetched := putBytes c.fetched o.into bs }
      else rasBump (performWrite s .other o.into bs) 75 (addrDie s o.into) 1
    | none => s
  | _ => s

/-- The RESPONSE's own checks, then its data. -/
def responseTake (s : State) (p : Nat) (m : List FabPacket) : State × Option Ctx :=
  match m with
  | [] => (s, none)
  | x :: _ =>
    if x.typ.toNat ≠ 0x03 || !forUs s x.dst.toNat then (s, none)
    else match msgCheck s p x m with
      | (s, .perform) =>
        match findOut s x.src.toNat x.msg.toNat with
        | none => (s, none)
        | some o => (dropOut (takeResponse s o (msgBytes m)) x.src.toNat x.msg.toNat, some o.ctx)
      | (s, _) => (s, none)

/-- FABRIC_TRANSIT: HOPS is decremented and the packet leaves by its bank's entry, or is dropped (R360). -/
def execFabricTransit (p : PortNo) (x : FabPacket) (s : State) : Host.Outcome State Fault Refusal :=
  if x.payload.length > 2048 then .refused .illFormed
  else if forUs s x.dst.toNat then .next s
  else
    let inStep : Bool := match s.seq.train with
      | some r => r.members.contains x.src.toNat
      | none => false
    let ctx : Ctx := if inStep then .plan .training else .other
    let h := x.hops.toNat - 1
    let y := { x with hops := BitVec.ofNat 8 h }
    let y := { y with hpar := BitVec.ofNat 32 (Nat.xor x.hpar.toNat (Nat.xor (x.hops.toNat * 65536) (h * 65536))) }
    if h = 0 then .next (unroutable s ctx p x)
    else if (pickPort s none y).isSome then .next (routeOut (cntAdd s .qxfCnt 2 0 1) ctx none y)
    else .next (unroutable s ctx p y)

/-! ### Reductions across devices -/

/-- STEP and ATTEMPT of a RED message against the running step: older, the same, or newer (R373). -/
inductive StepAge where
  | stale
  | now
  | newer
  deriving DecidableEq, Repr

def stepAge (s : State) (step att : Nat) : StepAge :=
  match s.seq.train with
  | none => .newer
  | some r =>
    let d := (step + 65536 - r.step % 65536) % 65536
    if d = 0 then (if att = r.attempt then .now else if att < r.attempt then .stale else .newer)
    else if d < 32768 then .newer else .stale

/-- Perform a RED message (R373). -/
def performRed (m : List FabPacket) (s : State) (x : FabPacket) : State :=
  match stepAge s x.step.toNat x.attempt.toNat with
  | .stale => rasBump (cntAdd s .qxfCnt 6 0 1) 66 (addrDie s x.addr.toNat) 1
  | .newer => sendDone (cntAdd s .qxfCnt 6 0 1) x.src.toNat (pktWorld x) x.msg.toNat doneRetry
  | .now => performed (putBlockMsg s none (pktWorld x) x.addr.toNat 0 (msgBytes m) (pktWho 0 x)) x

/-- REDUCTION_CONTRIBUTION: a RED message, or a local engine's write of a whole block, into a window (R370). -/
def execReductionContribution (w : World) (own : Bool) (m : List FabPacket) (s : State) :
    Host.Outcome State Fault Refusal :=
  if !pktsWellFormed m then .refused .illFormed
  else if own then
    match m with
    | [] => .next s
    | x :: _ =>
      if (windowAt s x.addr.toNat).isSome then .next (putBlockMsg s none w x.addr.toNat 0 (msgBytes m) (ownWho s)) else .next s
  else .next (deliver s 0 0x04 m (performRed m))

/-- REDUCTION_WAIT_TIMEOUT: a read of a window's block has waited beyond QUEUE_LIMIT (R370). -/
def execReductionWaitTimeout (k : PlanKind) (win : Fin 64) (blk : Nat) (s : State) : Host.Outcome State Fault Refusal :=
  let w := mapGet (fun _ => {}) s.fab.windows win.val
  if (getPlan s k).isSome && w.valid && winCount s w blk != w.ncontrib then .next (failPlan s k stTimeout) else .next s

/-! ### Anchor rounds -/

/-- The bytes of an anchor message (R367). -/
def parseAnchors (g src : Nat) (bs : Bytes) : AnchorMsg :=
  { group := g, src := src, step := fld bs 0 4, attempt := fld bs 4 1, op := fld bs 5 1, phase := fld bs 6 2,
    blk := fld bs 8 4, anchors := (upTo 1024).map fun n => fld bs (16 + 2 * n) 2 }

/-- Keep an anchor message; a full buffer of 256 per group answers RETRY. -/
def performAnchors (m : List FabPacket) (s : State) (x : FabPacket) : State :=
  let g := x.key.toNat
  if 256 ≤ (s.fab.anchors.filter fun a => a.group == g).length then
    sendDone (cntAdd s .qxfCnt 6 0 1) x.src.toNat (pktWorld x) x.msg.toNat doneRetry
  else
    performed { s with fab := { s.fab with
      anchors := s.fab.anchors ++ [parseAnchors g x.src.toNat (msgBytes m)] } } x

/-- ANCHOR_MESSAGE (R367). -/
def execAnchorMessage (p : PortNo) (m : List FabPacket) (s : State) : Host.Outcome State Fault Refusal :=
  if pktsWellFormed m then .next (deliver s p 0x06 m (performAnchors m)) else .refused .illFormed

/-! ### Mirroring -/

/-- MIRROR_MESSAGE: mirrored bytes are written at this part, the twin (R374, R395). -/
def execMirrorMessage (p : PortNo) (m : List FabPacket) (s : State) : Host.Outcome State Fault Refusal :=
  if pktsWellFormed m then
    .next (deliver s p 0x07 m fun s x =>
      performed (engWrite s (portEng x p) x.addr.toNat (msgBytes m)) x)
  else .refused .illFormed

/-- Page k of an entry's seed is sent; after the last page the region is MIRRORED (R396). -/
def seedPage (s : State) (n k : Nat) : State :=
  let a := (mirSrc s n).1 + 65536 * k
  let r := rawRead s .other a 65536
  let s := mirSend r.1 .other n a r.2 (some (n, k))
  if k + 1 < bits (mirCfg s n) 22 0 then
    { s with mir := { s.mir with seeding := mapIns s.mir.seeding n (k + 1) } }
  else
    let s := { s with mir := { s.mir with seeding := mapDel s.mir.seeding n } }
    s.wrf .mirRegCfg n 0 28 28 1

/-- MIRROR_SEED_PAGE. -/
def execMirrorSeedPage (n : Fin 64) (s : State) : Host.Outcome State Fault Refusal :=
  if !bit (s.rd .mirCtl) 31 || bit (s.rd .mirStatus) 63 || !mirOut s n || (twinId s).isNone then .next s
  else match s.mir.seeding.find? fun p => p.1 == n.val with
    | none => .next s
    | some p => .next (seedPage s n p.2)

/-- Seeding of every listed entry starts anew. -/
def startSeeds (s : State) (l : List Nat) : State :=
  l.foldl (fun s n =>
    let s := s.wrf .mirRegCfg n 0 28 28 0
    { s with mir := { s.mir with seeding := mapIns s.mir.seeding n 0 } }) s

/-- Changes of VALID take effect at a step start (R394): an outbound entry that has become valid is seeded, and one that is
valid no longer is not MIRRORED. -/
def mirStart (old s : State) : State :=
  let gone := (upTo 64).filter fun n => mirOut old n && !mirOut s n
  let s := gone.foldl (fun s n => { (s.wrf .mirRegCfg n 0 28 28 0) with mir := { s.mir with seeding := mapDel s.mir.seeding n } }) s
  startSeeds s ((upTo 64).filter fun n => mirOut s n && !mirOut old n)

/-- RESEED (R412): BROKEN clears and every valid outbound entry is seeded. -/
def mirReseedAll (s : State) : State :=
  startSeeds (s.wrf .mirStatus 0 0 63 63 0) ((upTo 64).filter (mirOut s))

/-- MIRROR_RESEED. -/
def execMirrorReseed (_w : World) (s : State) : Host.Outcome State Fault Refusal := .next (mirReseedAll s)

/-- A MIRROR message timed out: mirroring breaks (R397). -/
def mirBreak (s : State) : State :=
  let s := s.wrf .mirStatus 0 0 63 63 1
  let s := ((upTo 64).filter (mirOut s)).foldl (fun s n => s.wrf .mirRegCfg n 0 28 28 0) s
  { s with
    mir := { s.mir with seeding := [] }
    fab := { s.fab with
      out := s.fab.out.filter (fun m => !m.mirror), queued := s.fab.queued.filter fun m => !m.mirror } }

/-! ### Answers, timeouts, probes -/

/-- The QSEND of the running attempt that a message carries: its plan, QID and SEQ; an answer to an older attempt's or step's
entry says nothing of this one's (R254). -/
def queueMsg (s : State) (o : OutMsg) : Option (PlanKind × Nat × Nat) :=
  match o.ctx, o.packets with
  | .plan k, x :: _ =>
    if x.typ.toNat = 0x08 && x.attempt.toNat == ctxAttempt s o.ctx % 8 && x.step.toNat == ctxStep s o.ctx % 65536
    then some (k, x.key.toNat, x.addr.toNat) else none
  | _, _ => none

/-- A QSEND's entry is in the receiver's ring or spill, and its operation is done; or the receiver has no room, and it waits
(R253; log 152). -/
def queueDone (s : State) (o : OutMsg) (room : Bool) : State :=
  match queueMsg s o with
  | none => s
  | some (k, qid, seq) => modPlan s k fun p =>
    let mine := fun (n : Nat) => match p.queues[n]? with | some u => u.qid == qid && !u.recv | none => false
    { p with
      queues := p.queues.map fun u =>
        if u.qid != qid || u.recv then u
        else if room then { u with next := seq + 1, stall := false }
        else { u with stall := true }
      phase := if !room then p.phase else p.phase.map fun f =>
        { f with qops := f.qops.map fun x => if x.send && x.sent && x.seq == seq && mine x.q then { x with done := true } else x } }

/-- A DONE (R358): OK ends the message, RETRY makes it wait to be resent, DENIED ends its command. -/
def doneTake (s : State) (src msg status : Nat) : State × Option Ctx :=
  match findOut s src msg with
  | none => (s, none)
  | some o =>
    if status = doneRetry then
      (modOut (queueDone s o false) src msg fun m => { m with retry := true }, none)
    else if status = doneDenied then (failWork (dropOut s src msg) o.ctx stAccessDenied, none)
    else (dropOut (queueDone s o true) src msg, some o.ctx)

/-- RETRY_RESEND: 10 µs after a RETRY (R358). -/
def execRetryResend (peer : DeviceId) (msg : W32) (s : State) : Host.Outcome State Fault Refusal :=
  match findOut s peer.toNat msg.toNat with
  | none => .next s
  | some o =>
    if !o.retry then .next s
    else
      let s := modOut s peer.toNat msg.toNat fun m => { m with retry := false }
      .next (routeAll s o.ctx o.bundle o.packets)

/-- The probe that is out for a peer has its answer, and messages that waited for it are given up: the step replays. -/
def probeAnswered (s : State) (src : Nat) : State :=
  let s := if peerUnreachable s src then setPeerFlag s src 3 false else s
  { s with fab := { s.fab with out := s.fab.out.filter fun m => !(m.peer == src && m.probing) } }

/-- PROBE_RECEIVE (R365): the answer to ours, or a probe to answer. -/
def execProbeReceive (src : DeviceId) (s : State) : Host.Outcome State Fault Refusal :=
  let p := src.toNat
  if (ownId s).isNone then .next s
  else match peerCheck s 0 0x0A p ((ownId s).getD 0) .ns with
    | (s, .perform) =>
      if peerUnreachable s p || s.fab.out.any (fun m => m.peer == p && m.probing) then .next (probeAnswered s p)
      else .next (sendProbe s p)
    | (s, _) => .next s

/-- A message's DONE has not come within MSG_TIMEOUT (R365, R397). -/
def msgTimeout (s : State) (o : OutMsg) : State :=
  let p := ((o.packets.head?.bind fun x => pickPort s o.bundle x)).getD 0
  let s := rasBump (cntAdd (qxfErrSet s 2 p ((o.packets.map fun x => x.typ.toNat).headD 0) ((ownId s).getD 0) o.peer)
    .qxfCnt 5 0 1) 73 (p / 16) 1
  let s := sendProbe s o.peer
  if o.mirror then mirOn (mirBreak s)
  else match o.ctx with
    | .plan k =>
      let s := modOut s o.peer o.msg fun m => { m with probing := true }
      dieEvent (cntAdd s .qxfCnt 3 0 1) (.plan k) 36 (p / 16) 1
    | c => failWork (dropOut (setPeerFlag s o.peer 3 true) o.peer o.msg) c stPeerUnreachable

/-- The plan that waits for a member's check result (R390). -/
def awaitsResult (s : State) (peer : Nat) : Option PlanKind :=
  let hit : PlanKind → Bool := fun k => match getPlan s k with
    | some p => p.st == .members && p.members.contains peer && !(p.results.map fun r => r.1).contains peer
    | none => false
  if hit .training then some .training else if hit .eval then some .eval else none

/-- A member's result has not come within MSG_TIMEOUT (R390, R365). -/
def resultTimeout (s : State) (peer msg : Nat) (k : PlanKind) : State :=
  let o : OutMsg := { peer := peer, msg := msg, packets := [], ctx := .plan k }
  msgTimeout { s with fab := { s.fab with out := s.fab.out ++ [o] } } o

/-- MSG_TIMEOUT_EXPIRE. -/
def execMsgTimeoutExpire (peer : DeviceId) (msg : W32) (s : State) : Host.Outcome State Fault Refusal :=
  match findOut s peer.toNat msg.toNat with
  | none => match awaitsResult s peer.toNat with
    | some k => .next (resultTimeout s peer.toNat msg.toNat k)
    | none => .next s
  | some o => if o.probing then .next s else .next (msgTimeout s o)

/-- PROBE_ANSWER_TIMEOUT: the probe of a message within a step has no answer (R365). -/
def execProbeAnswerTimeout (peer : DeviceId) (s : State) : Host.Outcome State Fault Refusal :=
  match s.fab.out.find? fun m => m.peer == peer.toNat && m.probing with
  | none => .next s
  | some o =>
    let s := setPeerFlag s peer.toNat 3 true
    let s := { s with fab := { s.fab with out := s.fab.out.filter fun m => !(m.peer == peer.toNat && m.probing) } }
    .next (failWork s o.ctx stPeerUnreachable)

/-- The peers marked unreachable: directory bytes with bit 3 set (R363). -/
def unreachablePeers (s : State) : List Nat :=
  (s.mem.filter fun p => decide (0x1800000 ≤ p.1) && decide (p.1 < 0x1C00000) && p.1 % 64 == 2
    && bit p.2.toNat 3 && bit p.2.toNat 0).map fun p => (p.1 - 0x1800000) / 64

/-- PROBE_INTERVAL: each unreachable peer that has a valid route is probed (R365). -/
def execProbeInterval (s : State) : Host.Outcome State Fault Refusal :=
  .next (((unreachablePeers s).filter fun p => (routeBundle s 0 p).isSome).foldl sendProbe s)

/-- PEER_CACHE_FILL: the entry is fetched, the least recently used one beyond 4,096 leaves, and what waited is sent
(R364). -/
def execPeerCacheFill (peer : DeviceId) (s : State) : Host.Outcome State Fault Refusal :=
  if s.fab.cache.contains peer.toNat || !(s.fab.queued.any fun m => m.peer == peer.toNat) then .next s
  else .next (cacheFill s peer.toNat)

end Sys2Proof.Machine
end

