-- ==== Sys2Proof/Machine/Gme.lean ====
section
/-! DEFINITION. The gather-and-merge engine (R112 to R136): sparse products, gather and scatter with owners, ragged
concatenation, sorting, selection, and cutting by non-zero count. -/

namespace Sys2Proof.Machine

/-! ### Task records (R131) -/

def gtOp (b : Bytes) : Nat := fld b 0 1
def gtFlags (b : Bytes) : Nat := fld b 1 1
def gtA (b : Bytes) : Nat := fld b 2 1
def gtB (b : Bytes) : Nat := fld b 3 1
def gtIdx (b : Bytes) : Nat := fld b 4 1
def gtAux (b : Bytes) : Nat := fld b 5 1
def gtDst (b : Bytes) : Nat := fld b 6 1
def gtParam (b : Bytes) : Nat := fld b 7 1
def gtLo (b : Bytes) : Nat := fld b 8 4
def gtHi (b : Bytes) : Nat := fld b 12 4
def gtAIdx (b : Bytes) : Nat := fld b 16 2
def gtBIdx (b : Bytes) : Nat := fld b 18 2
def gtCIdx (b : Bytes) : Nat := fld b 20 2
def gtCin (b : Bytes) : Nat := fld b 22 1
def gtPart (b : Bytes) : Bool := bit (gtFlags b) 2

/-- A as the task reads it. -/
def gViewA (f : PhaseRun) (b : Bytes) : View := ⟨tdOf f (gtA b), bit (gtFlags b) 0, gtAIdx b⟩
def gViewB (f : PhaseRun) (b : Bytes) : View := ⟨tdOf f (gtB b), bit (gtFlags b) 1, gtBIdx b⟩

/-- The TDs that an operation code needs beside A and DST: (B, IDX, AUX). -/
def gmeNeeds (op : Nat) : Bool × Bool × Bool :=
  match op with
  | 0x01 => (true, false, false)
  | 0x02 | 0x03 | 0x04 | 0x05 => (false, true, false)
  | 0x06 => (true, true, true)
  | 0x07 => (true, false, true)
  | 0x08 => (true, true, true)
  | _ => (false, false, true)

/-- SORT_KEY, MERGE_KEY and TOPK write AUX (R124, R125). -/
def gmeAuxOut (b : Bytes) : Bool := decide (7 ≤ gtOp b) && decide (gtOp b ≤ 9)

/-- The end of the range that an operation allows (R115); a product has at most 1,536 segments (R127). -/
def gmeRange (f : PhaseRun) (b : Bytes) : Nat :=
  let a := gViewA f b
  let d := tdOf f (gtDst b)
  let n := tdCount (tdOf f (gtIdx b))
  match gtOp b with
  | 0x01 => if gtPart b then (if gtHi b ≤ 1536 then gtHi b else 0) else tdBlocks d 1
  | 0x02 => tdExt d 1
  | 0x03 | 0x04 => viewRows a
  | 0x05 | 0x06 => n - 1
  | 0x07 | 0x08 => tdCount a.td
  | _ => viewRows a

/-- A task is bad (R132, R522). -/
def gmeBad (c : Cur) (x : Task) : Bool :=
  let b := x.bytes
  let n := c.f.tds.length
  let need := gmeNeeds (gtOp b)
  let named := fun (v : Nat) (must : Bool) => if v = 0xFF then must else decide (n ≤ v)
  !seqOk c .gme x || decide (8 ≤ gtFlags b) || fld b 23 1 / 4 != 0 || !zeros b 28 4
    || gtOp b == 0 || decide (9 < gtOp b) || decide (n ≤ gtA b) || decide (n ≤ gtDst b)
    || named (gtB b) need.1 || named (gtIdx b) need.2.1 || named (gtAux b) need.2.2 || named (gtCin b) false
    || (gtPart b && gtOp b != 0x01) || decide (gtHi b ≤ gtLo b) || decide (gmeRange c.f b < gtHi b)
    || (if gtOp b = 0x09 then !(decide (1 ≤ gtParam b) && decide (gtParam b ≤ 64))
        else if gtOp b = 0x08 then !(decide (2 ≤ gtParam b) && decide (gtParam b ≤ 8)) else gtParam b != 0)
    || ((c.f.gme.getD {}).rnd == 3) != ((tdOf c.f (gtDst b)).fmt == 0x30)

/-- An operation's formats and layouts are allowed; otherwise its RUN_PLAN completes with BAD_DESCRIPTOR (R28, R113,
R118, R119, R120, R123, R124). -/
def gmeDescOk (f : PhaseRun) (b : Bytes) : Bool :=
  let td := fun n => tdOf f n
  let int := fun n => n == 0xFF || ((td n).fmt == 0x20 && !(td n).mask)
  let lin := [gtA b, gtB b, gtIdx b, gtAux b, gtDst b, gtCin b].all fun n => n == 0xFF || !(td n).linear
  let op := gtOp b
  let e := f.gme.getD {}
  lin && (if op = 0x04 then int (gtIdx b) else if op = 0x09 then int (gtAux b) else if op = 0x01 then true
      else int (gtIdx b) && int (gtAux b))
    && (op != 0x01 || pairOk (td (gtA b)).fmt (td (gtB b)).fmt)
    && (!(op == 0x02 || op == 0x03) || (td (gtDst b)).fmt != 0x30 || (td (gtA b)).fmt == 0x30)
    && (op != 0x03 || !(td (gtDst b)).packed)
    && (!(op == 0x04 || op == 0x05) || e.anchor != 1)
    && (op != 0x06 || ((td (gtA b)).fmt == (td (gtB b)).fmt && (td (gtDst b)).fmt == (td (gtA b)).fmt))
    && (!(op == 0x07 || op == 0x08) || ((td (gtA b)).fmt == 0x20 && int (gtB b) && (td (gtDst b)).fmt == 0x20))
    && (op != 0x07 || decide (gtHi b - gtLo b ≤ 262144))
    && (op != 0x09 || (td (gtDst b)).fmt == (td (gtA b)).fmt)
    && (gtCin b == 0xFF || (td (gtCin b)).fmt == 0x30)

/-- TIL_GME_ERR captures the first failure since it was read (R135). -/
def gmeErr (s : State) (t op reason seq : Nat) : State :=
  if bit (s.rd .tilGmeErr t) 63 then s
  else s.wr .tilGmeErr t 0 (2 ^ 63 + op * 2 ^ 48 + reason * 2 ^ 44 + seq)

/-- A task is discarded with a reason: the step ends at once (R132). -/
def gmeFail (s : State) (k : PlanKind) (t reason : Nat) (b : Bytes) : State :=
  taskBad (gmeErr s t (gtOp b) reason (fld b 24 4)) k t

/-- Index values out of range (R114). -/
def gmeIdxRange (s : State) (t n : Nat) (b : Bytes) : State :=
  if n = 0 then s
  else rasBump (cntAdd (gmeErr s t (gtOp b) 1 (fld b 24 4)) .tilGmeCnt t 5 n) 65 (tileDie t) n

/-- Every TD a task reads can be read. -/
def gmeReady (s : State) (c : Cur) (b : Bytes) : Bool :=
  ([gtA b, gtB b, gtIdx b, gtCin b] ++ (if gtOp b = 0x04 || gtOp b = 0x06 then [gtAux b] else [])).all fun n =>
    n == 0xFF || tdReady s c.f (tdOf c.f n)

/-- The task of a tile that waits for a ready bit. -/
def heldWait (f : PhaseRun) (t : Nat) : Option GmeHeld := f.gmeHeld.find? fun h => h.tile == t && h.waits

/-- The GME of a tile takes the next task when it has operation code `op`; `f` runs it. A task that reads a tensor that is not
ready is held until it is (R134). -/
def gmeTake (s : State) (t op : Nat) (f : State → Cur → Task → State) : State :=
  match curPhase s with
  | none => s
  | some c0 =>
    let c := { c0 with sel := .gme }
    if !tileWorks s c t then s
    else match heldWait c.f t with
    | some h =>
      if gtOp h.task.bytes ≠ op || !gmeReady s c h.task.bytes then s
      else
        let s := modPhase s c.k fun g => { g with gmeHeld := g.gmeHeld.erase h }
        match curOf s c.k with
        | none => s
        | some d => f s { d with sel := .gme } h.task
    | none => match headTask s c.f .gme t with
      | none => s
      | some x =>
        if gtOp x.bytes ≠ op then s
        else if gmeBad c x then gmeFail (popTask s c.k .gme x) c.k t 3 x.bytes
        else if !gmeDescOk c.f x.bytes then failPlan s c.k stBadDescriptor
        else if !gmeReady s c x.bytes then
          modPhase (popTask s c.k .gme x) c.k fun g => { g with gmeHeld := g.gmeHeld ++ [{ tile := t, task := x, waits := true }] }
        else
          let s := popTask s c.k .gme x
          match curOf s c.k with
          | none => s
          | some d => f s { d with sel := .gme } x

/-! ### Reading lists and rows -/

def gEng (c : Cur) (td : Td) (t : Nat) : Eng := opEng c .gme td t

/-- Read a list of integers (R113). -/
def gmeList (s : State) (c : Cur) (t n : Nat) : State × List Int :=
  if n = 0xFF then (s, [])
  else let td := tdOf c.f n; let x := readTens s (gEng c td t) .dev td; (x.1, tensInts x.2)

/-- The stored index of view element (row, col). -/
def viewIdx (v : View) (r col : Nat) : List Nat := if v.trans then [r, col, v.o2, 0, 0] else [col, r, v.o2, 0, 0]

/-- Read whole rows of a view. -/
def readRows (s : State) (c : Cur) (t : Nat) (v : View) (rows : List Nat) : State × Tens :=
  readTensAt s (gEng c v.td t) .dev v.td
    (rows.flatMap fun r => (upTo (viewCols v)).map fun j => viewIdx v r j)

/-- An index value names a row of an extent. -/
def rowOf (e : Nat) (v : Int) : Option Nat := if 0 ≤ v ∧ v < (e : Int) then some v.toNat else none

/-- Values that are neither −1 nor in range. -/
def countBadIdx (e : Nat) (l : List Int) : Nat := (l.filter fun v => v != -1 && (rowOf e v).isNone).length

/-! ### Writing -/

/-- The first write of an operation to a block that its tasks share starts the block anew: the operation writes whole blocks,
every row once (R81, R118; log 43), but for elements that no task writes and that keep their contents (`old`, R79, R123).
Later tasks merge into it (R82). -/
def firstPart (f : PhaseRun) (td : Td) (p : BlkPos) (old : Bool) (e : Elt) : Elt :=
  if e.isKeep && !old && !f.begun.contains (hdrAddr td p) then (if td.fmt = 0x30 then .lp {} else .val (.fin 0 0)) else e

/-- Write elements of some block positions: into a FIXED tensor block by block, or to the writer of a PACKED superblock,
which takes whole blocks only (R81 to R83). -/
def gmeWrite (s : State) (c : Cur) (t nd : Nat) (ps : List BlkPos) (e : List Nat → Elt)
    (old : List Nat → Bool := fun _ => false) : State :=
  let td := tdOf c.f nd
  let en := c.f.gme.getD {}
  let draw := opDraw s c en
  if td.packed && ps.any (fun p => (upTo 1024).any fun n => blkIn td p n && (e (elemIdx p n)).isKeep) then
    failPlan s c.k stBadDescriptor
  else ps.foldl (fun s p =>
    if td.packed then
      let b := encodeElts td (rndOf en.rnd) (fun n => draw (linIndex td (elemIdx p n))) (zeroBlk td) (blkIn td p)
        fun n => e (elemIdx p n)
      let q : Spot := { td := nd, bc := p.bc, br := p.br, o2 := p.o2, o3 := p.o3, o4 := p.o4 }
      let w := if c.f.placeG.isEmpty then t
        else c.f.placeG.getD (placeIndex c.f (gmeDests c.f) (superSpot q)) t
      finishBlock (countSubst s (tileDie t) b.2) c .gme t w q b.1
    else
      let f := ((getPlan s c.k).bind PlanRun.phase).getD c.f
      let s := modPhase s c.k fun f => { f with begun := if f.begun.contains (hdrAddr td p) then f.begun else f.begun ++ [hdrAddr td p] }
      writePart s c .gme td t (rndOf en.rnd) draw p fun n => firstPart f td p (old (elemIdx p n)) (e (elemIdx p n))) s

/-- Block positions of the rows [lo, hi) of a destination at dimension-2 index o2. -/
def rowBlocks (td : Td) (o2 lo hi : Nat) : List BlkPos :=
  ((upTo (cdiv hi 32 - lo / 32)).map (lo / 32 + ·)).flatMap fun br => (upTo (tdBlocks td 0)).map fun bc => ⟨bc, br, o2, 0, 0⟩

/-- The destination element that takes a source element: its code where the formats agree (R118). -/
def gElt (x : Tens) (d : Td) (i : List Nat) : Elt :=
  if !inBounds x.td i then padElt x.td d
  else if x.td.fmt = 0x30 then .lp (tensLp x i)
  else if x.td.fmt = d.fmt && !fmtMx d.fmt then .code (tensCode x i)
  else .val (tensVal x i)

/-! ### GATHER (R118) -/

def gmeGatherRun (t : Nat) (s : State) (c : Cur) (x : Task) : State :=
  let b := x.bytes
  let v := gViewA c.f b
  let d := tdOf c.f (gtDst b)
  let l := gmeList s c t (gtIdx b)
  let rows := (upTo (gtHi b - gtLo b)).map fun i => l.2.getD (gtLo b + i) (-1)
  let s := gmeIdxRange l.1 t (countBadIdx (viewRows v) rows) b
  let src := readRows s c t v (rows.filterMap (rowOf (viewRows v)))
  let s := cntAdd src.1 .tilGmeCnt t 3 ((rows.filterMap (rowOf (viewRows v))).length * cdiv (viewCols v) 32)
  gmeWrite s c t (gtDst b) (rowBlocks d (gtCIdx b) (gtLo b) (gtHi b)) fun i =>
    let r := i.getD 1 0
    if r < gtLo b || gtHi b ≤ r then .keep
    else match rowOf (viewRows v) (rows.getD (r - gtLo b) (-1)) with
      | some j => gElt src.2 d (viewIdx v j (i.getD 0 0))
      | none => padElt v.td d

/-- GME_GATHER. -/
def execGmeGather (t : Tile) (s : State) : Host.Outcome State Fault Refusal := .next (gmeTake s t 0x02 (gmeGatherRun t))

/-! ### Owners of destination blocks (R119 to R122) -/

/-- The owner tile of a destination block. -/
def gmeOwner (f : PhaseRun) (q : Spot) : Nat := f.placeG.getD (placeIndex f (gmeDests f) q) 0

/-- Records that an owner-type task has been taken, so that its blocks are finished at the end. -/
def ownTask (s : State) (k : PlanKind) (b : Bytes) : State :=
  modPhase s k fun f => { f with gmeOwn := if f.gmeOwn.contains b then f.gmeOwn else f.gmeOwn ++ [b] }

/-- (source row, destination row) pairs of a scatter-type task, with the out-of-range count; `none` for offsets that are
not ascending or exceed the source (R120). -/
def scatterPairs (s : State) (c : Cur) (t : Nat) (b : Bytes) : State × Option (List (Nat × Nat) × Nat) :=
  let v := gViewA c.f b
  let d := tdOf c.f (gtDst b)
  let l := gmeList s c t (gtIdx b)
  if gtOp b = 0x05 then
    let o := l.2
    if (upTo (o.length - 1)).any (fun i => decide (o.getD (i + 1) 0 < o.getD i 0)) || o.any fun x => decide (x < 0) || decide ((viewRows v : Int) < x) then
      (l.1, none)
    else
      (l.1, some (((upTo (gtHi b - gtLo b)).flatMap fun i =>
        let a := (o.getD (gtLo b + i) 0).toNat
        (upTo ((o.getD (gtLo b + i + 1) 0).toNat - a)).map fun j => (a + j, gtLo b + i)), 0))
  else
    let rows := (upTo (gtHi b - gtLo b)).map fun i => (gtLo b + i, l.2.getD (gtLo b + i) (-1))
    (l.1, some (rows.filterMap fun r => (rowOf (tdExt d 1) r.2).map fun q => (r.1, q), countBadIdx (tdExt d 1) (rows.map Prod.snd)))

/-- The destination spot of a row piece. -/
def pieceSpot (b : Bytes) (row bc : Nat) : Spot := { td := gtDst b, bc := bc, br := row / 32, o2 := gtCIdx b }

/-! ### SCATTER (R119) -/

def gmeScatterRun (t : Nat) (s : State) (c : Cur) (x : Task) : State :=
  let b := x.bytes
  let v := gViewA c.f b
  let d := tdOf c.f (gtDst b)
  let r := scatterPairs s c t b
  match r.2 with
  | none => gmeFail r.1 c.k t 2 b
  | some (ps, bad) =>
    let s := gmeIdxRange r.1 t bad b
    let src := readRows s c t v (ps.map Prod.fst)
    let cs := ps.flatMap fun p => (upTo (tdBlocks d 0)).map fun bc =>
      let q := pieceSpot b p.2 bc
      ({ owner := gmeOwner c.f q, sel := .gme, kind := .row p.1, spot := q, row := p.2 % 32,
         els := (upTo 32).map fun j => gElt src.2 d (viewIdx v p.1 (32 * bc + j)) } : Contrib)
    ownTask (sendFly (cntAdd src.1 .tilGmeCnt t 3 cs.length) c.k t cs) c.k b

/-- GME_SCATTER. -/
def execGmeScatter (t : Tile) (s : State) : Host.Outcome State Fault Refusal := .next (gmeTake s t 0x03 (gmeScatterRun t))

/-! ### SCATTER_ACC and SEGSUM (R120) -/

/-- Row maximum byte of a row piece of a view, from its block's header. -/
def pieceMax (s : State) (c : Cur) (t : Nat) (v : View) (row bc : Nat) : State × Nat :=
  let h := readOperHdr s (gEng c v.td t) v (row / 32) bc
  (h.1, match h.2 with | some x => hdrRow v.trans x (row % 32) | none => 0)

/-- Weight of a source row: AUX in flat order. -/
def weightOf (x : Option Tens) (row : Nat) : Option Val := x.map fun y => tensVal y (idxOf y.td row)

/-- The anchor of a row piece's contributions: `none` when it contributes none. -/
def contribAnchor (m : Nat) (g : Option Val) : Option Int :=
  if m = 0 then none
  else match g with
    | none => some (maxExp m + 1)
    | some w => if maxByte w = 0 then none else some (maxExp m + maxExp (maxByte w) + 1)

/-- One element's contribution, a one-product BP48: value on its grid and special state; the flag says that the product broke
the header's maxima (R34, R120). -/
def contribVal (e : Option Int) (g : Option Val) (a : Val) : (Int × Int × Sp) × Bool :=
  let w := g.getD (.fin 1 0)
  let sp := spMul w a
  match e with
  | none => ((0, 0, sp), false)
  | some x =>
    let b := bpAdd x {} [product false w a]
    ((b.v, x - 40, sp), b.bad)

/-- Read AUX when a task names weights. -/
def readWeights (s : State) (c : Cur) (t : Nat) (b : Bytes) : State × Option Tens :=
  if gtOp b ≠ 0x04 || gtAux b = 0xFF then (s, none)
  else let td := tdOf c.f (gtAux b); let x := readTens s (gEng c td t) .dev td; (x.1, some x.2)

/-- The row pieces of a producer's task: source row, destination row, block column, anchor. -/
def accPieces (c : Cur) (t : Nat) (v : View) (d : Td) (w : Option Tens) : List (Nat × Nat) → State →
    List (Nat × Nat × Nat × Option Int) → State × List (Nat × Nat × Nat × Option Int)
  | [], s, m => (s, m)
  | p :: ps, s, m =>
    let r := (upTo (tdBlocks d 0)).foldl (fun (z : State × List (Nat × Nat × Nat × Option Int)) bc =>
      let q := pieceMax z.1 c t v p.1 bc
      (q.1, z.2 ++ [(p.1, p.2, bc, contribAnchor q.2 (weightOf w p.1))])) (s, [])
    accPieces c t v d w ps r.1 (m ++ r.2)

/-- The data pass of a task. -/
def accData (s : State) (c : Cur) (t : Nat) (b : Bytes) : State :=
  let v := gViewA c.f b
  let d := tdOf c.f (gtDst b)
  let r := scatterPairs s c t b
  match r.2 with
  | none => r.1
  | some (ps, _) =>
    let w := readWeights r.1 c t b
    let m := accPieces c t v d w.2 ps w.1 []
    let src := readRows m.1 c t v (ps.map Prod.fst)
    let cs := m.2.map fun p =>
      let q := pieceSpot b p.2.1 p.2.2.1
      let vs := (upTo 32).map fun j =>
        let i := viewIdx v p.1 (32 * p.2.2.1 + j)
        if inBounds v.td i then contribVal p.2.2.2 (weightOf w.2 p.1) (tensVal src.2 i) else ((0, 0, .none), false)
      (({ owner := gmeOwner c.f q, sel := .gme, kind := .data, spot := q, row := p.2.1 % 32,
          anchor := p.2.2.2.getD (-40000), vals := vs.map Prod.fst } : Contrib), (vs.filter Prod.snd).length)
    let s := tileEvent (cntAdd src.1 .tilGmeCnt t 3 cs.length) (.plan c.k) 21 t (cs.map Prod.snd).sum
    sendFly s c.k t (cs.map Prod.fst)

/-- A producer's task: in HEADER mode its first pass, in PINNED mode its data pass. -/
def gmeAccRun (t : Nat) (s : State) (c : Cur) (x : Task) : State :=
  let b := x.bytes
  let v := gViewA c.f b
  let d := tdOf c.f (gtDst b)
  let r := scatterPairs s c t b
  match r.2 with
  | none => gmeFail r.1 c.k t 2 b
  | some (ps, bad) =>
    let s := gmeIdxRange (ownTask r.1 c.k b) t bad b
    if (c.f.gme.getD {}).anchor = 2 then accData s c t b
    else
      let w := readWeights s c t b
      let m := accPieces c t v d w.2 ps w.1 []
      let cs := m.2.filterMap fun p => p.2.2.2.map fun e =>
        let q := pieceSpot b p.2.1 p.2.2.1
        ({ owner := gmeOwner c.f q, sel := .gme, kind := .anchor, spot := q, row := p.2.1 % 32, anchor := e } : Contrib)
      modPhase (sendFly m.1 c.k t cs) c.k fun f => { f with gmeHeld := f.gmeHeld ++ [{ tile := t, task := x }] }

/-- GME_SCATTER_ACC. -/
def execGmeScatterAcc (t : Tile) (s : State) : Host.Outcome State Fault Refusal := .next (gmeTake s t 0x04 (gmeAccRun t))

/-- GME_SEGSUM. -/
def execGmeSegsum (t : Tile) (s : State) : Host.Outcome State Fault Refusal := .next (gmeTake s t 0x05 (gmeAccRun t))

/-- Run the data pass of every held producer of scatter type. -/
def accSecond : List GmeHeld → Cur → State → State
  | [], _, s => s
  | h :: hs, c, s => accSecond hs c (accData s c h.tile h.task.bytes)

/-- A held task that waits for the end of the first pass. -/
def heldAcc (h : GmeHeld) : Bool := !h.waits && (gtOp h.task.bytes == 0x04 || gtOp h.task.bytes == 0x05)

/-- ANCHOR_PASS_CLOSE: every producer has closed the HEADER first pass; E_out is fixed and the data pass runs (R120). -/
def execAnchorPassClose (k : PlanKind) (s : State) : Host.Outcome State Fault Refusal :=
  match curOf s k with
  | none => .next s
  | some c0 =>
    let c := { c0 with sel := .gme }
    let hs := c.f.gmeHeld.filter heldAcc
    if hs.isEmpty || !c.f.gmeQ.isEmpty || c.f.gmeHeld.any GmeHeld.waits || c.f.fly.any (fun x => x.sel == .gme) then .next s
    else
      let s := modPhase s k fun f => { f with pass2 := true, gmeHeld := f.gmeHeld.filter fun h => !heldAcc h }
      .next (accSecond hs c s)

/-! ### What an owner does with a contribution -/

/-- The anchor record of a row in an owned block: (maximum e, count). -/
def recOf (o : Owned) (row : Nat) : Option (Int × Nat) := (o.recs.find? fun r => r.1 == row).map Prod.snd

def setRec (o : Owned) (row : Nat) (v : Int × Nat) : Owned :=
  { o with recs := (row, v) :: o.recs.filter fun r => r.1 != row }

/-- Replace an owned block. -/
def putOwned (s : State) (k : PlanKind) (o n : Owned) : State :=
  modPhase s k fun f => { f with owned := updWhere (· == o) (fun _ => n) f.owned }

/-- E_out of a row of an owned block (R120). -/
def rowAnchor (o : Owned) (row : Nat) : Int :=
  match recOf o row with
  | some (e, n) => e + (clog2 n : Int)
  | none => 0

/-- CIN of the records that name a block's destination. -/
def gmeCin (f : PhaseRun) (q : Spot) : Nat :=
  match f.gmeOwn.find? fun b => gtDst b == q.td && gtCIdx b == q.o2 with
  | some b => gtCin b
  | none => 0xFF

/-- Elements of a row piece that lie inside their destination's bounds. -/
def pieceIn (s : State) (k : PlanKind) (x : Contrib) : Nat :=
  match curOf s k with
  | none => 0
  | some c => ((upTo 32).filter fun j => blkIn (tdOf c.f x.spot.td) (spotPos x.spot) (32 * x.row + j)).length

/-- The owner has folded a row piece: its contributions are counted (R136). -/
def countFolds (s : State) (k : PlanKind) (t : Nat) (x : Contrib) : State := cntAdd s .tilGmeCnt t 4 (pieceIn s k x)

/-- Fold a row piece of contributions. -/
def foldRow (s : State) (k : PlanKind) (t : Nat) (o : Owned) (x : Contrib) (eOut : Int) : State :=
  let cur := ownedLps s k o
  let r := x.vals.zipIdx.map fun q =>
    let n := 32 * x.row + q.2
    (n, lpFold (accLp cur.2 n) eOut q.1.1 q.1.2.1 q.1.2.2)
  let s := setOwnedLps cur.1 k o (r.foldl (fun m z => lpSet m z.1 z.2.1) cur.2)
  overflowed (countFolds s k t x) k .gme t (r.filter fun z => z.2.2).length

/-- A row of SCATTER is written when no higher source row has come (R119). -/
def scatterWrite (s : State) (c : Cur) (t : Nat) (o : Owned) (x : Contrib) (tag : Nat) : State :=
  match recOf o x.row with
  | some (old, _) => if (tag : Int) < old then s else scatterPut s c t o x tag
  | none => scatterPut s c t o x tag
where
  scatterPut (s : State) (c : Cur) (t : Nat) (o : Owned) (x : Contrib) (tag : Nat) : State :=
    let td := tdOf c.f x.spot.td
    let en := c.f.gme.getD {}
    let s := putOwned s c.k o (setRec o x.row (tag, 1))
    writePart s c .gme td t (rndOf en.rnd) (opDraw s c en) (spotPos x.spot) fun n =>
      if n / 32 ≠ x.row then .keep else x.els.getD (n % 32) .keep

/-- A row's anchor record with one more contribution: (maximum e, count). -/
def recAdd (o : Owned) (row : Nat) (e : Int) : Int × Nat :=
  match recOf o row with
  | some (m, n) => (if m < e then e else m, n + 1)
  | none => (e, 1)

/-- In PINNED mode a contribution with an anchor is noted for the observation (R41). -/
def noteAnchor (o : Owned) (x : Contrib) : Owned :=
  if x.anchor = -40000 then o else setRec o x.row (recAdd o x.row x.anchor)

/-- The owner takes one contribution (R119 to R122). -/
def ownerTake (s : State) (c : Cur) (t : Nat) (x : Contrib) : State :=
  let s := dropFly s c.k x
  let keep := match x.kind with | .row _ => true | _ => false
  let s := if keep then
      (match findOwned c.f .gme x.spot with
        | some _ => s
        | none => modPhase s c.k fun f => { f with owned := f.owned ++ [{ tile := t, sel := .gme, spot := x.spot }] })
    else ownBlock s c .gme t x.spot (gmeCin c.f x.spot)
  match curOf s c.k with
  | none => s
  | some d => match findOwned d.f .gme x.spot with
    | none => s
    | some o => match x.kind with
      | .anchor =>
        putOwned s c.k o (setRec o x.row (recAdd o x.row x.anchor))
      | .row tag => scatterWrite s { d with sel := .gme } t o x tag
      | .data =>
        if (c.f.gme.getD {}).anchor = 2 then
          let r := pinnedAnchor s { d with sel := .gme } .gme (c.f.gme.getD {}).anc t (spotPos x.spot)
          let o2 := noteAnchor o x
          foldRow (putOwned r.1 c.k o o2) c.k t o2 x r.2
        else foldRow s c.k t o x (rowAnchor o x.row)
      | _ =>
        let r := addRow s c.k o x.row x.lps
        let s := countFolds (if r.2.1 = 0 then r.1 else gmeErr r.1 t 0x01 4 x.seq) c.k t x
        tileEvent (overflowed s c.k .gme t r.2.2) (.plan c.k) 22 t r.2.1

/-- OWNER_CONTRIBUTION: the oldest contribution or anchor record on its way to owner t arrives. -/
def execOwnerContribution (t : Tile) (s : State) : Host.Outcome State Fault Refusal :=
  match curPhase s with
  | none => .next s
  | some c0 =>
    let c := { c0 with sel := .gme }
    match nextFor c.f .gme t with
    | none => .next s
    | some x => .next (ownerTake s c t x)

/-! ### SPPROD (R116, R117, R126) -/

/-- The dense view of a GME product: its operands as a dense record, under the GME entry. -/
def spCur (c : Cur) (b : Bytes) : Cur :=
  { c with sel := .gme, f := { c.f with dense := { (c.f.gme.getD {}) with kind := 1, flags := gtFlags b % 4 } } }

def spTask (x : Task) (br bc : Nat) : Task :=
  let b := x.bytes
  { die := x.die, bytes := mkDense br bc (gtA b) (gtB b) (gtDst b) (gtCin b) (gtAIdx b) (gtBIdx b) (gtCIdx b) 0 0 }

/-- Output blocks of a whole SPPROD task. -/
def spBlocks (f : PhaseRun) (b : Bytes) : List (Nat × Nat) :=
  ((upTo (gtHi b - gtLo b)).map (gtLo b + ·)).flatMap fun br => (upTo (tdBlocks (tdOf f (gtDst b)) 0)).map fun bc => (br, bc)

/-- The E_out of a block's elements when no round is needed, with its observation, and the header pairs that stay in the
cache (R38, R116, R117). -/
def spAnchors (s : State) (c : Cur) (t : Nat) (x : Task) (br bc : Nat) : State × (Nat → Int) × NMap Heads :=
  let e := c.f.gme.getD {}
  let y := spTask x br bc
  let q := dtSpot y.bytes
  if e.anchor = 2 then
    let r := pinnedAnchor s c .gme e.anc t (spotPos q)
    if e.obs = 0xFF then (r.1, fun _ => r.2, [])
    else
      let h := headerPass r.1 (spCur c x.bytes) t y
      (observe h.1 c .gme e.obs t (spotPos q) (largestAnchor h.2.anchors), fun _ => r.2, h.2.heads)
  else
    let h := headerPass s (spCur c x.bytes) t y
    (h.1, fun n => (h.2.anchors.getD n none).getD 0, h.2.heads)

/-- Fold K-blocks of a whole product; counts of R136. -/
def spFold (c : Cur) (t : Nat) (y : Task) (heads : NMap Heads) (eOut : Nat → Int) : List Nat → State →
    List Lp × Nat × Nat → State × (List Lp × Nat × Nat)
  | [], s, acc => (s, acc)
  | kb :: l, s, acc =>
    let o := taskOpers s c t y heads kb
    let s := countProducts o.1 t o.2.1 o.2.2 fun _ => true
    spFold c t y heads eOut l s (foldPair 1 o.2.1 o.2.2 eOut acc)

/-- Compute and finish one output block whose E_out is fixed. -/
def spBlock (s : State) (c : Cur) (t : Nat) (x : Task) (br bc : Nat) (eOut : Nat → Int) (heads : NMap Heads) : State :=
  let y := spTask x br bc
  let q := dtSpot y.bytes
  let r := if gtCin x.bytes = 0xFF then (s, []) else readCin s c .gme (gtCin x.bytes) t (spotPos q)
  let cc := spCur c x.bytes
  let w := spFold cc t y heads eOut (taskKbs cc.f y.bytes) r.1 ((upTo 1024).map fun n => accLp r.2 n, 0, 0)
  let s := overflowed w.1 c.k .gme t w.2.2.1
  let s := tileEvent s (.plan c.k) 21 t w.2.2.2
  let e := c.f.gme.getD {}
  let l := allLive w.2.1 eOut
  let b := lpsBlock s c e (tdOf c.f q.td) (spotPos q) fun n => accLp l n
  let wr := if c.f.placeG.isEmpty then t else c.f.placeG.getD (placeIndex c.f (gmeDests c.f) (superSpot q)) t
  finishBlock (countSubst s (tileDie t) b.2) c .gme t wr q b.1

def spRunAll (c : Cur) (t : Nat) (x : Task) : List (Nat × Nat) → State → State
  | [], s => s
  | p :: ps, s =>
    let a := spAnchors s c t x p.1 p.2
    spRunAll c t x ps (spBlock a.1 c t x p.1 p.2 a.2.1 a.2.2)

/-- Send the GROUP anchors of a task's blocks, which the tile then holds with them. -/
def spSend (c : Cur) (t : Nat) (x : Task) : List (Nat × Nat) → List (List Int) → State → State
  | [], an, s => modPhase s c.k fun f => { f with gmeHeld := f.gmeHeld ++ [{ tile := t, task := x, anchors := an }] }
  | p :: ps, an, s =>
    let e := c.f.gme.getD {}
    let y := spTask x p.1 p.2
    let h := headerPass s (spCur c x.bytes) t y
    match sendAnchors c 1 (spotBlk c.f (dtSpot y.bytes)) e.group (groupOf s e.group) h.2.anchors (groupPeers (groupOf s e.group)) h.1 with
    | (s, .ok) => spSend c t x ps (an ++ [h.2.anchors.map fun a => (anchorWord a : Int)]) s
    | (s, _) => failPlan s c.k stPeerUnreachable

/-- The tile holds the task. -/
def holdTask (s : State) (k : PlanKind) (t : Nat) (x : Task) : State :=
  modPhase s k fun f => { f with gmeHeld := f.gmeHeld ++ [{ tile := t, task := x }] }

/-- A whole SPPROD task; a PART waits for the cuts; in GROUP mode the task waits for the anchor round. -/
def gmeSpRun (t : Nat) (s : State) (c : Cur) (x : Task) : State :=
  if gtPart x.bytes then holdTask (ownTask s c.k x.bytes) c.k t x
  else if (c.f.gme.getD {}).anchor = 1 then spSend c t x (spBlocks c.f x.bytes) [] s
  else spRunAll c t x (spBlocks c.f x.bytes) s

/-- A product that its tile holds for a GROUP round. -/
def heldGroup (h : GmeHeld) : Bool := !h.waits && gtOp h.task.bytes == 0x01 && !gtPart h.task.bytes

/-- A part of a product that scans, or waits for the cuts. -/
def heldPart (h : GmeHeld) : Bool := !h.waits && gtPart h.task.bytes

/-- The blocks of a held GROUP product with the anchors of their rounds, where each has ended. -/
def spRounds (s : State) (c : Cur) (h : GmeHeld) : List ((Nat × Nat) × Option (List (Option Int))) :=
  let e := c.f.gme.getD {}
  (spBlocks c.f h.task.bytes).zipIdx.map fun p =>
    (p.1, groupMax s c 1 (spotBlk c.f (dtSpot (spTask h.task p.1.1 p.1.2).bytes)) e.group
      ((h.anchors.getD p.2 []).map fun a => anchorOfWord a.toNat))

/-- A held GROUP product whose anchors have all come runs. -/
def spResume (s : State) (c : Cur) (t : Nat) (h : GmeHeld) : State :=
  let bs := spRounds s c h
  if bs.all fun b => b.2.isSome then
    bs.foldl (fun s b =>
      let s := dropGroupMsgs s c 1 (spotBlk c.f (dtSpot (spTask h.task b.1.1 b.1.2).bytes)) (c.f.gme.getD {}).group
      spBlock s c t h.task b.1.1 b.1.2 (fun n => ((b.2.getD []).getD n none).getD 0) [])
      (modPhase s c.k fun f => { f with gmeHeld := f.gmeHeld.erase h })
  else s

/-- GME_SPPROD. -/
def execGmeSpprod (t : Tile) (s : State) : Host.Outcome State Fault Refusal :=
  match curPhase s with
  | none => .next s
  | some c =>
    match c.f.gmeHeld.find? fun h => h.tile == t.val && heldGroup h with
    | some h => .next (spResume s { c with sel := .gme } t h)
    | none => .next (gmeTake s t 0x01 (gmeSpRun t))

/-- Non-zeros of a row piece of A. -/
def pieceNnz (o : Oper) (r : Nat) : Nat := ((upTo 32).filter fun k => !valZero (operVal o r k)).length

/-- The blocks of A that GME p of np scans: its share of them by count, in row-major order of the read orientation (R126; the
order DEDUCED, log 170). -/
def scanShare (v : View) (np p : Nat) : List (Nat × Nat) :=
  let bs := (upTo (cdiv (viewRows v) 32)).flatMap fun br => (upTo (cdiv (viewCols v) 32)).map fun kb => (br, kb)
  (bs.take ((p + 1) * bs.length / np)).drop (p * bs.length / np)

/-- The GME of tile t reads its share once and counts the non-zeros of its row pieces: key = row × K-blocks of A + K-block. -/
def scanBlocks (c : Cur) (t : Nat) (v : View) : List (Nat × Nat) → State × NMap Nat → State × NMap Nat
  | [], r => r
  | q :: l, r =>
    let o := readOper r.1 (gEng c v.td t) v q.1 q.2
    scanBlocks c t v l (o.1, (upTo 32).foldl (fun m i =>
      mapSet (fun _ => 0) m ((32 * q.1 + i) * cdiv (viewCols v) 32 + q.2) (pieceNnz o.2 i)) r.2)

/-- Row pieces of A in ascending (row, column) with their non-zero counts: (row, kb, count). -/
def scanCounts (v : View) (m : NMap Nat) : List (Nat × Nat × Nat) :=
  (upTo (viewRows v)).flatMap fun r => (upTo (cdiv (viewCols v) 32)).map fun kb =>
    (r, kb, mapGet (fun _ => 0) m (r * cdiv (viewCols v) 32 + kb))

/-- The scan of the held parts of a product: every block of A once, at the tile of the part that it falls to. -/
def scanAll (c : Cur) (v : View) (np : Nat) (hs : List GmeHeld) (s : State) : State × List (Nat × Nat × Nat) :=
  let r := (upTo np).foldl (fun r p => match hs.find? fun q => gtLo q.task.bytes == p with
    | some q => scanBlocks c q.tile v (scanShare v np p) r
    | none => r) (s, [])
  (r.1, scanCounts v r.2)

/-- First ordinal of each row piece. -/
def withOrdinals : List (Nat × Nat × Nat) → Nat → List (Nat × Nat × Nat)
  | [], _ => []
  | p :: ps, n => (p.1, p.2.1, n) :: withOrdinals ps (n + p.2.2)

/-- Cut c_p: the first ordinal of the row piece that holds ordinal floor(p N / P). -/
def cutOf (ords : List (Nat × Nat × Nat)) (n np p : Nat) : Nat :=
  if p = 0 then 0
  else if np ≤ p then n
  else ((ords.map fun o => o.2.2).filter fun o => decide (o ≤ p * n / np)).foldl max 0

/-- The K-blocks of each row that segment p computes. -/
def segPieces (ords : List (Nat × Nat × Nat)) (n np p : Nat) : List (Nat × Nat) :=
  let lo := cutOf ords n np p
  let hi := cutOf ords n np (p + 1)
  (ords.filter fun o => decide (lo ≤ o.2.2) && (decide (o.2.2 < hi) || (p + 1 == np && o.2.2 == n))).map fun o => (o.1, o.2.1)

/-- Fold the row pieces of a segment into one output block: what other rows of their blocks would fold, or count, is another
segment's (R34, R53, R126, R136). -/
def segFold (c : Cur) (t : Nat) (y : Task) (br : Nat) (ps : List (Nat × Nat)) (heads : NMap Heads) (eOut : Nat → Int) :
    List Nat → State → List Lp × Nat × Nat → State × (List Lp × Nat × Nat)
  | [], s, acc => (s, acc)
  | kb :: l, s, acc =>
    let o := taskOpers s c t y heads kb
    let mine := fun r => ps.contains (32 * br + r, kb)
    let s := countProducts o.1 t o.2.1 o.2.2 mine
    segFold c t y br ps heads eOut l s (foldPair 1 o.2.1 o.2.2 eOut acc fun n => mine (n / 32))

/-- What a segment starts an output block from: nothing, on the grid of CIN where it is live, as the whole task would fold. -/
def segStart (s : State) (c : Cur) (t : Nat) (b : Bytes) (q : Spot) : State × List Lp :=
  if gtCin b = 0xFF then (s, (upTo 1024).map fun _ => {})
  else
    let r := readCin s c .gme (gtCin b) t (spotPos q)
    (r.1, (upTo 1024).map fun n => let x := accLp r.2 n; if x.live then ({ live := true, anchor := x.anchor } : Lp) else {})

/-- Run segment p at its tile: its row pieces of long partials go to the owners. -/
def segRun (s : State) (c : Cur) (ords : List (Nat × Nat × Nat)) (n : Nat) (h : GmeHeld) : State :=
  let b := h.task.bytes
  let t := h.tile
  let ps := segPieces ords n (gtHi b) (gtLo b)
  let d := tdOf c.f (gtDst b)
  let rows := ps.map Prod.fst
  let brs := (upTo (tdBlocks d 1)).filter fun r => rows.any fun q => q / 32 == r
  (brs.flatMap fun br => (upTo (tdBlocks d 0)).map fun bc => (br, bc)).foldl (fun s p =>
    let y := spTask h.task p.1 p.2
    let a := spAnchors s c t h.task p.1 p.2
    let cc := spCur c b
    let q := dtSpot y.bytes
    let z := segStart a.1 c t b q
    let w := segFold cc t y p.1 ps a.2.2 a.2.1 ((upTo (nKb cc.f y.bytes)).filter fun kb => ps.any fun q => q.2 == kb) z.1 (z.2, 0, 0)
    let cs := ((upTo 32).filter fun r => rows.contains (32 * p.1 + r)).map fun r =>
      ({ owner := gmeOwner c.f q, sel := .gme, kind := .lps, spot := q, row := r, seq := fld b 24 4,
         lps := (upTo 32).map fun j => accLp w.2.1 (32 * r + j) } : Contrib)
    sendFly (tileEvent (overflowed w.1 c.k .gme t w.2.2.1) (.plan c.k) 21 t w.2.2.2) c.k t cs) s

/-- PART_CUTS_READY: every GME of a partitioned product has scanned; the cuts are known and the segments run (R126). -/
def execPartCutsReady (k : PlanKind) (s : State) : Host.Outcome State Fault Refusal :=
  match curOf s k with
  | none => .next s
  | some c0 =>
    let c := { c0 with sel := .gme }
    let hs := c.f.gmeHeld.filter heldPart
    match hs.head? with
    | none => .next s
    | some h =>
      let np := gtHi h.task.bytes
      if !(upTo np).all fun p => hs.any fun q => gtLo q.task.bytes == p then .next s
      else
        let sc := scanAll c (gViewA c.f h.task.bytes) np hs s
        let n := (sc.2.map fun p => p.2.2).sum
        let s := hs.foldl (fun s q => segRun s c (withOrdinals sc.2 0) n q) sc.1
        .next (modPhase s k fun f => { f with gmeHeld := f.gmeHeld.filter fun q => !heldPart q })

/-! ### OWNER_FINISH (R121) -/

/-- Every producer has closed: the lists are empty, no task is held and nothing is on its way. -/
def gmeClosed (f : PhaseRun) : Bool := f.gmeQ.isEmpty && f.gmeHeld.isEmpty && f.fly.all fun x => x.sel != .gme

/-- The record that an owned block is finished by: one that names its outer index, else one that names its tensor. -/
def ownRecord (f : PhaseRun) (q : Spot) : Option Bytes :=
  match f.gmeOwn.find? fun b => gtDst b == q.td && gtCIdx b == q.o2 && q.o3 == 0 && q.o4 == 0 with
  | some b => some b
  | none => f.gmeOwn.find? fun b => gtDst b == q.td && (gtOp b == 0x04 || gtOp b == 0x05)

/-- Owned destination blocks still to be finished at tile t: every block of a SCATTER_ACC or SEGSUM destination, and those of
the other owner-type records at their outer index (R121). -/
def ownSpots (f : PhaseRun) (t : Nat) : List (Bytes × Spot) :=
  ((upTo f.tds.length).filter fun n => f.gmeOwn.any fun b => gtDst b == n).flatMap fun n =>
    (tdPositions (tdOf f n)).filterMap fun p =>
      let q : Spot := { td := n, bc := p.bc, br := p.br, o2 := p.o2, o3 := p.o3, o4 := p.o4 }
      if gmeOwner f q ≠ t || f.fin.contains q then none else (ownRecord f q).map fun b => (b, q)

/-- The largest HEADER anchor of an owned block's rows, or -32,768 (R41). -/
def obsOf (o : Owned) : Int :=
  o.recs.foldl (fun m r => let a := r.2.1 + (clog2 r.2.2 : Int); if m < a then a else m) (-32768)

/-- Finish one owned block (R91, R121); SCATTER's rows are written already. -/
def ownerFinishBlock (s : State) (c : Cur) (t : Nat) (b : Bytes) (q : Spot) : State :=
  let done := fun s => modPhase s c.k fun f => { f with fin := f.fin ++ [q] }
  if gtOp b = 0x03 then
    done (match findOwned c.f .gme q with | some o => dropOwned s c.k o | none => s)
  else
    let s := ownBlock s c .gme t q (gtCin b)
    match curOf s c.k with
    | none => s
    | some d => match findOwned d.f .gme q with
      | none => s
      | some o =>
        let dc := { d with sel := .gme }
        let a := if gtOp b = 0x01 then
            (let r := spAnchors s dc t { die := 0, bytes := b } q.br q.bc; (r.1, r.2.1))
          else if (c.f.gme.getD {}).anchor = 2 then
            (let r := pinnedAnchor s dc .gme (c.f.gme.getD {}).anc t (spotPos q); (r.1, fun (_ : Nat) => r.2))
          else (s, fun n => rowAnchor o (n / 32))
        let lp := ownedLps a.1 c.k o
        let l := allLive lp.2 a.2
        let s := dropOwned lp.1 c.k o
        let td := tdOf c.f q.td
        let bl := lpsBlock s dc (c.f.gme.getD {}) td (spotPos q) fun n => accLp l n
        let obs := if gtOp b = 0x01 then 0xFF else (c.f.gme.getD {}).obs
        let s := observe s dc .gme obs t (spotPos q) (obsOf o)
        let w := c.f.placeG.getD (placeIndex c.f (gmeDests c.f) (superSpot q)) t
        done (finishBlock (countSubst s (tileDie t) bl.2) dc .gme t w q bl.1)

/-- OWNER_FINISH: every producer has closed, and owner t finishes its blocks. A fenced owner does not hear of it (R305). -/
def execOwnerFinish (t : Tile) (s : State) : Host.Outcome State Fault Refusal :=
  match curPhase s with
  | none => .next s
  | some c =>
    if !gmeClosed c.f then .next s
    else if tileFenced s t then .next (if c.p.atOnce || (ownSpots c.f t).isEmpty then s else fencedDrop s c.k (0xB00 + tileDie t) t 1)
    else .next ((ownSpots c.f t).foldl (fun s x =>
      match curOf s c.k with
      | some d => if d.f.fin.contains x.2 then s else ownerFinishBlock s d t x.1 x.2
      | none => s) s)

/-! ### RAGGED_CAT, SORT_KEY, MERGE_KEY, TOPK (R123 to R125) -/

/-- Offsets ascend and stay inside the source. -/
def offsetsOk (l : List Int) (e : Nat) : Bool :=
  l.all (fun x => decide (0 ≤ x) && decide (x ≤ (e : Int))) && (upTo (l.length - 1)).all fun i => decide (l.getD i 0 ≤ l.getD (i + 1) 0)

/-- What destination row r of a ragged concatenation takes: a row of A or of B; `none` beyond the task's segments. -/
def raggedRow (a b : List Int) (lo hi r : Nat) : Option (Bool × Nat) :=
  ((upTo (hi - lo)).map (lo + ·)).findSome? fun t =>
    let a0 := (a.getD t 0).toNat
    let a1 := (a.getD (t + 1) 0).toNat
    let b0 := (b.getD t 0).toNat
    let b1 := (b.getD (t + 1) 0).toNat
    let d := a0 + b0
    if d ≤ r && r < d + (a1 - a0) then some (true, a0 + (r - d))
    else if d + (a1 - a0) ≤ r && r < d + (a1 - a0) + (b1 - b0) then some (false, b0 + (r - d - (a1 - a0)))
    else none

/-- RAGGED_CAT: rows beyond the last segment are padding, written with PAD_WRITE and else kept (R79, R123). -/
def gmeRaggedRun (t : Nat) (s : State) (c : Cur) (x : Task) : State :=
  let b := x.bytes
  let va := gViewA c.f b
  let vb := gViewB c.f b
  let d := tdOf c.f (gtDst b)
  let la := gmeList s c t (gtIdx b)
  let lb := gmeList la.1 c t (gtAux b)
  if !offsetsOk la.2 (viewRows va) || !offsetsOk lb.2 (viewRows vb) then gmeFail lb.1 c.k t 2 b
  else
    let base := fun n => ((la.2.getD n 0) + (lb.2.getD n 0)).toNat
    let last := gtHi b + 1 == la.2.length
    let stop := if last && d.padw then tdExt d 1 else base (gtHi b)
    let rows := (upTo (tdExt d 1)).filterMap (raggedRow la.2 lb.2 (gtLo b) (gtHi b))
    let ra := readRows lb.1 c t va (rows.filterMap fun r => if r.1 then some r.2 else none)
    let rb := readRows ra.1 c t vb (rows.filterMap fun r => if r.1 then none else some r.2)
    gmeWrite rb.1 c t (gtDst b) (rowBlocks d (gtCIdx b) (base (gtLo b)) (min stop (tdExt d 1))) (fun i =>
      match raggedRow la.2 lb.2 (gtLo b) (gtHi b) (i.getD 1 0) with
      | some (true, r) => gElt ra.2 d (viewIdx va r (i.getD 0 0))
      | some (false, r) => gElt rb.2 d (viewIdx vb r (i.getD 0 0))
      | none => if last && d.padw && decide (base (gtHi b) ≤ i.getD 1 0) then padElt va.td d else .keep)
      fun i => decide (base (la.2.length - 1) ≤ i.getD 1 0)

/-- GME_RAGGED_CAT. -/
def execGmeRaggedCat (t : Tile) (s : State) : Host.Outcome State Fault Refusal :=
  .next (gmeTake s t 0x06 (gmeRaggedRun t))

/-- The order of pairs: by key, then by payload, as signed integers. -/
def pairLe (a b : Int × Int) : Bool := decide (a.1 < b.1) || (a.1 == b.1 && decide (a.2 ≤ b.2))

def pairInsert (x : Int × Int) : List (Int × Int) → List (Int × Int)
  | [] => [x]
  | y :: ys => if pairLe x y then x :: y :: ys else y :: pairInsert x ys

def pairSort : List (Int × Int) → List (Int × Int)
  | [] => []
  | x :: xs => pairInsert x (pairSort xs)

def pairSorted (l : List (Int × Int)) : Bool := (l.zip (l.drop 1)).all fun p => pairLe p.1 p.2

/-- Write a list of integers at the flat positions from lo on. -/
def writeFlat (s : State) (c : Cur) (t nd lo : Nat) (l : List Int) : State :=
  let td := tdOf c.f nd
  let flat := fun (i : List Nat) => linIndex td i
  let ps := (tdPositions td).filter fun p => (upTo 1024).any fun n =>
    blkIn td p n && decide (lo ≤ flat (elemIdx p n)) && decide (flat (elemIdx p n) < lo + l.length)
  gmeWrite s c t nd ps fun i =>
    if decide (lo ≤ flat i) && decide (flat i < lo + l.length) then .code (ofSigned 32 (l.getD (flat i - lo) 0)) else .keep

/-- Pairs of keys and payloads in flat order. -/
def readPairs (s : State) (c : Cur) (t : Nat) (b : Bytes) : State × List (Int × Int) :=
  let a := gmeList s c t (gtA b)
  let p := gmeList a.1 c t (gtB b)
  (p.1, (a.2.zip p.2))

def writePairs (s : State) (c : Cur) (t : Nat) (b : Bytes) (l : List (Int × Int)) : State :=
  writeFlat (writeFlat s c t (gtDst b) (gtLo b) (l.map Prod.fst)) c t (gtAux b) (gtLo b) (l.map Prod.snd)

def gmeSortRun (t : Nat) (s : State) (c : Cur) (x : Task) : State :=
  let r := readPairs s c t x.bytes
  let l := (r.2.drop (gtLo x.bytes)).take (gtHi x.bytes - gtLo x.bytes)
  writePairs r.1 c t x.bytes (pairSort l)

/-- GME_SORT_KEY. -/
def execGmeSortKey (t : Tile) (s : State) : Host.Outcome State Fault Refusal := .next (gmeTake s t 0x07 (gmeSortRun t))

/-- The runs of a merge, by their boundaries. -/
def runsOf (l : List (Int × Int)) (o : List Int) (n : Nat) : List (List (Int × Int)) :=
  (upTo n).map fun i => (l.drop (o.getD i 0).toNat).take ((o.getD (i + 1) 0).toNat - (o.getD i 0).toNat)

def gmeMergeRun (t : Nat) (s : State) (c : Cur) (x : Task) : State :=
  let b := x.bytes
  let r := readPairs s c t b
  let o := gmeList r.1 c t (gtIdx b)
  let runs := runsOf r.2 o.2 (gtParam b)
  if !offsetsOk o.2 r.2.length || runs.any (fun q => !pairSorted q) then gmeFail o.1 c.k t 2 b
  else writePairs o.1 c t b (((pairSort runs.flatten).drop (gtLo b)).take (gtHi b - gtLo b))

/-- GME_MERGE_KEY. -/
def execGmeMergeKey (t : Tile) (s : State) : Host.Outcome State Fault Refusal := .next (gmeTake s t 0x08 (gmeMergeRun t))

/-- Value order of TOPK: NaN below −Inf, zeros equal (R125). -/
def valLt (a b : Val) : Bool :=
  match a, b with
  | _, .nan => false
  | .nan, _ => true
  | .inf true, .inf true => false
  | .inf true, _ => true
  | _, .inf true => false
  | .inf false, _ => false
  | _, .inf false => true
  | .fin m e, .fin n f =>
    let g := if e < f then e else f
    decide (m * (2 ^ (e - g).toNat : Nat) < n * (2 ^ (f - g).toNat : Nat))

/-- (value, column) x comes before y: larger value, ties to the lower column. -/
def topBefore (x y : Val × Nat) : Bool := valLt y.1 x.1 || (!valLt x.1 y.1 && decide (x.2 < y.2))

def topInsert (x : Val × Nat) : List (Val × Nat) → List (Val × Nat)
  | [] => [x]
  | y :: ys => if topBefore x y then x :: y :: ys else y :: topInsert x ys

/-- The k first of a list in that order. -/
def topK (k : Nat) (l : List (Val × Nat)) : List (Val × Nat) := (l.foldl (fun m x => (topInsert x m).take k) [])

def gmeTopkRun (t : Nat) (s : State) (c : Cur) (x : Task) : State :=
  let b := x.bytes
  let v := gViewA c.f b
  let d := tdOf c.f (gtDst b)
  let xd := tdOf c.f (gtAux b)
  let rows := (upTo (gtHi b - gtLo b)).map (gtLo b + ·)
  let src := readRows s c t v rows
  let top := rows.map fun r => topK (gtParam b) ((upTo (viewCols v)).map fun j => (tensVal src.2 (viewIdx v r j), j))
  let inr := fun (i : List Nat) => decide (gtLo b ≤ i.getD 1 0) && decide (i.getD 1 0 < gtHi b)
  let pick := fun (i : List Nat) => (top.getD (i.getD 1 0 - gtLo b) [])[i.getD 0 0]?
  let s := gmeWrite src.1 c t (gtDst b) (rowBlocks d (gtCIdx b) (gtLo b) (gtHi b)) fun i =>
    if !inr i then .keep
    else match pick i with
      | some p => gElt src.2 d (viewIdx v (i.getD 1 0) p.2)
      | none => padElt v.td d
  gmeWrite s c t (gtAux b) (rowBlocks xd (gtCIdx b) (gtLo b) (gtHi b)) fun i =>
    if !inr i then .keep
    else match pick i with
      | some p => .code p.2
      | none => .code (ofSigned 32 (-1))

/-- GME_TOPK. -/
def execGmeTopk (t : Tile) (s : State) : Host.Outcome State Fault Refusal := .next (gmeTake s t 0x09 (gmeTopkRun t))

/-- A dense block, or a product, waits for the anchors of a close group that have not come. -/
def roundLate (s : State) (c : Cur) (g : Nat) : Bool :=
  let e := c.f.gme.getD {}
  (c.f.dense.anchor == 1 && c.f.dense.group == g && s.das.any fun p => daWaits p.2 && p.2.k == c.k && (daGroup s c p.2).isNone)
    || (e.anchor == 1 && e.group == g && c.f.gmeHeld.any fun h => heldGroup h && (spRounds s c h).any fun b => b.2.isNone)

/-- ANCHOR_ROUND_TIMEOUT: a partner's anchor message has not come within QUEUE_LIMIT (R367). -/
def execAnchorRoundTimeout (k : PlanKind) (g : Fin 64) (s : State) : Host.Outcome State Fault Refusal :=
  match curOf s k with
  | none => .next s
  | some c => if roundLate s c g then .next (failPlan s k stTimeout) else .next s

end Sys2Proof.Machine
end

