-- ==== Sys2Proof/Machine/Sha.lean ====
section
/-! DEFINITION. The SHA-512 digest, which the spec names and leaves to its standard (FIPS 180-4; PRESUMED, log 11). -/

namespace Sys2Proof.Machine

/-- n has no divisor from 2 to 20 but itself: for 2 ≤ n < 441, n is a prime. -/
def smallPrime (n : Nat) : Bool :=
  decide (2 ≤ n) && (upTo 21).all fun d => decide (d < 2) || decide (n ≤ d) || n % d != 0

/-- The first 80 primes, 2 to 409. -/
def shaPrimes : List Nat := (upTo 410).filter smallPrime

/-- The k-th root of n, rounded down, when it is below r + 2^b: its lower b bits are decided from the highest down. -/
def rootBits (k n : Nat) : Nat → Nat → Nat
  | 0, r => r
  | b + 1, r => rootBits k n b (if (r + 2 ^ b) ^ k ≤ n then r + 2 ^ b else r)

/-- The first 64 fraction bits of the k-th root of p. -/
def rootFrac (k p : Nat) : Nat := rootBits k (p * 2 ^ (64 * k)) 70 0 % 2 ^ 64

/-- Its 80 round constants: from the cube roots of the first 80 primes. -/
def shaK : List Nat := shaPrimes.map (rootFrac 3)

/-- Its initial state: from the square roots of the first 8 primes. -/
def shaInit : List Nat := (shaPrimes.take 8).map (rootFrac 2)

/-- Rotation of a 64-bit word to the right. -/
def rotr64 (n x : Nat) : Nat := x / 2 ^ n + x % 2 ^ n * 2 ^ (64 - n)

def add64 (a b : Nat) : Nat := (a + b) % 2 ^ 64

/-- A word of eight bytes, the highest byte first. -/
def beWord (bs : Bytes) : Nat := bs.foldl (fun a b => 256 * a + b.toNat) 0

/-- The exclusive or of the rotations of x by each of `ns`. -/
def turns (ns : List Nat) (x : Nat) : Nat := ns.foldl (fun acc n => acc.xor (rotr64 n x)) 0

/-- The schedule's word sixteen places on, from the last sixteen, newest first. -/
def shaNext (w : List Nat) : Nat :=
  let far := w.getD 14 0
  let near := w.getD 1 0
  [w.getD 15 0, w.getD 6 0, (turns [1, 8] far).xor (far / 2 ^ 7), (turns [19, 61] near).xor (near / 2 ^ 6)].foldl add64 0

/-- g with f's bits where e has ones. -/
def shaPick (e f g : Nat) : Nat := g.xor (e.land (f.xor g))

/-- The bits that at least two of three words hold. -/
def shaMost (a b c : Nat) : Nat := (a.land b).lor (c.land (a.lor b))

/-- One round over the eight working variables, with constant k and word w: they move down one place, a fresh first
comes in, and the fifth takes its share. -/
def shaRound (h : List Nat) (k w : Nat) : List Nat :=
  let v := fun i => h.getD i 0
  let low := [v 7, turns [14, 18, 41] (v 4), shaPick (v 4) (v 5) (v 6), k, w].foldl add64 0
  let high := add64 (turns [28, 34, 39] (v 0)) (shaMost (v 0) (v 1) (v 2))
  add64 low high :: h.take 3 ++ add64 (v 3) low :: (h.drop 4).take 3

/-- The rounds: the schedule holds the last sixteen words, newest first. -/
def shaRounds : List Nat → List Nat → List Nat → List Nat
  | [], _, h => h
  | k :: ks, w, h =>
    shaRounds ks ((shaNext w :: w).take 16) (shaRound h k (w.getD 15 0))

/-- One block of 128 bytes. -/
def shaBlock (h : List Nat) (b : Bytes) : List Nat :=
  let w := ((upTo 16).map fun i => beWord (slice b (8 * i) 8)).reverse
  (h.zip (shaRounds shaK w h)).map fun q => add64 q.1 q.2

/-- The padded message: a one bit, zeros, and the length in bits. -/
def shaPad (bs : Bytes) : Bytes :=
  bs ++ [0x80] ++ zeroBytes ((239 - bs.length % 128) % 128) ++ (natLe 16 (8 * bs.length)).reverse

/-- The 64 bytes of the digest. -/
def sha512 (bs : Bytes) : Bytes :=
  let m := shaPad bs
  ((chunk 128 (m.length / 128) m).foldl shaBlock shaInit).flatMap fun x => (natLe 8 x).reverse

end Sys2Proof.Machine
end

