-- ==== Sys2Proof/Machine/Trans.lean ====
section
/-! DEFINITION. The transcendental functions of the vector engine (R144): the special results, and the error bound that a free
result keeps. -/

namespace Sys2Proof.Machine

/-- A quotient m × 2^e ÷ n with a sticky last bit, so that one rounding of it is the rounding of the exact quotient. -/
def quotVal (m e : Int) (n : Nat) : Val :=
  if n = 0 then .fin 0 0
  else
    let a := m.natAbs * 2 ^ 300
    let q := 2 * (a / n) + b2n (a % n != 0)
    .fin (if m < 0 then -(q : Int) else (q : Int)) (e - 301)

/-! ### The functions themselves, to well over 100 bits (log 10) -/

/-- ln 2 in units of 2^−192. -/
def lnTwo : Nat := 0xb17217f7d1cf79abc9e3b39803f2f6af40f343267298b62d

/-- The sum t + t·r/i + t·r²/(i·(i + 1)) + …, with r in units of 2^−192. -/
def expSum (r : Nat) : Nat → Nat → Nat → Nat
  | 0, _, t => t
  | n + 1, i, t => t + expSum r n (i + 1) (t * r / 2 ^ 192 / i)

/-- e^(x × 2^−192) as m × 2^k in units of 2^−192. -/
def expNat (x : Nat) : Nat × Nat := (expSum (x % lnTwo) 50 1 (2 ^ 192), x / lnTwo)

/-- |m × 2^e| in units of 2^−192; arguments of 128 or more count as 128, where every function here has reached its end. -/
def transArg (m e : Int) : Nat := if magGe (.fin m e) 7 then 2 ^ 199 else (shiftTrunc m (e + 192)).natAbs

def expVal (m e : Int) : Val :=
  let r := expNat (transArg m e)
  if 0 ≤ m then .fin r.1 ((r.2 : Int) - 192) else .fin (2 ^ 384 / r.1 : Nat) (-192 - (r.2 : Int))

/-- z/(2i + 1) + z³/(2i + 3) + …, with z and its square in units of 2^−192. -/
def atanhSum (z2 : Nat) : Nat → Nat → Nat → Nat
  | 0, _, _ => 0
  | n + 1, i, t => t / (2 * i + 1) + atanhSum z2 n (i + 1) (t * z2 / 2 ^ 192)

/-- The logarithm of m × 2^e, for m > 0. -/
def logVal (m e : Int) : Val :=
  let k := ilog2 m.natAbs
  let f := m.natAbs * 2 ^ 192 / 2 ^ k
  let z := (f - 2 ^ 192) * 2 ^ 192 / (f + 2 ^ 192)
  .fin (((k : Int) + e) * (lnTwo : Int) + 2 * (atanhSum (z * z / 2 ^ 192) 64 0 z : Int)) (-192)

/-- tanh: by its series near 0, by the exponential elsewhere. -/
def tanhVal (m e : Int) : Val :=
  if !magGe (.fin m e) (-12) then
    let p := fun (k : Nat) => ((2 ^ (-e).toNat : Nat) : Int) ^ k
    quotVal (15 * m * p 4 - 5 * m ^ 3 * p 2 + 2 * m ^ 5) (5 * e) 15
  else
    let r := expNat (2 * transArg m e)
    let x : Int := (r.1 * 2 ^ r.2 : Nat)
    quotVal (if m < 0 then 2 ^ 192 - x else x - 2 ^ 192) 0 (x + 2 ^ 192).toNat

/-- The integer square root, bit by bit from bit b − 1 down. -/
def sqrtBits (n : Nat) : Nat → Nat → Nat
  | 0, r => r
  | b + 1, r => sqrtBits n b (if (r + 2 ^ b) * (r + 2 ^ b) ≤ n then r + 2 ^ b else r)

/-- The reciprocal square root of m × 2^e, for m > 0. -/
def rsqrtVal (m e : Int) : Val :=
  let n := if e % 2 = 0 then m.natAbs else 2 * m.natAbs
  let h := if e % 2 = 0 then e / 2 else (e - 1) / 2
  .fin (sqrtBits (2 ^ 400 / n) 201 0 : Nat) (-200 - h)

def rcpVal (m e : Int) : Val := quotVal (if m < 0 then -1 else 1) (-e) m.natAbs

/-! ### The results (R144) -/

/-- An FP32 word lies within n units in the last place of a finite value. -/
def withinUlp (n : Nat) (y : Val) (c : Nat) : Bool :=
  match y, fp32Val c with
  | .fin m e, .fin p q =>
    let u : Int := if m = 0 then -149 else max (-149) (expOf m e - 23)
    let g := min u (min e q)
    let scale := fun (a b : Int) => a * ((2 ^ (b - g).toNat : Nat) : Int)
    decide ((scale m e - scale p q).natAbs ≤ (scale n u).natAbs)
  | _, _ => false

/-- The result for the value y: +Inf or −Inf where it overflows; else the free word c, where it lies within n units in the last
place, or the nearest word. -/
def boundedWord (n : Nat) (y : Val) (c : W32) : Nat :=
  if toFp32 y % 2 ^ 31 = 0x7F800000 || !withinUlp n y c.toNat then toFp32 y else c.toNat

def expWord (w : Nat) : Nat :=
  match fp32Val w with
  | .nan => 0x7FC00000
  | .inf true => 0
  | .inf false => 0x7F800000
  | .fin m e => boundedWord 2 (expVal m e) (Config.exp32 (BitVec.ofNat 32 w))

def logWord (w : Nat) : Nat :=
  match fp32Val w with
  | .nan => 0x7FC00000
  | .inf true => 0x7FC00000
  | .inf false => 0x7F800000
  | .fin m e =>
    if m = 0 then 0xFF800000 else if m < 0 then 0x7FC00000
    else boundedWord 2 (logVal m e) (Config.log32 (BitVec.ofNat 32 w))

def rsqrtWord (w : Nat) : Nat :=
  match fp32Val w with
  | .nan => 0x7FC00000
  | .inf true => 0x7FC00000
  | .inf false => 0
  | .fin m e =>
    if m = 0 then 0x7F800000 else if m < 0 then 0x7FC00000
    else boundedWord 1 (rsqrtVal m e) (Config.rsqrt32 (BitVec.ofNat 32 w))

def tanhWord (w : Nat) : Nat :=
  match fp32Val w with
  | .nan => 0x7FC00000
  | .inf true => 0xBF800000
  | .inf false => 0x3F800000
  | .fin m e => if m = 0 then 0 else boundedWord 2 (tanhVal m e) (Config.tanh32 (BitVec.ofNat 32 w))

def rcpWord (w : Nat) : Nat :=
  match fp32Val w with
  | .nan => 0x7FC00000
  | .inf true => 0x80000000
  | .inf false => 0
  | .fin m e =>
    if m = 0 then (if bit w 31 then 0xFF800000 else 0x7F800000)
    else boundedWord 1 (rcpVal m e) (Config.rcp32 (BitVec.ofNat 32 w))

end Sys2Proof.Machine
end

