-- ==== Sys2Proof/Machine/Ve.lean ====
section
/-! DEFINITION. The vector engine (R137 to R159): tasks and the row pre-pass, operands and rounding, every VE instruction
but TKEMIT, row-group exchanges and scalar summaries. -/

namespace Sys2Proof.Machine

/-! ### State and tasks (R139, R141, R155) -/

def getVe (s : State) (t : Nat) : Ve := mapGet (fun _ => {}) s.ves t
def setVe (s : State) (t : Nat) (v : Ve) : State := { s with ves := mapSet (fun _ => {}) s.ves t v }

def vtKernel (b : Bytes) : Nat := fld b 0 1
def vtTrans (b : Bytes) : Bool := bit (fld b 1 1) 0
def vtSplit (b : Bytes) : Bool := bit (fld b 1 1) 1
def vtIn (b : Bytes) (i : Nat) : Nat := fld b (2 + i) 1
def vtOut (b : Bytes) (i : Nat) : Nat := fld b (6 + i) 1
def vtBrow (b : Bytes) : Nat := fld b 8 3
def vtPart (b : Bytes) : Nat := fld b 11 1
def vtLo (b : Bytes) : Nat := fld b 12 3
def vtParts (b : Bytes) : Nat := fld b 15 1
def vtHi (b : Bytes) : Nat := fld b 16 3
def vtIdx2 (b : Bytes) : Nat := fld b 20 2

/-- Instruction fields of a 64-bit word (R142). -/
def iwOpc (w : Nat) : Nat := bits w 63 57
def iwRnd (w : Nat) : Nat := bits w 56 55
def iwDst (w : Nat) : Nat := bits w 54 50
def iwSrc1 (w : Nat) : Nat := bits w 49 45
def iwSrc2 (w : Nat) : Nat := bits w 44 40
def iwSrc3 (w : Nat) : Nat := bits w 39 35
def iwPrec (w : Nat) : Nat := bits w 34 32
def iwImm (w : Nat) : Nat := bits w 31 0

/-- The kernel of a task. -/
def vtCode (f : PhaseRun) (b : Bytes) : Kernel := f.kernels.getD (vtKernel b) {}

/-- A task is bad (R156). -/
def veBad (c : Cur) (x : Task) : Bool :=
  let b := x.bytes
  let n := c.f.tds.length
  let beyond := ((upTo 4).map (vtIn b) ++ (upTo 2).map (vtOut b)).any fun v => v != 0xFF && decide (n ≤ v)
  let io := (vtCode c.f b).words.any fun w =>
    if iwOpc w = 0x01 then
      let i := vtIn b (iwImm w % 4)
      i == 0xFF || bit (iwImm w) 3 != (tdOf c.f i).mask
    else if iwOpc w = 0x02 then vtOut b (iwImm w % 2) == 0xFF
    else false
  !seqOk c .ve x || decide (4 ≤ fld b 1 1) || fld b 19 1 / 4 != 0 || !zeros b 22 2 || !zeros b 28 4 || beyond
    || decide (vtHi b ≤ vtLo b) || decide (vtParts b ≤ vtPart b) || decide (64 < vtParts b)
    || (!vtSplit b && vtParts b != 1) || io || decide (c.f.kernels.length ≤ vtKernel b)

/-- TIL_VE_ERR captures the first failure since it was read (R158). -/
def veErr (s : State) (t reason ip seq : Nat) : State :=
  if bit (s.rd .tilVeErr t) 63 then s
  else s.wr .tilVeErr t 0 (2 ^ 63 + reason * 2 ^ 48 + ip * 2 ^ 40 + seq)

/-- An input as the task reads it (R86). -/
def veView (f : PhaseRun) (b : Bytes) (i : Nat) : View := ⟨tdOf f (vtIn b i), vtTrans b, vtIdx2 b⟩

def vEng (c : Cur) (td : Td) (t : Nat) : Eng := opEng c .ve td t

/-- A block of an input can be read (R20, R370). -/
def veBlkReady (s : State) (f : PhaseRun) (v : View) (br bc : Nat) : Bool :=
  let a := hdrAddr v.td (viewPos v br bc)
  !viewIn v br bc 0 0 || (!outWaits f a && windowReady s a)

/-- Every block of a row of an input can be read. -/
def veRowReady (s : State) (f : PhaseRun) (v : View) (br : Nat) : Bool :=
  (upTo (cdiv (viewCols v) 32)).all fun bc => veBlkReady s f v br bc

/-- The row pre-pass of one input: the largest ROWMAX byte of each row (R145). -/
def rowPre (c : Cur) (t : Nat) (v : View) (br : Nat) : List Nat → State → List Nat → State × List Nat
  | [], s, m => (s, m)
  | bc :: l, s, m =>
    let h := readOperHdr s (vEng c v.td t) v br bc
    rowPre c t v br l h.1 ((upTo 32).map fun r => max (m.getD r 0) (match h.2 with | some x => hdrRow v.trans x r | none => 0))

/-- The pre-pass of every named input. -/
def vePre (c : Cur) (t : Nat) (b : Bytes) : List Nat → State → List (List Nat) → State × List (List Nat)
  | [], s, m => (s, m)
  | i :: l, s, m =>
    if vtIn b i = 0xFF then vePre c t b l s (m ++ [[]])
    else
      let v := veView c.f b i
      let r := rowPre c t v (vtBrow b) (upTo (cdiv (viewCols v) 32)) s []
      vePre c t b l r.1 (m ++ [r.2])

/-- Enter pass n, or end the task when there is none: the first instruction of a body, or of POST (R141). -/
def enterPass (k : Kernel) (b : Bytes) : Nat → Nat → Ve → Ve
  | 0, _, v => { v with task := none }
  | fuel + 1, n, v =>
    if k.npass ≤ n then { v with task := none, pass := 0, post := false, ip := 0 }
    else
      let e := k.passes.getD n (0, 0, 0, 0)
      if e.2.1 ≠ 0 then { v with pass := n, post := false, col := vtLo b, ip := e.1 }
      else if e.2.2.2 ≠ 0 then { v with pass := n, post := true, col := vtHi b - 1, ip := e.2.2.1 }
      else enterPass k b fuel (n + 1) v

/-- The instruction has retired: the next one (R141). -/
def veAdvance (k : Kernel) (b : Bytes) (v : Ve) : Ve :=
  let e := k.passes.getD v.pass (0, 0, 0, 0)
  if v.post then
    if v.ip + 1 < e.2.2.1 + e.2.2.2 then { v with ip := v.ip + 1 } else enterPass k b 5 (v.pass + 1) v
  else if v.ip + 1 < e.1 + e.2.1 then { v with ip := v.ip + 1 }
  else if v.col + 1 < vtHi b then { v with col := v.col + 1, ip := e.1 }
  else if e.2.2.2 ≠ 0 then { v with post := true, ip := e.2.2.1 }
  else enterPass k b 5 (v.pass + 1) v

/-- The mailbox entries that a phase contributes to. -/
def phEnts (f : PhaseRun) : List Nat :=
  ((f.kernels.flatMap fun q => q.words).filterMap fun w => if iwOpc w = 0x50 then some (iwImm w % 64) else none).eraseDups

/-- Entries become final in phase n (R151, R154). -/
def finalMail (n : Nat) (ents : List Nat) (m : List (Nat × Mail)) : List (Nat × Mail) :=
  m.map fun q => if ents.contains q.1 && !q.2.final then (q.1, { q.2 with final := true, phase := n }) else q

/-- Every tile has retired the side operations of the running phase: its entries are final (R151). -/
def summSettle (s : State) (k : PlanKind) : State :=
  match curOf s k with
  | none => s
  | some c =>
    if c.f.veQ.isEmpty && s.ves.all fun q => q.2.k != k || q.2.task.isNone then
      modPlan s k fun p => { p with mail := finalMail c.f.index (phEnts c.f) p.mail }
    else s

/-- The VE of a tile has a new state; the end of a task may be that of the phase's side operations. -/
def veSet (s : State) (t : Nat) (v : Ve) : State :=
  if v.task.isNone then summSettle (setVe s t v) v.k else setVe s t v

/-- A number that a task has wherever it runs and however often: its step, its phase and its record (R22, R138). -/
def veTaskKey (c : Cur) (x : Task) : Nat := 1 + leNat x.bytes + 2 ^ 256 * (c.f.index + 2 ^ 16 * c.p.step)

/-- VE_TASK_TAKE: the VE of tile t takes a task and runs its row pre-pass. The row registers are cleared (R143); what the others
hold at the start of a task is a free value of the task, and the top-k buffer is empty (log 148). -/
def execVeTaskTake (t : Tile) (s : State) : Host.Outcome State Fault Refusal :=
  match curPhase s with
  | none => .next s
  | some c0 =>
    let c := { c0 with sel := .ve }
    if !tileWorks s c t || (getVe s t).task.isSome then .next s
    else match headTask s c.f .ve t with
      | none => .next s
      | some x =>
        let b := x.bytes
        if veBad c x then .next (taskBad (veErr (popTask s c.k .ve x) t 2 0 (fld b 24 4)) c.k t)
        else if !(upTo 4).all fun i => vtIn b i == 0xFF || veRowReady s c.f (veView c.f b i) (vtBrow b) then .next s
        else
          let r := vePre c t b (upTo 4) (popTask s c.k .ve x) []
          .next (veSet r.1 t (enterPass (vtCode c.f b) b 5 0 { k := c.k, task := some x, start := veTaskKey c x, rmax := r.2 }))

/-! ### Operands (R139, R140) -/

def isV (n : Nat) : Bool := decide (n < 16)
def isP (n : Nat) : Bool := decide (16 ≤ n) && decide (n < 24)
def isS (n : Nat) : Bool := decide (24 ≤ n) && decide (n < 31)

/-- Element i of a V or S register that the task has not written. -/
def veUnset (v : Ve) (n i : Nat) : Nat := if v.start = 0 then 0 else Config.veFresh v.start n i % 2 ^ 32

def vReg (v : Ve) (n : Nat) : List Nat := mapGet (fun n => (upTo 1024).map (veUnset v n)) v.v n
def vMask (v : Ve) (n : Nat) : List Bool := mapGet (fun _ => []) v.mask n
def pReg (v : Ve) (n : Nat) : List PEnt := mapGet (fun _ => []) v.p n
def sReg (v : Ve) (n : Nat) : Nat := mapGet (fun n => veUnset v n 0) v.s n

/-- Entry r of a P register. -/
def pEnt (v : Ve) (n r : Nat) : PEnt := (pReg v n).getD r .fresh

/-- The value of a register word by its type. -/
def wordVal (int : Bool) (w : Nat) : Val := if int then .fin (toSigned 32 w) 0 else fp32Val w

/-- Entry i of a register holds an INT32 value (R137). -/
def regInt (v : Ve) (sel i : Nat) : Bool := (mapGet (fun _ => []) v.ints sel).getD i false

/-- Word n of a source, numbered as `srcWord` numbers it, is an INT32 value; an immediate is one by PREC. -/
def selInt (v : Ve) (prec sel n : Nat) : Bool :=
  if sel = 31 then prec == 5 || prec == 6 else regInt v sel (if isV sel then n else if isP sel then n / 32 else 0)

/-- The kinds of the elements of a register are set. -/
def putInts (m : NMap (List Bool)) (d : Nat) (l : List Bool) : NMap (List Bool) := if l.any id then mapIns m d l else mapDel m d

/-- The word of a P entry: a long partial reads as its value rounded RNE to FP32. -/
def pWord : PEnt → Nat
  | .fresh => 0
  | .word w => w
  | .lp l => (lpRound 0x06 .rne 0 l).1

def entIsLp : PEnt → Bool
  | .lp _ => true
  | _ => false

/-- Word n of a source, broadcast to a V destination (n = element), a P destination (n = 32 × entry) or an S one (0). -/
def srcWord (v : Ve) (imm sel n : Nat) : Nat :=
  if isV sel then (vReg v sel).getD n 0
  else if isP sel then pWord (pEnt v sel (n / 32))
  else if isS sel then sReg v sel
  else imm

/-- Value of a source element. -/
def srcVal (v : Ve) (x : VeWord) (sel n : Nat) : Val :=
  let w := srcWord v x.imm.toNat sel n
  if isP sel && entIsLp (pEnt v sel (n / 32)) then fp32Val w else wordVal (selInt v x.prec.val sel n) w

/-- Elements of a destination: (count, stride into element numbers). -/
def dstCount (d : Nat) : Nat := if isV d then 1024 else if isP d then 32 else 1
def dstElem (d i : Nat) : Nat := if isP d then 32 * i else i

/-- A source fits a destination: the same shape, or broadcast to it. -/
def shapeFits (d sel : Nat) : Bool :=
  if isV d then true else if isP d then !isV sel else !isV sel && !isP sel

/-! ### Rounding to PREC (R137, R138) -/

/-- The floating format of PREC. -/
def precFmt (prec : Nat) : FloatFmt :=
  match prec with
  | 0 => fFP32 | 1 => fBF16 | 2 => fFP16 | 3 => fE4M3 | _ => fE5M2

def precInt (prec : Nat) : Bool := prec == 5 || prec == 6

/-- A value rounded to PREC, as a register word; the flag says that R44 counts it. -/
def roundPrec (prec rnd draw : Nat) (v : Val) : Nat × Bool :=
  if prec = 5 then intEncode 32 (rndOf rnd) draw v
  else if prec = 6 then
    let r := intEncode 8 (rndOf rnd) draw v
    (ofSigned 32 (toSigned 8 r.1), r.2)
  else (toFp32 (floatDecode (precFmt prec) (floatEncode (precFmt prec) (rndOf rnd) draw v)), false)

/-- The tensor whose index space the draws use: OUT0, or IN0 (R138). -/
def drawTd (f : PhaseRun) (b : Bytes) : Td := if vtOut b 0 ≠ 0xFF then tdOf f (vtOut b 0) else tdOf f (vtIn b 0)

/-- The draw of destination element i (R138). -/
def veDraw (s : State) (c : Cur) (v : Ve) (b : Bytes) (rnd d i : Nat) : Nat :=
  if rnd ≠ 2 then 0
  else
    let e := c.f.ve.getD {}
    let r := if isV d then i / 32 else if isP d then i else 0
    let col := if isV d then 32 * v.col + i % 32 else 0
    srDraw (s.rd .rngKey e.stream) (drawStep c.k c.p) (e.salt + v.ip)
      (linIndex (drawTd c.f b) [col, 32 * vtBrow b + r, vtIdx2 b, 0, 0])

/-! ### Running one instruction -/

/-- What an instruction meets: the VE of tile t holds a task of the running phase. -/
structure VeAt where
  c : Cur
  v : Ve
  x : Task
  t : Nat
  deriving DecidableEq, Repr

/-- The instruction word of an opcode and its fields (R142). -/
def vwWord (opc : Nat) (x : VeWord) : Nat :=
  opc * 2 ^ 57 + x.rnd.val * 2 ^ 55 + x.dst.val * 2 ^ 50 + x.src1.val * 2 ^ 45 + x.src2.val * 2 ^ 40 + x.src3.val * 2 ^ 35
    + x.prec.val * 2 ^ 32 + x.imm.toNat

/-- The fields of an instruction word. -/
def vwOf (w : Nat) : VeWord :=
  { rnd := Fin.ofNat 4 (iwRnd w), dst := Fin.ofNat 32 (iwDst w), src1 := Fin.ofNat 32 (iwSrc1 w), src2 := Fin.ofNat 32 (iwSrc2 w),
    src3 := Fin.ofNat 32 (iwSrc3 w), prec := Fin.ofNat 8 (iwPrec w), imm := BitVec.ofNat 32 (iwImm w) }

/-- The command that the VE of a tile executes for an instruction word of its kernel (the table "VE instructions", R143). -/
def veCommand (t : Tile) (w : Nat) : Option Instr :=
  let x := vwOf w
  match iwOpc w with
  | 0x01 => some (.ldb t x) | 0x02 => some (.stb t x) | 0x03 => some (.mov t x)
  | 0x10 => some (.add t x) | 0x11 => some (.sub t x) | 0x12 => some (.mul t x) | 0x13 => some (.fma t x)
  | 0x14 => some (.max t x) | 0x15 => some (.min t x) | 0x16 => some (.abs t x) | 0x17 => some (.neg t x)
  | 0x18 => some (.cvt t x) | 0x19 => some (.cmplt t x) | 0x1A => some (.cmpeq t x) | 0x1B => some (.sel t x)
  | 0x20 => some (.exp t x) | 0x21 => some (.log t x) | 0x22 => some (.rsqrt t x) | 0x23 => some (.tanh t x)
  | 0x24 => some (.rcp t x)
  | 0x30 => some (.perm t x) | 0x31 => some (.shuf t x) | 0x32 => some (.pack t x) | 0x33 => some (.unpack t x)
  | 0x34 => some (.trb t x)
  | 0x40 => some (.rowsum t x) | 0x41 => some (.rowdot t x) | 0x42 => some (.rowmax t x) | 0x43 => some (.rowmin t x)
  | 0x44 => some (.rowcnt t x) | 0x45 => some (.colsum t x) | 0x46 => some (.divn t x) | 0x47 => some (.xch t x)
  | 0x48 => some (.rowtopk t x) | 0x49 => some (.tkemit t x) | 0x50 => some (.summ t x)
  | _ => none

/-- Run an instruction on a VE that holds a task, does not wait in XCH, and has that instruction word at its place in the
kernel (R141); else nothing happens. -/
def veRun (s : State) (t opc : Nat) (x : VeWord) (f : State → VeAt → State) : Host.Outcome State Fault Refusal :=
  if x.prec.val = 7 || x.rnd.val = 3 then .refused .illFormed
  else
    let v := getVe s t
    match v.task, curOf s v.k with
    | some y, some c =>
      if v.xch.isSome || (vtCode c.f y.bytes).words[v.ip]? != some (vwWord opc x) then .next s
      else .next (f s { c := { c with sel := .ve }, v := v, x := y, t := t })
    | _, _ => .next s

/-- The instruction retires with a new register file. -/
def veRetire (s : State) (a : VeAt) (v : Ve) : State :=
  let s := cntAdd s .tilVeCnt a.t 1 1
  veSet s a.t (veAdvance (vtCode a.c.f a.x.bytes) a.x.bytes v)

/-- The positions of the current block inside the bounds of IN0, or of OUT0 where the task names no IN0 (R77, R139). -/
def posMask (a : VeAt) : List Bool :=
  let b := a.x.bytes
  if vtIn b 0 ≠ 0xFF then (upTo 1024).map fun n => viewIn (veView a.c.f b 0) (vtBrow b) a.v.col (n / 32) (n % 32)
  else if vtOut b 0 ≠ 0xFF then (upTo 1024).map fun n => blkIn (tdOf a.c.f (vtOut b 0)) ⟨a.v.col, vtBrow b, vtIdx2 b, 0, 0⟩ n
  else List.replicate 1024 true

/-- The in-bounds mask of sources read as a block: where every V source is in bounds; broadcast sources alone take the bounds
of the current block (log 42). -/
def maskAnd (a : VeAt) (srcs : List Nat) : List Bool :=
  let ms := (srcs.filter isV).map fun n => vMask a.v n
  if ms.isEmpty then posMask a else (upTo 1024).map fun n => ms.all fun m => m.getD n true

/-- Store a destination of words, with the kind of each. -/
def putDst (v : Ve) (d : Nat) (int : List Bool) (m : List Bool) (l : List Nat) : Ve :=
  let ints := putInts v.ints d int
  if isV d then { v with v := mapIns v.v d l, mask := mapIns v.mask d m, ints := ints }
  else if isP d then { v with p := mapIns v.p d (l.map .word), ints := ints, redk := mapDel v.redk d }
  else { v with s := mapIns v.s d (l.headD 0), ints := ints }

/-- P register d takes entries that have the type and the kind of reduction of register q. -/
def copyP (v : Ve) (d q : Nat) (int : List Bool) (l : List PEnt) : Ve :=
  { v with p := mapIns v.p d l, redk := mapSet (fun _ => 0) v.redk d (mapGet (fun _ => 0) v.redk q), ints := putInts v.ints d int }

/-- A destination and sources that a shape check lets through (R140). -/
def shapeOk (x : VeWord) (srcs : List Nat) : Bool := x.dst.val != 31 && srcs.all (shapeFits x.dst.val)

/-- Every element of destination d is of PREC's kind. -/
def precInts (prec d : Nat) : List Bool := List.replicate (dstCount d) (precInt prec)

/-- An element-wise instruction with one rounding to PREC. -/
def veElem (s : State) (t opc : Nat) (x : VeWord) (srcs : List Nat) (f : List Val → Val) : Host.Outcome State Fault Refusal :=
  if !shapeOk x srcs then .refused .illFormed
  else veRun s t opc x fun s a =>
    let d := x.dst.val
    let rs := (upTo (dstCount d)).map fun i =>
      roundPrec x.prec.val x.rnd.val (veDraw s a.c a.v a.x.bytes x.rnd.val d i)
        (f (srcs.map fun q => srcVal a.v x q (dstElem d i)))
    let s := countSubst s (tileDie t) (rs.filter Prod.snd).length
    veRetire (cntAdd s .tilVeCnt t 2 (dstCount d)) a (putDst a.v d (precInts x.prec.val d) (maskAnd a srcs) (rs.map Prod.fst))

/-! ### Element-wise instructions (R138, R143) -/

/-- A special state as a value. -/
def spVal : Sp → Val
  | .none => .fin 0 0
  | .pinf => .inf false
  | .ninf => .inf true
  | .nan => .nan

/-- Multiplication with special values. -/
def valMulS (a b : Val) : Val := if spMul a b = Sp.none then valMul a b else spVal (spMul a b)

def isNan : Val → Bool
  | .nan => true
  | _ => false

def one (b : Bool) : Val := .fin (if b then 1 else 0) 0

def nth (l : List Val) (i : Nat) : Val := l.getD i (.fin 0 0)

def valMax (a b : Val) : Val := if isNan a || isNan b then .nan else if valLt a b then b else a
def valMin (a b : Val) : Val := if isNan a || isNan b then .nan else if valLt b a then b else a

def valAbs : Val → Val
  | .fin m e => .fin m.natAbs e
  | .inf _ => .inf false
  | .nan => .nan

/-- ADD. -/
def execAdd (t : Tile) (x : VeWord) (s : State) : Host.Outcome State Fault Refusal :=
  veElem s t 0x10 x [x.src1, x.src2] fun l => valAdd (nth l 0) (nth l 1)
/-- SUB. -/
def execSub (t : Tile) (x : VeWord) (s : State) : Host.Outcome State Fault Refusal :=
  veElem s t 0x11 x [x.src1, x.src2] fun l => valAdd (nth l 0) (valNeg (nth l 1))
/-- MUL. -/
def execMul (t : Tile) (x : VeWord) (s : State) : Host.Outcome State Fault Refusal :=
  veElem s t 0x12 x [x.src1, x.src2] fun l => valMulS (nth l 0) (nth l 1)
/-- FMA. -/
def execFma (t : Tile) (x : VeWord) (s : State) : Host.Outcome State Fault Refusal :=
  veElem s t 0x13 x [x.src1, x.src2, x.src3] fun l => valAdd (valMulS (nth l 0) (nth l 1)) (nth l 2)
/-- MAX. -/
def execMax (t : Tile) (x : VeWord) (s : State) : Host.Outcome State Fault Refusal :=
  veElem s t 0x14 x [x.src1, x.src2] fun l => valMax (nth l 0) (nth l 1)
/-- MIN. -/
def execMin (t : Tile) (x : VeWord) (s : State) : Host.Outcome State Fault Refusal :=
  veElem s t 0x15 x [x.src1, x.src2] fun l => valMin (nth l 0) (nth l 1)
/-- ABS. -/
def execAbs (t : Tile) (x : VeWord) (s : State) : Host.Outcome State Fault Refusal :=
  veElem s t 0x16 x [x.src1] fun l => valAbs (nth l 0)
/-- NEG. -/
def execNeg (t : Tile) (x : VeWord) (s : State) : Host.Outcome State Fault Refusal :=
  veElem s t 0x17 x [x.src1] fun l => valNeg (nth l 0)
/-- CVT. -/
def execCvt (t : Tile) (x : VeWord) (s : State) : Host.Outcome State Fault Refusal :=
  veElem s t 0x18 x [x.src1] fun l => nth l 0
/-- CMPLT. -/
def execCmplt (t : Tile) (x : VeWord) (s : State) : Host.Outcome State Fault Refusal :=
  veElem s t 0x19 x [x.src1, x.src2] fun l =>
    one (!isNan (nth l 0) && !isNan (nth l 1) && valLt (nth l 0) (nth l 1))
/-- CMPEQ. -/
def execCmpeq (t : Tile) (x : VeWord) (s : State) : Host.Outcome State Fault Refusal :=
  veElem s t 0x1A x [x.src1, x.src2] fun l =>
    one (!isNan (nth l 0) && !isNan (nth l 1) && !valLt (nth l 0) (nth l 1) && !valLt (nth l 1) (nth l 0))
/-- SEL. -/
def execSel (t : Tile) (x : VeWord) (s : State) : Host.Outcome State Fault Refusal :=
  veElem s t 0x1B x [x.src1, x.src2, x.src3] fun l => if valZero (nth l 0) then nth l 2 else nth l 1

/-- MOV: the words, their type, and a long partial as it is. -/
def execMov (t : Tile) (x : VeWord) (s : State) : Host.Outcome State Fault Refusal :=
  if !shapeOk x [x.src1] then .refused .illFormed
  else veRun s t 0x03 x fun s a =>
    let d := x.dst.val
    let q := x.src1.val
    let int := (upTo (dstCount d)).map fun i => selInt a.v x.prec.val q (dstElem d i)
    if isP d && isP q then veRetire s a (copyP a.v d q int (pReg a.v q))
    else
      veRetire s a (putDst a.v d int (maskAnd a [q]) ((upTo (dstCount d)).map fun i => srcWord a.v x.imm.toNat q (dstElem d i)))

/-! ### Transcendental functions (R144) -/

/-- An FP32 result rounded to PREC; at FP32 the word stands as it is. -/
def roundWord (prec rnd draw w : Nat) : Nat × Bool := if prec = 0 then (w, false) else roundPrec prec rnd draw (fp32Val w)

/-- The source of a transcendental function as an FP32 word. -/
def srcFp32 (v : Ve) (x : VeWord) (sel n : Nat) : Nat :=
  if selInt v x.prec.val sel n && !(isP sel && entIsLp (pEnt v sel (n / 32))) then toFp32 (srcVal v x sel n)
  else srcWord v x.imm.toNat sel n

def veTrans (s : State) (t opc : Nat) (x : VeWord) (f : Nat → Nat) : Host.Outcome State Fault Refusal :=
  if !shapeOk x [x.src1] then .refused .illFormed
  else veRun s t opc x fun s a =>
    let d := x.dst.val
    let rs := (upTo (dstCount d)).map fun i =>
      roundWord x.prec.val x.rnd.val (veDraw s a.c a.v a.x.bytes x.rnd.val d i) (f (srcFp32 a.v x x.src1 (dstElem d i)))
    let s := countSubst s (tileDie t) (rs.filter Prod.snd).length
    veRetire (cntAdd s .tilVeCnt t 3 (dstCount d)) a
      (putDst a.v d (precInts x.prec.val d) (maskAnd a [x.src1.val]) (rs.map Prod.fst))

/-- EXP. -/
def execExp (t : Tile) (x : VeWord) (s : State) : Host.Outcome State Fault Refusal := veTrans s t 0x20 x expWord
/-- LOG. -/
def execLog (t : Tile) (x : VeWord) (s : State) : Host.Outcome State Fault Refusal := veTrans s t 0x21 x logWord
/-- RSQRT. -/
def execRsqrt (t : Tile) (x : VeWord) (s : State) : Host.Outcome State Fault Refusal := veTrans s t 0x22 x rsqrtWord
/-- TANH. -/
def execTanh (t : Tile) (x : VeWord) (s : State) : Host.Outcome State Fault Refusal := veTrans s t 0x23 x tanhWord
/-- RCP. -/
def execRcp (t : Tile) (x : VeWord) (s : State) : Host.Outcome State Fault Refusal := veTrans s t 0x24 x rcpWord

/-! ### Lane instructions (R143) -/

/-- Move elements: `f` gives the source register and element of each destination element. -/
def veLanes (s : State) (t opc : Nat) (x : VeWord) (srcs : List Nat) (f : Kernel → Nat → Nat × Nat) :
    Host.Outcome State Fault Refusal :=
  if !isV x.dst.val || !srcs.all isV then .refused .illFormed
  else veRun s t opc x fun s a =>
    let g := f (vtCode a.c.f a.x.bytes)
    veRetire s a (putDst a.v x.dst.val ((upTo 1024).map fun n => regInt a.v (g n).1 (g n).2)
      ((upTo 1024).map fun n => (vMask a.v (g n).1).getD (g n).2 true) ((upTo 1024).map fun n => (vReg a.v (g n).1).getD (g n).2 0))

/-- PERM. -/
def execPerm (t : Tile) (x : VeWord) (s : State) : Host.Outcome State Fault Refusal :=
  veLanes s t 0x30 x [x.src1.val] fun k n => (x.src1.val, n / 64 * 64 + (k.perms.getD (x.imm.toNat % 16) []).getD (n % 64) 0)
/-- SHUF. -/
def execShuf (t : Tile) (x : VeWord) (s : State) : Host.Outcome State Fault Refusal :=
  let i := x.imm.toNat % 64
  veLanes s t 0x31 x [x.src1.val] fun _ n =>
    (x.src1.val, n / 64 * 64 + (if bit x.imm.toNat 6 then (n % 64 + i) % 64 else Nat.xor (n % 64) i))
/-- PACK. -/
def execPack (t : Tile) (x : VeWord) (s : State) : Host.Outcome State Fault Refusal :=
  let o := x.imm.toNat % 2
  veLanes s t 0x32 x [x.src1.val, x.src2.val] fun _ n =>
    if n % 64 < 32 then (x.src1.val, n / 64 * 64 + 2 * (n % 64) + o) else (x.src2.val, n / 64 * 64 + 2 * (n % 64 - 32) + o)
/-- UNPACK. -/
def execUnpack (t : Tile) (x : VeWord) (s : State) : Host.Outcome State Fault Refusal :=
  let o := 32 * (x.imm.toNat % 2)
  veLanes s t 0x33 x [x.src1.val, x.src2.val] fun _ n =>
    (if n % 2 = 0 then x.src1.val else x.src2.val, n / 64 * 64 + n % 64 / 2 + o)
/-- TRB. -/
def execTrb (t : Tile) (x : VeWord) (s : State) : Host.Outcome State Fault Refusal :=
  veLanes s t 0x34 x [x.src1.val] fun _ n => (x.src1.val, 32 * (n % 32) + n / 32)

/-! ### Loads and stores (R143, R207) -/

/-- A stored element as a register word: an integer format gives INT32, the others FP32, exactly. -/
def elemWord (b : Blk) (n : Nat) : Nat :=
  let c := b.els.getD n 0
  if b.mask then (if c % 2 = 1 then 0x3F800000 else 0)
  else if b.fmt = 0x20 then c
  else if b.fmt = 0x03 then ofSigned 32 (toSigned 8 c)
  else if b.fmt = 0x06 then c
  else if b.fmt = 0x30 then (lpRound 0x06 .rne 0 (blkLp b n)).1
  else
    let v := blkVal b n
    if valZero v && bit c (fmtBits b.fmt - 1) then 0x80000000 else toFp32 v

def fmtInt (td : Td) : Bool := !td.mask && (td.fmt == 0x20 || td.fmt == 0x03)

/-- The fill of a tensor as a register word (R77). -/
def fillWord (td : Td) : Nat :=
  if fmtInt td then (match fillVal td with | .fin m e => ofSigned 32 (shiftTrunc m e) | _ => 0) else toFp32 (fillVal td)

/-- LDB. -/
def execLdb (t : Tile) (x : VeWord) (s : State) : Host.Outcome State Fault Refusal :=
  if !isV x.dst.val then .refused .illFormed
  else veRun s t 0x01 x fun s a =>
    let b := a.x.bytes
    let i := x.imm.toNat % 4
    let w := veView a.c.f b i
    if vtIn b i = 0xFF || !veBlkReady s a.c.f w (vtBrow b) a.v.col then s
    else
      let o := readOper s (vEng a.c w.td t) w (vtBrow b) a.v.col
      let row := fun n => if bit x.imm.toNat 2 then 0 else n / 32
      let inb := fun n => viewIn w (vtBrow b) a.v.col (row n) (n % 32)
      let word := fun n => if inb n then elemWord o.2.blk (viewN w (row n) (n % 32)) else fillWord w.td
      veRetire o.1 a (putDst a.v x.dst.val (List.replicate 1024 (fmtInt w.td)) ((upTo 1024).map inb) ((upTo 1024).map word))

/-- SPLIT records of the VE list (R523). -/
def veSplits (f : PhaseRun) : Nat := f.placeV.length - ((f.vePacked.map fun n => tdBlockCount (tdOf f n)).sum)

/-- The writer of a PACKED superblock of a VE output (R83, R523). -/
def veWriter (f : PhaseRun) (t : Nat) (q : Spot) : Nat :=
  f.placeV.getD (veSplits f + placeIndex f f.vePacked (superSpot q)) t

/-- What an output element takes; a mask block's SAVED is `saved`. -/
def stbElt (td : Td) (saved : Bool) (v : Val) : Elt :=
  if td.mask then .bit (b2n (!valZero v)) saved else if td.fmt = 0x30 then .lp (lpOfVal v) else .val v

/-- What STB writes at element n (R79, R139): the source's value where its in-bounds mask is set; elsewhere 0, or with
PAD_WRITE = 0 the contents. -/
def stbAt (a : VeAt) (x : VeWord) (td : Td) (n : Nat) : Elt :=
  let saved := bit x.imm.toNat 1
  if !isV x.src1.val || (vMask a.v x.src1.val).getD n true then stbElt td saved (srcVal a.v x x.src1.val n)
  else if td.padw then stbElt td saved (.fin 0 0)
  else .keep

/-- STB. -/
def execStb (t : Tile) (x : VeWord) (s : State) : Host.Outcome State Fault Refusal :=
  veRun s t 0x02 x fun s a =>
    let b := a.x.bytes
    let nd := vtOut b (x.imm.toNat % 2)
    if nd = 0xFF then s
    else
      let td := tdOf a.c.f nd
      let p : BlkPos := ⟨a.v.col, vtBrow b, vtIdx2 b, 0, 0⟩
      let q : Spot := { td := nd, bc := p.bc, br := p.br, o2 := p.o2 }
      let e := a.c.f.ve.getD {}
      let draw := fun n => if x.rnd.val = 2 then
          srDraw (s.rd .rngKey e.stream) (drawStep a.c.k a.c.p) (e.salt + a.v.ip) n else 0
      let e := stbAt a x td
      if !blkIn td p 0 then veRetire (rasBump s 64 (tileDie t) 1024) a a.v
      else if (upTo 1024).all fun n => !blkIn td p n || !(e n).isKeep then
        let r := encodeElts td (rndOf x.rnd.val) (fun n => draw (linIndex td (elemIdx p n))) (zeroBlk td) (blkIn td p) e
        veRetire (finishBlock (countSubst s (tileDie t) r.2) a.c .ve t (veWriter a.c.f t q) q r.1) a a.v
      else if td.packed then failPlan s a.c.k stBadDescriptor
      else veRetire (setReady (writeElts s (vEng a.c td t) .dev td (rndOf x.rnd.val) draw p e) a.c.k (hdrAddr td p)) a a.v

/-! ### Exact row reductions (R145, R146) -/

/-- The element anchor of a row: IMM[31:16], the raise of R146, and the inputs' row maxima. -/
def rowE (a : VeAt) (imm r : Nat) : Int :=
  toSigned 16 (imm / 65536) + raiseOf a.c .ve
    + ((upTo 4).map fun i =>
        let m := (a.v.rmax.getD i []).getD r 0
        ((bits imm (2 * i + 9) (2 * i + 8) : Nat) : Int) * (if m = 0 then -127 else maxExp m)).sum

/-- n_pc: row pieces of the full row of IN0 (R145). -/
def rowPieces (a : VeAt) : Nat := cdiv (viewCols (veView a.c.f a.x.bytes 0)) 32

/-- A P entry as the long partial a reduction adds to. -/
def entLp (int : Bool) (eOut : Int) : PEnt → Lp
  | .fresh => {}
  | .lp l => l
  | .word w => match wordVal int w with
    | .fin m e => { v := shiftTrunc m (e - (eOut - 96)), anchor := eOut, live := true }
    | v => { anchor := eOut, live := true, sp := spOf v }

/-- Fold one row piece of contributions into a P entry: the new entry, and whether it overflowed. -/
def rowFold (e eOut : Int) (l : Lp) (vs : List (Val × Sp)) : Lp × Bool :=
  let sp := vs.foldl (fun z v => spAdd z v.2) Sp.none
  let big := vs.find? fun v => magGe v.1 (e + 1)
  match big with
  | some v =>
    let l0 : Lp := if l.live then l else { anchor := eOut, live := true }
    if l0.ovf then ({ l0 with sp := spAdd l0.sp sp }, false)
    else
      let neg := match v.1 with | .fin m _ => decide (m < 0) | _ => false
      ({ l0 with v := if neg then -lpMax - 1 else lpMax, ovf := true, sp := spAdd l0.sp sp }, true)
  | none => lpFold l eOut ((vs.map fun v => onGrid (e - 40) v.1).sum) (e - 40) sp

/-- Store entries of a P register, with the kind of reduction that filled it. -/
def putP (v : Ve) (d kind : Nat) (int : List Bool) (l : List PEnt) : Ve :=
  { v with p := mapIns v.p d l, redk := mapSet (fun _ => 0) v.redk d kind, ints := putInts v.ints d int }

/-- An exact sum over each row (ROWSUM, ROWDOT). -/
def veRowSum (s : State) (t opc : Nat) (x : VeWord) (srcs : List Nat) (f : List Val → Val × Sp) :
    Host.Outcome State Fault Refusal :=
  if !isP x.dst.val || srcs.any (· == 31) then .refused .illFormed
  else veRun s t opc x fun s a =>
    let d := x.dst.val
    let m := maskAnd a srcs
    let rs := (upTo 32).map fun r =>
      let e := rowE a x.imm.toNat r
      let eOut := e + (clog2 (rowPieces a) : Int)
      let ns := ((upTo 32).map (32 * r + ·)).filter fun n => m.getD n true
      rowFold e eOut (entLp (regInt a.v d r) eOut (pEnt a.v d r)) (ns.map fun n => f (srcs.map fun q => srcVal a.v x q n))
    let o := (rs.filter Prod.snd).length
    let s := if o = 0 then s else veErr s t 1 a.v.ip (fld a.x.bytes 24 4)
    let s := overflowed (cntAdd s .tilVeCnt t 4 (m.filter id).length) a.v.k .ve t o
    veRetire s a (putP a.v d 0 [] (rs.map fun r => .lp r.1))

/-- ROWSUM. -/
def execRowsum (t : Tile) (x : VeWord) (s : State) : Host.Outcome State Fault Refusal :=
  veRowSum s t 0x40 x [x.src1.val] fun l => (nth l 0, spOf (nth l 0))
/-- ROWDOT. -/
def execRowdot (t : Tile) (x : VeWord) (s : State) : Host.Outcome State Fault Refusal :=
  veRowSum s t 0x41 x [x.src1.val, x.src2.val] fun l => (valMul (nth l 0) (nth l 1), spMul (nth l 0) (nth l 1))

/-- ROWMAX and ROWMIN: `lim` is what the register holds until it first writes. -/
def veRowExt (s : State) (t opc : Nat) (x : VeWord) (kind : Nat) (lim : Val) (f : Val → Val → Val) :
    Host.Outcome State Fault Refusal :=
  if !isP x.dst.val || x.src1.val = 31 then .refused .illFormed
  else veRun s t opc x fun s a =>
    let d := x.dst.val
    let m := maskAnd a [x.src1.val]
    let old := fun r => match pEnt a.v d r with
      | .fresh => lim
      | .word w => wordVal (regInt a.v d r) w
      | .lp l => lpVal l
    let rs := (upTo 32).map fun r =>
      let ns := ((upTo 32).map (32 * r + ·)).filter fun n => m.getD n true
      let int := if ns.isEmpty then regInt a.v d r else ns.all fun n => selInt a.v x.prec.val x.src1.val n
      (int, ns.foldl (fun z n => f z (srcVal a.v x x.src1.val n)) (old r))
    let s := cntAdd s .tilVeCnt t 4 (((upTo 1024).filter fun n => m.getD n true).length)
    veRetire s a (putP a.v d kind (rs.map Prod.fst)
      (rs.map fun v => .word (if v.1 then (intEncode 32 .rne 0 v.2).1 else toFp32 v.2)))

/-- ROWMAX. -/
def execRowmax (t : Tile) (x : VeWord) (s : State) : Host.Outcome State Fault Refusal :=
  veRowExt s t 0x42 x 1 (.inf true) valMax
/-- ROWMIN. -/
def execRowmin (t : Tile) (x : VeWord) (s : State) : Host.Outcome State Fault Refusal :=
  veRowExt s t 0x43 x 2 (.inf false) valMin

/-- ROWCNT. -/
def execRowcnt (t : Tile) (x : VeWord) (s : State) : Host.Outcome State Fault Refusal :=
  if !isP x.dst.val || x.src1.val = 31 then .refused .illFormed
  else veRun s t 0x44 x fun s a =>
    let d := x.dst.val
    let m := maskAnd a [x.src1.val]
    let cnt := fun r => (((upTo 32).map (32 * r + ·)).filter fun n => m.getD n true && !valZero (srcVal a.v x x.src1.val n)).length
    let old := fun r => match pEnt a.v d r with | .fresh => (0 : Int) | e => toSigned 32 (pWord e)
    let s := cntAdd s .tilVeCnt t 4 (((upTo 1024).filter fun n => m.getD n true).length)
    veRetire s a (putP a.v d 3 (List.replicate 32 true) ((upTo 32).map fun r => .word (intEncode 32 .rne 0 (.fin (old r + (cnt r : Int)) 0)).1))

/-- The exact sum of the finite values of a list. -/
def finSum (vs : List Val) : Val :=
  vs.foldl (fun z v => match v with | .fin _ _ => valAdd z v | _ => z) (.fin 0 0)

/-- COLSUM: the column sums of a block column are added into row (column mod 32) of the slot, each contribution truncated to the
grid (06_vector_row.md:134). In PINNED mode the anchor is the table entry of the row's first block column in block row 0, else a
free value of the place; a live long partial keeps its own (R37; log 26). -/
def execColsum (t : Tile) (x : VeWord) (s : State) : Host.Outcome State Fault Refusal :=
  let n := x.imm.toNat % 16
  if x.src1.val = 31 || n < 8 || 12 < n then .refused .illFormed
  else veRun s t 0x45 x fun s a =>
    let e := a.c.f.ve.getD {}
    let row := a.v.col % 32
    let z := if e.anchor = 2 then pinnedAnchor s a.c .ve e.anc t ⟨row, 0, vtIdx2 a.x.bytes, 0, 0⟩
      else (s, toSigned 16 (Config.colAnchor a.c.f.index n row (vtIdx2 a.x.bytes)))
    let m := maskAnd a [x.src1.val]
    let rd := accRead z.1 (.plan a.v.k) t n
    let slot := rd.2
    let rs := (upTo 32).map fun c =>
      let ns := ((upTo 32).map fun r => 32 * r + c).filter fun n => m.getD n true
      let vs := ns.map fun n => srcVal a.v x x.src1.val n
      let l := accLp slot (32 * row + c)
      let an := if l.live then l.anchor else z.2
      lpFold l an ((vs.map fun v => onGrid (an - 96) v).sum) (an - 96)
        (vs.foldl (fun q v => spAdd q (spOf v)) Sp.none)
    let new := rs.zipIdx.foldl (fun l q => lpSet l (32 * row + q.2) q.1.1) slot
    let o := (rs.filter Prod.snd).length
    let s := overflowed (accSet rd.1 t n new) a.v.k .ve t o
    veRetire (cntAdd s .tilVeCnt t 4 ((upTo 1024).filter fun i => m.getD i true).length) a a.v

/-- DIVN. -/
def execDivn (t : Tile) (x : VeWord) (s : State) : Host.Outcome State Fault Refusal :=
  if !isP x.dst.val || !isP x.src1.val then .refused .illFormed
  else veRun s t 0x46 x fun s a =>
    let d := x.dst.val
    let n := if x.imm.toNat = 0 then viewCols (veView a.c.f a.x.bytes 0) else x.imm.toNat
    let val := fun r => match pEnt a.v x.src1.val r with
      | .lp l => lpVal l
      | .fresh => Val.fin 0 0
      | .word w => wordVal (regInt a.v x.src1.val r) w
    let rs := (upTo 32).map fun r => roundPrec x.prec.val x.rnd.val (veDraw s a.c a.v a.x.bytes x.rnd.val d r)
      (match val r with | .fin m e => quotVal m e n | v => v)
    let s := countSubst s (tileDie t) (rs.filter Prod.snd).length
    veRetire (cntAdd s .tilVeCnt t 2 32) a (putDst a.v d (precInts x.prec.val d) [] (rs.map Prod.fst))

/-! ### XCH (R147) -/

/-- XCH: with PARTS = 1 the register is its own result; otherwise the member waits for its row group. -/
def execXch (t : Tile) (x : VeWord) (s : State) : Host.Outcome State Fault Refusal :=
  if !isP x.dst.val || !isP x.src1.val then .refused .illFormed
  else veRun s t 0x47 x fun s a =>
    let v := a.v
    if vtParts a.x.bytes ≤ 1 then
      veRetire s a (copyP v x.dst.val x.src1.val ((upTo 32).map (regInt v x.src1.val)) (pReg v x.src1.val))
    else setVe s t { v with xch := some (32 * x.src1.val + x.dst.val) }

/-- Members of a row group that wait in XCH, by PART. -/
def xchMembers (s : State) (k : PlanKind) (brow idx2 : Nat) : List (Nat × Ve × Bytes) :=
  s.ves.filterMap fun p => match p.2.task with
    | some y => if p.2.k == k && vtSplit y.bytes && vtBrow y.bytes == brow && vtIdx2 y.bytes == idx2 && p.2.xch.isSome then
        some (p.1, p.2, y.bytes) else none
    | none => none

/-- Combine two entries by the kind of reduction; the flags say anchor mismatch and overflow. -/
def xchEnt (kind : Nat) (int : Bool) (a b : PEnt) : PEnt × Bool × Bool :=
  match kind with
  | 1 => (.word (if int then (intEncode 32 .rne 0 (valMax (wordVal true (pWord a)) (wordVal true (pWord b)))).1
      else toFp32 (valMax (fp32Val (pWord a)) (fp32Val (pWord b)))), false, false)
  | 2 => (.word (if int then (intEncode 32 .rne 0 (valMin (wordVal true (pWord a)) (wordVal true (pWord b)))).1
      else toFp32 (valMin (fp32Val (pWord a)) (fp32Val (pWord b)))), false, false)
  | 3 => (.word (intEncode 32 .rne 0 (.fin (toSigned 32 (pWord a) + toSigned 32 (pWord b)) 0)).1, false, false)
  | _ =>
    let r := lpAdd (entLp int 0 a) (entLp int 0 b)
    (.lp r.1, r.2)

/-- The combined register of a group. -/
def xchAll (kind : Nat) (int : Nat → Bool) : List (List PEnt) → List PEnt × Nat × Nat
  | [] => ([], 0, 0)
  | [l] => (l, 0, 0)
  | l :: ls =>
    let q := xchAll kind int ls
    let r := (upTo 32).map fun i => xchEnt kind (int i) (l.getD i .fresh) (q.1.getD i .fresh)
    (r.map Prod.fst, q.2.1 + (r.filter fun z => z.2.1).length, q.2.2 + (r.filter fun z => z.2.2).length)

/-- One member leaves XCH with the result. -/
def xchLeave (s : State) (c : Cur) (l : List PEnt) (m : Nat × Ve × Bytes) : State :=
  let v := m.2.1
  let q := v.xch.getD 0
  let w := copyP { v with xch := none } (q % 32) (q / 32) ((upTo 32).map (regInt v (q / 32))) l
  veSet (cntAdd s .tilVeCnt m.1 1 1) m.1 (veAdvance (vtCode c.f m.2.2) m.2.2 w)

/-- XCH_COMBINE: the last member of the row group has reached XCH. An anchor mismatch is captured at every member (log 49). -/
def execXchCombine (brow : BitVec 24) (idx2 : BitVec 16) (s : State) : Host.Outcome State Fault Refusal :=
  match curPhase s with
  | none => .next s
  | some c =>
    let ms := xchMembers s c.k brow.toNat idx2.toNat
    match ms with
    | [] => .next s
    | m :: _ =>
      if ms.length ≠ vtParts m.2.2 then .next s
      else
        let src := m.2.1.xch.getD 0 / 32
        let kind := mapGet (fun _ => 0) m.2.1.redk src
        let r := xchAll kind (regInt m.2.1 src) (ms.map fun q => pReg q.2.1 (q.2.1.xch.getD 0 / 32))
        let s := if r.2.1 = 0 then s else ms.foldl (fun s q => veErr s q.1 3 q.2.1.ip (fld q.2.2 24 4)) s
        let s := overflowed (tileEvent s (.plan c.k) 22 m.1 r.2.1) c.k .ve m.1 r.2.2
        .next (ms.foldl (fun s q => xchLeave s c r.1 q) s)

/-! ### Top-k and summaries (R125, R150, R151) -/

/-- ROWTOPK: merge the row elements into the buffer. -/
def execRowtopk (t : Tile) (x : VeWord) (s : State) : Host.Outcome State Fault Refusal :=
  let k := x.imm.toNat % 32
  if x.src1.val = 31 || k = 0 || 16 < k then .refused .illFormed
  else veRun s t 0x48 x fun s a =>
    let m := maskAnd a [x.src1.val]
    let before := fun (int : Bool) (p q : Nat × Nat) => topBefore (wordVal int p.1, p.2) (wordVal int q.1, q.2)
    let ins := fun (int : Bool) (l : List (Nat × Nat)) (p : Nat × Nat) =>
      ((l.filter fun q => before int q p) ++ [p] ++ l.filter fun q => !before int q p).take k
    let rows := (upTo 32).map fun r =>
      (((upTo 32).map (32 * r + ·)).filter fun n => m.getD n true).foldl
        (fun l n => ins (selInt a.v x.prec.val x.src1.val n) l (srcWord a.v x.imm.toNat x.src1.val n, 32 * a.v.col + n % 32)) (a.v.topk.getD r [])
    veRetire s a { a.v with topk := rows }

/-- A contribution to a mailbox entry (the table "Summary kinds"). -/
def mailAdd (m : Mail) (v : Val) : Mail :=
  let nf := match v with | .fin _ _ => false | _ => true
  let m := { m with nonfin := m.nonfin || nf }
  let cur := fp32Val m.code
  match m.kind with
  | 0 => { m with code := if m.started then toFp32 (valMax cur v) else toFp32 (valMax (.inf true) v), started := true }
  | 1 => { m with code := if m.started then toFp32 (valMin cur v) else toFp32 (valMin (.inf false) v), started := true }
  | 2 => { m with sum := m.sum + onGrid (-149) v, sp := spAdd m.sp (spOf v), started := true }
  | 3 => { m with sum := min (2 ^ 32 - 1) (m.sum + (if valZero v then 0 else 1)), started := true }
  | _ => m

/-- The current value of an entry (R154). -/
def mailValue (m : Mail) : Nat :=
  match m.kind with
  | 0 => if m.started then m.code else 0xFF800000
  | 1 => if m.started then m.code else 0x7F800000
  | 2 => match m.sp with
    | .none => toFp32 (.fin m.sum (-149))
    | p => toFp32 (spVal p)
  | 3 => m.sum.toNat
  | _ => b2n m.nonfin

/-- Row r of the task lies inside the bounds of IN0 as the task reads it, or of OUT0 where it names no IN0. -/
def rowIn (a : VeAt) (r : Nat) : Bool :=
  let b := a.x.bytes
  if vtIn b 0 ≠ 0xFF then viewIn (veView a.c.f b 0) (vtBrow b) 0 r 0
  else vtOut b 0 == 0xFF || blkIn (tdOf a.c.f (vtOut b 0)) ⟨0, vtBrow b, vtIdx2 b, 0, 0⟩ (32 * r)

/-- The values an instruction contributes: in-bounds elements, rows or the scalar. -/
def summVals (a : VeAt) (x : VeWord) : List Val :=
  let q := x.src1.val
  if isV q then ((upTo 1024).filter fun n => (vMask a.v q).getD n true).map fun n => srcVal a.v x q n
  else if isP q then
    ((upTo 32).filter fun r => rowIn a r).map fun r => srcVal a.v x q (32 * r)
  else [srcVal a.v x q 0]

/-- SUMM. -/
def execSumm (t : Tile) (x : VeWord) (s : State) : Host.Outcome State Fault Refusal :=
  veRun s t 0x50 x fun s a =>
    let n := x.imm.toNat % 64
    let vs := summVals a x
    let s := modPlan s a.v.k fun p => { p with mail := mapIns p.mail n (vs.foldl mailAdd (getMail p n)) }
    veRetire (cntAdd s .tilVeCnt t 5 vs.length) a a.v

end Sys2Proof.Machine
end

