-- ==== Sys2Proof/Machine/Router.lean ====
section
/-! DEFINITION. The token router (R176 to R198, R520): step answers, the accept stage, dispatch, arrival, return and
combine. -/

namespace Sys2Proof.Machine

/-! ### Contexts and answers -/

def getCtx (s : State) (n : Nat) : TkCtx := mapGet (fun _ => {}) s.tkr.ctxs n

/-- A 64 B context record; the flag says that a field is reserved or out of range (R178). -/
def parseCtx (b : Bytes) : TkCtx × Bool :=
  let f := fld b 2 1
  let c : TkCtx :=
    { k := fld b 0 1, spare := fld b 1 1, next := bit f 0, renorm := bit f 1, world := worldOf (bit f 2), valid := bit f 3,
      nexp := fld b 4 4, h := fld b 8 2, flush := fld b 12 4, slots := fld b 16 4 }
  (c, f / 16 != 0 || !zeros b 3 1 || !zeros b 10 2 || !zeros b 20 44 || c.k == 0 || decide (16 < c.k)
      || decide (16 < c.k + c.spare) || (!c.next && c.spare != 0) || c.nexp == 0 || decide (65536 < c.nexp) || c.h == 0
      || decide (16384 < c.h) || c.flush == 0 || decide (1000 < c.flush) || c.slots == 0 || decide (1048576 < c.slots))

def parseExpert (b : Bytes) : Expert :=
  { dev := fld b 0 2, loc := fld b 2 2, qbase := fld b 4 4, quota := fld b 8 4, cap := fld b 12 4 }

/-- The sections of an answer record from byte `o` on; `none` when they run beyond it. -/
def parseSections (bs : Bytes) : Nat → Nat → Option (List (AnsSection × Bool))
  | 0, _ => some []
  | n + 1, o =>
    let e := fld bs (o + 4) 4
    if bs.length < o + 16 + 16 * e then none
    else
      let sec : AnsSection :=
        { ctx := fld bs o 2, nsrc := fld bs (o + 2) 2,
          experts := (upTo e).map fun i => parseExpert (slice bs (o + 16 + 16 * i) 16) }
      (parseSections bs n (o + 16 + 16 * e)).map fun l => (sec, !zeros bs (o + 8) 8) :: l

/-- ANSWER_ID in force; 0 before any answer (log 29). -/
def answerId (s : State) : Nat := (s.tkr.answer.map fun a => a.id).getD 0

def sectionOf (s : State) (ctx : Nat) : Option AnsSection :=
  match s.tkr.answer with
  | none => none
  | some a => a.sections.find? fun x => x.ctx == ctx

/-- An expert entry in force; without one the expert is disabled. -/
def expertOf (s : State) (ctx e : Nat) : Expert :=
  match sectionOf s ctx with
  | none => {}
  | some x => x.experts.getD e {}

/-- The expert of a context that this device owns under a local index. -/
def localExpert (s : State) (ctx loc : Nat) : Option Expert :=
  match sectionOf s ctx with
  | none => none
  | some x => x.experts.find? fun e => some e.dev == ownId s && e.loc == loc

/-- Local experts of a context. -/
def localExperts (s : State) (ctx : Nat) : List Expert :=
  match sectionOf s ctx with
  | none => []
  | some x => x.experts.filter fun e => some e.dev == ownId s

def tkrEpoch (s : State) : Nat := s.rd .tkrEpoch

def setTkr (s : State) (f : Tkr → Tkr) : State := { s with tkr := f s.tkr }

/-- The home slice of a context (R176). -/
def sliceOf (ctx : Nat) : Nat := ctx % 16

/-- TKR_ERR captures the first failure since it was read (R203). -/
def tkrErrSet (s : State) (reason ctx ticket peer expert : Nat) : State :=
  if bit (s.rd .tkrErr) 63 then s
  else s.wr .tkrErr 0 0 (2 ^ 63 + reason * 2 ^ 60 + ctx * 2 ^ 52 + ticket * 2 ^ 35 + peer * 2 ^ 16 + expert)

/-! ### Passes -/

/-- A pass of the running phase of a kind by its context. -/
def getPass (s : State) (k : PlanKind) (ctx : Nat) : Option (Cur × Pass) :=
  match curOf s k with
  | none => none
  | some c => (c.f.passes.find? fun p => p.ctx == ctx).map fun p => ({ c with sel := .route }, p)

/-- The pass a frame of some context and step belongs to. -/
def framePass (s : State) (ctx step : Nat) : Option (Cur × Pass) :=
  match getPass s .training ctx with
  | some (c, p) => if drawStep .training c.p = step then some (c, p) else none
  | none => match getPass s .eval ctx with
    | some (c, p) => if drawStep .eval c.p = step then some (c, p) else none
    | none => none

def modPass (s : State) (k : PlanKind) (ctx : Nat) (g : Pass → Pass) : State :=
  modPhase s k fun f => { f with passes := updWhere (fun p => p.ctx == ctx) g f.passes }

/-- Descriptor index i of a routing entry (R179). -/
def pTd (p : Pass) (i : Nat) : Nat := fld p.ent i 1
def passTd (c : Cur) (p : Pass) (i : Nat) : Td := tdOf c.f (pTd p i)

/-- An access of the router: routing owns the declared ranges of code 0x50. -/
def rEng (c : Cur) (td : Td) : Eng := { w := td.world, ctx := .plan c.k, owner := some 0x50 }

/-- The tile the combine works at: the first of its home slice's die; bits do not depend on it. -/
def passTile (p : Pass) : Nat := let d := sliceOf p.ctx / 4; tileId (d % 2 * 24) (d / 2 * 16)

/-- Change the question counts of a context (R196). -/
def modStat (s : State) (k : PlanKind) (ctx : Nat) (g : QStat → QStat) : State :=
  modPlan s k fun p => { p with stats := mapIns p.stats ctx (g (mapGet (fun _ => {}) p.stats ctx)) }

/-- LOCAL lies inside the arrival tensors that the running plans route the context through (R195; log 143). -/
def localInside (s : State) (ctx loc : Nat) : Bool :=
  [s.seq.train, s.seq.eval].all fun o => match o with
    | none => true
    | some p => p.locals.all fun q => q.1 != ctx || decide (loc < q.2)

/-- A section passes the checks of R195. -/
def sectionOk (s : State) (x : AnsSection) : Bool :=
  let c := getCtx s x.ctx
  c.valid && x.experts.length == c.nexp && x.nsrc != 0
    && x.experts.all fun e => decide (e.qbase + e.quota ≤ e.cap) && decide (e.cap ≤ c.slots)
        && (some e.dev != ownId s || localInside s x.ctx e.loc)

/-- An answer record (R195); `none` when a check fails. -/
def parseAnswer (s : State) (iid : Nat) (bs : Bytes) : Option Answer :=
  let n := fld bs 12 2
  if bs.length < 32 || !zeros bs 14 18 || n = 0 || 256 < n then none
  else match parseSections bs n 32 with
    | none => none
    | some l =>
      if l.any (fun q => q.2 || !sectionOk s q.1) then none
      else some { iid := iid, step := fld bs 0 8, id := fld bs 8 4, hash := leNat (slice (sha512 bs) 0 8),
                  sections := l.map Prod.fst }

/-! ### Frames (R188) -/

/-- Header bytes 0 to 59. -/
def frameHead (f : Frame) : Bytes :=
  [f.typ, f.attempt, f.ctx, f.format] ++ natLe 4 f.epoch.toNat ++ natLe 2 f.src.toNat ++ natLe 2 f.dst.toNat
    ++ natLe 2 f.expert.toNat ++ natLe 2 f.loc.toNat ++ natLe 4 f.firstSlot.toNat ++ natLe 2 f.count.toNat
    ++ natLe 2 f.h.toNat ++ natLe 4 f.ticket.toNat ++ natLe 4 f.answerId.toNat ++ natLe 8 f.step.toNat
    ++ natLe 4 f.plen.toNat ++ [f.pres] ++ slice f.rsvd 0 15

/-- Parity and residue hold, and no reserved bit is set (R188, R358). -/
def frameGood (f : Frame) : Bool :=
  f.hpar.toNat == xorWords 15 (frameHead f) && f.pres.toNat == residue f.payload && f.plen.toNat == f.payload.length
    && f.attempt.toNat / 8 == 0 && f.ticket.toNat / 2 ^ 17 == 0 && zeros f.rsvd 0 15

/-- Raw bytes that a frame can hold: its reserved field has 15 bytes. -/
def frameFormed (f : Frame) : Bool := f.rsvd.length == 15 && decide (f.payload.length < 2 ^ 32)

/-- A frame of this device. -/
def mkFrame (s : State) (c : Cur) (typ ctx fmt dst expert loc first count h ticket : Nat) (pay : Bytes) : Frame :=
  let f : Frame :=
    { typ := BitVec.ofNat 8 typ, attempt := BitVec.ofNat 8 (c.p.attempt % 8), ctx := BitVec.ofNat 8 ctx,
      format := BitVec.ofNat 8 fmt, epoch := BitVec.ofNat 32 (tkrEpoch s), src := BitVec.ofNat 16 ((ownId s).getD 0),
      dst := BitVec.ofNat 16 dst, expert := BitVec.ofNat 16 expert, loc := BitVec.ofNat 16 loc,
      firstSlot := BitVec.ofNat 32 first, count := BitVec.ofNat 16 count, h := BitVec.ofNat 16 h,
      ticket := BitVec.ofNat 32 ticket, answerId := BitVec.ofNat 32 (answerId s),
      step := BitVec.ofNat 64 (drawStep c.k c.p), plen := BitVec.ofNat 32 pay.length,
      pres := BitVec.ofNat 8 (residue pay), rsvd := zeroBytes 15, hpar := 0, payload := pay }
  { f with hpar := BitVec.ofNat 32 (xorWords 15 (frameHead f)) }

/-- One 32-element piece of a row as it travels: its occupancy mask and its non-zero elements where that is shorter, else
the piece itself behind a full mask (R369; log 144). -/
def pieceForm (w : Nat) (cs : List Nat) : Bytes :=
  let pack := fun (l : List Nat) => natLe (cdiv (l.length * w) 8) (packEls w l)
  let nz := cs.filter (· != 0)
  if 4 + cdiv (nz.length * w) 8 < cdiv (cs.length * w) 8 then
    natLe 4 (cs.zipIdx.map fun q => if q.1 = 0 then 0 else 2 ^ q.2).sum ++ pack nz
  else natLe 4 0xFFFFFFFF ++ pack cs

/-- The rows of a DISPATCH or RETURN frame in row-piece form (R369). -/
def rowPieceForm (fmt h count : Nat) (bs : Bytes) : Bytes :=
  let w := fmtBits fmt
  let n := cdiv (h * w) 8
  (upTo count).flatMap fun i =>
    (chunk 32 (cdiv h 32) (unpackEls w h (leNat (slice bs (n * i) n)))).flatMap (pieceForm w)

/-- A frame's payload as it travels: CLOSE and EPOCH frames hold no rows. -/
def wirePayload (f : Frame) : Bytes :=
  if f.typ = 0x01 || f.typ = 0x02 then rowPieceForm f.format.toNat f.h.toNat f.count.toNat f.payload else f.payload

/-- A frame leaves: over the mesh to this device, or as a ROUTER message to another (R186). -/
def sendFrame (s : State) (w : World) (ctx : Ctx) (f : Frame) : State × Bool :=
  if some f.dst.toNat == ownId s then (emit s (.frame f), true)
  else match sendMsg s { peer := f.dst.toNat, typ := 0x05, vc := 2, key := f.ctx.toNat, world := w, ctx := ctx,
                         payload := frameHead f ++ natLe 4 f.hpar.toNat ++ wirePayload f } with
    | (s, .ok) => (emit s (.frame f), true)
    | (s, _) => (s, false)

/-- A frame of a step; an unreachable owner ends the step (R365). -/
def sendStepFrame (k : PlanKind) (w : World) (s : State) (f : Frame) : State :=
  match sendFrame s w (.plan k) f with
  | (s, true) => s
  | (s, false) => failPlan s k stPeerUnreachable

/-- A frame that fails parity or residue: dropped, counted, and the step's checks fail (R203). -/
def frameBad (s : State) (f : Frame) : State :=
  dieEvent (tkrErrSet s 4 f.ctx.toNat (f.ticket.toNat % 2 ^ 17) f.src.toNat f.expert.toNat)
    (if s.seq.train.isSome then .plan .training else if s.seq.eval.isSome then .plan .eval else .other) 29 (sliceOf f.ctx.toNat / 4) 1

/-- A stale frame (R190, R194). -/
def frameStale (s : State) (f : Frame) : State := rasBump (cntAdd s .tkrCnt (sliceOf f.ctx.toNat) 3 1) 66 (sliceOf f.ctx.toNat / 4) 1

/-- ANSWER_MISMATCH (R190). -/
def answerMismatch (s : State) (k : PlanKind) (f : Frame) : State :=
  dieEvent (tkrErrSet s 1 f.ctx.toNat (f.ticket.toNat % 2 ^ 17) f.src.toNat f.expert.toNat) (.plan k) 30 (sliceOf f.ctx.toNat / 4) 1

/-! ### Rows of LINEAR tensors -/

/-- Bytes of a packed row of H elements (R80, R188). -/
def rowLen (td : Td) (h : Nat) : Nat := cdiv (h * fmtBits td.fmt) 8
def rowAddr (td : Td) (slot loc : Nat) : Nat := td.base + linBit td [0, slot, loc, 0, 0] / 8

/-- Pack element codes of a row. -/
def packRow (td : Td) (cs : List Nat) : Bytes := natLe (rowLen td cs.length) (packEls (fmtBits td.fmt) cs)

/-- A row of a tensor as packed bytes. -/
def readRowBytes (s : State) (g : Eng) (td : Td) (h row loc : Nat) : State × Bytes :=
  if td.linear then engRead s g (rowAddr td row loc) (rowLen td h)
  else
    let is := (upTo h).map fun c => [c, row, loc, 0, 0]
    let x := readTensAt s g .dev td is
    (x.1, packRow td (is.map fun i => if inBounds td i then tensCode x.2 i else 0))

/-- Several rows in order. -/
def readRowsBytes (g : Eng) (td : Td) (h loc : Nat) : List Nat → State → Bytes → State × Bytes
  | [], s, b => (s, b)
  | r :: rs, s, b => let x := readRowBytes s g td h r loc; readRowsBytes g td h loc rs x.1 (b ++ x.2)

/-! ### Taking up an answer (R195, R196) -/

/-- Output blocks that the launches of a pass will write. -/
def launchDest (f : PhaseRun) (p : Pass) : Nat :=
  let c := (if pTd p 9 = 0 then f.dense else f.gme.getD {}).c
  if c = 0xFF then pTd p 5 else c

def blockHdrs (f : PhaseRun) (n b loc : Nat) : List Nat :=
  (upTo (tdBlocks (tdOf f n) 0)).map fun bc => hdrAddr (tdOf f n) ⟨bc, b, loc, 0, 0⟩

/-- The operation that a pass's launches feed is elided: its output blocks count as ready (R206). -/
def fedElided (f : PhaseRun) (p : Pass) : Bool := f.elided.contains (if pTd p 9 = 0 then .dense else .gme)

/-- The landing and arrival tensors of a routing entry have room for each local expert of its context (R179). -/
def expertsHeld (s : State) (f : PhaseRun) (ctx : Nat) (ent : Bytes) : Bool :=
  (localExperts s ctx).all fun e =>
    decide (e.loc < tdExt (tdOf f (fld ent 3 1)) 2) && decide (e.loc < tdExt (tdOf f (fld ent 4 1)) 2)

/-- Every output block of the local experts' arrival blocks is still to be finished. The landing and arrival tensors hold the experts
of the answer that the pass takes, or the load of the phase fails after all (R179). -/
def openArrivals (s : State) (k : PlanKind) : State :=
  match getPlan s k with
  | none => s
  | some p => match p.phase with
    | none => s
    | some f =>
      let hs := (f.passes.filter fun q => !fedElided f q).flatMap fun q => (localExperts s q.ctx).flatMap fun e =>
        (upTo (cdiv e.cap 32)).flatMap fun b => blockHdrs f (launchDest f q) b e.loc
      if !f.passes.all (fun q => expertsHeld s f q.ctx q.ent) then failPlan s k stBadDescriptor
      else modPhase s k fun f => { f with openOut := (f.openOut ++ hs).eraseDups, passes := f.passes.map fun q => { q with took := true } }

/-- Waiting answers for a step: the newest is applied, and those it replaced complete OK too. -/
def applyAnswers (s : State) (step : Nat) : State × Bool :=
  let mine := s.tkr.waiting.filter fun a => a.step == step
  let s := setTkr s fun t => { t with waiting := t.waiting.filter fun a => a.step != step }
  match mine.getLast? with
  | none => (s, false)
  | some a => (mine.foldl (fun s b => complete s b.iid stOk) (setTkr s fun t => { t with answer := some a }), true)

/-- The take-up point of a training step: an answer that is there is applied, or that of a run of the same step that was
cancelled is in force already (R196); else the step waits. -/
def takeUp (s : State) (k : PlanKind) : State :=
  match getPlan s k with
  | none => s
  | some p =>
    if p.took then openArrivals s k
    else
      let r := applyAnswers s p.step
      if r.2 || r.1.tkr.answer.any fun a => a.step == p.step then
        openArrivals (modPlan r.1 k fun p => { p with took := true, ansWait := false }) k
      else modPlan r.1 k fun p => { p with ansWait := true }

/-- ANSWER_TIMEOUT: the step reuses the answer in force (R196). -/
def execAnswerTimeout (s : State) : Host.Outcome State Fault Refusal :=
  match s.seq.train with
  | none => .next s
  | some p =>
    if !p.ansWait then .next s
    else .next (openArrivals (modPlan s .training fun p => { p with took := true, ansWait := false, reused := true }) .training)

/-- Fetch the record of a STEP_ANSWER and decide (R195); a secure context is not a non-secure ring's to name (R178, R416). -/
def stepAnswerRow (s : State) (iid : Nat) : State :=
  match getIssued s iid with
  | none => s
  | some c =>
    if c.op ≠ 0x0021 || s.tkr.waiting.any (fun a => a.iid == iid) then s
    else if fld c.ops 0 8 % 64 ≠ 0 then complete s iid stBadDescriptor
    else match hostRead s c.world (.cmd iid) (fld c.ops 0 8) (fld c.ops 8 4) with
      | (s, .wait) => s
      | (s, .fail st) => complete s iid st
      | (s, .ok bs) => match parseAnswer s iid bs with
        | none => complete s iid stBadDescriptor
        | some a =>
          if c.world == .ns && a.sections.any fun x => (getCtx s x.ctx).world == .s then complete s iid stAccessDenied
          else
          let last := s.rd .seqStep
          let late := match s.seq.train with
            | some p => (a.step == p.step && p.took) || decide (a.step < p.step)
            | none => last != 2 ^ 64 - 1 && decide (a.step ≤ last)
          if late then complete s iid stTimeout
          else
            let s := setTkr (clearAns s (.cmd iid)) fun t => { t with waiting := t.waiting ++ [a] }
            match s.seq.train with
            | some p => if p.ansWait then takeUp s .training else s
            | none => s

/-- STEP_ANSWER. -/
def execStepAnswer (iid : Nat) (s : State) : Host.Outcome State Fault Refusal := .next (stepAnswerRow s iid)

/-! ### The accept stage (R177, R181 to R187) -/

/-- TKEMIT: the top-k buffer goes to the home slice of the routing entry that IMM[1:0] numbers (log 27); a block row 64 or
more ahead waits. -/
def execTkemit (t : Tile) (x : VeWord) (s : State) : Host.Outcome State Fault Refusal :=
  veRun s t 0x49 x fun s a =>
    let r := if x.imm.toNat % 4 < a.c.f.passes.length then x.imm.toNat % 4 else 0
    match a.c.f.passes[r]? with
    | none => veRetire s a { a.v with topk := [] }
    | some p =>
      let br := vtBrow a.x.bytes
      if p.next + 64 ≤ br then s
      else
        let add := fun (m : NMap (List (Nat × Nat))) (i : Nat) =>
          let tok := 32 * br + i
          mapIns m tok (mapGet (fun _ => []) m tok ++ ((a.v.topk.getD i []).map fun q => (q.1, q.2)))
        let s := modPass s a.v.k p.ctx fun p => { p with cands := (upTo 32).foldl add p.cands, rows := p.rows ++ [br] }
        veRetire s a { a.v with topk := [] }

/-- An accepted choice. -/
structure Kept where
  e    : Nat
  rank : Nat
  gate : Nat
  slot : Nat
  deriving DecidableEq, Repr

/-- The state of the pseudocode of R182 while a token is handled. -/
structure AccSt where
  used : NMap Nat
  st   : QStat
  kept : List Kept := []
  bad  : Nat := 0
  deriving DecidableEq, Repr

def bumpExpert (q : QStat) (e : Nat) (f : Nat × Nat × Nat × Nat → Nat × Nat × Nat × Nat) : QStat :=
  { q with experts := mapIns q.experts e (f (mapGet (fun _ => (0, 0, 0, 0)) q.experts e)) }

/-- A candidate's gate value makes it absent. -/
def gateAbsent (g : Nat) : Bool := match fp32Val g with | .nan => true | .inf n => n | _ => false

/-- One candidate of rank r (R182). -/
def acceptCand (c : TkCtx) (xs : Nat → Expert) (a : AccSt) (r : Nat) (q : Nat × Nat) : AccSt :=
  if c.k ≤ a.kept.length then a
  else if c.nexp ≤ q.2 then { a with bad := a.bad + 1 }
  else if gateAbsent q.1 then a
  else
    let e := xs q.2
    let u := mapGet (fun _ => 0) a.used q.2
    let quota := if e.dev = 0xFFFF then 0 else e.quota
    let st := bumpExpert a.st q.2 fun z => (z.1 + 1, z.2)
    if u < quota then
      { a with used := mapIns a.used q.2 (u + 1), kept := a.kept ++ [{ e := q.2, rank := r, gate := q.1, slot := e.qbase + u }],
               st := { (bumpExpert st q.2 fun z => (z.1, z.2.1 + 1, z.2.2)) with subst := st.subst + b2n (decide (c.k ≤ r)) } }
    else { a with st := { (bumpExpert st q.2 fun z => (z.1, z.2.1, z.2.2.1 + 1, z.2.2.2)) with dropped := st.dropped + 1 } }

/-- Candidates in the total order of R125. -/
def candBefore (p q : Nat × Nat) : Bool := topBefore (fp32Val p.1, p.2) (fp32Val q.1, q.2)
def candInsert (p : Nat × Nat) : List (Nat × Nat) → List (Nat × Nat)
  | [] => [p]
  | q :: l => if candBefore q p then q :: candInsert p l else p :: q :: l

/-- One token: its merged list is walked. -/
def acceptToken (c : TkCtx) (xs : Nat → Expert) (used : NMap Nat) (st : QStat) (cs : List (Nat × Nat)) : AccSt :=
  let lim := if c.next then c.k + c.spare else c.k
  let l := ((cs.foldl (fun l p => candInsert p l) []).take lim).zipIdx
  let a := l.foldl (fun a q => acceptCand c xs a q.2 q.1) { used := used, st := st }
  { a with st := { a.st with tokens := a.st.tokens + 1, nochoice := a.st.nochoice + b2n a.kept.isEmpty } }

/-- Renormalised gates (R184), and whether the token counts under NONFIN. -/
def renormGates (ks : List Kept) : List Kept × Bool :=
  let g := ks.foldl (fun a k => valAdd a (fp32Val k.gate)) (.fin 0 0)
  let div := fun (v : Val) => match v, g with
    | .fin m e, .fin n f => toFp32 (quotVal (if n < 0 then -m else m) (e - f) n.natAbs)
    | _, _ => toFp32 .nan
  match g with
  | .fin n _ => if n = 0 then (ks.map fun k => { k with gate := 0 }, !ks.isEmpty) else (ks.map fun k => { k with gate := div (fp32Val k.gate) }, false)
  | _ => (ks.map fun k => { k with gate := toFp32 .nan }, true)

/-- The tokens of block row br. -/
def rowTokens (c : Cur) (p : Pass) (br : Nat) : List Nat :=
  ((upTo 32).map (32 * br + ·)).filter fun t => decide (t < tdExt (passTd c p 1) 1)

/-- Accept every token of a block row: kept choices by token, and the new counts. -/
def acceptRow (cx : TkCtx) (xs : Nat → Expert) (p : Pass) (ts : List Nat) (st : QStat) : List (Nat × List Kept) × AccSt × Nat :=
  ts.foldl (fun (z : List (Nat × List Kept) × AccSt × Nat) t =>
    let a := acceptToken cx xs z.2.1.used z.2.1.st (mapGet (fun _ => []) p.cands t)
    let r := if cx.renorm then renormGates a.kept else (a.kept, false)
    (z.1 ++ [(t, r.1)], { a with kept := [], bad := z.2.1.bad + a.bad }, z.2.2 + b2n r.2)) ([], { used := p.used, st := st }, 0)

/-- A block row's candidate lists are all here: it has been emitted and no VE task of it is left. -/
def rowListed (s : State) (c : Cur) (p : Pass) (br : Nat) : Bool :=
  p.rows.contains br && c.f.veQ.all (fun x => vtBrow x.bytes != br)
    && s.ves.all fun v => match v.2.task with | some x => vtBrow x.bytes != br | none => true

/-- Free tickets of a slice. -/
def freeTickets (s : State) (slice : Nat) : List Nat :=
  ((upTo 8192).map (8192 * slice + ·)).filter fun t => !(s.tkr.tickets.any fun q => q.1 == t)

/-- The next ticket of a slice: the spec does not say which free one, so a free value picks (log 1). -/
def pickTicket (s : State) (slice : Nat) : State × Option Nat :=
  let l := freeTickets s slice
  let d := drawFree s
  if l.isEmpty then (s, none) else (d.1, l[d.2 % l.length]?)

/-- A route log record: the accepted choices in rank order, then unused entries (R187). -/
def logRecord (k : Nat) (ks : List (Kept × Nat)) : Bytes :=
  (upTo k).flatMap fun i => match ks[i]? with
    | some q => natLe 2 q.1.e ++ natLe 1 q.1.rank ++ [0] ++ natLe 4 q.1.gate ++ natLe 4 q.1.slot ++ natLe 4 q.2
    | none => natLe 2 0xFFFF ++ zeroBytes 14

/-- One dispatch frame for each expert that accepted a token of the block row (R186, R189). -/
def dispatchExpert (c : Cur) (p : Pass) (br : Nat) (rows : List (Nat × List Kept)) (z : State × NMap Nat) (e : Nat) :
    State × NMap Nat :=
  let s := z.1
  let cx := getCtx s p.ctx
  let mine := rows.filterMap fun q => (q.2.find? fun k => k.e == e).map fun k => (q.1, k.slot)
  let x := expertOf s p.ctx e
  let td := passTd c p 1
  match pickTicket s (sliceOf p.ctx) with
  | (s, none) => (s, z.2)
  | (s, some tk) =>
    let b := readRowsBytes (rEng c td) td cx.h 0 (mine.map Prod.fst) s []
    let first := (mine.map Prod.snd).headD 0
    let t : Ticket :=
      { k := c.k, epoch := tkrEpoch s, attempt := c.p.attempt, ctx := p.ctx, expert := e, dst := x.dev, count := mine.length, first := first,
        brow := br, mask := (mine.map fun q => 2 ^ (q.1 % 32)).sum }
    let s := setTkr b.1 fun r => { r with tickets := mapIns r.tickets tk t }
    let f := mkFrame s c 0x01 p.ctx td.fmt x.dev e x.loc first mine.length cx.h tk b.2
    (sendStepFrame c.k c.p.world (cntAdd s .tkrCnt (sliceOf p.ctx) 1 1) f, mapIns z.2 e tk)

/-- CLOSE frames to one owner, at most 4,096 entries each (R188). -/
def closeTo (c : Cur) (p : Pass) (s : State) (dev : Nat) : State :=
  let es := match sectionOf s p.ctx with | some x => x.experts | none => []
  let used := match getPass s c.k p.ctx with | some (_, q) => q.used | none => []
  let ents := es.zipIdx.filterMap fun q => if q.1.dev = dev then
      some (natLe 2 q.1.loc ++ [0, 0] ++ natLe 4 q.1.qbase ++ natLe 4 q.1.quota ++ natLe 4 (mapGet (fun _ => 0) used q.2)) else none
  (chunk 4096 (ents.length / 4096 + 1) ents).foldl (fun s l =>
    sendStepFrame c.k c.p.world s (mkFrame s c 0x03 p.ctx (passTd c p 1).fmt dev 0 0 0 l.length (getCtx s p.ctx).h 0 l.flatten)) s

/-- Owning devices of a context, without repeats. -/
def ownersOfCtx (s : State) (ctx : Nat) : List Nat :=
  match sectionOf s ctx with
  | none => []
  | some x => ((x.experts.map fun (e : Expert) => e.dev).filter (· != 0xFFFF)).eraseDups

/-- Block rows of a pass. -/
def passRows (c : Cur) (p : Pass) : Nat := cdiv (tdExt (passTd c p 1) 1) 32

/-- The last block row has been accepted: the CLOSE frames leave. -/
def closePass (s : State) (k : PlanKind) (ctx : Nat) : State :=
  match getPass s k ctx with
  | none => s
  | some (c, p) =>
    if p.closed || p.next < passRows c p then s
    else (ownersOfCtx s ctx).foldl (closeTo c p) (modPass s k ctx fun p => { p with closed := true })

/-! ### The combine (R194) -/

/-- The combine block at a spot, empty at first. -/
def combOf (p : Pass) (t : Nat) (q : Spot) : Owned :=
  (p.comb.find? fun o => o.spot == q).getD { tile := t, sel := .route, spot := q }

def putComb (p : Pass) (o : Owned) : Pass := { p with comb := o :: p.comb.filter fun x => x.spot != o.spot }

/-- The number of a pass's routing entry in its phase: each combine has its own raise (R54, R179). -/
def passNo (c : Cur) (p : Pass) : Nat := c.f.passes.findIdx fun q => q.ent == p.ent

/-- Write the combine blocks of a block row (R91, R121). -/
def finishCombRow (s : State) (k : PlanKind) (ctx br : Nat) : State :=
  match getPass s k ctx with
  | none => s
  | some (c, p) =>
    let n := pTd p 6
    let td := tdOf c.f n
    let t := passTile p
    let s := (upTo (tdBlocks td 0)).foldl (fun s bc =>
      let q : Spot := { td := n, bc := bc, br := br, o2 := 0 }
      let o := combOf p t q
      let a := pinnedAnchor s c .route (pTd p 7) t (spotPos q) (passNo c p)
      let l := allLive o.lps fun _ => a.2
      let b := lpsBlock a.1 c {} td (spotPos q) fun n => accLp l n
      let s := observe (countSubst a.1 (tileDie t) b.2) c .route (pTd p 8) t (spotPos q) (obsOf o)
      setReady (writeBlock s (opEng c .route td t) td (spotPos q) b.1) k (hdrAddr td (spotPos q))) s
    modPass s k ctx fun p => { p with done := p.done ++ [br], comb := p.comb.filter fun o => o.spot.br != br }

/-- Finish the block rows whose tickets have all been released. -/
def finishComb (s : State) (k : PlanKind) (ctx : Nat) : State :=
  match getPass s k ctx with
  | none => s
  | some (_, p) =>
    ((upTo p.next).filter fun br => !p.done.contains br
      && s.tkr.tickets.all fun q => !(q.2.k == k && q.2.ctx == ctx && q.2.brow == br && q.2.epoch == tkrEpoch s
            && q.2.attempt == (match getPlan s k with | some r => r.attempt | none => 0))).foldl
      (fun s br => finishCombRow s k ctx br) s

/-- Accept the next block row of a pass. It holds while no ticket is free, and while fewer are than the row needs (R189; log 171),
and waits while its slice quiesces (R468). -/
def acceptStage (s : State) (c : Cur) (p : Pass) : State :=
  let cx := getCtx s p.ctx
  let br := p.next
  let ts := rowTokens c p br
  let st := mapGet (fun _ => {}) c.p.stats p.ctx
  let a := acceptRow cx (expertOf s p.ctx) p ts st
  let es := ((a.1.flatMap fun q => q.2.map fun k => k.e).eraseDups)
  let es := (es.foldl (fun l e => (l.filter (decide <| · < e)) ++ [e] ++ l.filter fun x => decide (e < x)) [])
  let free := freeTickets s (sliceOf p.ctx)
  if blockQuiesces s 3 (sliceOf p.ctx) then s
  else if free.isEmpty || decide (free.length < es.length) then
    modPass s c.k p.ctx fun p => { p with stall := some (p.stall.getD s.time) }
  else
    let d := sliceOf p.ctx / 4
    let s := if a.2.1.bad = 0 then s else rasBump s 65 d a.2.1.bad
    let s := if a.2.2 = 0 then s else rasBump s 70 d a.2.2
    let s := modStat s c.k p.ctx fun _ => a.2.1.st
    let s := cntAdd (cntAdd (cntAdd s .tkrCnt (sliceOf p.ctx) 0 (a.1.filter fun q => !q.2.isEmpty).length) .tkrCnt (sliceOf p.ctx) 4 (a.2.1.st.dropped - st.dropped))
      .tkrCnt (sliceOf p.ctx) 5 (a.2.1.st.subst - st.subst)
    let s := modPass s c.k p.ctx fun p => { p with used := a.2.1.used, next := br + 1, stall := none }
    let z := es.foldl (dispatchExpert c p br a.1) (s, [])
    let lt := passTd c p 2
    let s := a.1.foldl (fun s q =>
      engWrite s (rEng c lt) (rowAddr lt q.1 0) (logRecord cx.k (q.2.map fun k => (k, mapGet (fun _ => 0) z.2 k.e)))) z.1
    finishComb (closePass s c.k p.ctx) c.k p.ctx

/-! ### Arrival (R190 to R192) -/

def getArr (p : Pass) (loc : Nat) : Arrival := mapGet (fun _ => {}) p.arrs loc

def modArr (s : State) (k : PlanKind) (ctx loc : Nat) (g : Arrival → Arrival) : State :=
  modPass s k ctx fun p => { p with arrs := mapIns p.arrs loc (g (getArr p loc)) }

def slotArrived (a : Arrival) (n : Nat) : Bool := a.arrived.any fun q => q.1 == n

/-- A CLOSE entry applies once every slot it implies has arrived. -/
def closeApplies (a : Arrival) (e : CloseEnt) : Bool := (upTo e.used).all fun i => slotArrived a (e.qbase + i)

/-- The slot is marked empty: by a CLOSE entry that applies, or, once every source's entry has been received, by lying in no
entry's quota. -/
def slotEmpty (nsrc : Nat) (a : Arrival) (n : Nat) : Bool :=
  (a.closes.any fun e => closeApplies a e && decide (e.qbase + e.used ≤ n) && decide (n < e.qbase + e.quota))
    || (decide (nsrc ≤ a.closes.length)
        && a.closes.all fun e => !(decide (e.qbase ≤ n) && decide (n < e.qbase + e.quota)))

/-- The 32 slots of an arrival block. Those beyond CAPACITY are covered by no quota: they are empty once every source has
closed (R190, R191; log 46). -/
def blockSlots (b : Nat) : List Nat := (upTo 32).map (32 * b + ·)

def nsrcOf (s : State) (ctx : Nat) : Nat := ((sectionOf s ctx).map fun x => x.nsrc).getD 0

def blockComplete (s : State) (ctx : Nat) (a : Arrival) (b : Nat) : Bool :=
  (blockSlots b).all fun n => slotArrived a n || slotEmpty (nsrcOf s ctx) a n

/-- Arrived rows of a block that no launch has taken. -/
def unlaunched (a : Arrival) (b : Nat) : List Nat :=
  (blockSlots b).filter fun n => slotArrived a n && !a.launched.contains n

/-- A pass has sent its CLOSEs and launched every block of its arrival buffers: it has closed the list that it appends to (R103, R191,
R192). -/
def passClosed (s : State) (p : Pass) : Bool :=
  p.took && p.closed
    && (localExperts s p.ctx).all fun e => (upTo (cdiv e.cap 32)).all fun b =>
        let a := getArr p e.loc
        a.blocks.contains b && blockComplete s p.ctx a b && (unlaunched a b).isEmpty

/-- Routing entries that have closed the list of an operation (R103). -/
def closedBy (s : State) (c : Cur) (sel : OpSel) : Nat :=
  (c.f.passes.filter fun p => pTd p 9 == selCode sel && passClosed s p).length

/-- The producers of a gathered operation have closed its list: what the gatherers hold launches at once (R105). With no producer
named they close at PHASE_END (log 140). -/
def gathEnd (s : State) (k : PlanKind) : State :=
  match curOf s k with
  | none => s
  | some c =>
    if gathOpen c.f && decide (0 < c.f.dense.closers) && decide (c.f.dense.closers ≤ closedBy s c .dense) then gathClose s c else s

/-- The same for each plan that runs. -/
def gathEnds (s : State) : State := gathEnd (gathEnd s .training) .eval

/-- ACCEPT_BLOCK_ROW. -/
def execAcceptBlockRow (k : PlanKind) (ctx : Fin 256) (s : State) : Host.Outcome State Fault Refusal :=
  match getPass s k ctx with
  | none => .next s
  | some (c, p) =>
    if !p.took || passRows c p ≤ p.next || !rowListed s c p p.next then .next s
    else .next (gathEnds (acceptStage s c p))

/-- Rows of a block as they have landed. -/
def readLanded (g : Eng) (td : Td) (h loc : Nat) : List Nat → State → List (Nat × Bytes) → State × List (Nat × Bytes)
  | [], s, l => (s, l)
  | n :: ns, s, l => let x := engRead s g (rowAddr td n loc) (rowLen td h); readLanded g td h loc ns x.1 (l ++ [(n, x.2)])

/-- A launch: the block row of the arrival tensor is written as whole blocks, then the tasks are appended (R191). -/
def launchBlock (s : State) (c : Cur) (p : Pass) (loc b : Nat) : State :=
  let land := passTd c p 3
  let td := passTd c p 4
  let h := (getCtx s p.ctx).h
  let a := getArr p loc
  let ns := (blockSlots b).filter (slotArrived a)
  let rows := readLanded (rEng c land) land h loc ns s []
  let code := fun (slot col : Nat) => match rows.2.find? fun q => q.1 == slot with
    | some q => rowCode land q.2 col
    | none => 0
  let s := (upTo (tdBlocks td 0)).foldl (fun s bc =>
    writeElts s (rEng c td) .dev td .rne (fun _ => 0) ⟨bc, b, loc, 0, 0⟩ fun n => .code (code (32 * b + n / 32) (32 * bc + n % 32))) rows.1
  let s := modArr s c.k p.ctx loc fun a => { a with
    launched := a.launched ++ ns.filter fun n => !a.launched.contains n
    blocks := if a.blocks.contains b then a.blocks else a.blocks ++ [b]
    since := mapDel a.since b }
  let dst := launchDest c.f p
  let hs := blockHdrs c.f dst b loc ++ blockHdrs c.f (pTd p 5) b loc
  let s := modPhase s c.k fun f =>
    if fedElided f p then { f with ready := (f.ready ++ hs).eraseDups }
    else { f with openOut := (f.openOut ++ blockHdrs c.f dst b loc).eraseDups, ready := f.ready.filter fun x => !hs.contains x }
  let d := let d := sliceOf p.ctx / 4; if c.f.dies.contains d then d else c.f.dies.headD 0
  let mark := fun (x : Task) => { x with arr := some (p.ctx, loc, b) }
  if pTd p 9 = 0 then
    let e := c.f.dense
    appendTasks s c.k .dense d fun q => (upTo (tdBlocks (tdOf c.f dst) 0)).map fun j =>
      mark { die := d, bytes := mkDense b j (pTd p 4) e.b dst e.cin loc loc loc (q + j) d, want := q + j }
  else
    let e := c.f.gme.getD {}
    appendTasks s c.k .gme d fun q =>
      [mark { die := d, want := q,
              bytes := [0x01, BitVec.ofNat 8 (e.flags % 4)] ++ natLe 1 (pTd p 4) ++ natLe 1 e.b ++ [0xFF, 0xFF] ++ natLe 1 dst ++ [0]
                ++ natLe 4 b ++ natLe 4 (b + 1) ++ natLe 2 loc ++ natLe 2 loc ++ natLe 2 loc ++ natLe 1 e.cin ++ natLe 1 d ++ natLe 4 q
                ++ zeroBytes 4 }]

/-- Launch the blocks of one local expert that have become complete. -/
def launchComplete (s : State) (k : PlanKind) (ctx loc : Nat) : State :=
  match localExpert s ctx loc with
  | none => s
  | some e => (upTo (cdiv e.cap 32)).foldl (fun s b =>
      match getPass s k ctx with
      | none => s
      | some (c, p) =>
        let a := getArr p loc
        if blockComplete s ctx a b && (!a.blocks.contains b || !(unlaunched a b).isEmpty) then launchBlock s c p loc b
        else s) s

/-- The newest epoch known of a source. -/
def epochOf (s : State) (src : Nat) : Nat :=
  if some src == ownId s then tkrEpoch s else mapGet (fun _ => 0) s.tkr.epochs src

/-- What an arriving DISPATCH or CLOSE frame meets. -/
inductive FrameAt where
  /-- its pass has not been reached, or waits for its answer: the frame waits -/
  | wait
  | bad | stale
  | mismatch (k : PlanKind)
  | ok (c : Cur) (p : Pass)
  deriving DecidableEq, Repr

/-- The checks that DISPATCH and CLOSE frames share (R190, R203). -/
def frameAt (s : State) (typ : Nat) (f : Frame) : FrameAt :=
  if !frameGood f || f.typ.toNat != typ then .bad
  else if f.epoch.toNat < epochOf s f.src.toNat then .stale
  else match framePass s f.ctx.toNat f.step.toNat with
    | none => .wait
    | some (c, p) =>
      if f.attempt.toNat < c.p.attempt % 8 then .stale
      else if c.p.attempt % 8 < f.attempt.toNat || !p.took then .wait
      else if f.answerId.toNat != answerId s then .mismatch c.k
      else .ok c p

/-- The world that a frame's packets come in: that of the plan whose pass it belongs to. -/
def frameWorld (s : State) (f : Frame) : World :=
  match framePass s f.ctx.toNat f.step.toNat with | some (c, _) => c.p.world | none => .ns

/-- A frame from another device is a ROUTER message, and counts as one performed where its source passes the fabric's checks; while
this device has no ID none is delivered (R359, R362, R363, R381). A frame of this device comes over the mesh. -/
def fromPeer (s : State) (f : Frame) : State × Bool :=
  if (ownId s).isNone then (s, false)
  else if some f.src.toNat == ownId s then (s, true)
  else match peerCheck s 0 0x05 f.src.toNat f.dst.toNat (frameWorld s f) with
    | (s, .perform) => (cntAdd s .qxfCnt 1 0 1, true)
    | (s, _) => (s, false)

/-- What a frame does once its source has passed the checks. -/
def ifFrom (s : State) (f : Frame) (act : State → State) : State :=
  let r := fromPeer s f
  if r.2 then act r.1 else r.1

/-- A device that routes to this one is of the step's replay group (R254). -/
def joinDevice (s : State) (k : PlanKind) (d : Nat) : State :=
  modPlan s k fun p => { p with joined := if p.joined.contains d then p.joined else p.joined ++ [d] }

/-- An accepted DISPATCH frame lands (R190). -/
def landFrame (s : State) (c : Cur) (p : Pass) (f : Frame) : State :=
  let td := passTd c p 3
  let loc := f.loc.toNat
  let h := (getCtx s p.ctx).h
  let ns := (upTo f.count.toNat).map (f.firstSlot.toNat + ·)
  let s := ns.zipIdx.foldl (fun s q => engWrite s (rEng c td) (rowAddr td q.1 loc) (slice f.payload (q.2 * rowLen td h) (rowLen td h))) s
  let s := modArr s c.k p.ctx loc fun a => { a with
    arrived := ns.foldl (fun m n => mapIns m n (f.src.toNat, f.epoch.toNat)) a.arrived
    since := ns.foldl (fun m n => if m.any (fun q => q.1 == n / 32) then m else mapIns m (n / 32) s.time) a.since }
  let s := joinDevice (modPass s c.k p.ctx fun p => { p with due := p.due ++ [f] }) c.k f.src.toNat
  let s := modStat s c.k p.ctx fun q => bumpExpert q f.expert.toNat fun z => (z.1, z.2.1, z.2.2.1, z.2.2.2 + ns.length)
  launchComplete s c.k p.ctx loc

/-- DISPATCH_FRAME. -/
def execDispatchFrame (f : Frame) (s : State) : Host.Outcome State Fault Refusal :=
  if !frameFormed f then .refused .illFormed
  else match frameAt s 0x01 f with
    | .wait => .next s
    | .bad => .next (frameBad s f)
    | .stale => .next (ifFrom s f fun s => frameStale s f)
    | .mismatch k => .next (ifFrom s f fun s => answerMismatch s k f)
    | .ok c p => .next (ifFrom s f fun s =>
      let cx := getCtx s p.ctx
      let td := passTd c p 3
      let e := expertOf s p.ctx f.expert.toNat
      if f.format.toNat ≠ td.fmt || f.h.toNat ≠ cx.h || f.count.toNat = 0 || 32 < f.count.toNat
          || f.payload.length ≠ f.count.toNat * rowLen td cx.h then frameBad s f
      else if some e.dev != ownId s || e.loc != f.loc.toNat || e.cap < f.firstSlot.toNat + f.count.toNat || cx.slots < e.cap then
        answerMismatch s c.k f
      else gathEnds (landFrame s c p f))

/-- One CLOSE entry: its LOCAL and what it says. -/
def parseClose (src epoch : Nat) (b : Bytes) : Nat × CloseEnt :=
  (fld b 0 2, { src := src, epoch := epoch, qbase := fld b 4 4, quota := fld b 8 4, used := fld b 12 4 })

/-- A CLOSE entry is applied, or dropped and counted (R190). -/
def takeClose (k : PlanKind) (ctx : Nat) (f : Frame) (s : State) (q : Nat × CloseEnt) : State :=
  match localExpert s ctx q.1, getPass s k ctx with
  | some e, some (_, p) =>
    let a := getArr p q.1
    let clash := a.closes.any fun x => x.src != q.2.src && decide (max x.qbase q.2.qbase < min (x.qbase + x.quota) (q.2.qbase + q.2.quota))
    if e.cap < q.2.qbase + q.2.quota || clash then answerMismatch s k f
    else launchComplete (modArr s k ctx q.1 fun a => { a with closes := a.closes.filter (fun x => x.src != q.2.src) ++ [q.2] }) k ctx q.1
  | _, _ => answerMismatch s k f

/-- CLOSE_FRAME. -/
def execCloseFrame (f : Frame) (s : State) : Host.Outcome State Fault Refusal :=
  if !frameFormed f then .refused .illFormed
  else match frameAt s 0x03 f with
    | .wait => .next s
    | .bad => .next (frameBad s f)
    | .stale => .next (ifFrom s f fun s => frameStale s f)
    | .mismatch k => .next (ifFrom s f fun s => answerMismatch s k f)
    | .ok c p => .next (ifFrom s f fun s =>
      if f.payload.length ≠ 16 * f.count.toNat then frameBad s f
      else gathEnds (((entries f.payload 0 f.count.toNat 16).map (parseClose f.src.toNat f.epoch.toNat)).foldl (takeClose c.k p.ctx f)
        (joinDevice s c.k f.src.toNat)))
where
  entries (bs : Bytes) (o n m : Nat) : List Bytes := (upTo n).map fun i => slice bs (o + m * i) m

/-- Drop what a pass holds from a source with an epoch before e. -/
def dropSource (src e : Nat) (p : Pass) : Pass :=
  let old := fun (x : Nat × Nat) => x.1 == src && decide (x.2 < e)
  { p with
    due := p.due.filter fun f => !old (f.src.toNat, f.epoch.toNat)
    arrs := p.arrs.map fun q => (q.1, { q.2 with
      arrived := q.2.arrived.filter fun x => !old x.2
      launched := q.2.launched.filter fun n => !(q.2.arrived.any fun x => x.1 == n && old x.2)
      closes := q.2.closes.filter fun x => !old (x.src, x.epoch) }) }

/-- EPOCH_FRAME: rows of that source with an older epoch are dropped (R197). -/
def execEpochFrame (f : Frame) (s : State) : Host.Outcome State Fault Refusal :=
  if !frameFormed f then .refused .illFormed
  else if !frameGood f || f.typ.toNat != 0x04 then .next (frameBad s f)
  else .next (ifFrom s f fun s =>
    if f.epoch.toNat ≤ epochOf s f.src.toNat then s
    else
      let s := setTkr s fun t => { t with epochs := mapIns t.epochs f.src.toNat f.epoch.toNat }
      let drop := fun (f' : PhaseRun) => { f' with passes := f'.passes.map (dropSource f.src.toNat f.epoch.toNat) }
      modPhase (modPhase s .training drop) .eval drop)

/-- ARRIVAL_FLUSH: FLUSH µs of the global time base have passed since the first unlaunched row of the block (R191). -/
def execArrivalFlush (ctx : Fin 256) (loc : BitVec 16) (blk : Nat) (s : State) : Host.Outcome State Fault Refusal :=
  match (getPass s .training ctx).or (getPass s .eval ctx), localExpert s ctx loc.toNat with
  | some (c, p), some _ =>
    let a := getArr p loc.toNat
    match a.since.find? fun q => q.1 == blk with
    | none => .next s
    | some q =>
      if s.time < q.2 + 1000 * (getCtx s ctx).flush || (unlaunched a blk).isEmpty then .next s
      else
        let s := modStat (cntAdd s .tkrCnt (sliceOf ctx) 7 1) c.k ctx fun q => { q with flush := q.flush + 1 }
        .next (gathEnds (launchBlock s c p loc.toNat blk))
  | _, _ => .next s

/-! ### Returns (R193, R194) -/

/-- RET_TD is written by an elided operation: the fed one, or the VE operation where the fed one writes another tensor
(R206). -/
def retElided (f : PhaseRun) (p : Pass) : Bool := fedElided f p || (launchDest f p != pTd p 5 && f.elided.contains .ve)

/-- Every block of the frame's rows in RET_TD is ready after a launch that covered them. -/
def returnReady (c : Cur) (p : Pass) (f : Frame) : Bool :=
  let a := getArr p f.loc.toNat
  let ns := (upTo f.count.toNat).map (f.firstSlot.toNat + ·)
  ns.all (fun n => a.launched.contains n)
    && (ns.map (· / 32)).eraseDups.all fun b => (retElided c.f p || (blockHdrs c.f (pTd p 5) b f.loc.toNat).all fun x => c.f.ready.contains x && !c.f.openOut.contains x)

/-- RETURN_SEND. -/
def execReturnSend (src : DeviceId) (ticket : Fin 131072) (s : State) : Host.Outcome State Fault Refusal :=
  let hit := fun (k : PlanKind) => match curOf s k with
    | none => none
    | some c => c.f.passes.findSome? fun (p : Pass) =>
        (p.due.find? fun (f : Frame) => f.src == src && f.ticket.toNat % 2 ^ 17 == ticket.val).map fun (f : Frame) => ({ c with sel := .route }, p, f)
  match (hit .training).or (hit .eval) with
  | none => .next s
  | some (c, p, f) =>
    if !returnReady c p f then .next s
    else
      let td := passTd c p 5
      let h := (getCtx s p.ctx).h
      let b := readRowsBytes (rEng c td) td h f.loc.toNat ((upTo f.count.toNat).map (f.firstSlot.toNat + ·)) s []
      let s := modPass b.1 c.k p.ctx fun p => { p with due := p.due.erase f }
      let r := mkFrame s c 0x02 p.ctx td.fmt f.src.toNat f.expert.toNat f.loc.toNat f.firstSlot.toNat f.count.toNat h ticket b.2
      .next (sendStepFrame c.k c.p.world s { r with epoch := f.epoch, hpar := BitVec.ofNat 32 (xorWords 15 (frameHead { r with epoch := f.epoch })) })

/-- Release a ticket. -/
def releaseTicket (s : State) (n : Nat) : State := setTkr s fun t => { t with tickets := mapDel t.tickets n }

/-- The gate of the route log entry whose TICKET and SLOT match (R194), an access of the routing's ranges as any other (R244;
log 45). -/
def logGate (s : State) (c : Cur) (p : Pass) (tok ticket slot : Nat) : State × Nat :=
  let lt := passTd c p 2
  let k := (getCtx s p.ctx).k
  let r := engRead s (rEng c lt) (rowAddr lt tok 0) (16 * k)
  let e := (upTo k).find? fun i => fld r.2 (16 * i + 12) 4 == ticket && fld r.2 (16 * i + 8) 4 == slot && fld r.2 (16 * i) 2 != 0xFFFF
  (r.1, match e with | some i => fld r.2 (16 * i + 4) 4 | none => 0)

/-- One row piece of a return is added to its combine block (R120, R194). -/
def combinePiece (c : Cur) (ctx tok : Nat) (g : Val) (vs : Nat → Val) (s : State) (bc : Nat) : State :=
  match getPass s c.k ctx with
  | none => s
  | some (c, p) =>
    let n := pTd p 6
    let t := passTile p
    let q : Spot := { td := n, bc := bc, br := tok / 32, o2 := 0 }
    let ps := (upTo 32).map fun j => vs (32 * bc + j)
    let e := contribAnchor (maxOf (ps.map maxByte)) (some g)
    let o := combOf p t q
    let a := pinnedAnchor s c .route (pTd p 7) t (spotPos q) (passNo c p)
    let r := ps.zipIdx.map fun x =>
      let i := 32 * (tok % 32) + x.2
      let v := contribVal e (some g) x.1
      (i, lpFold (accLp o.lps i) a.2 v.1.1 v.1.2.1 v.1.2.2, v.2)
    let o := match e with | some e => setRec o (tok % 32) (recAdd o (tok % 32) e) | none => o
    let o := { o with lps := r.foldl (fun l z => lpSet l z.1 z.2.1.1) o.lps }
    let s := tileEvent (modPass a.1 c.k ctx fun p => putComb p o) (.plan c.k) 21 t (r.filter fun z => z.2.2).length
    overflowed s c.k .route t (r.filter fun z => z.2.1.2).length (passNo c p)

/-- Positions of the set bits of a mask. -/
def maskRows (m : Nat) : List Nat := (upTo 32).filter fun i => bit m i

/-- Combine the rows of a return. -/
def combineFrame (s : State) (c : Cur) (p : Pass) (tk : Ticket) (n : Nat) (f : Frame) : State :=
  let td := passTd c p 5
  let h := f.h.toNat
  (maskRows tk.mask).zipIdx.foldl (fun s q =>
    let tok := 32 * tk.brow + q.1
    let g := logGate s c p tok n (tk.first + q.2)
    let row := slice f.payload (q.2 * rowLen td h) (rowLen td h)
    (upTo (cdiv h 32)).foldl (combinePiece c p.ctx tok (fp32Val g.2)
      fun col => if col < h then elemVal td.fmt (rowCode td row col) 0 else .fin 0 0) g.1) s

/-- The ticket's fields match the frame's. -/
def ticketMatches (tk : Ticket) (f : Frame) : Bool :=
  tk.epoch == f.epoch.toNat && tk.attempt % 8 == f.attempt.toNat && tk.ctx == f.ctx.toNat && tk.expert == f.expert.toNat
    && tk.dst == f.src.toNat && tk.count == f.count.toNat && tk.first == f.firstSlot.toNat

/-- The attempt of a kind's running plan, with the flag that it runs. -/
def curAttempt (s : State) (k : PlanKind) : Option Nat := (getPlan s k).map fun p => p.attempt % 8

/-- RETURN_FRAME. -/
def execReturnFrame (f : Frame) (s : State) : Host.Outcome State Fault Refusal :=
  if !frameFormed f then .refused .illFormed
  else if !frameGood f || f.typ.toNat != 0x02 then .next (frameBad s f)
  else .next (ifFrom s f fun s =>
    let n := f.ticket.toNat % 2 ^ 17
    let unknown :=
      dieEvent (tkrErrSet s 2 f.ctx.toNat n f.src.toNat f.expert.toNat) (stepOf s) 31 (sliceOf f.ctx.toNat / 4) 1
    match (s.tkr.tickets.find? fun q => q.1 == n).map Prod.snd with
    | none => unknown
    | some tk =>
      if tk.epoch ≠ tkrEpoch s || curAttempt s tk.k != some (tk.attempt % 8) then releaseTicket (frameStale s f) n
      else if !ticketMatches tk f then unknown
      else match getPass s tk.k tk.ctx with
        | none => s
        | some (c, p) =>
          if f.payload.length ≠ f.count.toNat * rowLen (passTd c p 5) f.h.toNat then frameBad s f
          else finishComb (cntAdd (releaseTicket (combineFrame s c p tk n f) n) .tkrCnt (sliceOf tk.ctx) 2 1) tk.k tk.ctx)
where
  stepOf (s : State) : Ctx := if s.seq.train.isSome then .plan .training else if s.seq.eval.isSome then .plan .eval else .other

/-! ### The end of a pass, the question record and cancelling -/

/-- A pass has nothing left to do as source and as owner. -/
def passDone (s : State) (c : Cur) (p : Pass) : Bool :=
  passClosed s p && p.done.length == passRows c p && p.due.isEmpty

/-- The sections of a question record as pieces: a section header, then one expert entry each (R520). -/
def questionPieces (s : State) (p : PlanRun) : List (Bool × Bytes) :=
  p.stats.flatMap fun q =>
    let n := (getCtx s q.1).nexp
    let sat := fun (x : Nat) => natLe 4 (min x (2 ^ 32 - 1))
    let h := natLe 2 q.1 ++ [0, 0] ++ natLe 4 n ++ sat q.2.tokens ++ sat q.2.nochoice ++ sat q.2.dropped ++ sat q.2.subst ++ sat q.2.stall ++ sat q.2.flush
    (true, h) :: (upTo n).map fun e =>
      let z := mapGet (fun _ => (0, 0, 0, 0)) q.2.experts e
      let arr := if some (expertOf s q.1 e).dev == ownId s then z.2.2.2 else 0
      (false, sat z.1 ++ sat z.2.1 ++ sat z.2.2.1 ++ sat arr)

/-- Pieces that fit in `n` bytes, how many of them open a section, and whether any was cut. -/
def fitPieces : Nat → List (Bool × Bytes) → Bytes × Nat × Bool
  | _, [] => ([], 0, false)
  | n, q :: l =>
    if n < q.2.length then ([], 0, true)
    else
      let r := fitPieces (n - q.2.length) l
      (q.2 ++ r.1, b2n q.1 + r.2.1, r.2.2)

/-- A question record (R520). -/
def questionRecord (s : State) (p : PlanRun) (size : Nat) : Bytes :=
  let r := fitPieces (size - 64) (questionPieces s p)
  natLe 8 p.step ++ natLe 4 (answerId s) ++ natLe 4 (tkrEpoch s) ++ natLe 2 r.2.1 ++ natLe 1 (b2n p.reused + 2 * b2n r.2.2)
    ++ zeroBytes 45 ++ r.1

/-- After a step's own completion: the question record and its STEP_QUESTION (R196, R201). -/
def postQuestion (s : State) (p : PlanRun) (c : Issued) : State :=
  let b := s.rd .tkrQbufBase
  let cfg := s.rd .tkrQbufCfg
  let n := bits cfg 31 16
  let sz := bits cfg 15 0
  if !bit b 0 then s
  else if n = 0 || sz = 0 then countDropped s 0
  else
    let i := s.tkr.nq
    let s := hostWrite s p.world (b / 4096 * 4096 + i % n * (sz * 65536)) (questionRecord s p (sz * 65536))
    let s := setTkr s fun t => { t with nq := (t.nq + 1) % 2 ^ 32 }
    putCpl s { cq := ringCq s c.ring, irq := c.irq, seq := c.seq, tag := c.tag, status := stOk, src := c.ring, op := c.op,
               info := natLe 4 i ++ [0, 0] ++ natLe 1 (b2n p.reused) ++ [0x80] }

/-- The plan's commit sequence has begun (R197, R501). -/
def committing (p : PlanRun) : Bool :=
  p.st == .commit || p.st == .drain || (p.st == .members && !p.atBound)

/-- A running plan completes CANCELLED (R197). -/
def cancelPlan (s : State) (k : PlanKind) : State :=
  match getPlan s k with
  | none => s
  | some _ => failPlan s k stCancelled

/-- EPOCH frames to every device of the placement table in force, with the attempt and the step of the plan that runs. -/
def sendEpochs (s : State) (w : World) : State :=
  let devs := match s.tkr.answer with
    | none => []
    | some a => ((a.sections.flatMap fun (x : AnsSection) => x.experts.map fun (e : Expert) => e.dev).filter fun d => d != 0xFFFF).eraseDups
  let c : Cur := match s.seq.train, s.seq.eval with
    | some p, _ => { k := .training, p := p, f := blankF }
    | none, some p => { k := .eval, p := p, f := blankF }
    | none, none => { k := .training, p := { blank with world := w }, f := blankF }
  devs.foldl (fun s d => (sendFrame s w .other (mkFrame s c 0x04 0 0 d 0 0 0 0 0 0 [])).1) s
where
  blank : PlanRun := { iid := 0, world := .ns, recompute := false, addr := 0, step := 0, dataPos := 0, hash := 0, nphase := 0,
                       phaseTab := 0, mbTab := 0, nmb := 0, total := 0, summKind := [] }
  blankF : PhaseRun := { index := 0, sheet := false, bank := 0, steal := false, stagingFree := false, dies := [], mb := 0, next := 0,
                         rect := (0, 0, 0, 0), copyRect := (0, 0, 0, 0), tds := [], binds := [], dense := {}, gme := none, ve := none,
                         kernels := [], routes := [], rngs := [], copies := [], copiesLeft := [], ranges := [], qops := [], branches := [], left := [] }

/-- Router frames of the running plans that wait to be sent are discarded (R197). -/
def dropUnsent (s : State) : State :=
  { s with fab := { s.fab with queued := s.fab.queued.filter fun m =>
      !((m.ctx == .plan .training || m.ctx == .plan .eval) && m.packets.any fun x => x.typ.toNat == 0x05) } }

/-- CANCEL_BATCH (R197, R495). -/
def execCancelBatch (iid : Nat) (s : State) : Host.Outcome State Fault Refusal :=
  match getIssued s iid with
  | none => .next s
  | some c =>
    if c.op ≠ 0x0022 then .next s
    else
      let late := match s.seq.train with | some p => committing p | none => false
      if fld c.ops 0 4 ≠ tkrEpoch s || late then .next (completeInfo s iid stOk ([1, 0, 0, 0] ++ natLe 4 (tkrEpoch s)))
      else
        let e := (tkrEpoch s + 1) % 2 ^ 32
        let s := sendEpochs (dropUnsent (s.wr .tkrEpoch 0 0 e)) c.world
        let s := cancelPlan (cancelPlan s .training) .eval
        .next (completeInfo s iid stOk ([0, 0, 0, 0] ++ natLe 4 e))

end Sys2Proof.Machine
end

