-- ==== Sys2Proof/Machine/Tiles.lean ====
section
/-! DEFINITION. Resets of tiles and dies: block reset of a tile (R468), fences (R304), quarantine (R309) and the Die reset
(R466). -/

namespace Sys2Proof.Machine

/-- RSC_CAUSE: the source, scope and die of the last reset, with the counts since power-on (R465, R481). -/
def resetCause (s : State) (src scope die : Nat) : State :=
  let x := s.rd .rscCause
  let x := if scope = 0 then setBits x 15 0 (satAdd 65535 (bits x 15 0) 1)
    else if scope = 1 then setBits x 31 16 (satAdd 65535 (bits x 31 16) 1) else x
  s.wr .rscCause 0 0 (setBits (setBits (setBits x 63 60 src) 59 58 scope) 57 56 die)

/-! ### A tile's reset -/

/-- Registers of a tile, but for TIL_BIST. -/
def tileRegs (t o : Nat) : Bool := decide (0x1000000 + t * 0x1000 ≤ o) && decide (o < 0x1000600 + t * 0x1000)

/-- Running ring copies that a tile executes end with its reset (R175, R468). -/
def copiesEnd (s : State) (t : Nat) : State :=
  (s.seq.copies.filter fun c => c.running && c.tiles.contains t).foldl (fun s c => complete s c.iid stCheckFailed) s

/-- A block reset of a tile (R468): its engines and registers return to their reset state, and the copies it executes end. -/
def tileReset (s : State) (t : Nat) : State :=
  let s := copiesEnd s t
  { s with
    regs := mapKeep (fun o => !tileRegs t o) s.regs
    waiting := mapKeep (fun o => !tileRegs t o) s.waiting
    das := s.das.filter fun q => daTile q.1 != t
    daAlt := s.daAlt.filter fun q => q.1 / 4 != t
    ves := s.ves.filter fun q => q.1 != t }

/-- A tile returns to service: reset, ungated, its memories zero (R304, R499). -/
def tileRelease (s : State) (t : Nat) : State :=
  let s := zeroTile (tileReset s t) t
  let s := if tileGated s t then { s with scrubs := mapDel s.scrubs t } else s
  bankSet (bankSet s .pwcGated t false) .pwcGoff t false

/-! ### Fences and quarantine -/

/-- Set or clear the fences of tiles, and of their routers. -/
def setFences (s : State) (l : List Nat) (router b : Bool) : State :=
  l.foldl (fun s t => let s := bankSet s .mshFenceTile t b; if router then bankSet s .mshFenceRtr t b else s) s

/-- Tiles of a die. -/
def dieTiles (d : Nat) : List Nat := allTiles.filter fun t => tileDie t == d

/-- A die is quarantined: its tiles are fenced. -/
def quarantine (s : State) (d : Nat) : State :=
  let s := setFences ((dieTiles d).foldl tileReset s) (dieTiles d) false true
  s.wr .mshQuar 0 0 (setBit (s.rd .mshQuar) d true)

/-- The quarantine is lifted: the die's tiles return to service. -/
def unquarantine (s : State) (d : Nat) : State :=
  let s := setFences ((dieTiles d).foldl tileRelease s) (dieTiles d) false false
  s.wr .mshQuar 0 0 (setBit (s.rd .mshQuar) d false)

/-! ### Gates (R443) -/

def gtRect (o : Bytes) : Nat × Nat × Nat × Nat := (fld o 4 1, fld o 5 1, fld o 6 1, fld o 7 1)
def gtTiles (o : Bytes) : List Nat := let r := gtRect o; rectTiles r.1 r.2.1 r.2.2.1 r.2.2.2
def gtOff (o : Bytes) : Bool := bit (fld o 8 1) 0

/-- Gate one tile; one that is gated already can only lose its SRAM. -/
def gateOne (off : Bool) (s : State) (t : Nat) : State :=
  if tileGated s t && (!off || bankBit s .pwcGoff t) then s else gateTile s t (off || bankBit s .pwcGoff t)

/-- A GATE that waits for its last tiles. -/
def gateWaits (c : Issued) : Bool := c.op == 0x0070 && fld c.ops 0 1 == 3 && c.stage == 1

/-- Gate the tiles of a GATE outside `named`; it completes when every tile is gated. -/
def gateStep (named : List Nat) (s : State) (c : Issued) : State :=
  let s := ((gtTiles c.ops).filter fun t => !named.contains t).foldl (gateOne (gtOff c.ops)) s
  if (gtTiles c.ops).all (tileGated s) then complete s c.iid stOk else modIssued s c.iid fun c => { c with stage := 1 }

/-- A phase has ended: the tiles it named are gated. -/
def applyGates (s : State) : State := (s.hqe.issued.filter gateWaits).foldl (gateStep []) s

/-! ### Held commands (R501) -/

/-- The command is held: it stays issued, and its row takes effect when its hold has ended. -/
def holdCmd (s : State) (iid : Nat) : State :=
  if s.seq.heldCmds.contains iid then s
  else { (modIssued s iid fun c => { c with st := .held }) with seq := { s.seq with heldCmds := s.seq.heldCmds ++ [iid] } }

/-- The command is held no longer. -/
def unholdCmd (s : State) (iid : Nat) : State :=
  { (modIssued s iid fun c => { c with st := .running }) with seq := { s.seq with heldCmds := s.seq.heldCmds.filter (· != iid) } }

/-- An older command of one of the opcodes is held. -/
def olderHeld (s : State) (iid : Nat) (ops : List Nat) : Bool :=
  s.seq.heldCmds.any fun j => decide (j < iid) && (match getIssued s j with | some c => ops.contains c.op | none => false)

/-- Opcodes that act on tiles: a held one lets no later one pass (R501). -/
def tileOps : List Nat := [0x0040, 0x0041, 0x0042]

/-! ### Tests under way (R496 to R499) -/

/-- RECT of FENCE_TILES, UNFENCE_TILES and SELF_TEST. -/
def fnRect (o : Bytes) : Nat × Nat × Nat × Nat := (fld o 0 1, fld o 1 1, fld o 2 1, fld o 3 1)
def fnTiles (o : Bytes) : List Nat := let r := fnRect o; rectTiles r.1 r.2.1 r.2.2.1 r.2.2.2

/-- The tile is under test: it waits for its boundary, or is test-fenced. -/
def underTest (s : State) (t : Nat) : Bool :=
  let st := s.rdf .tilBist t 0 31 30
  st == 1 || st == 2

/-- The accepted SELF_TEST that names a tile. -/
def testCmd (s : State) (t : Nat) : Option Issued :=
  s.hqe.issued.find? fun c => c.op == 0x0042 && c.st == .running && (fnTiles c.ops).contains t

/-- The command ends with its last tile. -/
def testEnd (s : State) (c : Issued) : State :=
  if (fnTiles c.ops).any (underTest s) then s
  else complete s c.iid (match getIssued s c.iid with | some c => (if c.failed then stCheckFailed else stOk) | none => stOk)

/-- A reset of a tested tile's die aborts the test, and TIL_BIST reads failed (R499). -/
def testAbort (s : State) (t : Nat) : State :=
  if !underTest s t then s
  else
    let s := bankSet (s.wr .tilBist t 0 (3 * 2 ^ 30)) .mshFenceTile t true
    match testCmd s t with
    | none => s
    | some c => testEnd (modIssued s c.iid fun c => { c with failed := true }) c

/-! ### The Die reset (R466) -/

/-- Die d is quarantined, and its tiles, sequencers and TKR slices are reset: tickets of its slices are free. -/
def dieResetNow (s : State) (d : Nat) : State :=
  let s := quarantine ((dieTiles d).foldl testAbort s) d
  { s with tkr := { s.tkr with tickets := s.tkr.tickets.filter fun q => q.1 / 32768 != d } }

/-- Die resets that waited for a phase boundary. -/
def applyDieResets (s : State) : State :=
  s.plat.dies.foldl dieResetNow { s with plat := { s.plat with dies := [] } }

def fnQuar (o : Bytes) : Bool := bit (fld o 4 1) 1
def fnDie (o : Bytes) : Nat := fld o 5 1

/-- A command with QUARANTINE = 1: RECT is 0, and the die is not die 0. -/
def quarRow (s : State) (iid op : Nat) (held older : Bool) (act : State → Nat → State) : State :=
  match getIssued s iid with
  | none => s
  | some c =>
    if c.op ≠ op || !fnQuar c.ops then s
    else if !zeros c.ops 0 4 || fnDie c.ops == 0 || decide (3 < fnDie c.ops) then complete s iid stBadDescriptor
    else if held || (dieTiles (fnDie c.ops)).any (underTest s) || older then holdCmd s iid
    else complete (act (unholdCmd s iid) (fnDie c.ops)) iid stOk

/-- Quarantines that waited for a phase boundary (R309). -/
def applyQuars (s : State) : State :=
  (s.hqe.issued.filter fun c => c.op == 0x0040 && c.st == .held && fnQuar c.ops).foldl
    (fun s c => quarRow s c.iid 0x0040 false false quarantine) s

/-- A phase boundary: quarantines, Die resets and gates that waited for it take effect (R309, R443, R466). -/
def atBoundary (s : State) : State := applyGates (applyDieResets (applyQuars s))

/-! ### The fence map (R308) -/

/-- The 385 bytes of the fence map. -/
def fenceMap (s : State) : Bytes :=
  ((upTo 24).flatMap fun i => natLe 8 (s.rd .mshFenceTile i)) ++ ((upTo 24).flatMap fun i => natLe 8 (s.rd .mshFenceRtr i))
    ++ natLe 1 (s.rd .mshQuar % 16)

/-- MSH_FENCE_HASH. -/
def fenceHash (s : State) : Nat := leNat (slice (sha512 (fenceMap s)) 0 8)

/-- A Die reset: at the next phase boundary, as R309 lays down; die 0 is refused and counted (R465). -/
def dieReset (s : State) (src d : Nat) : State :=
  if d = 0 then countDropped s 0
  else
    let s := resetCause s src 2 d
    let s := { s with plat := { s.plat with dies := s.plat.dies ++ [d] } }
    if (curPhase s).isNone then applyDieResets s else s

end Sys2Proof.Machine
end

