-- ==== Sys2Proof/Machine/PlanLoad.lean ====
section
/-! DEFINITION. Reading a plan from device memory and checking a phase at its load (R3, R20, R236 to R245, R252, R519,
R522, R523 and the load checks of the operations' own rules). -/

namespace Sys2Proof.Machine

/-! ### Reading -/

/-- Bytes of a plan, read in its world; a denied piece reads 0 (R419). -/
def planRead (s : State) (w : World) (k : PlanKind) (a n : Nat) : State × Bytes :=
  devReadL w (.plan k) (n / 65536 + 2) s a n

/-- The first failing status of several, in the order of R501; CHECK_FAILED (R214) after them. -/
def worst (l : List Nat) : Nat :=
  (([stBadDescriptor, stAccessDenied, stOutOfRange, stOverlapTooLarge, stGroupTooLarge, stFenceMismatch, stNeedsQuiesce,
     stBusySelftest, stCheckFailed].find? fun x => l.contains x)).getD stOk

def failIf (b : Bool) (st : Nat) : Nat := if b then st else stOk

/-- `n` entries of `m` bytes at offset `o`. -/
def entries (bs : Bytes) (o n m : Nat) : List Bytes := (upTo n).map fun i => slice bs (o + m * i) m

/-! ### Sections of a phase record (R240 to R248) -/

def phIndex (h : Bytes) : Nat := fld h 0 2
def phSheet (h : Bytes) : Bool := fld h 2 1 == 1
def phFlag (h : Bytes) (i : Nat) : Bool := bit (fld h 4 1) i
def phDies (h : Bytes) : List Nat := (upTo 4).filter fun d => bit (fld h 5 1) d
def phMb (h : Bytes) : Nat := fld h 6 2
def phDesc (h : Bytes) : Nat := fld h 10 1
def phRect (h : Bytes) (o : Nat) : Nat × Nat × Nat × Nat := (fld h o 1, fld h (o + 1) 1, fld h (o + 2) 1, fld h (o + 3) 1)

/-- Offsets of the sections: operations, kernels, routing, RNG, copies, ranges, queue operations, branches, end. -/
def phOffsets (h : Bytes) : List Nat :=
  let o1 := 64 + 72 * phDesc h
  let o2 := o1 + 64 + 64 * b2n (phFlag h 2) + 64 * b2n (phFlag h 3)
  let o3 := o2 + 8 * fld h 11 1
  let o4 := o3 + 16 * fld h 12 1
  let o5 := o4 + 16 * fld h 13 1
  let o6 := o5 + 48 * fld h 14 1
  let o7 := o6 + 16 * fld h 15 1
  let o8 := o7 + 16 * fld h 16 1
  [o1, o2, o3, o4, o5, o6, o7, o8, o8 + 16 * fld h 17 1]

def phOff (h : Bytes) (i : Nat) : Nat := (phOffsets h).getD i 0

def parseBinding (b : Bytes) : Binding :=
  { region := if fld b 0 1 = 0xFF then none else some (fld b 0 1), role := fld b 1 1,
    bad := !zeros b 2 6 || decide (2 < fld b 1 1) }

def parseOp (b : Bytes) : OpEntry :=
  { kind := fld b 0 1, anchor := fld b 1 1, rnd := fld b 2 1, gradOf := fld b 3 1, salt := fld b 4 2,
    stream := fld b 6 2 % 4096, a := fld b 8 1, b := fld b 9 1, c := fld b 10 1, cin := fld b 11 1, flags := fld b 12 1,
    anc := fld b 13 1, obs := fld b 14 1, group := fld b 15 1, slots := fld b 16 1, scratch := fld b 17 1,
    closers := fld b 18 1, gfill := fld b 19 1, gflush := fld b 20 4, gtile := fld b 24 2, ntask := fld b 28 4,
    tasks := fld b 32 8, place := fld b 40 8,
    bad := decide (2 < fld b 1 1) || decide (3 < fld b 2 1) || fld b 6 2 / 4096 != 0 || fld b 12 1 / 16 != 0
      || fld b 16 1 / 32 != 0 || !zeros b 26 2 || !zeros b 48 16 }

def parseRng (b : Bytes) : RngRec :=
  { kind := fld b 0 1, dst := fld b 1 1, stream := fld b 2 2 % 4096, salt := fld b 4 2, keep := fld b 6 2,
    half := fld b 8 4,
    bad := fld b 2 2 / 4096 != 0 || !zeros b 12 4 ||
      (if fld b 0 1 = 1 then fld b 6 2 == 0 || fld b 8 4 != 0 else !(fld b 0 1 == 2) || fld b 6 2 != 0) }

def parseQOp (b : Bytes) : QOp :=
  { send := fld b 0 1 == 1, q := fld b 1 1, td := fld b 2 1, seq := fld b 4 4,
    bad := !(fld b 0 1 == 1 || fld b 0 1 == 2) || !zeros b 3 1 || !zeros b 8 8 }

def parseBranch (b : Bytes) : Branch :=
  { entry := fld b 0 1, cmp := fld b 1 1, target := fld b 2 2, imm := fld b 4 4,
    bad := decide (63 < fld b 0 1) || decide (5 < fld b 1 1) || !zeros b 8 8 }

def parseQueue (b : Bytes) : Queue :=
  let q : Queue :=
    { qid := fld b 0 1, recv := fld b 1 1 == 1, spillable := bit (fld b 2 1) 0, nt := fld b 3 1, peer := fld b 4 2,
      ringTile := fld b 6 2, size := fld b 8 4, ringOff := fld b 12 4, spillBase := fld b 16 6, spillDepth := fld b 24 2,
      bad := false }
  { q with bad := decide (1 < fld b 1 1) || fld b 2 1 / 2 != 0 || !zeros b 22 2 || !zeros b 26 6 || q.size == 0
      || q.size % 32 != 0 || decide (2 ^ 21 < q.size)
      || (q.recv && (q.nt == 0 || decide (64 < q.nt) || decide (1536 < q.ringTile + q.nt) || decide (0x600000 < q.ringOff + q.size)
          || (q.spillable == (q.spillDepth == 0))))
      || (!q.recv && (q.spillable || q.spillDepth != 0)) }

/-! ### Versioned regions (R213, R214) -/

/-- The version a micro-batch is tagged with. -/
def mbTag (s : State) (w : World) (k : PlanKind) (p : PlanRun) (mb : Nat) : State × Nat :=
  let r := planRead s w k (p.addr + p.mbTab + 8 * mb) 8
  (r.1, p.step - 1 - fld r.2 0 1)

/-- The copy of region n that a running eval reads: the one it has pinned, whatever commits after (R215, R234); before it runs, the
committed one. -/
def evalCopy (s : State) (n : Nat) : Nat :=
  match s.seq.eval.bind fun p => p.pins.find? fun q => q.2.1 == n with
  | some q => q.2.2
  | none => (getRegion s n).comm

/-- The copy of a region that a role of a training plan selects: `none` when neither copy holds the tag (R213, R214). -/
def roleCopy (r : Region) (role mb tag : Nat) : Option Nat :=
  if role = 1 then some r.comm
  else if role = 2 then some (1 - r.comm)
  else if mb = 0xFFFF || r.frozen then some r.comm
  else
    let g := max tag r.initV
    if r.v0 == some g && r.v1 == some g then some r.comm
    else if r.v0 == some g then some 0
    else if r.v1 == some g then some 1
    else none

/-- The device address of an offset in a bound region, with the status of the binding. -/
def bindAddr (s : State) (k : PlanKind) (w : World) (mb tag : Nat) (b : Binding) (a : Nat) : Nat × Nat :=
  match b.region with
  | none => (a, failIf b.bad stBadDescriptor)
  | some n =>
    let r := getRegion s n
    if b.bad || !r.valid || (k == .eval && b.role == 2) then (a, stBadDescriptor)
    else if r.world == .s && w == .ns then (a, stAccessDenied)
    else match (match k with | .eval => some (evalCopy s n) | .training => roleCopy r b.role mb tag) with
      | none => (a, stCheckFailed)
      | some c => (regionBase r c + a, stOk)

/-- The bound tensor lies inside SIZE (R242). -/
def bindInside (s : State) (b : Binding) (t : Td) : Bool :=
  match b.region with
  | none => true
  | some n => decide ((tdFoot t).2 ≤ 65536 * (getRegion s n).size)

/-! ### Kernels (R140 to R142, R207) -/

def kernelHead (k : Bytes) : Nat × Nat := (fld k 0 1, fld k 1 1)

/-- Instruction words a kernel's passes cover. -/
def kernelWords (k : Bytes) : Nat :=
  ((upTo (min 4 (fld k 0 1))).map fun i => max (fld k (16 + 4 * i) 1 + fld k (17 + 4 * i) 1) (fld k (18 + 4 * i) 1 + fld k (19 + 4 * i) 1)).foldl max 0

/-- The operand shapes of R140 and R143: a source is of the destination's shape or is broadcast to it, and a store or a
reduction reads its source as a block. -/
def opShape (w : Nat) : Bool :=
  let d := iwDst w
  let a := iwSrc1 w
  let fits := d != 31 && shapeFits d a
  match iwOpc w with
  | 0x01 => isV d
  | 0x02 | 0x49 => true
  | 0x03 | 0x16 | 0x17 | 0x18 | 0x20 | 0x21 | 0x22 | 0x23 | 0x24 => fits
  | 0x10 | 0x11 | 0x12 | 0x14 | 0x15 | 0x19 | 0x1A => fits && shapeFits d (iwSrc2 w)
  | 0x13 | 0x1B => fits && shapeFits d (iwSrc2 w) && shapeFits d (iwSrc3 w)
  | 0x30 | 0x31 | 0x34 => isV d && isV a
  | 0x32 | 0x33 => isV d && isV a && isV (iwSrc2 w)
  | 0x40 | 0x42 | 0x43 | 0x44 => isP d && a != 31
  | 0x41 => isP d && a != 31 && iwSrc2 w != 31
  | 0x45 => a != 31 && decide (8 ≤ iwImm w % 16) && decide (iwImm w % 16 ≤ 12)
  | 0x46 => isP d && isP a
  | 0x47 => isP a && isP d
  | 0x48 => a != 31 && decide (1 ≤ iwImm w % 32) && decide (iwImm w % 32 ≤ 16)
  | 0x50 => a != 31
  | _ => false

/-- An instruction word passes the load check of R140. -/
def wordOk (summKind : List Nat) (nperm : Nat) (slots : Nat) (w : Nat) : Bool :=
  opShape w && iwRnd w != 3 && iwPrec w != 7
    && (iwOpc w != 0x50 || summKind.getD (iwImm w % 64) 0xFF != 0xFF)
    && (iwOpc w != 0x30 || decide (iwImm w % 16 < nperm))
    && (iwOpc w != 0x45 || bit slots (iwImm w % 16 - 8))

/-- A kernel of `n` bytes. -/
def parseKernel (summKind : List Nat) (slots n : Nat) (k : Bytes) : Kernel :=
  let h := kernelHead k
  let nw := (n - 32 - 48 * h.2) / 8
  let ws := (upTo nw).map fun i => fld k (32 + 8 * i) 8
  { npass := h.1, passes := (upTo (min 4 h.1)).map fun i => phRect k (16 + 4 * i), words := ws,
    perms := (upTo h.2).map fun j => unpackEls 6 64 (fld k (32 + 8 * nw + 48 * j) 48),
    bad := h.1 == 0 || decide (4 < h.1) || decide (16 < h.2) || !zeros k 2 14 || decide (n < 32 + 48 * h.2)
      || decide (256 < nw) || (n - 32 - 48 * h.2) % 8 != 0 || decide (nw < kernelWords k)
      || !ws.all (wordOk summKind h.2 slots) }

/-- Read the kernels a phase names. -/
def loadKernels (w : World) (k : PlanKind) (p : PlanRun) (slots : Nat) : List Bytes → State → List Kernel → State × List Kernel
  | [], s, l => (s, l)
  | e :: es, s, l =>
    let n := fld e 6 2
    let r := planRead s w k (p.addr + fld e 0 6) n
    let q := parseKernel p.summKind slots n r.2
    loadKernels w k p slots es r.1 (l ++ [{ q with bad := q.bad || decide (p.total < fld e 0 6 + n) }])

/-! ### Task records and placement tables (R102, R131, R155, R243, R523) -/

/-- The records of an entry, placed on the lists their LIST fields name, with the SEQ their places give. -/
def placeTasks (sel : OpSel) : List Bytes → NMap Nat → List Task → NMap Nat × List Task
  | [], m, l => (m, l)
  | b :: bs, m, l =>
    let d := taskList sel b % 4
    let n := mapGet (fun _ => 0) m (listKey sel d)
    placeTasks sel bs (mapSet (fun _ => 0) m (listKey sel d) (n + 1)) (l ++ [{ die := d, bytes := b, want := n }])

/-- Read an entry's records. -/
def readTasks (s : State) (w : World) (k : PlanKind) (p : PlanRun) (e : OpEntry) : State × List Bytes :=
  let r := planRead s w k (p.addr + e.tasks) (32 * e.ntask)
  (r.1, entries r.2 0 e.ntask 32)

/-- Read an entry's placement table of `n` tile IDs. -/
def readPlace (s : State) (w : World) (k : PlanKind) (p : PlanRun) (e : OpEntry) (n : Nat) : State × List Nat :=
  if e.place = 0 then (s, [])
  else
    let r := planRead s w k (p.addr + e.place) (2 * n)
    (r.1, (upTo n).map fun i => fld r.2 (2 * i) 2)

/-- Status of a list of named tiles: in the grid, of a participating die, of the plan's world, not quarantined. -/
def tilesStatus (s : State) (w : World) (dies : List Nat) (l : List Nat) : Nat :=
  worst [failIf (l.any fun t => decide (1536 ≤ t) || !dies.contains (tileDie t)) stBadDescriptor,
    failIf (l.any fun t => tileWorld s t != w) stAccessDenied,
    failIf (l.any fun t => dieQuar s (tileDie t)) stFenceMismatch]

/-- The tasks of a sheet: each output block for the array that R100 gives it. -/
def sheetTasks (e : OpEntry) (t : Td) (r : Nat × Nat × Nat × Nat) : List Task :=
  (upTo (tdBlocks t 1)).flatMap fun br => (upTo (tdBlocks t 0)).map fun bc =>
    let tile := tileId (r.1 + bc % (2 * r.2.2.1) / 2) (r.2.1 + br % (2 * r.2.2.2) / 2)
    { die := tileDie tile, bytes := mkDense br bc e.a e.b e.c e.cin 0 0 0 0 0,
      place := some (tile, 2 * (br % 2) + bc % 2) }

/-! ### Checks of the operations -/

/-- An anchor or observation table fits a destination (R519). -/
def tableOk (tab t : Td) : Bool :=
  tab.fmt == 0x20 && !tab.mask
    && (tdCount tab == 1 || (tdExt tab 0 == cdiv (tdExt t 0) 32 && tdExt tab 1 == cdiv (tdExt t 1) 32 && tdExt tab 2 == tdExt t 2
          && tdExt tab 3 == tdExt t 3 && tdExt tab 4 == tdExt t 4))

/-- A stream may be named: valid, and of a world the plan may use (R78, R233). -/
def streamStatus (s : State) (w : World) (n : Nat) : Nat :=
  worst [failIf (!bit (s.rd .rngCfg n) 31) stBadDescriptor, failIf (w == .ns && streamWorld s n == .s) stAccessDenied]

/-- The entry names a descriptor or none. -/
def tdNamed (f : PhaseRun) (n : Nat) : Bool := n == 0xFF || decide (n < f.tds.length)

/-- An observation table is a destination that is written element by element, so it has no zero stride and is not PACKED (R41, R76,
R82). -/
def obsOk (t : Td) : Bool := t.fmt == 0x20 && !t.mask && tdOk t true false && !t.packed

/-- A scratch tensor is written by owners: it has no zero stride, and is not LINEAR (R76, R80, R83, R121). -/
def scratchOk (t : Td) : Bool := tdOk t true false && !t.linear

/-- The fields of an operation entry, against the destination TDs its records and launches name. -/
def entryStatus (s : State) (w : World) (f : PhaseRun) (sel : OpSel) (e : OpEntry) (dests : List Nat) : Nat :=
  let tabs := fun n => n == 0xFF || (decide (n < f.tds.length) && (tdOf f n).fmt == 0x20 && !(tdOf f n).mask
    && dests.all fun d => tableOk (tdOf f n) (tdOf f d))
  worst
    [failIf (e.bad || !tdNamed f e.anc || !tdNamed f e.obs || !tdNamed f e.scratch || !tabs e.anc || !tabs e.obs
        || (e.obs != 0xFF && !obsOk (tdOf f e.obs)) || (e.scratch != 0xFF && !scratchOk (tdOf f e.scratch))
        || (e.anchor == 2 && e.anc == 0xFF && sel != .ve)) stBadDescriptor,
     (if e.rnd = 2 && sel != .ve then streamStatus s w e.stream else stOk),
     (if e.anchor = 1 then
        (let g := groupOf s e.group
         worst [failIf (decide (63 < e.group) || !g.valid) stBadDescriptor, failIf (w == .ns && g.world == .s) stAccessDenied])
      else stOk)]

/-- A plan with nothing in it, for checks that do not read the plan. -/
def blankPlan (w : World) : PlanRun :=
  { iid := 0, world := w, recompute := false, addr := 0, step := 0, dataPos := 0, hash := 0, nphase := 0, phaseTab := 0,
    mbTab := 0, nmb := 0, total := 0, summKind := [] }

/-- The dense operations of a phase that its entry names itself: a row gatherer's, and the launches of its routing entries
(R105, R191): A, B, destination and CIN. -/
def entryRuns (f : PhaseRun) : List (Nat × Nat × Nat × Nat) :=
  let e := f.dense
  (if bit e.flags 2 then [(e.a, e.b, e.c, e.cin)] else [])
    ++ (f.routes.filter fun r => fld r 9 1 == 0).map fun r =>
        (fld r 4 1, e.b, if e.c = 0xFF then fld r 5 1 else e.c, e.cin)

/-- A run that the dense entry names can be checked at load (R28, R76, R80, R522): its operands pair, none is LINEAR, the
destination can be written, and RND = 3 exactly for an LP128 destination. -/
def entryRunOk (f : PhaseRun) (e : OpEntry) (r : Nat × Nat × Nat × Nat) : Bool :=
  let n := f.tds.length
  let a := tdOf f r.1
  let b := tdOf f r.2.1
  let c := tdOf f r.2.2.1
  let cin := tdOf f r.2.2.2
  decide (r.1 < n) && decide (r.2.1 < n) && decide (r.2.2.1 < n) && tdNamed f r.2.2.2
    && pairOk a.fmt b.fmt && tdOk a false true && tdOk b false true && !a.linear && !b.linear
    && tdOk c true false && !c.linear && (e.rnd == 3) == (c.fmt == 0x30)
    && (r.2.2.2 == 0xFF || (cin.fmt == 0x30 && !cin.linear))

/-- The dense entry (R91, R100, R104, R105, R243, R522). -/
def denseStatus (s : State) (w : World) (f : PhaseRun) : Nat :=
  let e := f.dense
  if e.kind = 0 then failIf e.bad stBadDescriptor
  else
    let dests := denseDests f
    let pos := fun (b : Bytes) => decide (dtC b < f.tds.length)
    worst
      [entryStatus s w f .dense e dests,
       failIf (decide (2 < e.kind)) stBadDescriptor,
       failIf (if f.sheet then
           decide (f.tds.length ≤ e.a) || decide (f.tds.length ≤ e.b) || decide (f.tds.length ≤ e.c) || !tdNamed f e.cin
             || bit e.flags 2 || bit e.flags 3 || e.ntask != 0
             || (f.denseQ.any fun x => denseBad { k := .training, p := blankPlan w, f := f } x)
         else false) stBadDescriptor,
       failIf (!bit e.flags 3 && e.slots != 0) stBadDescriptor,
       failIf (bit e.flags 2 && (e.gfill == 0 || decide (32 < e.gfill) || decide (1536 ≤ e.gtile)
           || (tdOf f e.c).packed)) stBadDescriptor,
       failIf ((entryRuns f).any fun r => !entryRunOk f e r) stBadDescriptor,
       failIf (f.denseQ.any fun x => pos x.bytes && (
           (decide (dtA x.bytes < f.tds.length) && decide (dtB x.bytes < f.tds.length)
             && (!pairOk (tdOf f (dtA x.bytes)).fmt (tdOf f (dtB x.bytes)).fmt
               || !tdOk (tdOf f (dtA x.bytes)) false true || !tdOk (tdOf f (dtB x.bytes)) false true
               || (tdOf f (dtA x.bytes)).linear || (tdOf f (dtB x.bytes)).linear))
           || (decide (dtCin x.bytes < f.tds.length) && (tdOf f (dtCin x.bytes)).linear)
           || !tdOk (tdOf f (dtC x.bytes)) true false || (tdOf f (dtC x.bytes)).linear)) stBadDescriptor]

/-- Parts of split-K blocks: exactly NPART of them, with ranges that cover the extent once (R104). Without SPLIT_K, and with
NPART 0, a record that is no whole task is a bad task, not a part. -/
def splitOk (f : PhaseRun) : Bool :=
  let parts := f.denseQ.filter fun x => bit f.dense.flags 3 && decide (2 ≤ dtPart x.bytes)
  parts.all fun x =>
    let same := parts.filter fun y => dtSpot y.bytes == dtSpot x.bytes
    let n := nKb f x.bytes
    same.length == dtPart x.bytes && (same.all fun y => dtPart y.bytes == dtPart x.bytes)
      && (upTo n).all fun kb => (same.filter fun y => decide (dtLo y.bytes ≤ kb) && decide (kb < dtHi y.bytes)).length == 1

/-- LP128 blocks that the scratch tensor holds in one tile's SRAM. -/
def scratchBlocks (f : PhaseRun) (e : OpEntry) (t : Nat) : Nat :=
  if e.scratch = 0xFF then 0
  else
    let td := tdOf f e.scratch
    ((tdPositions td).filter fun p => decide (sramAddr t 0 ≤ hdrAddr td p) && decide (hdrAddr td p < sramAddr t 0x600000)).length

/-- Owned blocks fit the slots and the scratch of every owner (R121). -/
def capacityOk (f : PhaseRun) (e : OpEntry) (owners : List Nat) : Bool :=
  owners.all fun t => decide ((owners.filter (· == t)).length ≤ (slotsOf e).length + scratchBlocks f e t)

/-- Owners of the blocks that a set of destination TDs gives work to, from the placement table. -/
def ownersOf (f : PhaseRun) (place dests used : List Nat) : List Nat :=
  (upTo place.length).filterMap fun i =>
    let hit := dests.any fun n => used.contains n &&
      (let o := placeIndex f dests { td := n, bc := 0, br := 0, o2 := 0 }; decide (o ≤ i) && decide (i < o + tdBlockCount (tdOf f n)))
    if hit then place[i]? else none

/-- The PACKED destinations of a work-list operation have writers, and the scratch tensor provides a buffer for each superblock
(R83). -/
def packedOk (f : PhaseRun) (e : OpEntry) (place dests : List Nat) : Bool :=
  let pk := dests.filter fun n => (tdOf f n).packed
  pk.isEmpty || (!place.isEmpty && e.scratch != 0xFF &&
    (let g := tdFoot (tdOf f e.scratch)
     decide ((pk.map fun n => (superPositions (tdOf f n)).length * superBuf (tdOf f n)).sum ≤ g.2 - g.1)))

/-- The destination rows that each owner of a SCATTER owns, once each: owner, row block, and rows inside the bounds (R119). -/
def ownedRows (f : PhaseRun) (used : List Nat) : List (Nat × Spot × Nat) :=
  ((gmeDests f).filter used.contains).flatMap fun n =>
    let td := tdOf f n
    let o := placeIndex f (gmeDests f) { td := n, bc := 0, br := 0, o2 := 0 }
    ((tdPositions td).map fun p =>
      (f.placeG.getD (o + blkNumber td p) 1536, ({ td := n, bc := 0, br := p.br, o2 := p.o2, o3 := p.o3, o4 := p.o4 } : Spot),
        min 32 (tdExt td 1 - 32 * p.br))).eraseDups

/-- Rows of destination that a SCATTER owner owns fit its tags (R119). -/
def tagsOk (e : OpEntry) (rows : List (Nat × Spot × Nat)) : Bool :=
  rows.all fun r => decide (((rows.filter fun q => q.1 == r.1).map fun q => q.2.2).sum ≤ 4096 * (slotsOf e).length)

/-- The destinations of a GME entry to whose blocks its tables belong: DST of its records, and those of its entry and launches. -/
def gmeOuts (f : PhaseRun) (e : OpEntry) : List Nat :=
  (upTo f.tds.length).filter fun n => e.c == n || (f.gmeQ.any fun x => gtDst x.bytes == n) || (routeDests f 1 e).contains n

/-- The GME entry (R28, R113, R117 to R124, R243). -/
def gmeStatus (s : State) (w : World) (f : PhaseRun) (e : OpEntry) : Nat :=
  let bs := (f.gmeQ.map fun x => x.bytes).filter fun b =>
    decide (gtA b < f.tds.length) && decide (gtDst b < f.tds.length) && tdNamed f (gtB b) && tdNamed f (gtIdx b) && tdNamed f (gtAux b)
      && tdNamed f (gtCin b)
  let owned := bs.filter fun b => (gtOp b == 0x03 || gtOp b == 0x04 || gtOp b == 0x05)
  let used := owned.map gtDst
  let owners := ownersOf f f.placeG (gmeDests f) used
  worst
    [entryStatus s w f .gme e (gmeOuts f e), failIf (e.kind != 1 || bit e.flags 3) stBadDescriptor,
     failIf ((f.routes.filter fun r => fld r 9 1 == 1).any fun r =>
       let a := tdOf f (fld r 4 1)
       let b := tdOf f e.b
       let c := if e.c = 0xFF then fld r 5 1 else e.c
       decide (f.tds.length ≤ e.b) || decide (f.tds.length ≤ c) || !tdNamed f e.cin || e.slots == 0 || !pairOk a.fmt b.fmt
         || !tdOk a false true || !tdOk b false true || b.linear || !tdOk (tdOf f c) true false || (tdOf f c).linear
         || (e.rnd == 3) != ((tdOf f c).fmt == 0x30)) stBadDescriptor,
     failIf (bs.any fun b => !gmeDescOk f b || !tdOk (tdOf f (gtDst b)) true false
       || (gmeAuxOut b && !tdOk (tdOf f (gtAux b)) true false)) stBadDescriptor,
     failIf (bs.any fun b => gtOp b == 0x01 && (e.slots == 0 || !tdOk (tdOf f (gtA b)) false true || !tdOk (tdOf f (gtB b)) false true))
       stBadDescriptor,
     failIf (!owned.isEmpty && f.placeG.isEmpty) stBadDescriptor,
     failIf (!capacityOk f e owners) stBadDescriptor,
     failIf ((owned.any fun b => gtOp b == 0x03) && (e.slots == 0
       || !tagsOk e (ownedRows f ((owned.filter fun b => gtOp b == 0x03).map gtDst)))) stBadDescriptor,
     failIf (!packedOk f e f.placeG (gmeDests f)) stBadDescriptor]

/-- The tables of a VE entry fit a task (R519): where the task's kernel has COLSUM, a table has one entry, or one for each block
column of the task's first input in one block row, as COLSUM reads it (R143; log 26); else one, or one for each block of its outputs. -/
def veTabOk (f : PhaseRun) (e : OpEntry) (x : Task) : Bool :=
  let v := veView f x.bytes 0
  let sums := (vtCode f x.bytes).words.any fun w => iwOpc w == 0x45
  let fits := fun (n : Nat) =>
    let t := tdOf f n
    n == 0xFF || tdCount t == 1
      || (if sums then vtIn x.bytes 0 == 0xFF
            || (tdExt t 0 == cdiv (viewCols v) 32 && tdExt t 1 == 1 && tdExt t 2 == tdExt v.td 2 && tdExt t 3 == 1 && tdExt t 4 == 1)
          else (upTo 2).all fun i => vtOut x.bytes i == 0xFF || tableOk t (tdOf f (vtOut x.bytes i)))
  fits e.anc && fits e.obs && !(sums && e.anc == 0xFF && e.anchor == 2)

/-- The VE entry (R80, R83, R140, R147, R207, R233, R243, R519). -/
def veStatus (s : State) (w : World) (f : PhaseRun) (e : OpEntry) : Nat :=
  let sp := (f.veQ.filter fun x => vtSplit x.bytes)
  let group := fun (x : Task) => sp.filter fun y => vtBrow y.bytes == vtBrow x.bytes && vtIdx2 y.bytes == vtIdx2 x.bytes
  let tile := fun (x : Task) => (x.place.map Prod.fst).getD 1536
  let word := fun (b : Bytes) (v : Nat) =>
    !(iwOpc v == 0x02 && vtOut b (iwImm v % 2) != 0xFF && !(tdOf f (vtOut b (iwImm v % 2))).mask && bit (iwImm v) 1)
  worst
    [entryStatus s w f .ve e [], failIf (e.kind != 1 || bit e.flags 3) stBadDescriptor,
     (if f.kernels.any fun k => k.words.any fun v => iwRnd v == 2 then streamStatus s w e.stream else stOk),
     failIf (f.veQ.any fun x => ((upTo 4).map (vtIn x.bytes) ++ (upTo 2).map (vtOut x.bytes)).any fun n =>
       n != 0xFF && decide (n < f.tds.length) && (tdOf f n).linear) stBadDescriptor,
     failIf (!packedOk f e (f.placeV.drop sp.length) f.vePacked) stBadDescriptor,
     failIf (!f.veQ.all (veTabOk f e)) stBadDescriptor,
     failIf (sp.any fun x => x.place.isNone || (group x).length != vtParts x.bytes
       || (group x).any fun y => y != x && (tile y == tile x || vtPart y.bytes == vtPart x.bytes)) stBadDescriptor,
     failIf (f.veQ.any fun x => !(vtCode f x.bytes).words.all (word x.bytes)) stBadDescriptor,
     failIf ((f.veQ.flatMap fun x => (upTo 2).map (vtOut x.bytes)).any fun n => n != 0xFF && decide (n < f.tds.length)
       && !tdOk (tdOf f n) true false) stBadDescriptor]

/-- Slots allotted to one entry only (R243). -/
def slotsDisjoint (f : PhaseRun) : Bool :=
  let g := (f.gme.getD {}).slots
  let v := (f.ve.getD {}).slots
  Nat.land f.dense.slots g == 0 && Nat.land f.dense.slots v == 0 && Nat.land g v == 0

/-- RNG records (R209, R232). -/
def rngStatus (s : State) (w : World) (k : PlanKind) (f : PhaseRun) (r : RngRec) : Nat :=
  let t := tdOf f r.dst
  worst
    [failIf (r.bad || decide (f.tds.length ≤ r.dst) || t.linear || !tdOk t true false
       || (if r.kind = 1 then !t.mask else t.mask || t.fmt == 0x30)
       || (r.kind == 2 && bit (s.rd .rngCfg r.stream) 30 != (k == .eval))) stBadDescriptor,
     streamStatus s w r.stream]

/-- Copy records (R162 to R165, R170 to R172). -/
def phCopyTds (f : PhaseRun) (c : CopyOp) : Td × Td × Option Td :=
  (tdOf f (c.src % 256), tdOf f (c.dst % 256), if c.kind = 3 || c.kind = 4 then some (tdOf f (c.idx % 256)) else none)

/-- IDX_TD of GATHER and SCATTER is a table index in a phase copy, so 0 names a descriptor there; it is 0 otherwise (R164). -/
def phCopyFieldsOk (c : CopyOp) : Bool := copyFieldsOk { c with idx := if c.kind = 3 || c.kind = 4 then 1 else c.idx }

def phCopyStatus (s : State) (w : World) (f : PhaseRun) (c : CopyOp) : Nat :=
  let t := phCopyTds f c
  let n := f.tds.length
  worst
    [failIf (!phCopyFieldsOk c || c.xtiles != 0 || decide (n ≤ c.src) || decide (n ≤ c.dst) || decide (n ≤ c.idx)
       || t.1.loc || t.2.1.loc || !tdOk t.1 false false || !tdOk t.2.1 true false || !copyTdsOk c t.1 t.2.1 t.2.2
       || (c.kind != 3 && copyPartial c t.1 t.2.1 [])
       || (c.group != 0 && (decide (2 < c.kind) || !(t.2.1.linear || (!t.2.1.packed && t.2.1.policy == 1))))) stBadDescriptor,
     (if c.rnd = 2 then streamStatus s w c.stream else stOk),
     failIf (c.side != 0 && (t.1.world == .s || t.2.1.world == .s) && !peerAttested s c.peer) stAccessDenied]

/-- The device that holds a copy's destination: 0 this one, 1 + n device n. -/
def copyDstDev (c : CopyOp) : Nat := if c.side = 1 then 1 + c.peer else 0

/-- The valid image of a copy of known mapping, as ranges of destination storage bits (R170). -/
def validImage (f : PhaseRun) (c : CopyOp) : List (Nat × Nat) :=
  let t := phCopyTds f c
  (upTo (tdCount t.2.1)).flatMap fun n =>
    let i := idxOf t.2.1 n
    match copyTook c t.1 [] i with
    | .valid _ => storedBits t.2.1 i
    | _ => []

/-- Tiles that run a phase's copies: the named rectangle, or every unfenced tile of the plan's world of the participating dies
(R240, R305, R415, R497). -/
def copyTiles (s : State) (w : World) (f : PhaseRun) : List Nat :=
  let r := f.copyRect
  if r.2.2.1 = 0 then allTiles.filter fun t => f.dies.contains (tileDie t) && !tileOut s t && tileWorld s t == w
  else rectTiles r.1 r.2.1 r.2.2.1 r.2.2.2

/-- Pairs of a list. -/
def allPairs {α : Type} (r : α → α → Bool) : List α → Bool
  | [] => true
  | x :: xs => xs.all (r x) && allPairs r xs

/-- Bytes that intervals of rising start cover from `e` on. -/
def unionFrom : Nat → List (Nat × Nat) → Nat
  | _, [] => 0
  | e, r :: l => r.2 - max r.1 e + unionFrom (max e r.2) l

/-- Bytes that intervals cover together. -/
def unionBytes (l : List (Nat × Nat)) : Nat :=
  unionFrom 0 (l.foldl (fun m r => (m.filter fun q => decide (q.1 < r.1)) ++ [r] ++ m.filter fun q => decide (r.1 ≤ q.1)) [])

/-- Members of one group whose destinations lie on one device have disjoint valid images, and no tile's share of the groups'
destinations, each divided over the copy tiles by address, exceeds 2 MiB (R170, R172; log 146). -/
def groupsStatus (s : State) (w : World) (f : PhaseRun) : Nat :=
  let gs := ((f.copies.map fun c => c.group).filter (· != 0)).eraseDups
  let mem := fun (g : Nat) => f.copies.filter fun c => c.group == g
  let dis := gs.all fun g => allPairs (fun (x y : Nat × List (Nat × Nat)) =>
    x.1 != y.1 || x.2.all fun a => y.2.all fun b => !overlaps a b) ((mem g).map fun c => (copyDstDev c, validImage f c))
  let share := (gs.map fun g => cdiv ((((mem g).map copyDstDev).eraseDups.map fun d =>
      unionBytes (((mem g).filter fun c => copyDstDev c == d).map fun c => tdFoot (phCopyTds f c).2.1)).sum)
    (max 1 (copyTiles s w f).length)).sum
  worst [failIf (!dis) stBadDescriptor, failIf (decide (2 ^ 21 < share)) stGroupTooLarge]

/-- How a phase copy's overlap is handled (R166). -/
def phOverlap (s : State) (w : World) (f : PhaseRun) (c : CopyOp) : OvPlan :=
  let t := phCopyTds f c
  overlapPlan s w c t.1 t.2.1 f.bounce (copyTiles s w f).length

/-- The status of a decision. -/
def OvPlan.status : OvPlan → Nat
  | .refuse st => st
  | _ => stOk

/-- A routing entry (R179). Its experts are held against its tensors once the step has taken its answer, and when it takes it. -/
def routeStatus (s : State) (w : World) (took : Bool) (f : PhaseRun) (b : Bytes) : Nat :=
  let n := f.tds.length
  let c := mapGet (fun _ => {}) s.tkr.ctxs (fld b 0 1)
  let td := fun i => tdOf f (fld b i 1)
  let rows := fun (t : Td) => decide (c.slots ≤ tdExt t 1)
  worst
    [failIf (!c.valid || !zeros b 10 6 || ((upTo 7).any fun i => decide (n ≤ fld b (1 + i) 1)) || !tdNamed f (fld b 8 1)
       || decide (1 < fld b 9 1) || (fld b 9 1 == 0 && f.sheet) || (fld b 9 1 == 1 && f.gme.isNone)
       || !((td 3).linear) || (td 4).linear || (td 4).packed || (td 4).policy != 0 || (td 4).mask || (td 5).linear || (td 6).linear || (td 6).packed
       || (td 1).fmt != (td 3).fmt || (td 4).fmt != (td 3).fmt || (td 5).fmt != (td 3).fmt || !rows (td 3) || !rows (td 4)
       || tdExt (td 1) 0 != c.h || !tdOk (td 6) true false || !tdOk (td 4) true false || !tdOk (td 3) true false
       || !tableOk (td 7) (td 6) || (fld b 8 1 != 0xFF && (!tableOk (td 8) (td 6) || !obsOk (td 8)))
       || !tdOk (td 2) true false || (took && !expertsHeld s f (fld b 0 1) b)) stBadDescriptor,
     failIf (w == .ns && c.world == .s) stAccessDenied]

/-- Declared ranges resolved, each with its status (R244). -/
def parseRange (s : State) (k : PlanKind) (w : World) (mb tag : Nat) (b : Bytes) : DRange × Nat × Option Nat :=
  let bd : Binding := { region := if fld b 14 1 = 0xFF then none else some (fld b 14 1), role := fld b 15 1,
                        bad := decide (2 < fld b 15 1) }
  let a := bindAddr s k w mb tag bd (fld b 0 6)
  let o := fld b 12 1
  let r : DRange := { lo := a.1, hi := a.1 + fld b 6 6, owner := o, read := bit (fld b 13 1) 0, write := bit (fld b 13 1) 1 }
  (r, worst [a.2, failIf (fld b 13 1 / 4 != 0 || !(decide (o ≤ 2) || (decide (0x10 ≤ o) && decide (o < 0x50)) || (decide (0x50 ≤ o) && decide (o ≤ 0x52)))
      || (bd.region.isSome && bd.role == 2 && r.read)
      || (match bd.region with | some n => decide (65536 * (getRegion s n).size < fld b 0 6 + fld b 6 6) | none => false)) stBadDescriptor],
   if r.write && bd.role == 2 then bd.region else none)

/-- What x writes and y reads is handed over by a routing entry: arrival blocks from the router to the operation that takes
its launches, and expert outputs from that operation to the router (R179, R191, R193; log 44). -/
def routeHands (f : PhaseRun) (x y : DRange) : Bool :=
  x.write && !x.read && y.read && !y.write && f.routes.any fun b =>
    let o := fld b 9 1
    let within := fun i =>
      let g := tdFoot (tdOf f (fld b i 1))
      decide (fld b i 1 < f.tds.length) && decide (g.1 ≤ max x.lo y.lo) && decide (min x.hi y.hi ≤ g.2)
    (x.owner == 0x50 && y.owner == o && within 4) || (x.owner == o && y.owner == 0x50 && within 5)

/-- Two declared ranges conflict (R20, R170). -/
def rangesClash (f : PhaseRun) (x y : DRange) : Bool :=
  let grp := fun o => if 0x10 ≤ o && o < 0x50 then (f.copies.getD (o - 0x10) {}).group else 0
  (x.owner != y.owner || x.owner == 0x51) && !routeHands f x y && !routeHands f y x && overlaps (x.lo, x.hi) (y.lo, y.hi)
    && (if x.owner = 0x51 || y.owner = 0x51 then x.write && y.write
        else if (x.owner = 0 && (y.owner = 1 || y.owner = 2)) then x.write && y.write || x.read && y.write
        else if (y.owner = 0 && (x.owner = 1 || x.owner = 2)) then x.write && y.write || y.read && x.write
        else if grp x.owner ≠ 0 && grp x.owner = grp y.owner then (x.write && y.read) || (x.read && y.write)
        else x.write || y.write)

/-- The header's own fields (R240, R241). -/
def headStatus (s : State) (p : PlanRun) (idx len : Nat) (h : Bytes) : Nat :=
  let rect := phRect h 20
  let cr := phRect h 24
  let tiles := if phSheet h then rectTiles rect.1 rect.2.1 rect.2.2.1 rect.2.2.2 else []
  let ctiles := if cr.2.2.1 = 0 then [] else rectTiles cr.1 cr.2.1 cr.2.2.1 cr.2.2.2
  let bad := phIndex h != idx || !(fld h 2 1 == 1 || fld h 2 1 == 2) || decide (3 < fld h 3 1) || fld h 4 1 / 16 != 0
    || fld h 5 1 == 0 || fld h 5 1 / 16 != 0 || !(decide (phMb h < p.nmb) || phMb h == 0xFFFF)
    || !(decide (fld h 8 2 < p.nphase) || fld h 8 2 == 0xFFFF) || phDesc h == 0 || decide (8 < fld h 11 1)
    || decide (4 < fld h 12 1) || decide (16 < fld h 13 1) || decide (64 < fld h 14 1) || decide (128 < fld h 15 1)
    || decide (16 < fld h 16 1) || decide (8 < fld h 17 1) || !zeros h 18 2 || !zeros h 28 36 || len != phOff h 8
    || (if phSheet h then !rectOk rect.1 rect.2.1 rect.2.2.1 rect.2.2.2 else !zeros h 20 4)
    || !(cr.2.2.1 == 0 || rectOk cr.1 cr.2.1 cr.2.2.1 cr.2.2.2)
    || (phSheet h && p.fence == 0)
  if bad then stBadDescriptor
  else worst [failIf (phSheet h && ((phDies h).any (dieQuar s) || ((upTo 4).any (dieQuar s) && p.fence != fenceHash s))) stFenceMismatch,
    tilesStatus s p.world (phDies h) tiles, tilesStatus s p.world (phDies h) ctiles]

/-- Offset and length of a phase record from the phase index. -/
def phaseRec (s : State) (w : World) (k : PlanKind) (p : PlanRun) (idx : Nat) : State × Nat × Nat :=
  let r := planRead s w k (p.addr + p.phaseTab + 8 * idx) 8
  (r.1, fld r.2 0 5, fld r.2 5 3)

/-- An entry is elided when its region is frozen (R206). -/
def elided (s : State) (e : OpEntry) : Bool := e.gradOf != 0xFF && (getRegion s e.gradOf).frozen

/-- Two records of PACKED superblocks in a sheet go to one tile (R83). -/
def sheetPackedOk (f : PhaseRun) : Bool :=
  !f.sheet || !(tdOf f f.dense.c).packed ||
    f.denseQ.all fun x => f.denseQ.all fun y =>
      superSpot (dtSpot x.bytes) != superSpot (dtSpot y.bytes) || x.place.map Prod.fst == y.place.map Prod.fst

/-- The operation with an owner code is elided. -/
def ownerElided (s : State) (f : PhaseRun) (o : Nat) : Bool :=
  match o with
  | 0 => elided s f.dense
  | 1 => match f.gme with | some e => elided s e | none => false
  | 2 => match f.ve with | some e => elided s e | none => false
  | _ => false

/-- The sections of a phase record, resolved. The list holds the statuses of the TDs and ranges. -/
def buildPhase (s : State) (k : PlanKind) (p : PlanRun) (idx tag : Nat) (b : Bytes) : PhaseRun × List Nat :=
  let w := p.world
  let h := slice b 0 64
  let o := phOff h
  let ds := entries b 64 (phDesc h) 72
  let copies := (entries b (o 4) (fld h 14 1) 48).map parseCopy
  let far := copies.filterMap fun c => if c.side = 1 then some c.dst else if c.side = 2 then some c.src else none
  let tds := ds.zipIdx.map fun q =>
    let t := parseTd (slice q.1 0 64)
    let bd := parseBinding (slice q.1 64 8)
    let r := bindAddr s k w (phMb h) tag bd t.base
    let u := { t with base := r.1 }
    (u, bd, worst [r.2, failIf (!tdOk t false false || t.loc || !bindInside s bd t) stBadDescriptor,
        failIf (t.world == .s && w == .ns) stAccessDenied,
        (if far.contains q.2 || r.2 = stCheckFailed then stOk else footStatus s (tdFoot u))])
  let rs := (entries b (o 5) (fld h 15 1) 16).map (parseRange s k w (phMb h) tag)
  let opAt := fun (i : Nat) => parseOp (slice b (o 0 + 64 * i) 64)
  let f : PhaseRun :=
    { index := idx, sheet := phSheet h, bank := fld h 3 1, steal := phFlag h 0, stagingFree := phFlag h 1, dies := phDies h,
      mb := phMb h, next := fld h 8 2, rect := phRect h 20, copyRect := phRect h 24, tds := tds.map fun q => q.1,
      binds := tds.map fun q => q.2.1, dense := opAt 0, gme := if phFlag h 2 then some (opAt 1) else none,
      ve := if phFlag h 3 then some (opAt (1 + b2n (phFlag h 2))) else none, kernels := [],
      routes := entries b (o 2) (fld h 12 1) 16, rngs := (entries b (o 3) (fld h 13 1) 16).map parseRng, copies := copies,
      copiesLeft := upTo copies.length, ranges := rs.map fun q => q.1, qops := (entries b (o 6) (fld h 16 1) 16).map parseQOp,
      branches := (entries b (o 7) (fld h 17 1) 16).map parseBranch, left := phDies h, bounce := bounceReg s w }
  let f := { f with free := (rs.filterMap fun q => if ownerElided s f q.1.owner then none else q.2.2).eraseDups }
  (f, (tds.map fun q => q.2.2) ++ rs.map fun q => q.2.1)

/-- The records of a phase's entries are read and placed on their lists. -/
def readRecords (s : State) (k : PlanKind) (p : PlanRun) (f : PhaseRun) : State × PhaseRun :=
  let w := p.world
  let td := readTasks s w k p f.dense
  let tg := match f.gme with | some e => readTasks td.1 w k p e | none => (td.1, [])
  let tv := match f.ve with | some e => readTasks tg.1 w k p e | none => (tg.1, [])
  let dq := placeTasks .dense td.2 [] []
  let gq := placeTasks .gme tg.2 dq.1 []
  let vq := placeTasks .ve tv.2 gq.1 []
  (tv.1, { f with
    placeDense := (dq.2.map fun x => dtC x.bytes).eraseDups
    placeGme := (upTo f.tds.length).filter fun n => gq.2.any fun x => gtDst x.bytes == n || (gmeAuxOut x.bytes && gtAux x.bytes == n)
    vePacked := (upTo f.tds.length).filter fun n => (tdOf f n).packed && vq.2.any fun x => (upTo 2).any fun i => vtOut x.bytes i == n
    listed := vq.1, denseQ := dq.2, gmeQ := gq.2, veQ := vq.2 })

/-- Entries of the placement tables, dense, GME and VE (R523). -/
def placeCounts (f : PhaseRun) : Nat × Nat × Nat :=
  let cnt := fun (l : List Nat) => (l.map fun n => tdBlockCount (tdOf f n)).sum
  (cnt (denseDests f), cnt (gmeDests f), (f.veQ.filter fun x => vtSplit x.bytes).length + cnt f.vePacked)

/-- SPLIT records take the tiles of their entries in order (R147). -/
def placeSplits (place : List Nat) : List Task → Nat → List Task
  | [], _ => []
  | x :: xs, n =>
    if vtSplit x.bytes then { x with place := (place[n]?).map fun t => (t, 0) } :: placeSplits place xs (n + 1)
    else x :: placeSplits place xs n

/-- Slots that hold the tags of the SCATTER destinations of a phase, by owner tile: one for every 4,096 owned rows (R119). -/
def scatterTags (f : PhaseRun) : NMap Nat :=
  let rows := ownedRows f ((f.gmeQ.filter fun x => gtOp x.bytes == 0x03).map fun x => gtDst x.bytes)
  (rows.map Prod.fst).eraseDups.foldl (fun m t =>
    mapSet (fun _ => 0) m t (cdiv ((rows.filter fun q => q.1 == t).map fun q => q.2.2).sum 4096)) []

/-- Tasks, kernels and placement tables are read in. -/
def readLists (s : State) (k : PlanKind) (p : PlanRun) (b : Bytes) (f : PhaseRun) : State × PhaseRun :=
  let w := p.world
  let h := slice b 0 64
  let r := readRecords s k p f
  let f := r.2
  let ks := loadKernels w k p (f.ve.getD {}).slots (entries b (phOff h 1) (fld h 11 1) 8) r.1 []
  let n := placeCounts f
  let pd := readPlace ks.1 w k p f.dense n.1
  let pg := match f.gme with | some e => readPlace pd.1 w k p e n.2.1 | none => (pd.1, [])
  let pv := match f.ve with | some e => readPlace pg.1 w k p e n.2.2 | none => (pg.1, [])
  (pv.1, { f with
    kernels := ks.2, placeD := pd.2, placeG := pg.2, placeV := pv.2, veQ := placeSplits pv.2 f.veQ 0
    tagSlots := scatterTags { f with placeG := pg.2 }
    denseQ := if !f.sheet then f.denseQ
      else if f.dense.kind = 0 then []
      else sheetTasks f.dense (tdOf f f.dense.c) f.rect })

/-- Plan offsets of an entry's records and of its placement table of n entries lie inside TOTAL_LEN (R239, R523). -/
def opInside (p : PlanRun) (e : OpEntry) (n : Nat) : Bool :=
  decide (e.tasks + 32 * e.ntask ≤ p.total) && (e.place == 0 || decide (e.place + 2 * n ≤ p.total))

/-- The tables of every entry of a phase lie inside TOTAL_LEN. -/
def tablesInside (p : PlanRun) (f : PhaseRun) : Bool :=
  let n := placeCounts f
  opInside p f.dense n.1 && (match f.gme with | some e => opInside p e n.2.1 | none => true)
    && (match f.ve with | some e => opInside p e n.2.2 | none => true)

/-- Queue table entry n of the plan. -/
def queueOf (p : PlanRun) (n : Nat) : Queue := p.queues.getD n { (parseQueue []) with bad := true }

/-- Descriptors that the operations, copies, routing entries and queue sends of a phase read (R213). -/
def readTds (f : PhaseRun) : List Nat :=
  let tab := fun (e : OpEntry) => if e.anchor = 2 then [e.anc] else []
  let g := f.gme.getD {}
  let fed := (f.routes.filter fun r => fld r 9 1 == 1).map fun r => (fld r 4 1, g.b, g.c, g.cin)
  let own := (if f.sheet then [(f.dense.a, f.dense.b, f.dense.c, f.dense.cin)] else entryRuns f) ++ fed
  (own.flatMap fun r => [r.1, r.2.1, r.2.2.2])
    ++ (if f.sheet then [] else f.denseQ.flatMap fun x => [dtA x.bytes, dtB x.bytes, dtCin x.bytes])
    ++ (f.gmeQ.flatMap fun x => [gtA x.bytes, gtB x.bytes, gtIdx x.bytes, gtCin x.bytes]
        ++ if gtOp x.bytes = 0x04 || gtOp x.bytes = 0x06 then [gtAux x.bytes] else [])
    ++ (f.veQ.flatMap fun x => (upTo 4).map (vtIn x.bytes))
    ++ tab f.dense ++ tab (f.gme.getD {}) ++ [(f.ve.getD {}).anc]
    ++ (f.copies.flatMap fun c => (if c.side = 2 then [] else [c.src]) ++ if c.kind = 3 || c.kind = 4 then [c.idx] else [])
    ++ (f.routes.flatMap fun r => [fld r 1 1, fld r 2 1, fld r 3 1, fld r 4 1, fld r 5 1, fld r 7 1])
    ++ (f.qops.filter fun q => q.send).map fun q => q.td

/-- The load checks that follow the reading. -/
def phaseStatus (s : State) (k : PlanKind) (p : PlanRun) (f : PhaseRun) : Nat :=
  let w := p.world
  let destFree := fun (n : Nat) => (f.binds.getD n {}).region.isSome && (f.binds.getD n {}).role == 2
  worst
    [denseStatus s w f,
     (match f.gme with | some e => gmeStatus s w f e | none => stOk),
     (match f.ve with | some e => veStatus s w f e | none => stOk),
     failIf (f.kernels.any fun k => k.bad) stBadDescriptor,
     failIf (!slotsDisjoint f || !splitOk f || !sheetPackedOk f) stBadDescriptor,
     failIf (!tablesInside p f) stBadDescriptor,
     failIf (bit f.dense.flags 3 && (f.denseQ.any fun x => dtPart x.bytes != 1) &&
       (f.placeD.isEmpty || !capacityOk f f.dense (ownersOf f f.placeD (denseDests f)
          ((f.denseQ.filter fun x => dtPart x.bytes != 1).map fun x => dtC x.bytes)))) stBadDescriptor,
     failIf (!f.sheet && !packedOk f f.dense f.placeD (denseDests f)) stBadDescriptor,
     tilesStatus s w f.dies (f.placeD ++ f.placeG ++ f.placeV),
     worst (f.rngs.map (rngStatus s w k f)), worst (f.copies.map (phCopyStatus s w f)), groupsStatus s w f,
     worst (f.routes.map (routeStatus s w p.took f)),
     failIf (f.qops.any fun q => q.bad || decide (f.tds.length ≤ q.td) || decide (p.queues.length ≤ q.q)
       || (queueOf p q.q).recv == q.send || (!q.send && !tdOk (tdOf f q.td) true false)) stBadDescriptor,
     failIf (f.branches.any fun b => b.bad || !(decide (b.target < p.nphase) || b.target == 0xFFFF)) stBadDescriptor,
     failIf (!allPairs (fun x y => !rangesClash f x y) f.ranges) stBadDescriptor,
     failIf (f.stagingFree && f.copies.any fun c => phOverlap s w f c == .staged) stBadDescriptor,
     worst (f.copies.map fun c => (phOverlap s w f c).status),
     failIf ((readTds f).any destFree) stBadDescriptor,
     -- after the boundary no routing, and nothing an earlier phase has written (R223)
     failIf ((p.boundary.isSome || !f.free.isEmpty) && (!f.routes.isEmpty
       || f.ranges.any fun r => r.write && p.before.any fun x => overlaps x (r.lo, r.hi))) stBadDescriptor]

/-- Output blocks whose ready bits the phase's dense operation will set: those of its records, once each. -/
def openBlocks (f : PhaseRun) : List Nat :=
  ((f.denseQ.map fun x => let q := dtSpot x.bytes; hdrAddr (tdOf f q.td) (spotPos q))).eraseDups

/-- Take elided operations off the lists, and note what split-K owners need (R91, R104, R206). -/
def finishLoad (s : State) (f : PhaseRun) : PhaseRun :=
  let f := if elided s f.dense || f.dense.kind = 0 then { f with denseQ := [] } else f
  let f := if elided s (f.gme.getD {}) then { f with gmeQ := [] } else f
  let f := if elided s (f.ve.getD {}) then { f with veQ := [] } else f
  let parts := f.denseQ.filter fun x => dtPart x.bytes != 1
  let off := fun (sel : OpSel) (o : Nat) => if ownerElided s f o then [sel] else []
  { f with openOut := openBlocks f, elided := off .dense 0 ++ off .gme 1 ++ off .ve 2, cins := (parts.map fun x => (dtSpot x.bytes, dtCin x.bytes)).eraseDups,
           exts := (parts.map fun x => (dtSpot x.bytes, nKb f x.bytes)).eraseDups,
           passes := f.routes.map fun b => { ctx := fld b 0 1, ent := b } }

/-- Load phase `idx`: the status of the first failing check, and the phase. -/
def loadPhase (s : State) (k : PlanKind) (p : PlanRun) (idx : Nat) : State × Nat × Option PhaseRun :=
  let w := p.world
  let r := phaseRec s w k p idx
  let off := r.2.1
  let len := r.2.2
  if p.total < off + len || len < 64 then (r.1, stBadDescriptor, none)
  else
    let q := planRead r.1 w k (p.addr + off) len
    let st := headStatus q.1 p idx len (slice q.2 0 64)
    if st ≠ stOk then (q.1, st, none)
    else
      let g := if phMb (slice q.2 0 64) = 0xFFFF || k = .eval then (q.1, 0) else mbTag q.1 w k p (phMb (slice q.2 0 64))
      let b := buildPhase g.1 k p idx g.2 q.2
      if worst b.2 ≠ stOk then (g.1, worst b.2, none)
      else
        let m := readLists g.1 k p q.2 b.1
        let st := phaseStatus m.1 k p m.2
        if st ≠ stOk then (m.1, st, none) else (m.1, stOk, some (finishLoad m.1 m.2))

end Sys2Proof.Machine
end

