-- ==== Sys2Proof/Machine/Plan.lean ====
section
/-! DEFINITION. Running a plan: its start (R236 to R239), attempts and replays (R390 to R393), phases (R19, R215, R216,
R223, R247 to R249), the checks and the commit sequence (R250, R391, R407). -/

namespace Sys2Proof.Machine

/-! ### The header and one scan of the phase records -/

def rpPlan (o : Bytes) : Nat := fld o 0 8
def rpStep (o : Bytes) : Nat := fld o 8 8
def rpRecompute (o : Bytes) : Bool := bit (fld o 32 1) 1 && !bit (fld o 32 1) 0

/-- The plan as its header and operands name it. -/
def planOf (c : Issued) (h : Bytes) : PlanRun :=
  { iid := c.iid, world := c.world, recompute := rpRecompute c.ops, addr := rpPlan c.ops, step := rpStep c.ops,
    dataPos := fld c.ops 16 8, hash := fld h 8 8, fence := fld h 16 8, nphase := fld h 24 4, phaseTab := fld h 28 4,
    mbTab := fld h 32 4, nmb := fld h 36 2, total := fld h 48 8, summKind := (slice h 64 64).map BitVec.toNat }

/-- The header's own checks (R3, R239). -/
def headerBad (s : State) (c : Issued) (h : Bytes) : Bool :=
  fld h 0 4 != 0x4E414C50 || fld h 6 2 != 1 || fld h 4 2 != s.rdf .gblId 0 0 15 0 || fld h 8 8 != fld c.ops 24 8
    || !zeros h 44 4 || !zeros h 56 8 || fld h 24 4 == 0 || decide (65535 < fld h 24 4) || fld h 36 2 == 0
    || decide (1024 < fld h 36 2) || decide (256 < fld h 38 2)
    || ((slice h 64 64).any fun b => decide (4 < b.toNat) && b.toNat != 0xFF)
    || decide (fld h 48 8 < 128) || decide (fld h 48 8 < fld h 28 4 + 8 * fld h 24 4)
    || decide (fld h 48 8 < fld h 32 4 + 8 * fld h 36 2)
    || (fld h 38 2 != 0 && decide (fld h 48 8 < fld h 40 4 + 32 * fld h 38 2))

/-- A QID names one queue, or both ends of one on this device (R252). -/
def qidsOk (s : State) : List Queue → Bool
  | [] => true
  | q :: qs =>
    (match qs.filter fun r => r.qid == q.qid with
     | [] => true
     | [r] => r.recv != q.recv && some r.peer == ownId s && some q.peer == ownId s
     | _ => false) && qidsOk s qs

/-- A queue entry's own checks, with those that a device makes of its memory: a receiver's spill area lies in its LPDDR5X; the
two ends of a local queue have entries of one size (R252). -/
def queueBad (s : State) (qs : List Queue) (q : Queue) : Bool :=
  q.bad || (q.recv && q.spillable && (decide (0x400000000000 ≤ q.spillBase)
      || footStatus s (q.spillBase, q.spillBase + q.size * q.spillDepth) != stOk))
    || qs.any fun r => r.qid == q.qid && r.size != q.size

/-- What the plan names over all its phases. The flag says that a record or one of its tables lies beyond TOTAL_LEN (R239,
R523); what else may be wrong with a record shows when its phase is selected (R245). -/
def scanPhase (s : State) (k : PlanKind) (p : PlanRun) (idx : Nat) : State × PlanRun × Bool :=
  let r := phaseRec s p.world k p idx
  let off := r.2.1
  let len := r.2.2
  if p.total < off + len then (r.1, p, true)
  else if len < 64 then (r.1, p, false)
  else
    let q := planRead r.1 p.world k (p.addr + off) len
    let lists := readRecords q.1 k p (buildPhase q.1 k p idx 0 q.2).1
    let b := q.2
    let h := slice b 0 64
    let o := phOff h
    let binds := (entries b 64 (phDesc h) 72).map fun d => parseBinding (slice d 64 8)
    let rbinds := (entries b (o 5) (fld h 15 1) 16).filterMap fun x => if fld x 14 1 = 0xFF then none else some (fld x 14 1)
    let nops := 1 + b2n (phFlag h 2) + b2n (phFlag h 3)
    let ops := (entries b (o 0) nops 64).map parseOp
    let regs := (binds.filterMap fun x => x.region) ++ rbinds ++ ((ops.map fun e => e.gradOf).filter (· != 0xFF))
    let tagged := (binds.filter fun x => x.role == 0 && phMb h != 0xFFFF).filterMap fun x => x.region
    let rel := tagged.map fun n => (phMb h, n, idx)
    let rngs := (entries b (o 3) (fld h 13 1) 16).map parseRng
    let routes := entries b (o 2) (fld h 12 1) 16
    let rows := fun (n : Nat) => tdExt (parseTd (slice b (64 + 72 * n) 64)) 2
    let seqs := (rngs.filter fun x => x.kind == 2).map fun x => x.stream
    let fills := (rngs.zipIdx.filter fun x => x.1.kind == 2).map fun x =>
      (idx, x.2, x.1.stream, cdiv (tdCount (parseTd (slice b (64 + 72 * x.1.dst) 64))) 4)
    (lists.1,
     { p with
       nRegions := (p.nRegions ++ regs).eraseDups
       nBanks := (p.nBanks ++ [fld h 3 1]).eraseDups
       nCtxs := (p.nCtxs ++ routes.map fun x => fld x 0 1).eraseDups
       locals := p.locals ++ routes.map fun x => (fld x 0 1, min (rows (fld x 3 1)) (rows (fld x 4 1)))
       nGroups := (p.nGroups ++ (ops.filter fun e => e.anchor == 1).map fun e => e.group).eraseDups
       releases := rel ++ p.releases.filter fun x => !(rel.map fun y => (y.1, y.2.1)).contains (x.1, x.2.1)
       streams := (p.streams ++ seqs).eraseDups
       routed := p.routed || fld h 12 1 != 0
       fills := p.fills ++ fills }, !tablesInside p lists.2)

/-- Scan every phase record; the flag says that one lies beyond TOTAL_LEN. -/
def scanPhases (k : PlanKind) : List Nat → State × PlanRun × Bool → State × PlanRun × Bool
  | [], z => z
  | i :: is, z =>
    let r := scanPhase z.1 k z.2.1 i
    scanPhases k is (r.1, r.2.1, z.2.2 || r.2.2)

/-- The micro-batch table (R214, R238). -/
def mbTabBad (n : Nat) (bs : Bytes) : Bool := (entries bs 0 n 8).any fun e => decide (1 < fld e 0 1) || !zeros e 1 7

/-- Devices a plan shares its replay group with (R254, R198): those of its queues, the owners of the experts that it routes to,
and those whose frames its step has taken. Peer 0xFFFF of a queue is a device; as an owner it is none (R195, R362). -/
def planMembers (s : State) (p : PlanRun) : List Nat :=
  let byRoute := match s.tkr.answer with
    | none => []
    | some a => (a.sections.filter fun (x : AnsSection) => p.nCtxs.contains x.ctx).flatMap fun (x : AnsSection) =>
        (x.experts.map fun (e : Expert) => e.dev).filter (· != 0xFFFF)
  (((p.queues.map fun q => q.peer) ++ byRoute ++ p.joined).filter fun d => some d != ownId s).eraseDups

/-- PLAN is aligned and lies in the LPDDR5X range (R236, R266). -/
def planAddrStatus (s : State) (a n : Nat) : Nat :=
  if a % 4096 ≠ 0 || 2 ^ 48 ≤ a then stBadDescriptor
  else match footStatus s (a, a + n) with
    | 0 => failIf (decide (0x400000000000 ≤ a)) stBadDescriptor
    | st => st

/-- The step number fits its kind (R236, R237). -/
def stepStatus (s : State) (k : PlanKind) (step : Nat) : Nat :=
  match k with
  | .eval => failIf (decide (2 ^ 63 ≤ step)) stBadDescriptor
  | .training => failIf (step != (s.rd .seqStep + 1) % 2 ^ 64) stOutOfRange

/-! ### Attempts -/

/-- Every count of the windows of a world becomes 0 (R370). -/
def clearWindows (s : State) (w : World) : State :=
  (s.fab.windows.filter fun q => q.2.valid && q.2.world == w).foldl (fun s q =>
    setMem s q.2.counts (zeroBytes (2 * (64 * (4096 * q.2.size / winSuper q.2))))) s

/-- Both ends of every queue as an attempt finds them; the receiver grants its credits (R253). -/
def freshQueue (q : Queue) : Queue :=
  { q with next := 0, inRing := [], inSpill := [], stall := false, ringCr := if q.recv then q.nt else 0
           spillCr := if q.recv then q.spillDepth else 0 }

/-- Anchor messages of earlier attempts of the plan's step leave the buffer: no block will be reached with them (R367). -/
def anchorsOld (s : State) (k : PlanKind) : State :=
  match getPlan s k with
  | none => s
  | some p => { s with fab := { s.fab with anchors := s.fab.anchors.filter fun m =>
      !(m.step == p.step % 2 ^ 32 && decide (m.attempt < p.attempt)) } }

/-- An attempt begins (R151, R392, R408): everything an earlier attempt of the step has left starts afresh. -/
def startAttempt (s : State) (k : PlanKind) : State :=
  match getPlan s k with
  | none => s
  | some p =>
    let s := match k with
      | .training => clearWindows s p.world
      | .eval => if (match s.seq.train with | some t => t.world == p.world | none => false) then s else clearWindows s p.world
    let s := anchorsOld s k
    setPlan s k (some
      { p with
        st := .between, nextPhase := 0, phase := none, executed := 0, atOnce := false, replay := false, ovf := false
        tileEv := [], ovfOps := [], written := [], boundary := none, ctrB := [], digest := [0, 0, 0, 0, 0, 0, 0, 0]
        queues := p.queues.map freshQueue, queuesB := [], postEnts := [], atBound := false, cleared := false
        before := [], mail := [], branches := [], badGran := [] })

/-- Frozen regions of the step (R206, R225). -/
def setFrozen (s : State) : State :=
  (s.seq.regions.map Prod.fst).foldl (fun s n => setRegion s n { getRegion s n with frozen := bankBit s .seqVfrozen n }) s

/-- An eval pins the committed copy of every region (R215). -/
def evalPins (s : State) : State :=
  match s.seq.eval with
  | none => s
  | some _ =>
    (s.seq.regions.filter fun q => q.2.valid).foldl (fun s q =>
      modPlan (pinAdd s q.1 q.2.comm) .eval fun p => { p with pins := p.pins ++ [(0xFFFF, q.1, q.2.comm)] }) s

/-- Waiting writes to the streams' registers and worlds take effect at an eval start too (R233, R414). -/
def applyStreams (s : State) : State :=
  applyMomentList .step (s.waiting.filter fun q => (decide (0xE80000 ≤ q.1) && decide (q.1 < 0xEA0000))
    || (decide (0xD02200 ≤ q.1) && decide (q.1 < 0xD02400))) s

/-- Tickets that a RUN_PLAN of kind k finds at its start are released: those of old epochs, and those that an ended plan of its
kind has left (R189, R197; log 149). -/
def oldTickets (s : State) (k : PlanKind) : State :=
  setTkr s fun t => { t with tickets := t.tickets.filter fun q => q.2.epoch == tkrEpoch s && q.2.k != k }

/-- A RUN_PLAN's first attempt: what takes effect at the step's start (R225, R233, R438), old tickets (R197), the
counters as they stand (R232), and the answer of a step that does not route (R195). -/
def runStart (s : State) (k : PlanKind) (p : PlanRun) : State :=
  let s := match k with | .training => setFrozen (mirStart s (applyMoment .step s)) | .eval => applyStreams s
  let s := oldTickets s k
  let p := { p with ctr0 := ctrSnap s (k == .eval), t0 := s.time, members := planMembers s p, took := k == .eval }
  let s := startAttempt (setPlan s k (some p)) k
  match k with
  | .eval => evalPins s
  | .training =>
    if p.routed then s
    else
      let r := applyAnswers s p.step
      modPlan r.1 .training fun p => { p with took := true }

/-- Tiles that a phase names (R497). -/
def phaseTiles (qs : List Queue) (f : PhaseRun) : List Nat :=
  ((if f.sheet then rectTiles f.rect.1 f.rect.2.1 f.rect.2.2.1 f.rect.2.2.2 else [])
    ++ (if f.copyRect.2.2.1 = 0 then [] else rectTiles f.copyRect.1 f.copyRect.2.1 f.copyRect.2.2.1 f.copyRect.2.2.2)
    ++ (if bit f.dense.flags 2 then [f.dense.gtile] else []) ++ f.placeD ++ f.placeG ++ f.placeV
    ++ (f.qops.map fun x => (qs.getD x.q { (parseQueue []) with bad := true }).ringTile)).eraseDups

/-- Tiles that a plan names in any of its phases, and the ring tiles of its queues (R497). -/
def planTiles (s : State) (k : PlanKind) (p : PlanRun) : List Nat :=
  ((p.queues.map fun q => q.ringTile) ++ (upTo p.nphase).flatMap fun i =>
    let r := phaseRec s p.world k p i
    let q := planRead r.1 p.world k (p.addr + r.2.1) r.2.2
    phaseTiles [] (readLists q.1 k p q.2 (buildPhase q.1 k p i 0 q.2).1).2).eraseDups

/-- A RUN_PLAN is held in issue order (R237). -/
def holdPlan (s : State) (iid : Nat) (k : PlanKind) : State :=
  { (modIssued s iid fun x => { x with st := .held }) with
    seq := { s.seq with
      held := (s.seq.held.filter fun h => decide (h.iid < iid)) ++ [{ iid := iid, kind := k }]
        ++ s.seq.held.filter fun h => decide (iid < h.iid) } }

/-- Check the header and everything it names, then begin (R239); a plan that names a test-fenced tile is held until the
test ends (R497). -/
def planBegin (s : State) (c : Issued) : State :=
  let k := planKindOf c
  let a := rpPlan c.ops
  let st := worst [planAddrStatus s a 128, stepStatus s k (rpStep c.ops)]
  if planAddrStatus s a 128 ≠ stOk then complete s c.iid (planAddrStatus s a 128)
  else
    let h := devRead s c.world (.cmd c.iid) a 128
    let s := h.1
    let p := planOf c h.2
    if headerBad s c h.2 then complete s c.iid stBadDescriptor
    else if planAddrStatus s a p.total ≠ stOk then complete s c.iid (planAddrStatus s a p.total)
    else
      let m := planRead s c.world k (a + p.mbTab) (8 * p.nmb)
      let q := planRead m.1 c.world k (a + fld h.2 40 4) (32 * fld h.2 38 2)
      let qs := (entries q.2 0 (fld h.2 38 2) 32).map parseQueue
      let z := scanPhases k (upTo p.nphase) (q.1, { p with queues := qs }, false)
      let s := z.1
      let p := z.2.1
      if mbTabBad p.nmb m.2 || qs.any (queueBad s qs) || !qidsOk s qs || z.2.2
          || (k == .training && decide (160 < p.streams.length)) then complete s c.iid stBadDescriptor
      else if st ≠ stOk then complete s c.iid st
      else if p.fence ≠ 0 && p.fence ≠ fenceHash s then complete s c.iid stFenceMismatch
      else if (allTiles.any (testFenced s)) && (planTiles s k p).any (testFenced s) then holdPlan s c.iid k
      else runStart (modIssued s c.iid fun x => { x with st := .running }) k p

/-- ANSWER_ID the step will run under: a waiting answer for it, or the one in force (R409; log 32). -/
def stepAnswerId (s : State) (step : Nat) : Nat :=
  match (s.tkr.waiting.filter fun a => a.step == step).getLast? with
  | some a => a.id
  | none => answerId s

/-- The Sepia log's slot for a step (R407). -/
def logSlot (s : State) (step : Nat) : Option Nat :=
  let b := s.rd .snpLogBase
  let n := s.rdf .snpLogCfg 0 0 23 0
  if bit b 0 && n != 0 then some (b / 4096 * 4096 + step % n * 4096) else none

/-- A RUN_PLAN that nothing holds starts; a recomputation first reads its log record (R409), by
the log registers that are in force for its step (R413; log 47). -/
def planGo (s : State) (c : Issued) : State :=
  if !rpRecompute c.ops then planBegin s c
  else match logSlot (applyMoment .step s) (rpStep c.ops) with
    | none => complete s c.iid stBadDescriptor
    | some a => match hostRead s c.world (.cmd c.iid) a 4096 with
      | (s, .wait) => s
      | (s, .fail st) => complete s c.iid st
      | (s, .ok r) =>
        if fld r 8 8 ≠ rpStep c.ops || fld r 16 8 ≠ fld c.ops 16 8 || fld r 32 4 ≠ stepAnswerId s (rpStep c.ops)
            || rpStep c.ops ≠ (s.rd .seqStep + 1) % 2 ^ 64 then complete s c.iid stBadDescriptor
        else planBegin (modIssued s c.iid fun x => { x with fetched := putBytes x.fetched 0 r }) c

/-! ### Holding and starting (R235, R237) -/

/-- A snapshot's capture comes before the next step (R402). -/
def captureDue (s : State) : Bool :=
  match s.snp.cur with
  | some n => n.due && !n.captured && s.seq.train.isNone
  | none => false

/-- The kind could start now: none of its kind runs, an eval starts at a step boundary, and no capture is due. -/
def kindFree (s : State) (k : PlanKind) : Bool :=
  (getPlan s k).isNone && (k == .training || s.seq.train.isNone) && !captureDue s
    && s.plat.restart.isNone && !quiesceRuns s

/-- Nothing held was issued before `iid` (R501). -/
def noOlderHold (s : State) (iid : Nat) : Bool := s.seq.heldCmds.all fun j => decide (iid < j)

/-- A RUN_PLAN row: it starts, or is held in issue order. -/
def planRow (s : State) (iid : Nat) (k : PlanKind) (re : Bool) : State :=
  match getIssued s iid with
  | none => s
  | some c =>
    if c.op ≠ 0x0020 || planKindOf c ≠ k || rpRecompute c.ops ≠ re || c.st == .running then s
    else if s.seq.held.any (fun h => h.iid == iid) then s
    else if kindFree s k && s.seq.held.isEmpty && noOlderHold s iid then planGo s c
    else holdPlan s iid k

/-- RUN_PLAN. -/
def execRunPlan (iid : Nat) (s : State) : Host.Outcome State Fault Refusal := .next (planRow s iid .training false)
/-- RUN_PLAN with EVAL = 1 (R234). -/
def execRunPlanEval (iid : Nat) (s : State) : Host.Outcome State Fault Refusal := .next (planRow s iid .eval false)
/-- RUN_PLAN with RECOMPUTE = 1 (R409). -/
def execRunPlanRecompute (iid : Nat) (s : State) : Host.Outcome State Fault Refusal := .next (planRow s iid .training true)

/-- HELD_PLAN_START: the first held plan whose kind is free starts. -/
def execHeldPlanStart (k : PlanKind) (s : State) : Host.Outcome State Fault Refusal :=
  match s.seq.held.find? fun h => kindFree s h.kind with
  | none => .next s
  | some h =>
    if h.kind ≠ k || !noOlderHold s h.iid then .next s
    else
      let s := { s with seq := { s.seq with held := s.seq.held.filter fun x => x.iid != h.iid } }
      match getIssued s h.iid with
      | none => .next s
      | some c => .next (planGo (modIssued s h.iid fun x => { x with st := .issued }) { c with st := .issued })

/-! ### Checks over the replay group (R390, R391) -/

/-- Messages of the plan whose answer is out: the result is not final before they have it (R365). -/
def planOut (s : State) (k : PlanKind) : Bool :=
  let mine := fun (m : OutMsg) => m.ctx == .plan k && !m.mirror
  s.fab.out.any mine || s.fab.queued.any mine

/-- A check result for a member: STEP, ATTEMPT, then bit 0 pass and bit 1 at once (log 21). -/
def resultBytes (k : PlanKind) (p : PlanRun) (pass once : Bool) : Bytes :=
  natLe 8 (drawStep k p) ++ natLe 1 p.attempt ++ natLe 1 (b2n pass + 2 * b2n once) ++ zeroBytes 6

/-- Send a result to every member; answers whether each could be sent. -/
def sendResults (k : PlanKind) (p : PlanRun) (pass once : Bool) : List Nat → State → State × Bool
  | [], s => (s, true)
  | d :: ds, s =>
    match sendMsg s { peer := d, typ := 0x01, vc := 2, key := 0xFFFF, world := p.world, ctx := .plan k,
                      payload := resultBytes k p pass once } with
    | (s, .ok) => sendResults k p pass once ds s
    | (s, _) => let r := sendResults k p pass once ds s; (r.1, false)

/-- LAST_DELTA of every tile after an attempt that failed (R411). -/
def setLastDelta (s : State) (ev : NMap Nat) : State :=
  allTiles.foldl (fun s t =>
    let n := min 255 (mapGet (fun _ => 0) ev t)
    if s.rdf .rasTile t 0 15 8 = n then s else s.wrf .rasTile t 0 15 8 n) s

/-- The plan's own checks pass. -/
def ownPass (p : PlanRun) : Bool := !p.atOnce && !p.replay && !p.ovf

/-- CHECK_FAILED at once: the members hear of it (R391). -/
def failAtOnce (s : State) (k : PlanKind) : State :=
  match getPlan s k with
  | none => s
  | some p =>
    let s := (sendResults k p false true (planMembers s p) s).1
    failPlan (setLastDelta s p.tileEv) k stCheckFailed

/-- Take one result of each member. -/
def takeResults : List Nat → List (Nat × Bool × Bool) → List (Nat × Bool × Bool) × List (Nat × Bool × Bool)
  | [], l => ([], l)
  | d :: ds, l =>
    match takeFirst (fun (r : Nat × Bool × Bool) => r.1 == d) l with
    | none => takeResults ds l
    | some (r, l) => let z := takeResults ds l; (r :: z.1, z.2)

/-! ### The commit sequence (R250) -/

/-- Mirrored writes whose DONE is out; seeds do not hold up a commit (R395, R396). -/
def mirrorOut (s : State) : Bool :=
  let mine := fun (m : OutMsg) => m.mirror && m.seed.isNone
  s.fab.out.any mine || s.fab.queued.any mine

/-- Step 4: regions written through FREE role switch (R217). -/
def switchRegions (s : State) (p : PlanRun) : State :=
  p.written.foldl (fun s n =>
    let r := getRegion s n
    setRegion s n (if r.comm = 0 then { r with comm := 1, v1 := some p.step } else { r with comm := 0, v0 := some p.step })) s

/-- A 256-bit mask of region numbers. -/
def maskBytes (l : List Nat) : Bytes :=
  (upTo 32).map fun i => BitVec.ofNat 8 ((upTo 8).map fun j => if l.contains (8 * i + j) then 2 ^ j else 0).sum

/-- Numbers in rising order. -/
def sortNat (l : List Nat) : List Nat :=
  l.foldl (fun r x => (r.filter (decide <| · < x)) ++ [x] ++ r.filter fun y => decide (x ≤ y)) []

/-- The Sepia log record (R407). -/
def sepiaRecord (s : State) (p : PlanRun) : Bytes :=
  let ns := (sortNat p.streams).take 160
  let st := ns.flatMap fun n => natLe 2 n ++ zeroBytes 6 ++ natLe 16 (streamCtr s n)
  let h := natLe 4 0x53455041 ++ natLe 2 1 ++ natLe 2 ns.length ++ natLe 8 p.step ++ natLe 8 p.dataPos ++ natLe 8 p.hash
    ++ natLe 4 (answerId s) ++ natLe 1 (b2n p.reused + 2 * b2n (p.retries != 0)) ++ natLe 1 p.attempt ++ zeroBytes 2
    ++ natLe 8 ((s.tkr.answer.map fun a => a.hash).getD 0) ++ digestBytes p.digest ++ natLe 8 s.time ++ maskBytes p.written
    ++ natLe 8 (fenceHash s) ++ zeroBytes 152 ++ st
  h ++ zeroBytes (4096 - h.length)

/-- A committed step counts for the automatic snapshot interval (R406): its time, and what it costs a snapshot it
overlaps. -/
def noteStep (s : State) (p : PlanRun) : State :=
  let e := s.snp
  let dt := s.time - p.t0
  let on := match e.cur with | some n => n.captured | none => e.openEnd
  let run := if on then e.run + (dt - e.base) else e.run
  let cur := match e.cur with | some n => some { n with due := true } | none => none
  { s with snp := { e with
      times := (dt :: e.times).take 64, since := e.since + 1, run := run, cur := cur
      cost := if e.openEnd then run else e.cost, ever := e.ever || e.openEnd, openEnd := false } }

/-- A step that has turned out to have no routing pass applies its answer (R195; log 171). -/
def lateAnswer (s : State) (p : PlanRun) : State := if p.took then s else (applyAnswers s p.step).1

/-- Steps 4 to 6, and the question record after them. -/
def commitEnd (s : State) (p : PlanRun) : State :=
  match getIssued s p.iid with
  | none => leavePlan s .training p
  | some c =>
    let s := (switchRegions (lateAnswer s p) p).wr .seqStep 0 0 p.step
    let s := if p.recompute then s else match logSlot s p.step with
      | some a => hostWrite s p.world a (sepiaRecord s p)
      | none => s
    let s := leavePlan (noteStep s p) .training p
    let s := completeInfo s p.iid (if p.retries = 0 then stOk else stOkReplayed) (planInfo s p.iid p)
    if p.recompute then s else postQuestion s p c

/-- Step 3 and on: a training plan waits for its mirror traffic; an eval ends here. -/
def commitGo (s : State) (k : PlanKind) : State :=
  match getPlan s k with
  | none => s
  | some p =>
    match k with
    | .eval =>
      let s := leavePlan s .eval p
      completeInfo s p.iid (if p.retries = 0 then stOk else stOkReplayed) (planInfo s p.iid p)
    | .training =>
      if mirrorOut s && !bit (s.rd .mirStatus) 63 then modPlan s .training fun p => { p with st := .drain }
      else commitEnd s p

/-- The aggregated result is known: the four outcomes of R391. A step whose last attempt still overflows completes
ANCHOR_OVERFLOW, whatever else has failed in it (R54). -/
def decideChecks (s : State) (k : PlanKind) : State :=
  match getPlan s k with
  | none => s
  | some p =>
    let t := takeResults p.members p.results
    let once := p.atOnce || t.1.any fun r => r.2.2
    let pass := ownPass p && t.1.all fun r => r.2.1
    let s := setPlan s k (some { p with results := t.2 })
    if once then failPlan (setLastDelta s p.tileEv) k stCheckFailed
    else if pass then
      if p.atBound then modPlan s k fun p => { p with st := .between, atBound := false, cleared := true }
      else commitGo s k
    else
      let s := setLastDelta s p.tileEv
      if p.retries < s.rdf .rasCtl 0 0 2 0 then
        modPlan s k fun p => { p with st := if p.boundary.isSome then .retry else .replay, atBound := false }
      else failPlan s k (if p.ovf then stAnchorOverflow else stCheckFailed)

/-- Every member's result is here. -/
def resultsIn (p : PlanRun) : Bool := p.members.all fun d => (p.results.map fun r => r.1).contains d

/-- A check begins: the result goes to the members, and the decision follows when theirs are here. -/
def beginCheck (s : State) (k : PlanKind) (bound : Bool) : State :=
  match getPlan s k with
  | none => s
  | some p =>
    if p.atOnce then failAtOnce s k
    else
      let ms := planMembers s p
      let r := sendResults k p (ownPass p) false ms s
      if !r.2 then failPlan r.1 k stPeerUnreachable
      else
        let s := modPlan r.1 k fun p => { p with members := ms, atBound := bound, st := .members }
        match getPlan s k with
        | none => s
        | some p => if resultsIn p then decideChecks s k else s

/-- The log record that a recomputation fetched, against its digest and counters (R409). -/
def recomputeOk (s : State) (p : PlanRun) : Bool :=
  match getIssued s p.iid with
  | none => true
  | some c =>
    let r := mapGetList memD c.fetched 0 4096
    slice r 48 8 == digestBytes p.digest
      && (upTo (min 160 (fld r 6 2))).all fun i =>
        fld r (256 + 24 * i + 8) 16 == streamCtr s (fld r (256 + 24 * i) 2 % 4096)

/-- STEP_COMMIT: compute has ended, and step 2 begins. -/
def execStepCommit (k : PlanKind) (s : State) : Host.Outcome State Fault Refusal :=
  match getPlan s k with
  | none => .next s
  | some p =>
    if p.st ≠ .commit || planOut s k then .next s
    else
      let s := if p.recompute && !recomputeOk s p then dieEvent s (.plan k) 40 0 1 else s
      .next (beginCheck s k false)

/-- An attempt has failed a check and goes no further: where the replay limit allows, its result goes to the replay group as at
any failed check (R390, R391); at the last attempt the plan ends with `st`. -/
def abortAttempt (s : State) (k : PlanKind) (st : Nat) : State :=
  match getPlan s k with
  | none => s
  | some p =>
    if p.atOnce then failAtOnce s k
    else if s.rdf .rasCtl 0 0 2 0 ≤ p.retries then failPlan s k st
    else beginCheck (modPlan (dropEngines s k) k fun p => { p with phase := none }) k false

/-- TICKET_STALL_LIMIT: the accept stage has been held for longer than STALL_LIMIT; the step fails its checks (R189). -/
def execTicketStallLimit (ctx : Fin 256) (s : State) : Host.Outcome State Fault Refusal :=
  let go := fun (k : PlanKind) (c : Cur) (p : Pass) =>
    if p.stall.isNone then Host.Outcome.next s
    else .next (abortAttempt (dieEvent (tkrErrSet s 3 p.ctx 0 0 0) (.plan c.k) 39 (sliceOf p.ctx / 4) 1) k stTimeout)
  match getPass s .training ctx with
  | some (c, p) => go .training c p
  | none => match getPass s .eval ctx with
    | some (c, p) => go .eval c p
    | none => .next s

/-- MIRROR_DRAIN_DONE (R395). -/
def execMirrorDrainDone (s : State) : Host.Outcome State Fault Refusal :=
  match s.seq.train with
  | none => .next s
  | some p => if p.st == .drain && (!mirrorOut s || bit (s.rd .mirStatus) 63) then .next (commitEnd s p) else .next s

/-- The plan a member's result is for. -/
def resultPlan (s : State) (src : Nat) : Option PlanKind :=
  match awaitsResult s src with
  | some k => some k
  | none =>
    if (match s.seq.train with | some p => (planMembers s p).contains src | none => false) then some .training
    else if (match s.seq.eval with | some p => (planMembers s p).contains src | none => false) then some .eval
    else none

/-- CHECK_RESULT_MESSAGE: delivered to the sequencers; nothing is stored (R390). -/
def execCheckResultMessage (src : DeviceId) (pass atOnce : Bool) (s : State) : Host.Outcome State Fault Refusal :=
  match resultPlan s src.toNat with
  | none => .next s
  | some k =>
    let s := modPlan s k fun p => { p with results := p.results ++ [(src.toNat, pass, atOnce)] }
    match getPlan s k with
    | none => .next s
    | some p => if p.st == .members && resultsIn p then .next (decideChecks s k) else .next s

/-! ### Replays and update retries (R54, R218, R224, R392, R393) -/

/-- PINNED anchors of the operations that overflowed rise (R54). -/
def raiseAnchors (s : State) (p : PlanRun) : List ((Nat × OpSel) × Nat) :=
  p.raises ++ p.ovfOps.map fun o => (o, orElse0 (s.rdf .gblArithCtl 0 0 7 0) 1)

/-- Granules that returned DRAM_UE and lie in MIRRORED regions are fetched from the twin (R393). -/
def repairGranules (s : State) (k : PlanKind) (p : PlanRun) : State :=
  let gs := (p.badGran.eraseDups).filterMap fun g => (mirEntry s (4096 * g)).map fun n => (g, n)
  let s := modPlan s k fun p => { p with badGran := [] }
  match twinId s with
  | none => s
  | some twin => gs.foldl (fun s q =>
      let a := 4096 * q.1
      (sendRead s twin p.world (.plan k) (s.rd .mirRegDst q.2 + (a - (mirSrc s q.2).1)) 4096 a).1) s

/-- A READ of the plan is out. -/
def readsOut (s : State) (k : PlanKind) : Bool :=
  let mine := fun (m : OutMsg) => m.ctx == .plan k && (m.packets.any fun x => x.typ.toNat == 0x02)
  s.fab.out.any mine || s.fab.queued.any mine

/-- Pins of a training attempt end with it; an eval keeps its own (R215). -/
def attemptPins (s : State) (k : PlanKind) (p : PlanRun) : State :=
  match k with
  | .training => modPlan (pinsDrop s p.pins) k fun p => { p with pins := [] }
  | .eval => s

/-- REPLAY_START. -/
def execReplayStart (k : PlanKind) (s : State) : Host.Outcome State Fault Refusal :=
  match getPlan s k with
  | none => .next s
  | some p =>
    if p.st ≠ .replay || readsOut s k then .next s
    else if (p.badGran.any fun g => (mirEntry s (4096 * g)).isSome) then .next (repairGranules s k p)
    else
      let r := raiseAnchors s p
      let s := attemptPins (dropEngines s k) k p
      let s := ctrRestore s (k == .eval) p.ctr0
      .next (startAttempt (modPlan s k fun p => { p with attempt := p.attempt + 1, retries := p.retries + 1, raises := r }) k)

/-- UPDATE_RETRY_START: the phases from the boundary onward run again. -/
def execUpdateRetryStart (s : State) : Host.Outcome State Fault Refusal :=
  match s.seq.train with
  | none => .next s
  | some p =>
    if p.st ≠ .retry || readsOut s .training then .next s
    else if (p.badGran.any fun g => (mirEntry s (4096 * g)).isSome) then .next (repairGranules s .training p)
    else
      let r := raiseAnchors s p
      let s := attemptPins (dropEngines s .training) .training p
      let s := ctrRestore (clearWindows s p.world) false p.ctrB
      .next (anchorsOld (modPlan s .training fun p =>
        { p with
          st := .between, nextPhase := p.boundary.getD 0, phase := none, executed := 0, atOnce := false, replay := false
          ovf := false, tileEv := [], ovfOps := [], attempt := p.attempt + 1, retries := p.retries + 1, raises := r
          digest := [0, 0, 0, 0, 0, 0, 0, 0], queues := p.queuesB
          mail := p.mail.filter fun q => !p.postEnts.contains q.1, badGran := [] }) .training)

/-! ### Starting a phase -/

/-- Take a pin for a micro-batch or a step-wide phase, unless it is held. -/
def takePin (s : State) (k : PlanKind) (mb n copy : Nat) : State :=
  match getPlan s k with
  | none => s
  | some p =>
    if p.pins.any fun x => x.1 == mb && x.2.1 == n then s
    else modPlan (pinAdd s n copy) k fun p => { p with pins := p.pins ++ [(mb, n, copy)] }

/-- Pins of a training phase that starts (R215). -/
def phasePins (s : State) (k : PlanKind) (p : PlanRun) (f : PhaseRun) : State :=
  match k with
  | .eval => s
  | .training =>
    let tag := if f.mb = 0xFFFF then (s, 0) else mbTag s p.world k p f.mb
    f.binds.foldl (fun s b =>
      match b.region with
      | none => s
      | some n =>
        let r := getRegion s n
        if b.role = 1 || (b.role = 0 && f.mb = 0xFFFF) then takePin s k 0xFFFF n r.comm
        else if b.role = 0 then
          match roleCopy r 0 f.mb tag.2 with
          | some c => takePin s k f.mb n c
          | none => s
        else s) tag.1

/-- Pins on the free copy of a region. -/
def freePins (r : Region) : Nat := if r.comm = 0 then r.pins1 else r.pins0

/-- The first FREE write of a region need not wait any more (R216). -/
def freeUnstall (s : State) (n : Nat) : State := setRegion s n { getRegion s n with stall := false }

/-- The regions of a phase whose first FREE write waits on pins stall (R216). -/
def freeWrites (s : State) (f : PhaseRun) : State :=
  let new := f.free.filter fun n => match s.seq.train with | some p => !p.written.contains n | none => false
  let held := new.filter fun n => freePins (getRegion s n) != 0
  let s := held.foldl (fun s n => setRegion s n { getRegion s n with stall := true }) s
  modPhase s .training fun f => { f with waits := held }

/-- A DROPOUT_MASK record (R210). -/
def dropoutMask (s : State) (k : PlanKind) (p : PlanRun) (f : PhaseRun) (r : RngRec) : State :=
  let t := tdOf f r.dst
  let g : Eng := { w := t.world, ctx := .plan k, owner := some 0x51 }
  let key := s.rd .rngKey r.stream
  writeTens s g .dev t .rne (fun _ => 0) fun i =>
    .code (b2n (decide (srDraw key (drawStep k p) ((r.salt + f.mb) % 65536) (linIndex t i) < r.keep)))

/-- The counter of a stream at the start of the step. -/
def ctrAtStart (p : PlanRun) (n : Nat) : Nat :=
  (mapGet (fun _ => (0 : W64)) p.ctr0 (regOff .rngCtrLo n 0)).toNat
    + 2 ^ 64 * (mapGet (fun _ => (0 : W64)) p.ctr0 (regOff .rngCtrHi n 0)).toNat

/-- Where a fill's range begins, from the step's start: the units of the fills of its stream before it in the plan (R211;
log 31). -/
def fillOffset (ph rec stream : Nat) : List (Nat × Nat × Nat × Nat) → Nat
  | [] => 0
  | x :: xs => if x.1 = ph && x.2.1 = rec then 0 else (if x.2.2.1 = stream then x.2.2.2 else 0) + fillOffset ph rec stream xs

/-- A UNIFORM_FILL record (R211). -/
def uniformFill (s : State) (k : PlanKind) (p : PlanRun) (f : PhaseRun) (n : Nat) (r : RngRec) : State :=
  let t := tdOf f r.dst
  let g : Eng := { w := t.world, ctx := .plan k, owner := some 0x51 }
  let key := s.rd .rngKey r.stream
  let off := fillOffset f.index n r.stream p.fills
  let len := cdiv (tdCount t) 4
  let base := ctrAtStart p r.stream
  let c0 := base + off
  let done := (streamCtr s r.stream + 2 ^ 128 - base % 2 ^ 128) % 2 ^ 128
  let s := writeTens s g .dev t .rne (fun _ => 0) fun i =>
    let e := linIndex t i
    let u : Nat := philox key ((c0 + e / 4) % 2 ^ 128) / 2 ^ (32 * (e % 4)) % 2 ^ 32
    .val (valMulS (fp32Val r.half) (.fin (Int.ofNat u - 2 ^ 31) (-31)))
  if done < off + len then streamAdvance s r.stream (off + len - done) else s

/-- The RNG records of a phase, in record order (R209). -/
def runRngs (s : State) (k : PlanKind) (p : PlanRun) (f : PhaseRun) : State :=
  f.rngs.zipIdx.foldl (fun s q => if q.1.kind = 1 then dropoutMask s k p f q.1 else uniformFill s k p f q.2 q.1) s

/-- Contributing entries return to their identities (R249). -/
def resetEnts (s : State) (k : PlanKind) (f : PhaseRun) : State :=
  modPlan s k fun p =>
    { p with
      mail := (phEnts f).foldl (fun m n => mapIns m n (freshMail p.summKind n)) p.mail
      postEnts := if p.boundary.isSome then (p.postEnts ++ phEnts f).eraseDups else p.postEnts }

/-- What a phase copy reads of its peer: its source there, or the old blocks of its destination there. -/
def phCopyFar (f : PhaseRun) (c : CopyOp) : Option Td :=
  let t := phCopyTds f c
  if c.side = 2 then some t.1 else if c.side = 1 && copyOld c t.1 t.2.1 then some t.2.1 else none

/-- READs for the copies with a side at a peer; one that cannot be sent ends the plan (R163). -/
def askPeers (s : State) (k : PlanKind) (f : PhaseRun) : State :=
  f.copies.foldl (fun s c => match phCopyFar f c with
    | some t => sentOr (.plan k) (askRuns s c.peer t.world (.plan k) (tdFoot t))
    | none => s) s

/-- The record's LIST names a die that is not in the phase (R103, R132). -/
def strayTask (f : PhaseRun) (x : Task) : Bool := x.place.isNone && !f.dies.contains x.die

/-- Records whose LIST names a die that is not in the phase are bad tasks: discarded, counted at the plan master's die 0 (log
48), and captured, where they are the GME's, at a tile that is a free value (R103, R132; log 150). -/
def strayRecords (s : State) (k : PlanKind) (f : PhaseRun) : State :=
  let s := (f.gmeQ.filter (strayTask f)).foldl (fun s x =>
    let r := drawFree s
    gmeErr r.1 (allTiles.getD (r.2 % 1536) 0) (gtOp x.bytes) 3 (fld x.bytes 24 4)) s
  let s := ((f.denseQ ++ f.gmeQ ++ f.veQ).filter (strayTask f)).foldl (fun s _ => dieEvent s (.plan k) 26 0 1) s
  let keep := fun (l : List Task) => l.filter fun x => !strayTask f x
  modPhase s k fun f => { f with denseQ := keep f.denseQ, gmeQ := keep f.gmeQ, veQ := keep f.veQ }

/-- Records that the phase places on fenced tiles never reach them (R305; log 48). -/
def fencedPlaces (s : State) (k : PlanKind) (f : PhaseRun) : State :=
  (f.denseQ ++ f.gmeQ ++ f.veQ).foldl (fun s x => match x.place with
    | some q => if tileFenced s q.1 then fencedDrop s k (0xB00 + x.die) q.1 1 else s
    | none => s) s

/-- Nothing holds the phase any more: its RNG records run, its lists and passes open. -/
def phaseGo (s : State) (k : PlanKind) : State :=
  match curOf s k with
  | none => s
  | some c =>
    let s := spillAll (strayRecords (fencedPlaces (askPeers (runRngs (resetEnts s k c.f) k c.p c.f) k c.f) k c.f) k c.f) k
    if c.f.passes.isEmpty then s else takeUp s k

/-- The other plan has a phase ready (R235). -/
def otherReady (s : State) (k : PlanKind) : Bool :=
  match getPlan s (match k with | .training => .eval | .eval => .training) with
  | some p => p.st == .between
  | none => false

/-- No phase of the other plan is at work. -/
def phaseFree (s : State) : Bool := (curPhase s).isNone

/-- The executions an attempt is allowed (R249, R262). -/
def phaseLimit (s : State) : Nat := 64 * orElse0 (s.rdf .seqCtl 0 0 15 0) 1

/-- The boundary before a phase is the marker of every die in a transition (R258). -/
def passMarkers (s : State) : State :=
  match s.seq.trans with
  | none => s
  | some t => { s with seq := { s.seq with trans := some { t with left := t.left.filter fun b => match b with | .die _ => false | _ => true } } }

/-- The phase has been loaded and is set going; gated tiles it names are ungated (R443). -/
def phaseEnter (s : State) (k : PlanKind) (f : PhaseRun) : State :=
  let qs := match getPlan s k with | some p => p.queues | none => []
  let s := applyMoment .phase (ungateTiles (passMarkers s) (phaseTiles qs f))
  let s := modPlan s k fun p =>
    let b := p.boundary.isNone && !f.free.isEmpty
    { p with
      st := .phase, phase := some { f with tag := blockTag s (.die 0), left := (f.left.map (workDie s)).eraseDups }, executed := p.executed + 1, boundary := if b then some f.index else p.boundary
      ctrB := if b then ctrSnap s false else p.ctrB, queuesB := if b then p.queues else p.queuesB }
  let s := { s with seq := { s.seq with lastKind := k, lastBank := f.bank } }
  match getPlan s k with
  | none => s
  | some p => phaseGo (freeWrites (phasePins s k p f) f) k

/-- PHASE_START (R245, R247): Die resets that waited for the boundary come first (R309). -/
def execPhaseStart (k : PlanKind) (s : State) : Host.Outcome State Fault Refusal :=
  let s := if phaseFree s then atBoundary s else s
  match getPlan s k with
  | none => .next s
  | some p =>
    if p.st ≠ .between || !phaseFree s || (s.seq.lastKind == k && otherReady s k) || decide (phaseLimit s ≤ p.executed) then .next s
    else
      let r := loadPhase s k p p.nextPhase
      match r.2.2 with
      | none => .next (failPlan r.1 k r.2.1)
      | some f =>
        if copiesStop r.1 f then .next s
        else if p.boundary.isNone && !f.free.isEmpty && !p.cleared then
          if planOut s k then .next s else .next (beginCheck s k true)
        else .next (phaseEnter r.1 k f)

/-- FREE_WRITE_UNBLOCK: the free copy's pin count has reached 0. -/
def execFreeWriteUnblock (r : Fin 256) (s : State) : Host.Outcome State Fault Refusal :=
  match s.seq.train with
  | none => .next s
  | some p => match p.phase with
    | none => .next s
    | some f =>
      if !f.waits.contains r.val || freePins (getRegion s r) != 0 then .next s
      else
        let s := modPhase (freeUnstall s r) .training fun f => { f with waits := f.waits.filter (· != r.val) }
        .next (if (f.waits.filter (· != r.val)).isEmpty then phaseGo s .training else s)

/-- VERSION_STALL_EXPIRE: the wait has exceeded STALL_LIMIT. -/
def execVersionStallExpire (r : Fin 256) (s : State) : Host.Outcome State Fault Refusal :=
  match s.seq.train with
  | none => .next s
  | some p => match p.phase with
    | none => .next s
    | some f => if f.waits.contains r.val then .next (failPlan s .training stVersionPinned) else .next s

/-- PHASE_LIMIT_EXCEEDED (R249). -/
def execPhaseLimitExceeded (k : PlanKind) (s : State) : Host.Outcome State Fault Refusal :=
  match getPlan s k with
  | none => .next s
  | some p =>
    if p.st == .between && decide (phaseLimit s ≤ p.executed) then .next (failPlan s k stTimeout) else .next s

/-! ### Ending a phase (R19) -/

/-- A tile of die d (or one that works for it) holds nothing of the phase. -/
def dieIdle (s : State) (c : Cur) (d : Nat) : Bool :=
  let here := fun (t : Nat) => tileDie t == d
  let queued := fun (x : Task) => match x.place with | some q => here q.1 | none => workDie s x.die == d
  !(c.f.denseQ.any queued) && !(c.f.gmeQ.any queued) && !(c.f.veQ.any queued)
    && s.das.all (fun p => p.2.k != c.k || !here (daTile p.1))
    && s.ves.all (fun p => p.2.k != c.k || p.2.task.isNone || !here p.1)
    && c.f.gmeHeld.all (fun h => !here h.tile) && c.f.owned.all (fun o => !here o.tile) && c.f.fly.all (fun x => !here x.owner)
    && c.f.packed.all (fun x => !here x.tile)

/-- A bounced copy of the phase waits for a running one of its world (R168). -/
def bounceBusy (s : State) (c : Cur) : Bool :=
  (c.f.copies.any fun x => phOverlap s c.p.world c.f x == .bounced)
    && s.seq.copies.any fun e => e.running && e.bounced && e.world == c.p.world

/-- Nothing of the phase is left anywhere: passes, gatherers, queue operations, and their messages; and its copies may run. -/
def phaseIdle (s : State) (c : Cur) : Bool :=
  c.f.passes.all (passDone s c) && (gathHolds s).isEmpty && c.f.qops.all (fun q => q.done)
    && !readsOut s c.k && !bounceBusy s c && !mirHolds s (.plan c.k)
    && !(s.fab.out.any fun m => m.ctx == .plan c.k && (m.packets.any fun x => x.typ.toNat == 0x08))
    && !(s.fab.queued.any fun m => m.ctx == .plan c.k && (m.packets.any fun x => x.typ.toNat == 0x08))

/-- Granules that storage bits touch. -/
def bitGrans (b : Nat × Nat) : List Nat := (upTo ((b.2 - 1) / 256 + 1 - b.1 / 256)).map (b.1 / 256 + ·)

/-- Granules of device `dev` (as `copyDstDev` names it) that the valid images of a group touch (R171). -/
def hardGrans (f : PhaseRun) (g dev : Nat) : List Nat :=
  ((f.copies.filter fun c => c.group == g && copyDstDev c == dev).flatMap fun c => (validImage f c).flatMap bitGrans).eraseDups

/-- One copy record of the phase runs (R162 to R171). -/
def runPhaseCopy (s : State) (c : Cur) (n : Nat) (op : CopyOp) : State :=
  let t := phCopyTds c.f op
  let tile := (copyTiles s c.p.world c.f).head?
  let ov := phOverlap s c.p.world c.f op
  let eng := fun (td : Td) => ({ w := td.world, ctx := .plan c.k, owner := some (0x10 + n), tile := tile } : Eng)
  let got := match getIssued s c.p.iid with | some k => k.fetched | none => []
  let q : CopyAt :=
    { src := eng t.1, dst := eng t.2.1, idx := eng (t.2.2.getD {}),
      ssp := if op.side = 2 then .peer op.peer got else .dev, dsp := if op.side = 1 then .peer op.peer got else .dev, isp := .dev }
  let hs := if op.group = 0 then [] else hardGrans c.f op.group (copyDstDev op)
  if op.side != 0 && !peerRoutable s op.peer (ownBank s) then failPlan s c.k stPeerUnreachable
  else
    copyMove s q op t.1 t.2.1 t.2.2 (drawStep c.k c.p)
      (fun i => (storedBits t.2.1 i).any fun b => (bitGrans b).any hs.contains)
      fun s => ovWrite s c.p.world (.plan c.k) (ov == .staged) (ov == .bounced) c.f.bounce (copyTiles s c.p.world c.f) t.1 t.2.1

/-- The phase's copies, in record order; none runs once the plan has ended. -/
def runCopies (s : State) (c : Cur) : State :=
  c.f.copiesLeft.foldl (fun s n => match curOf s c.k, c.f.copies[n]? with
    | some c, some op => runPhaseCopy s c n op
    | _, _ => s) s

/-- Pins that end with a phase (R215). -/
def endPins (s : State) (k : PlanKind) (p : PlanRun) (f : PhaseRun) : State :=
  match k with
  | .eval => s
  | .training =>
    let ends := fun (x : Nat × Nat × Nat) => x.1 == 0xFFFF || (x.1 == f.mb && p.releases.contains (x.1, x.2.1, f.index))
    modPlan (pinsDrop s (p.pins.filter ends)) k fun p => { p with pins := p.pins.filter fun x => !ends x }

/-- The phase has ended on every die: entries become final, and BRANCH or NEXT selects (R151, R248). -/
def phaseDone (s : State) (k : PlanKind) (f : PhaseRun) : State :=
  match getPlan s k with
  | none => s
  | some p =>
    let s := atBoundary (endPins s k p f)
    modPlan s k fun p =>
      { p with
        phase := none, nextPhase := f.next, branches := f.branches
        st := if !f.branches.isEmpty then .branch else if f.next = 0xFFFF then .commit else .between
        mail := finalMail f.index (phEnts f) p.mail
        before := if p.boundary.isNone then (p.before ++ (f.ranges.filter fun r => r.write).map fun r => (r.lo, r.hi)).eraseDups
          else p.before }



/-- Every list of the phase is closed: CLOSERS counts the routing entries that append to an operation's list and must close
it (R103, R243; DEDUCED, log 142). An elided operation lists nothing. -/
def listsClosed (s : State) (c : Cur) : Bool :=
  ([(OpSel.dense, some c.f.dense), (.gme, c.f.gme), (.ve, c.f.ve)]).all fun q => match q.2 with
    | none => true
    | some e => c.f.elided.contains q.1 || (q.1 == .dense && e.kind == 0) || decide (e.closers ≤ closedBy s c q.1)

/-- PHASE_END on one die. -/
def execPhaseEnd (k : PlanKind) (d : Die) (s : State) : Host.Outcome State Fault Refusal :=
  match curOf s k with
  | none => .next s
  | some c =>
    if c.p.atOnce then .next (failAtOnce s k)
    else if !c.f.left.contains d.val || !c.f.passes.all (passDone s c) || !listsClosed s c then .next s
    else if gathOpen c.f then .next (gathClose s c)
    else if !dieQuar s d && !dieIdle s c d then .next s
    else
      let left := c.f.left.filter (· != d.val)
      if !left.isEmpty then .next (modPhase s k fun f => { f with left := left })
      else if !phaseIdle s c || !((upTo 4).all (dieIdle s c)) then .next s
      else
        let s := runCopies s c
        match getPlan s k with
        | none => .next s
        | some p => if p.atOnce then .next (failAtOnce s k) else .next (phaseDone s k c.f)

/-- A BRANCH record is true (R152, R248). -/
def branchTrue (m : Mail) (b : Branch) : Bool :=
  let v := mailValue m
  let ord : Option Int :=
    if m.kind ≤ 2 then
      match fp32Val v, fp32Val b.imm with
      | .nan, _ => none
      | _, .nan => none
      | x, y => some (if valLt x y then -1 else if valLt y x then 1 else 0)
    else some (if v < b.imm then -1 else if b.imm < v then 1 else 0)
  match ord with
  | none => b.cmp == 1
  | some o =>
    match b.cmp with
    | 0 => o == 0
    | 1 => o != 0
    | 2 => decide (o < 0)
    | 3 => decide (o ≤ 0)
    | 4 => decide (0 < o)
    | _ => decide (0 ≤ o)

/-- Test the records in order: the TARGET of the first true one, or `dflt`; `none` while a record tests an entry that is not
final (R152, R248). -/
def branchPick (p : PlanRun) (dflt : Nat) : List Branch → Option Nat
  | [] => some dflt
  | b :: bs =>
    let m := getMail p b.entry
    if !m.final then none else if branchTrue m b then some b.target else branchPick p dflt bs

/-- BRANCH_DECIDE: the first true record selects its TARGET. -/
def execBranchDecide (k : PlanKind) (s : State) : Host.Outcome State Fault Refusal :=
  match getPlan s k with
  | none => .next s
  | some p =>
    if p.st ≠ .branch then .next s
    else match branchPick p p.nextPhase p.branches with
      | none => .next s
      | some n => .next (modPlan s k fun p =>
          { p with nextPhase := n, branches := [], st := if n = 0xFFFF then .commit else .between })

end Sys2Proof.Machine
end

