-- ==== Sys2Proof/Machine/Tables.lean ====
section
/-! DEFINITION. LOAD_TABLE (R336): routing contexts (R178), versioned regions (R212), route banks (R360), the peer
directory (R363), close groups (R366) and reduction windows (R370); and how a ring command is held. -/

namespace Sys2Proof.Machine

/-- The running plans. -/
def plans (s : State) : List PlanRun := [s.seq.train, s.seq.eval].filterMap id

/-! ### One LOAD_TABLE -/

def ltAddr (o : Bytes) : Nat := fld o 0 8
def ltKind (o : Bytes) : Nat := fld o 8 1
def ltBank (o : Bytes) : Nat := fld o 9 1
def ltFirst (o : Bytes) : Nat := fld o 12 4
def ltCount (o : Bytes) : Nat := fld o 16 4

/-- Records and bytes of a record of a KIND; `none` for one that does not exist. -/
def tableShape (kind : Nat) : Option (Nat × Nat) :=
  match kind with
  | 0x10 => some (256, 64)
  | 0x20 => some (256, 32)
  | 0x30 => some (65536, 2)
  | 0x31 => some (65536, 16)
  | 0x32 => some (64, 32)
  | 0x33 => some (64, 32)
  | _ => none

/-- The operands name records of the table (R336). -/
def ltOk (o : Bytes) : Bool :=
  match tableShape (ltKind o) with
  | none => false
  | some (n, _) =>
    ltAddr o % 64 == 0 && (if ltKind o = 0x30 then decide (ltBank o ≤ 3) else ltBank o == 0) && ltCount o != 0
      && decide (ltFirst o + ltCount o ≤ n)

/-- Record numbers of the command. -/
def ltNums (o : Bytes) : List Nat := (upTo (ltCount o)).map (ltFirst o + ·)

/-- A load of one kind: checked, held while `held` says so, fetched, checked by record, and loaded. -/
def loadRow (s : State) (iid kind : Nat) (held : State → Issued → Bool) (status : State → Issued → List (Nat × Bytes) → Nat)
    (load : State → Issued → List (Nat × Bytes) → State) : State :=
  match getIssued s iid with
  | none => s
  | some c =>
    if c.op ≠ 0x0050 || (ltKind c.ops ≠ kind && (tableShape (ltKind c.ops)).isSome) then s
    else if !ltOk c.ops then complete s iid stBadDescriptor
    else if held s c || olderHeld s iid [0x0050] then holdCmd s iid
    else
      let len := match tableShape kind with | some q => q.2 | none => 0
      match hostRead (unholdCmd s iid) c.world (.cmd iid) (ltAddr c.ops) (len * ltCount c.ops) with
      | (s, .wait) => s
      | (s, .fail st) => complete s iid st
      | (s, .ok bs) =>
        let rs := (ltNums c.ops).zip (entries bs 0 (ltCount c.ops) len)
        if status s c rs ≠ stOk then complete s iid (status s c rs) else complete (load s c rs) iid stOk

/-- The secure world's records can be loaded by it alone (R178). -/
def worldRule (c : Issued) (secure : Bool) : Nat := failIf (c.world == .ns && secure) stAccessDenied

/-! ### Routing contexts (R178) -/

def contextStatus (s : State) (c : Issued) (rs : List (Nat × Bytes)) : Nat :=
  worst [failIf (rs.any fun r => (parseCtx r.2).2) stBadDescriptor,
    worldRule c (rs.any fun r => (parseCtx r.2).1.world == .s || (getCtx s r.1).world == .s)]

def loadContexts (s : State) (_ : Issued) (rs : List (Nat × Bytes)) : State :=
  rs.foldl (fun s r => setTkr s fun t => { t with ctxs := mapSet (fun _ => {}) t.ctxs r.1 (parseCtx r.2).1 }) s

/-- A table load of KIND 0x10. -/
def contextsRow (s : State) (iid : Nat) : State :=
  loadRow s iid 0x10 (fun s c => (plans s).any fun p => (ltNums c.ops).any fun n => p.nCtxs.contains n) contextStatus
    loadContexts

/-- LOAD_ROUTING_CONTEXTS. -/
def execLoadRoutingContexts (iid : Nat) (s : State) : Host.Outcome State Fault Refusal := .next (contextsRow s iid)

/-! ### Versioned regions (R212) -/

/-- A region record; the flag says that a field is reserved or out of range. -/
def parseRegion (s : State) (b : Bytes) : Region × Bool :=
  let f := fld b 20 1
  let r : Region :=
    { base0 := fld b 0 8, base1 := fld b 8 8, size := fld b 16 4, valid := bit f 0, world := worldOf (bit f 2),
      initV := fld b 24 8, v0 := some (fld b 24 8), frozen := bit f 1 }
  let out := fun (a : Nat) => a % 65536 != 0 || decide (a < 0x4000000) || decide (dramLimit s < a + 65536 * r.size)
  (r, f / 8 != 0 || !zeros b 21 3 || r.size == 0 || decide (4194304 < r.size) || out r.base0 || out r.base1)

/-- The two copies of a region. -/
def regionCopies (r : Region) : List (Nat × Nat) :=
  [(r.base0, r.base0 + 65536 * r.size), (r.base1, r.base1 + 65536 * r.size)]

/-- Copies of valid regions after the load. -/
def copiesAfter (s : State) (rs : List (Nat × Bytes)) : List (Nat × Nat) :=
  let kept := (s.seq.regions.filter fun q => q.2.valid && !(rs.map Prod.fst).contains q.1).map Prod.snd
  let new := (rs.map fun r => (parseRegion s r.2).1).filter fun r => r.valid
  (kept ++ new).flatMap regionCopies

def regionsStatus (s : State) (c : Issued) (rs : List (Nat × Bytes)) : Nat :=
  worst [failIf ((rs.any fun r => (parseRegion s r.2).2) || !allPairs (fun x y => !overlaps x y) (copiesAfter s rs)) stBadDescriptor,
    worldRule c (rs.any fun r => (parseRegion s r.2).1.world == .s || (getRegion s r.1).world == .s)]

/-- A region's bit of SEQ_VFROZEN takes the record's FROZEN flag (R225). -/
def setFrozenBit (s : State) (n : Nat) (b : Bool) : State :=
  let s' := bankSet s .seqVfrozen n b
  match waitingVal s' .seqVfrozen (n / 64) 0 with
  | some v => setWaiting s' .seqVfrozen (n / 64) 0 (setBit v (n % 64) b)
  | none => s'

def loadRegions (s : State) (_ : Issued) (rs : List (Nat × Bytes)) : State :=
  rs.foldl (fun s r =>
    let g := (parseRegion s r.2).1
    setFrozenBit (setRegion s r.1 { g with frozen := false }) r.1 g.frozen) s

/-- A running plan uses the region: it names it, or pins it (R212, R215). -/
def regionInUse (s : State) (n : Nat) : Bool :=
  (plans s).any fun p => p.nRegions.contains n || p.pins.any fun x => x.2.1 == n

/-- A table load of KIND 0x20. -/
def regionsRow (s : State) (iid : Nat) : State :=
  loadRow s iid 0x20 (fun s c => (ltNums c.ops).any (regionInUse s)) regionsStatus loadRegions

/-- LOAD_VERSIONED_REGIONS. -/
def execLoadVersionedRegions (iid : Nat) (s : State) : Host.Outcome State Fault Refusal := .next (regionsRow s iid)

/-! ### Route banks (R360) -/

/-- Bits [13:12] and [7:4] of a route entry are reserved. -/
def routesStatus (_ : State) (_ : Issued) (rs : List (Nat × Bytes)) : Nat :=
  failIf (rs.any fun r => Nat.land (fld r.2 0 2) 0x30F0 != 0) stBadDescriptor

def loadRoutes (s : State) (c : Issued) (rs : List (Nat × Bytes)) : State :=
  { s with fab := { s.fab with
    routes := rs.foldl (fun m r => mapSet (fun _ => 0) m (65536 * ltBank c.ops + r.1) (fld r.2 0 2)) s.fab.routes } }

/-- A table load of KIND 0x30. -/
def routesRow (s : State) (iid : Nat) : State :=
  loadRow s iid 0x30 (fun s c => (plans s).any fun p => p.nBanks.contains (ltBank c.ops)) routesStatus loadRoutes

/-- LOAD_ROUTE_BANK: held while a running plan names the bank (R247). -/
def execLoadRouteBank (iid : Nat) (s : State) : Host.Outcome State Fault Refusal := .next (routesRow s iid)

/-! ### The peer directory (R363) -/

/-- ID equals the entry number, and the reserved bits are 0. -/
def peersStatus (_ : State) (_ : Issued) (rs : List (Nat × Bytes)) : Nat :=
  failIf (rs.any fun r => fld r.2 0 2 != r.1 || fld r.2 2 1 / 16 != 0 || !zeros r.2 3 1 || !zeros r.2 12 4) stBadDescriptor

/-- ID, VALID and TWIN are taken; ATTESTED, UNREACHABLE and IDENTITY are cleared. -/
def loadPeers (s : State) (_ : Issued) (rs : List (Nat × Bytes)) : State :=
  rs.foldl (fun s r =>
    let f := fld r.2 2 1
    let s := if r.1 = s.plat.attPeer then { s with plat := { s.plat with reloaded := true } } else s
    setMem s (peerAddr r.1) (natLe 2 r.1 ++ natLe 1 (b2n (bit f 0) + 4 * b2n (bit f 2)) ++ zeroBytes 13)) s

/-- A table load of KIND 0x31. -/
def peersRow (s : State) (iid : Nat) : State :=
  loadRow s iid 0x31 (fun _ _ => false) peersStatus loadPeers

/-- LOAD_PEER_ENTRIES. -/
def execLoadPeerEntries (iid : Nat) (s : State) : Host.Outcome State Fault Refusal := .next (peersRow s iid)

/-! ### Close groups (R366) -/

def parseGroup (b : Bytes) : CloseGroup :=
  let f := fld b 2 1
  { n := fld b 0 1, rank := fld b 1 1, valid := bit f 0, world := worldOf (bit f 1),
    members := (upTo 8).map fun i => fld b (4 + 2 * i) 2, bundles := (upTo 8).map fun i => fld b (20 + i) 1 }

/-- A close-group record breaks a condition of R366. -/
def groupBad (s : State) (b : Bytes) : Bool :=
  let g := parseGroup b
  let ms := g.members.take g.n
  fld b 2 1 / 4 != 0 || !zeros b 3 1 || !zeros b 28 4 || !(g.n == 2 || g.n == 4 || g.n == 8) || decide (g.n ≤ g.rank)
    || g.members.getD g.rank 0x10000 != s.rd .qxfDevid % 65536 || ms.eraseDups.length != ms.length
    || ((upTo 8).any fun i =>
         if i = g.rank || g.n ≤ i then g.bundles.getD i 0 != 0xFF || (decide (g.n ≤ i) && g.members.getD i 0 != 0)
         else decide (15 < g.bundles.getD i 16))

def groupsLoadStatus (s : State) (c : Issued) (rs : List (Nat × Bytes)) : Nat :=
  worst [failIf (rs.any fun r => groupBad s r.2) stBadDescriptor,
    worldRule c (rs.any fun r => (parseGroup r.2).world == .s || (groupOf s r.1).world == .s)]

def loadGroups (s : State) (_ : Issued) (rs : List (Nat × Bytes)) : State :=
  { s with fab := { s.fab with groups := rs.foldl (fun m r => mapSet (fun _ => {}) m r.1 (parseGroup r.2)) s.fab.groups } }

/-- A table load of KIND 0x32. -/
def groupsRow (s : State) (iid : Nat) : State :=
  loadRow s iid 0x32 (fun s c => (plans s).any fun p => (ltNums c.ops).any fun n => p.nGroups.contains n)
    groupsLoadStatus loadGroups

/-- LOAD_CLOSE_GROUPS. -/
def execLoadCloseGroups (iid : Nat) (s : State) : Host.Outcome State Fault Refusal := .next (groupsRow s iid)

/-! ### Reduction windows (R370) -/

def parseWindow (b : Bytes) : Window :=
  let f := fld b 13 1
  { base := fld b 0 8, size := fld b 8 4, mode := fld b 12 1, valid := bit f 0, world := worldOf (bit f 1),
    ncontrib := fld b 14 2, prev := fld b 16 2, next := fld b 18 2, counts := fld b 20 8 }

/-- A window record breaks a condition of R370. -/
def windowBad (s : State) (b : Bytes) : Bool :=
  let w := parseWindow b
  let blocks := 64 * (4096 * w.size / (if w.mode ≤ 2 then winSuper w else 1))
  fld b 13 1 / 4 != 0 || !zeros b 28 4 || w.base % 4096 != 0 || decide (2 ^ 48 ≤ w.base) || decide (2 < w.mode) || w.ncontrib == 0
    || (w.mode == 0 && (w.prev != 0 || w.next != 0))
    || (w.mode != 0 && w.ncontrib != (if some w.prev == ownId s then 1 else 2))
    || (w.valid && footStatus s (w.counts, w.counts + 2 * blocks) != stOk)
    || (w.valid && decide (0x400000000000 ≤ w.counts))

/-- Windows after the load. -/
def windowsAfter (s : State) (rs : List (Nat × Bytes)) : List (Nat × Nat) :=
  let kept := (s.fab.windows.filter fun q => q.2.valid && !(rs.map Prod.fst).contains q.1).map Prod.snd
  let new := (rs.map fun r => parseWindow r.2).filter fun w => w.valid
  (kept ++ new).map fun w => (w.base, w.base + 4096 * w.size)

def windowsStatus (s : State) (c : Issued) (rs : List (Nat × Bytes)) : Nat :=
  worst [failIf ((rs.any fun r => windowBad s r.2) || !allPairs (fun x y => !overlaps x y) (windowsAfter s rs)) stBadDescriptor,
    worldRule c (rs.any fun r => (parseWindow r.2).world == .s || (mapGet (fun _ => {}) s.fab.windows r.1).world == .s)]

def loadWindows (s : State) (_ : Issued) (rs : List (Nat × Bytes)) : State :=
  { s with fab := { s.fab with windows := rs.foldl (fun m r => mapSet (fun _ => {}) m r.1 (parseWindow r.2)) s.fab.windows } }

/-- A table load of KIND 0x33. -/
def windowsRow (s : State) (iid : Nat) : State :=
  loadRow s iid 0x33 (fun _ _ => false) windowsStatus loadWindows

/-- LOAD_REDUCTION_WINDOWS. -/
def execLoadReductionWindows (iid : Nat) (s : State) : Host.Outcome State Fault Refusal := .next (windowsRow s iid)

end Sys2Proof.Machine
end

