-- ==== Sys2Proof/Machine/Fence.lean ====
section
/-! DEFINITION. Fencing, quarantine and self-test (R304, R309, R311, R496 to R499). -/

namespace Sys2Proof.Machine

/-! ### Operands -/

def fnRectOk (o : Bytes) : Bool := let r := fnRect o; rectOk r.1 r.2.1 r.2.2.1 r.2.2.2
def fnRouter (o : Bytes) : Bool := bit (fld o 4 1) 0

/-! ### FENCE_TILES and UNFENCE_TILES -/

/-- The fence itself: each tile is quiesced by block reset and isolated. -/
def fenceNow (s : State) (o : Bytes) : State :=
  setFences ((fnTiles o).foldl tileReset (resetCause s 6 3 0)) (fnTiles o) (fnRouter o) true

/-- The unfence itself. -/
def unfenceNow (s : State) (o : Bytes) : State :=
  setFences ((fnTiles o).foldl tileRelease (resetCause s 6 3 0)) (fnTiles o) (fnRouter o) false

/-- A running ring copy is executed by a tile of the rectangle: the tile has requests in flight (R304, R468). -/
def fenceBusy (s : State) (o : Bytes) : Bool := s.seq.copies.any fun c => c.running && (fnTiles o).any c.tiles.contains

/-- QUIESCE_TIMEOUT in ns: 0 is treated as 1 µs, and values above 100,000 as that (R468). -/
def quiesceLimit (s : State) : Nat := 1000 * min 100000 (max 1 (bits (s.rd .rscCfg) 23 0))

/-- The quiesce has begun and its limit has passed. -/
def quiesceOver (s : State) (c : Issued) : Bool := c.stage != 0 && decide (c.stage - 1 + quiesceLimit s ≤ s.time)

/-- The quiesce begins: `stage` holds its time + 1. -/
def quiesceStart (s : State) (iid : Nat) : State :=
  modIssued (unholdCmd s iid) iid fun c => { c with stage := if c.stage = 0 then s.time + 1 else c.stage }

/-- A FENCE_TILES or UNFENCE_TILES over a rectangle; `busy`: a quiesce waits for requests in flight. -/
def fenceRow (s : State) (iid op : Nat) (held busy : Bool) (act : State → Bytes → State) : State :=
  match getIssued s iid with
  | none => s
  | some c =>
    if c.op ≠ op || fnQuar c.ops then s
    else if !fnRectOk c.ops then complete s iid stOutOfRange
    else if held || (fnTiles c.ops).any (underTest s) || olderHeld s iid tileOps then holdCmd s iid
    else if busy && fenceBusy s c.ops && !quiesceOver s c then quiesceStart s iid
    else complete (act (unholdCmd s iid) c.ops) iid stOk

/-- FENCE_TILES: held while a RUN_PLAN runs; then the tiles quiesce. -/
def execFenceTiles (iid : Nat) (s : State) : Host.Outcome State Fault Refusal :=
  .next (fenceRow s iid 0x0040 (planRuns s) true fenceNow)

/-- UNFENCE_TILES. -/
def execUnfenceTiles (iid : Nat) (s : State) : Host.Outcome State Fault Refusal :=
  .next (fenceRow s iid 0x0041 false false unfenceNow)

/-! ### Quarantine (R309) -/

/-- DIE_QUARANTINE: not held by a running plan, nor by a command that one holds; it takes effect at the next phase boundary. -/
def execDieQuarantine (iid : Nat) (s : State) : Host.Outcome State Fault Refusal :=
  .next (quarRow s iid 0x0040 (!phaseFree s) false quarantine)

/-- DIE_UNQUARANTINE: held while a RUN_PLAN runs. -/
def execDieUnquarantine (iid : Nat) (s : State) : Host.Outcome State Fault Refusal :=
  .next (quarRow s iid 0x0041 (planRuns s) (olderHeld s iid tileOps) unquarantine)

/-! ### SELF_TEST (R496 to R499) -/

def tsTests (o : Bytes) : Nat := fld o 4 1
def tsWait (o : Bytes) : Bool := bit (fld o 5 1) 0
def tsKeep (o : Bytes) : Bool := bit (fld o 5 1) 1

/-- A test fence begins: the tile is quiesced and ungated. -/
def testFence (s : State) (t : Nat) : State := (ungateTile (tileReset s t) t).wr .tilBist t 0 (2 * 2 ^ 30)

/-- The command is accepted: every tile waits for its boundary, or on a quiet part is test-fenced at once. -/
def testAccept (s : State) (o : Bytes) : State :=
  if quiet s then (fnTiles o).foldl testFence s else (fnTiles o).foldl (fun s t => s.wr .tilBist t 0 (2 ^ 30)) s

/-- A running plan names a tile of the command. -/
def testNamed (s : State) (o : Bytes) : Bool :=
  let hit := fun (k : PlanKind) => match getPlan s k with
    | none => false
    | some p => let l := planTiles s k p; (fnTiles o).any l.contains
  hit .training || hit .eval

/-- SELF_TEST. -/
def execSelfTest (iid : Nat) (s : State) : Host.Outcome State Fault Refusal :=
  match getIssued s iid with
  | none => .next s
  | some c =>
    if c.op ≠ 0x0042 || c.st == .running then .next s
    else if tsTests c.ops = 0 then .next (complete s iid stBadDescriptor)
    else if !fnRectOk c.ops then .next (complete s iid stOutOfRange)
    else if (fnTiles c.ops).any fun t => tileWorld s t != c.world then .next (complete s iid stAccessDenied)
    else if (fnTiles c.ops).any (underTest s) || olderHeld s iid tileOps then .next (holdCmd s iid)
    else if testNamed s c.ops then .next (if tsWait c.ops then holdCmd s iid else complete s iid stBusySelftest)
    else .next (testAccept (unholdCmd s iid) c.ops)

/-- TEST_FENCE_START: the tile's die is at a phase boundary. -/
def execTestFenceStart (t : Tile) (s : State) : Host.Outcome State Fault Refusal :=
  let ended := match curPhase s with | none => true | some c => !c.f.left.contains (tileDie t.val)
  if s.rdf .tilBist t 0 31 30 = 1 && ended then .next (testFence s t) else .next s

/-- A tile's result: TIL_BIST, and its fence or release. -/
def testResult (s : State) (t : Nat) (c : Issued) (sf af lf layer : Bool) (g : Nat) : State :=
  let pass := !sf && !af && !lf
  let v := 3 * 2 ^ 30 + b2n pass * 2 ^ 29 + b2n lf * 2 ^ 26 + b2n af * 2 ^ 25 + b2n sf * 2 ^ 24
    + (if sf then b2n layer * 2 ^ 17 + g else 0)
  let s := tileRelease (s.wr .tilBist t 0 v) t
  if pass then (if tsKeep c.ops then bankSet s .mshFenceTile t true else s)
  else modIssued (bankSet s .mshFenceTile t true) c.iid fun c => { c with failed := true }

/-- TILE_TEST_END: the requested tests of a tile have run. -/
def execTileTestEnd (t : Tile) (sramFail accFail logicFail layer : Bool) (granule : Fin 131072) (s : State) :
    Host.Outcome State Fault Refusal :=
  if !testFenced s t then .next s
  else match testCmd s t with
    | none => .next s
    | some c =>
      let on := fun i => bit (tsTests c.ops) i
      .next (testEnd (testResult s t c (sramFail && on 0) (accFail && on 1) (logicFail && on 2) layer granule) c)

end Sys2Proof.Machine
end

