-- ==== Sys2Proof/Machine/Maint.lean ====
section
/-! DEFINITION. Memory maintenance: scrubbing (R271, R281), refresh, calibration and retraining (R275, R280), and the
evacuation of a channel (R282 to R285). -/

namespace Sys2Proof.Machine

/-! ### Scrubbing -/

/-- The running pass of a scrubber: when it began, and its next granule or burst; a pass that has not begun is at 0. -/
def scrubAt (s : State) (key : Nat) : Nat × Nat := mapGet (fun _ => (0, 0)) s.scrubs key

/-- A pass runs, or one may begin: a period of 0 takes effect at the next pass (R291). -/
def scrubOn (s : State) (key period : Nat) : Bool := period != 0 || (scrubAt s key).2 != 0

/-- The scrubber has read number n of its pass: the pass begins with 0, and is measured and over with the last. -/
def scrubTime (s : State) (key n : Nat) (last : Bool) (hi lo unit : Nat) : State :=
  let t0 := if n = 0 then s.time else (scrubAt s key).1
  if !last then { s with scrubs := mapIns s.scrubs key (t0, n + 1) }
  else
    let m := (s.time - t0) / unit
    let s := { s with scrubs := mapDel s.scrubs key }
    if s.rdf .mctScrubStat 0 0 hi lo < m then s.wrf .mctScrubStat 0 0 hi lo (min (2 ^ 32 - 1) m) else s

/-- SRAM_SCRUB_READ: granule g of a tile, where its scrubber's pass has come to; a tile that has been powered again starts at
granule 0. Errors found fail no step (R271, R390; log 159). -/
def execSramScrubRead (t : Tile) (g : Fin 196608) (s : State) : Host.Outcome State Fault Refusal :=
  if !scrubOn s t (s.rdf .mctScrub 0 0 31 16) || tileGated s t || (scrubAt s t).2 != g.val then .next s
  else
    let s := (rawRead s .other (sramAddr t (32 * g.val)) 32).1
    .next (scrubTime s t g (g.val == 196607) 63 32 1000000)

/-- Data bursts of a channel (R277). -/
def dataBursts : Nat := (if Config.half then 15 * 2 ^ 28 else 15 * 2 ^ 29) / 64

/-- Flipped words that lie in a burst of a channel. -/
def burstFlips (s : State) (c b : Nat) : List Nat :=
  (errWords s).filter fun a =>
    (match areaOf s a with | .dram => true | .sys => true | _ => false)
      && (let p := physPlace s a; p.1 == c && (4096 * p.2 + a % 4096) / 64 == b)

/-- DRAM_PATROL_READ: the data or check burst that the channel's pass has come to (R281; log 159). -/
def execDramPatrolRead (c : ChanNo) (burst : Nat) (s : State) : Host.Outcome State Fault Refusal :=
  if !scrubOn s (1536 + c.val) (s.rdf .mctScrub 0 0 15 8) || retired s c || (scrubAt s (1536 + c.val)).2 != burst
      || dataBursts + dataBursts / 16 ≤ burst then .next s
  else
    let s := eccReadAll .other (burstFlips s c burst) s
    .next (scrubTime s (1536 + c.val) burst (burst + 1 == dataBursts + dataBursts / 16) 31 0 60000000000)

/-! ### Refresh, calibration and retraining (R275, R280) -/

/-- DRAM_REFRESH: the MR4 reading is kept. -/
def execDramRefresh (c : ChanNo) (_bank : Fin 16) (mr4 : Fin 32) (s : State) : Host.Outcome State Fault Refusal :=
  .next (s.wrf .mctChstat c 0 28 24 mr4)

/-- ZQ_LATCH: a stall only. -/
def execZqLatch (_c : ChanNo) (s : State) : Host.Outcome State Fault Refusal := .next s

/-- Channel states (R292). -/
def chState (s : State) (c : Nat) : Nat := s.rdf .mctChstat c 0 31 29
def evacuating (s : State) (c : Nat) : Bool := s.plat.evac == some c

/-- A channel trains (R484). -/
def chanTrains (s : State) (c : Nat) : State := trainingTakes (s.wrf .mctChstat c 0 31 29 1) c

/-- A full retrain begins, unless the channel retrains, evacuates or is retired: then it is ignored and counted. -/
def retrainStart (s : State) (c : Nat) : State × Bool :=
  if chState s c = 1 || evacuating s c || retired s c then (countDropped s (c / 32), false)
  else (chanTrains s c, true)

/-- CHANNEL_RETRAIN. -/
def execChannelRetrain (c : ChanNo) (s : State) : Host.Outcome State Fault Refusal := .next (retrainStart s c).1

/-- WCK_TRACKING: out of its window, the channel retrains. -/
def execWckTracking (c : ChanNo) (inWindow : Bool) (s : State) : Host.Outcome State Fault Refusal :=
  if inWindow then .next s else .next (retrainStart s c).1

/-- A write of MCT_RETRAIN with GO = 1 (R290). -/
def retrainGo (s : State) : State :=
  let c := s.rdf .mctRetrain 0 0 14 8
  let r := retrainStart s c
  if r.2 then modPlat (r.1.wrf .mctRetrain 0 0 31 31 1) fun p => { p with retrains := p.retrains ++ [c] } else r.1

/-- A requested retrain of a channel has ended; BUSY shows whether another runs. -/
def retrainEnd (s : State) (c : Nat) : State :=
  let l := s.plat.retrains.filter (· != c)
  (modPlat s fun p => { p with retrains := l }).wrf .mctRetrain 0 0 31 31 (b2n !l.isEmpty)

/-- CHANNEL_RETRAIN_DONE. -/
def execChannelRetrainDone (c : ChanNo) (s : State) : Host.Outcome State Fault Refusal :=
  if chState s c ≠ 1 then .next s
  else
    let x := s.rd .mctChstat c
    let s := s.wr .mctChstat c 0 (setBits (setBits x 31 29 0) 15 0 (satAdd 65535 (bits x 15 0) 1))
    if s.plat.retrains.contains c.val then .next (retrainEnd s c) else .next s

/-- A reset of the MCT block brings a channel up: its training is over, and a requested one has ended (R290, R467). -/
def trainReset (s : State) (c : Nat) : State :=
  let s := if chState s c = 1 then s.wrf .mctChstat c 0 31 29 0 else s
  if s.plat.retrains.contains c then retrainEnd s c else s

/-- A rate change retrains every channel in service: those of a controller as it passes its marker (R276). -/
def rateMoves (s : State) (i : Nat) : Bool :=
  bits (blockVal s (.mct (Fin.ofNat 32 i)) .mctCfg 0 0) 31 30 != s.rdf .mctCfg 0 0 31 30

def rateTrain (s : State) (i : Nat) : State :=
  if rateMoves s i then
    (upTo 4).foldl (fun s n => if retired s (4 * i + n) then s else chanTrains s (4 * i + n)) s
  else s

/-! ### Evacuation (R284) -/

/-- The bound of R282 for k retired channels, in MiB. -/
def limitBound (k : Nat) : Nat := (if Config.half then 3840 else 7680) * (128 - k)

def retiredCount (s : State) : Nat := ((upTo 128).filter (retired s)).length

/-- Local granules of a channel below the limit. -/
def evacTotal (s : State) : Nat := 2 * s.rdf .mctLimit 0 0 19 0

/-- An evacuation that has moved everything ends. -/
def evacCheck (s : State) (c : Nat) : State :=
  let s := s.wr .mctEvacProg 0 0 (min (2 ^ 21 - 1) (movedOf s c))
  if evacTotal s ≤ movedOf s c then
    modPlat (s.wr .mctEvac 0 0 (setBit (setBit (s.rd .mctEvac) 31 false) 30 true)) fun p => { p with evac := none }
  else s

/-- A GO: refused with its ERR, or the channel's evacuation starts or resumes. -/
def evacGo (s : State) : State :=
  let c := s.rdf .mctEvac 0 0 14 8
  let err := fun (e : Nat) => s.wr .mctEvac 0 0 (setBits (s.rd .mctEvac) 29 27 e)
  if limitBound (retiredCount s + 1) < s.rdf .mctLimit 0 0 19 0 then err 1
  else if retired s c || decide (8 ≤ retiredCount s) || (!(s.evacs.any fun q => q.1 == c) && decide (8 ≤ s.evacs.length)) then err 2
  else
    let x := s.rd .mctEvac
    let s := s.wr .mctEvac 0 0 (setBits (setBit (setBit x 31 true) 30 false) 29 27 0)
    let s := if s.evacs.any fun q => q.1 == c then s else { s with evacs := s.evacs ++ [(c, 0)] }
    evacCheck (modPlat s fun p => { p with evac := some c }) c

/-- A write of MCT_EVAC (R7, R289): SHARE and CHANNEL are stored, DONE is W1C, and GO is ignored and counted while BUSY. -/
def evacWrite (s : State) (v : Nat) : State :=
  let x := s.rd .mctEvac
  let y := setBits (setBits (if bit v 30 then setBit x 30 false else x) 23 16 (bits v 23 16)) 14 8 (bits v 14 8)
  let s := s.wr .mctEvac 0 0 y
  if !bit v 0 then s else if bit x 31 then countDropped s 0 else evacGo s

/-- EVACUATION_START: an MCT_EVAC write with GO = 1. -/
def execEvacuationStart (_w : World) (val : W32) (s : State) : Host.Outcome State Fault Refusal :=
  if bit val.toNat 0 then .next (evacWrite s val.toNat) else .next s

/-- What one granule's move writes: the bitmap bit, and the granule's bytes over what its target in the relocation band held
(R282). The granule keeps its device address. -/
def moveWrites (s : State) (m i a : Nat) (dest : Nat × Nat) : State :=
  let s := setMem s m [BitVec.ofNat 8 (setBit (mapGet memD s.mem m).toNat (i % 8) true)]
  let t := granAddr dest.1 dest.2
  let s := setMem s t (storedBytes s a 4096)
  { s with flips := mapClearRange s.flips t (t + 4096) }

/-- One granule moves to its target: read with its check words, written there, and its bitmap bit set. -/
def moveGranule (s : State) (c : Nat) : State :=
  let i := movedOf s c
  let slot := s.evacs.findIdx fun q => q.1 == c
  let a := granAddr c i
  let s := eccReadAll .other (flippedIn s a 4096) s
  let m := 0x1E00000 + slot * 245760 + i / 8
  let s := { s with evacs := updWhere (fun q => q.1 == c) (fun q => (q.1, q.2 + 1)) s.evacs }
  evacCheck (moveWrites s m i a (physPlace s a)) c

/-- EVAC_GRANULE_MOVE. -/
def execEvacGranuleMove (s : State) : Host.Outcome State Fault Refusal :=
  match s.plat.evac with
  | some c => .next (moveGranule s c)
  | none => .next s

/-- A reset of the MCT block aborts an evacuation with ERR = 3 and keeps the bitmap. -/
def evacAbort (s : State) : State :=
  if s.plat.evac.isSome then
    modPlat (s.wr .mctEvac 0 0 (setBits (setBit (s.rd .mctEvac) 31 false) 29 27 3)) fun p => { p with evac := none }
  else s

end Sys2Proof.Machine
end

