-- ==== Sys2Proof/Machine/Mesh.lean ====
section
/-! DEFINITION. The on-die mesh (R293 to R307, R312 to R315): routes and detours, fenced routers and tiles, multicast, and
the die bridges. -/

namespace Sys2Proof.Machine

/-- MSH_ERR captures a failure of a packet. -/
def meshErrSet (s : State) (reason tile : Nat) (p : MeshPacket) : State := meshErrAt s reason tile p.src.toNat p.dest.toNat

/-- The work a packet of endpoint `src` belongs to: the running phase's step, else the ring copy that its tile executes. -/
def meshCtx (s : State) (src : Nat) : Ctx :=
  match curPhase s with
  | some c => .plan c.k
  | none => match s.seq.copies.find? fun c => c.running && c.tiles.contains src with
    | some c => .cmd c.iid
    | none => .other

/-! ### Headers (R294, R295) -/

/-- The target mask before the payload of a MASKED packet. -/
def maskOf (l : List Bool) : Bytes :=
  (upTo (cdiv l.length 8)).map fun i => BitVec.ofNat 8 ((upTo 8).map fun j => b2n (l.getD (8 * i + j) false) * 2 ^ j).sum

/-- Mask and payload. -/
def meshBody (p : MeshPacket) : Bytes := (if bit p.mflags.toNat 0 then maskOf p.mask else []) ++ p.payload

/-- Header bytes 0 to 27. -/
def meshHead (p : MeshPacket) : Bytes :=
  natLe 2 p.dest.toNat ++ natLe 2 p.src.toNat ++ [p.typ, p.ctl] ++ natLe 2 p.payload.length ++ natLe 6 p.addr.toNat ++ natLe 2 p.key.toNat
    ++ [p.x0, p.y0, p.w, p.h, p.mflags] ++ natLe 7 p.rsvd.toNat

/-- A packet with its header parity. -/
def meshSeal (p : MeshPacket) : MeshPacket := { p with hpar := BitVec.ofNat 32 (xorWords 7 (meshHead p)) }

/-- The header's parity holds. -/
def meshParity (p : MeshPacket) : Bool := xorWords 7 (meshHead p) == p.hpar.toNat

/-- The virtual channel of a packet: that of its type; a CLOSE's is as it comes, that of the packets it closes (R295; the numbers
in the rule's order, log 172). -/
def vcOf (typ ctl : Nat) : Nat :=
  match typ with
  | 0x01 | 0x02 => 0
  | 0x03 => 1
  | 0x04 | 0x05 => 2
  | 0x06 | 0x07 => 3
  | _ => bits ctl 7 6

def meshVc (p : MeshPacket) : Nat := vcOf p.typ.toNat p.ctl.toNat

/-- A packet on network `net`. -/
def meshOn (net : Bool) (p : MeshPacket) : MeshPacket :=
  meshSeal { p with ctl := BitVec.ofNat 8 (setBits (setBit p.ctl.toNat 4 net) 7 6 (meshVc p)) }

/-- Flits of a packet: header, mask and payload in pieces of 64 B (R294). -/
def meshFlits (p : MeshPacket) : List Bytes :=
  let b := meshHead p ++ natLe 4 p.hpar.toNat ++ meshBody p
  (chunk 64 (b.length / 64 + 1) b).map fun x => x ++ zeroBytes (64 - x.length)

/-! ### Counting -/

/-- The bridge link that two neighbouring routers of different dies share, and its direction: forward runs toward the
higher coordinate (R12). -/
def bridgeOf (a b : Nat) : Option (Nat × Bool) :=
  if tileDie a = tileDie b then none
  else if tileY a = tileY b then some (tileY a, decide (tileX b < tileX a))
  else some (32 + tileX a, decide (tileY b < tileY a))

def bridgeKey (link : Nat) (back : Bool) : Nat := 2 * link + b2n back
def getBridge (s : State) (k : Nat) : Bridge := mapGet (fun _ => {}) s.bridges k
def setBridge (s : State) (k : Nat) (b : Bridge) : State := { s with bridges := mapSet (fun _ => {}) s.bridges k b }

/-- The receiving die of a bridge link's direction. -/
def bridgeDie (i : Nat) (back : Bool) : Nat :=
  if i < 16 then (if back then 0 else 1)
  else if i < 32 then (if back then 2 else 3)
  else if i < 56 then (if back then 0 else 2)
  else (if back then 1 else 3)

/-- The injector of a bridge link's direction, and its LINK there (R12, R375). -/
def bridgeInj (k : Nat) : Nat × Nat :=
  let i := k / 2
  if i < 16 then (65, i) else if i < 32 then (66, i - 16) else if i < 56 then (67, i - 32) else (68, i - 56)

/-- A flit of 64 B crosses with its SEQ and CRC-16, through the injector that selects the link: the bytes that cross, if it is sent.
A bit flipped before the CRC is formed fails end-to-end parity; a reordering becomes due (R303, R376; log 176). -/
def bridgeFlit (s : State) (ctx : Ctx) (k seq : Nat) (payload : Bytes) : State × Option Bytes :=
  let q := bridgeInj k
  let c := s.rd .fijCtl q.1
  let body := payload ++ natLe 1 seq
  let whole := body ++ natLe 2 (crc16 body)
  if bits c 59 55 ≠ q.2 then (s, some whole)
  else
    let r := injected s q.1 (bridgeDie (k / 2) (k % 2 = 0)) 0 64 (fun b => natLe 2 (crc16 b)) body
    let s := if bits c 62 61 = 1 && !bit c 60 && r.2.1 != some whole then dieEvent r.1 ctx 19 (bridgeDie (k / 2) (k % 2 = 1)) 1 else r.1
    (if r.2.2 && bit c 60 then setBridge s k { getBridge s k with swap := some none } else s, r.2.1)

/-- Send flits over a bridge link: they take sequence numbers, and the last 64 stay in the replay buffer (R303). -/
def bridgeSend (ctx : Ctx) (k : Nat) : List Bytes → State → State
  | [], s => s
  | d :: l, s =>
    let s := (bridgeFlit s ctx k (getBridge s k).txSeq d).1
    let b := getBridge s k
    let r := b.replay ++ [{ seq := b.txSeq, payload := d, ctx := ctx }]
    bridgeSend ctx k l (setBridge s k { b with txSeq := (b.txSeq + 1) % 256, replay := r.drop (r.length - 64) })

/-- A packet crosses a bridge link: where a swap is due, the first two of one source, destination and channel that follow each other
arrive out of order, which the receiver's order checker finds (R376). -/
def bridgePacket (ctx : Ctx) (k : Nat) (fl : List Bytes) (s : State) : State :=
  let b := getBridge s k
  let h := fl.headD []
  let pair := slice h 0 4 ++ natLe 1 (vcOf (fld h 4 1) (fld h 5 1))
  let s := match b.swap with
    | some (some q) => if q == pair then dieEvent (setBridge s k { b with swap := none }) ctx 37 (bridgeDie (k / 2) (k % 2 = 1)) 1
      else setBridge s k { b with swap := some (some pair) }
    | some none => setBridge s k { b with swap := some (some pair) }
    | none => s
  bridgeSend ctx k fl s

/-- A packet passes the routers of a path: flits are counted at each, and cross the bridges. -/
def passRouters (ctx : Ctx) (cnt : Nat) (fl : List Bytes) : List Nat → State → State
  | [], s => s
  | [r], s => cntAdd s .mshCnt (tileDie r) cnt fl.length
  | r :: q :: l, s =>
    let s := cntAdd s .mshCnt (tileDie r) cnt fl.length
    let s := match bridgeOf r q with
      | some (i, back) => bridgePacket ctx (bridgeKey i back) fl s
      | none => s
    passRouters ctx cnt fl (q :: l) s

/-- A packet is discarded at a router: class 33 (MESH_UNROUTABLE, R307) or 32 (FENCED_DROP, R305). -/
def meshDiscard (s : State) (ctx : Ctx) (cls reason tile : Nat) (p : MeshPacket) : State :=
  meshLost s ctx cls reason tile p.src.toNat p.dest.toNat 1

/-! ### In-network addition (R298, R299) -/

/-- Long partials of a RED_LP row piece: 512 B of values, 64 B of anchors, 16 B of state entries. -/
def pieceLps (bs : Bytes) : List Lp :=
  (upTo 32).map fun i =>
    let st := fld bs (576 + i / 2) 1 / (if i % 2 = 0 then 1 else 16) % 16
    { v := toSigned 128 (fld bs (16 * i) 16), anchor := toSigned 16 (fld bs (512 + 2 * i) 2), live := bit st 3, ovf := bit st 2,
      sp := spOfCode st }

/-- The row piece of 32 long partials. -/
def lpsPiece (l : List Lp) : Bytes :=
  let st := fun i => let x := accLp l i; b2n x.live * 8 + b2n x.ovf * 4 + spCode x.sp
  ((upTo 32).flatMap fun i => natLe 16 (ofSigned 128 (accLp l i).v)) ++ ((upTo 32).flatMap fun i => natLe 2 (ofSigned 16 (accLp l i).anchor))
    ++ (upTo 16).map fun i => BitVec.ofNat 8 (st (2 * i) + 16 * st (2 * i + 1))

/-- A 64-bit sum, saturated. -/
def i64Add (a b : Int) : Int × Bool :=
  let x := a + b
  if 2 ^ 63 ≤ x then (2 ^ 63 - 1, true) else if x < -(2 ^ 63) then (-(2 ^ 63), true) else (x, false)

/-- Two reduction packets added into one: the payload, anchor mismatches and overflows. -/
def redAdd (p q : MeshPacket) : Bytes × Nat × Nat :=
  if p.typ = 0x04 then
    let r := (upTo 32).map fun i => lpAdd (accLp (pieceLps p.payload) i) (accLp (pieceLps q.payload) i)
    (lpsPiece (r.map Prod.fst), (r.filter fun x => x.2.1).length, (r.filter fun x => x.2.2).length)
  else
    let r := (upTo 32).map fun i => i64Add (toSigned 64 (fld p.payload (8 * i) 8)) (toSigned 64 (fld q.payload (8 * i) 8))
    (r.flatMap fun x => natLe 8 (ofSigned 64 x.1), 0, (r.filter fun x => x.2).length)

/-- The packets may combine: of one kind, with equal DEST, ADDR and KEY. -/
def redMatch (p q : MeshPacket) : Bool :=
  (p.typ == 0x04 || p.typ == 0x05) && q.typ == p.typ && q.dest == p.dest && q.addr == p.addr && q.key == p.key

/-- The operations of the running phase whose partials travel as reduction packets: split-K parts of the dense operation, and
producers of the GME. A packet names neither, and an overflow in transit raises the anchors of both (R54, R104, R120; log 169). -/
def transitOps (s : State) (k : PlanKind) : List OpSel :=
  match (getPlan s k).bind PlanRun.phase with
  | some f => (if bit f.dense.flags 3 then [.dense] else []) ++ if f.gme.isSome then [.gme] else []
  | none => []

/-- A reduction packet meets, at a router's output port, the one sent just before it: both are added into one, in the place of the
first (R298, R299; log 37). -/
def redCombine (s : State) (ctx : Ctx) (tile : Nat) (p q : MeshPacket) : State :=
  let r := redAdd p q
  let s := cntAdd { s with out := s.out.dropLast ++ [.mesh p.dest.toNat (meshSeal { p with payload := r.1 })] } .mshCnt (tileDie tile) 2 1
  let s := if r.2.1 = 0 then s else meshErrSet s 1 tile q
  let s := tileEvent (tileEvent s ctx 22 tile r.2.1) ctx 23 tile r.2.2
  if r.2.2 = 0 then s
  else match ctx with
    | .plan k => (transitOps s k).foldl (fun s o => noteOvf s k o) s
    | _ => s

/-- The way of a packet and whether it is detoured: a scheduled packet takes its direct path (R297, R306). -/
def meshRoute (s : State) (p : MeshPacket) : List Nat × Bool :=
  let a := (endpointTile p.src.toNat).getD 0
  let b := (endpointTile p.dest.toNat).getD 0
  if bit p.ctl.toNat 5 then (meshPath a b, false) else routePath s (b2n (bit p.ctl.toNat 1)) (bits p.ctl.toNat 3 2) a b

/-- What a path has in common with another to its end: from the first router on that both pass on the same way. -/
def pathMeet (p q : List Nat) : List Nat × List Nat :=
  match (upTo p.length).find? fun i => (p.drop i).isSuffixOf q with
  | some i => (p.take i, p.drop i)
  | none => (p, [])

/-- The reduction packet just before this one that it can be added to, with the router where they meet. -/
def meshPartner (s : State) (path : List Nat) (p : MeshPacket) : Option (MeshPacket × List Nat × Nat) :=
  match s.out.getLast? with
  | some (.mesh _ q) =>
    let m := pathMeet path (meshRoute s q).1
    if redMatch q p then m.2.head?.map fun r => (q, m.1, r) else none
  | _ => none

/-- A packet reaches its endpoint: a WRITE is performed there, anything else is the endpoint's. -/
def meshDeliver (s : State) (ctx : Ctx) (p : MeshPacket) : State :=
  if p.typ = 0x01 then devWrite s (worldOf (bit p.ctl.toNat 0)) ctx p.addr.toNat p.payload else emit s (.mesh p.dest.toNat p)

/-- A packet takes its way on NET 0, and on NET 1 from its waypoint on (R295): discarded where its next link is down, or at a fenced
tile's local port; a reduction packet goes as far as the one that it is added to. -/
def meshTravel (s : State) (ctx : Ctx) (r : List Nat × Bool) (p : MeshPacket) : State :=
  let cnt := if bit p.ctl.toNat 5 then 1 else 0
  let ok := clearPath s r.1
  let fl := meshFlits p
  if ok.length < r.1.length then meshDiscard (passRouters ctx cnt fl ok s) ctx 33 3 (stopRouter s r.1) p
  else if p.dest.toNat < 1536 && tileOut s p.dest.toNat then meshDiscard (passRouters ctx cnt fl ok s) ctx 32 4 (stopRouter s r.1) p
  else match meshPartner s r.1 p with
    | some (q, way, at') => redCombine (passRouters ctx cnt fl way s) ctx at' q p
    | none => meshDeliver (passRouters ctx cnt fl r.1 s) ctx (meshOn r.2 p)

/-- A header that a packet can carry (R294). -/
def meshPacketOk (p : MeshPacket) : Bool :=
  (endpointTile p.src.toNat).isSome && (endpointTile p.dest.toNat).isSome && decide (1 ≤ p.typ.toNat)
    && decide (p.typ.toNat ≤ 8) && decide (p.payload.length ≤ 1152)

/-- MESH_PACKET_ROUTE (R305 to R307): a packet whose header parity fails is dropped and counted as PATH_PAR (R294, R383; log 172); any
other enters on NET 0. -/
def execMeshPacketRoute (p : MeshPacket) (s : State) : Host.Outcome State Fault Refusal :=
  if !meshPacketOk p then .refused .illFormed
  else
    let a := (endpointTile p.src.toNat).getD 0
    let ctx := meshCtx s p.src.toNat
    if !meshParity p then .next (tileEvent s ctx 19 a 1)
    else
      let r := meshRoute s p
      .next (meshTravel (if r.2 then cntAdd s .mshCnt (tileDie a) 5 1 else s) ctx r (meshOn false p))

/-! ### Multicast (R300 to R302) -/

/-- Tiles of a packet's RECT in row-major order, less those its mask leaves out. -/
def mcTiles (p : MeshPacket) : List Nat :=
  let ts := rectTiles p.x0.toNat p.y0.toNat p.w.toNat p.h.toNat
  if bit p.mflags.toNat 0 then ((List.range ts.length).filter fun i => p.mask.getD i false).map fun i => ts.getD i 0 else ts

/-- The edges of a multicast's tree. -/
def pathEdges : List Nat → List (Nat × Nat)
  | [] => []
  | [_] => []
  | r :: q :: l => (r, q) :: pathEdges (q :: l)

def addEdges (acc : List (Nat × Nat)) (l : List (Nat × Nat)) : List (Nat × Nat) :=
  l.foldl (fun a e => if a.contains e then a else a ++ [e]) acc

/-- The branches that lead to target t: the links of its path, and its router's local port as (t, t). -/
def branchesTo (a t : Nat) : List (Nat × Nat) := pathEdges (meshPath a t) ++ [(t, t)]

/-- The branches of a tree at its replication points, the routers with more than one way out (R300). -/
def treeBranches (a : Nat) (ts : List Nat) : List (Nat × Nat) :=
  let es := ts.foldl (fun acc t => addEdges acc (branchesTo a t)) []
  es.filter fun e => decide (2 ≤ (es.filter fun q => q.1 == e.1).length)

/-- The packet goes out along its tree: each link once; targets behind a fenced router are lost to it (R306, R307). -/
def mcSpread (s : State) (m : Multicast) (a : Nat) : State × Multicast :=
  let cnt := if bit m.pkt.ctl.toNat 5 then 1 else 0
  let paths := m.left.map fun t => (t, meshPath a t, clearPath s (meshPath a t))
  let edges := paths.foldl (fun acc q => addEdges acc (pathEdges q.2.2)) []
  let s := edges.foldl (fun s e => passRouters m.ctx cnt (meshFlits m.pkt) [e.1, e.2] s) s
  let cut := paths.filter fun q => decide (q.2.2.length < q.2.1.length)
  let stops := (cut.map fun q => stopRouter s q.2.1).eraseDups
  let s := stops.foldl (fun s r => meshDiscard s m.ctx 33 3 r m.pkt) s
  let gone := cut.map Prod.fst
  (s, { m with left := m.left.filter (fun t => !gone.contains t), missing := m.missing ++ gone })

/-- Targets that take the payload: it is written to ADDR of their SRAM. -/
def mcDeliver (s : State) (m : Multicast) (ts : List Nat) : State :=
  ts.foldl (fun s t => devWrite s (worldOf (bit m.pkt.ctl.toNat 0)) m.ctx (sramAddr t m.pkt.addr.toNat) m.pkt.payload) s

/-- Branches that have not accepted, as their credits allow: free values (R300; log 173). A scheduled multicast is never held
(R297). -/
def mcHolds (s : State) (m : Multicast) (a : Nat) : State × List (Nat × Nat) :=
  if bit m.pkt.ctl.toNat 5 then (s, [])
  else
    let r := drawFree s
    (r.1, ((treeBranches a m.left).zipIdx.filter fun q => bit r.2 q.2).map Prod.fst)

/-- Start a multicast over its unfenced targets: those behind no branch that holds take the payload at once. -/
def mcStart (s : State) (a : Nat) (m : Multicast) : State :=
  let r := mcSpread s m a
  let h := mcHolds r.1 r.2 a
  let held := fun t => (branchesTo a t).any h.2.contains
  let s := mcDeliver h.1 r.2 (r.2.left.filter fun t => !held t)
  if bit m.pkt.ctl.toNat 5 then s
  else { s with mcs := s.mcs ++ [{ r.2 with left := r.2.left.filter held, held := h.2, since := s.time }] }

/-- A replication point of the tree has all 32 entries of its hold buffer taken: it accepts no flits of a multicast (R300). -/
def mcFull (s : State) (a : Nat) (ts : List Nat) : Bool :=
  ((treeBranches a ts).map Prod.fst).eraseDups.any fun r => decide (32 ≤ (s.mcs.filter fun m => m.held.any fun e => e.1 == r).length)

/-- MC_WRITE (R300). A packet that a full hold buffer does not accept waits. -/
def execMcWrite (p : MeshPacket) (s : State) : Host.Outcome State Fault Refusal :=
  match endpointTile p.src.toNat with
  | none => .refused .illFormed
  | some a =>
    if p.typ ≠ 0x06 || !rectOk p.x0.toNat p.y0.toNat p.w.toNat p.h.toNat || decide (1152 < p.payload.length) then
      .refused .illFormed
    else
      let ctx := meshCtx s p.src.toNat
      let ts := (mcTiles p).filter fun t => !tileOut s t
      if !meshParity p then .next (tileEvent s ctx 19 a 1)
      else if s.mcs.any (fun m => m.id == p.key.toNat) || (!bit p.ctl.toNat 5 && mcFull s a ts) then .next s
      else .next (mcStart s a { id := p.key.toNat, pkt := meshOn false p, ctx := ctx, left := ts })

/-- The hold limit of a router's die in ns: HOLD_US, 0 treated as 1 (R310). -/
def mcHoldLimit (s : State) (r : Nat) : Nat :=
  1000 * max 1 (bits (blockVal s (.routers (Fin.ofNat 4 (tileDie r))) .mshCtl 0 0) 15 0)

/-- A branch is pruned: its targets are missing (R301). -/
def mcPrune (b : Nat × Nat) (m : Multicast) : Multicast :=
  let a := (endpointTile m.pkt.src.toNat).getD 0
  let gone := m.left.filter fun t => (branchesTo a t).contains b
  { m with
    left := m.left.filter (fun t => !gone.contains t), missing := m.missing ++ gone
    held := m.held.filter fun e => e != b && (m.left.filter fun t => !gone.contains t).any fun t => (branchesTo a t).contains e }

/-- MC_BRANCH_PRUNE: the branch has not accepted within HOLD_US (R301). -/
def execMcBranchPrune (id : Nat) (b : McBranch) (s : State) : Host.Outcome State Fault Refusal :=
  match s.mcs.find? fun m => m.id == id with
  | none => .next s
  | some m =>
    if m.held.contains (b.router.val, b.next.val) && decide (m.since + mcHoldLimit s b.router ≤ s.time) then
      .next (cntAdd { s with mcs := updWhere (fun x => x.id == id) (mcPrune (b.router.val, b.next.val)) s.mcs }
        .mshCnt (tileDie b.router.val) 3 1)
    else .next s

/-- A resend carries the missing mask (R302). -/
def mcResend (s : State) (m : Multicast) : State :=
  let a := (endpointTile m.pkt.src.toNat).getD 0
  let ts := rectTiles m.pkt.x0.toNat m.pkt.y0.toNat m.pkt.w.toNat m.pkt.h.toNat
  let pkt := meshSeal { m.pkt with mflags := 1, mask := ts.map fun t => m.missing.contains t }
  mcStart (cntAdd s .mshCnt (tileDie a) 4 1) a
    { m with pkt := pkt, left := ts.filter (fun t => m.missing.contains t), missing := [], tries := m.tries + 1 }

/-- The MC_DONE packet: the missing marks as a mask over RECT (R301). -/
def mcDonePacket (m : Multicast) : MeshPacket :=
  let ts := rectTiles m.pkt.x0.toNat m.pkt.y0.toNat m.pkt.w.toNat m.pkt.h.toNat
  meshSeal { m.pkt with dest := m.pkt.src, typ := 0x07, mflags := 0, mask := [], payload := maskOf (ts.map fun t => m.missing.contains t) }

/-- MC_DONE: every branch has delivered or been pruned, and the initiator gets the merged marks; it resends, or records the loss: in a
step it fails the checks, and an operation outside one completes TIMEOUT (R302). -/
def execMcDone (id : Nat) (s : State) : Host.Outcome State Fault Refusal :=
  match takeFirst (fun m : Multicast => m.id == id) s.mcs with
  | none => .next s
  | some (m, rest) =>
    let s := emit (mcDeliver { s with mcs := rest } m m.left) (.mesh m.pkt.src.toNat (mcDonePacket m))
    if m.missing.isEmpty then .next s
    else
      let a := (endpointTile m.pkt.src.toNat).getD 0
      if m.tries < bits (blockVal s (.routers (Fin.ofNat 4 (tileDie a))) .mshCtl 0 0) 31 24 then .next (mcResend s m)
      else
        let s := tileEvent (meshErrSet s 5 a m.pkt) m.ctx 34 a 1
        .next (match m.ctx with | .cmd iid => complete s iid stTimeout | _ => s)

/-! ### Die bridges (R12, R303) -/

/-- The CRC-16 over the flit and its sequence number holds. -/
def bridgeFlitGood (f : BridgeFlit) : Bool := crc16 (f.data ++ natLe 1 f.seq.val) == f.crc.toNat

/-- BRIDGE_FLIT_RECEIVE. -/
def execBridgeFlitReceive (b : BridgeLink) (f : BridgeFlit) (s : State) : Host.Outcome State Fault Refusal :=
  if f.data.length ≠ 64 then .refused .illFormed
  else
    let k := bridgeKey b.link.val b.back
    let l := getBridge s k
    if bridgeFlitGood f && f.seq.val == l.rxSeq then
      .next (setBridge s k { l with rxSeq := (l.rxSeq + 1) % 256, naked := false })
    else
      let s := rasBump s 4 (bridgeDie b.link.val b.back) 1
      .next (emit (setBridge s k { l with naked := true }) (.bridge b.link.val b.back true ((l.rxSeq + 255) % 256) []))

/-- Replay from the flit after the last acknowledged one, each with its CRC-16. -/
def bridgeReplay (s : State) (b : BridgeLink) : State :=
  let k := bridgeKey b.link.val b.back
  (getBridge s k).replay.foldl (fun s f =>
    let r := bridgeFlit s f.ctx k f.seq f.payload
    match r.2 with
    | some bs => emit r.1 (.bridge b.link.val b.back false f.seq bs)
    | none => r.1) s

/-- BRIDGE_NAK: flits up to `last` are acknowledged, and the rest is replayed. -/
def execBridgeNak (b : BridgeLink) (last : Fin 256) (s : State) : Host.Outcome State Fault Refusal :=
  let k := bridgeKey b.link.val b.back
  let l := getBridge s k
  let r := dropAcked last.val l.replay
  let tries := if r.length = l.replay.length then l.tries + 1 else 1
  let s := setBridge s k { l with replay := r, tries := tries }
  if l.training then .next s else .next (bridgeReplay s b)

/-- BRIDGE_RETRAIN: one flit has been replayed 4 times without acknowledgement. -/
def execBridgeRetrain (b : BridgeLink) (s : State) : Host.Outcome State Fault Refusal :=
  let k := bridgeKey b.link.val b.back
  let l := getBridge s k
  if 4 ≤ l.tries && !l.training then .next (setBridge s k { l with training := true }) else .next s

/-- BRIDGE_RETRAIN_DONE: replay continues. -/
def execBridgeRetrainDone (b : BridgeLink) (s : State) : Host.Outcome State Fault Refusal :=
  let k := bridgeKey b.link.val b.back
  let l := getBridge s k
  if l.training then .next (bridgeReplay (setBridge s k { l with training := false, tries := 0 }) b) else .next s

end Sys2Proof.Machine
end

