-- ==== Sys2Proof/Machine/Nmu.lean ====
section
/-! DEFINITION. The near-memory units' register jobs (R227 to R230). -/

namespace Sys2Proof.Machine

/-! ### The job record (R227) -/

def jobOp (b : Bytes) : Nat := fld b 0 1
def jobFlags (b : Bytes) : Nat := fld b 1 1
def jobCount (b : Bytes) : Nat := fld b 8 8
def jobA (b : Bytes) (i : Nat) : Val := fp32Val (fld b (72 + 4 * i) 4)

/-- Address fields in record order: P_IN, P_OUT, M_IN, M_OUT, V_IN, V_OUT, G. -/
def jobAddr (b : Bytes) (i : Nat) : Nat := fld b (16 + 8 * i) 8

/-- Address fields that an OP uses. -/
def jobUses (op : Nat) : List Nat :=
  match op with
  | 1 | 2 => [1]
  | 3 => [0, 1, 2, 3, 6]
  | 4 => [0, 1, 2, 3, 4, 5, 6]
  | 5 | 6 => [0, 1]
  | _ => []

/-- How many of A0 to A8 an OP uses (R228). -/
def jobParams (op : Nat) : Nat :=
  match op with
  | 1 | 2 | 5 => 1
  | 3 => 3
  | 4 => 9
  | _ => 0

/-- Bytes of an element of each array: parameters and gradients by their format, moments FP32. -/
def jobWidth (b : Bytes) (i : Nat) : Nat :=
  if i ≤ 1 then (if bit (jobFlags b) 0 then 2 else 4) else if i = 6 then (if bit (jobFlags b) 1 then 2 else 4) else 4

/-- The job rounds stochastically. -/
def jobSr (b : Bytes) : Bool := bits (jobFlags b) 3 2 == 2

/-- The record is malformed: a reserved value, or a field that its OP does not use (R227). -/
def jobBad (b : Bytes) : Bool :=
  let op := jobOp b
  let f := jobFlags b
  op == 0 || decide (6 < op) || f / 16 != 0 || bits f 3 2 == 3 || !zeros b 6 2 || !zeros b 108 20
    || jobCount b == 0 || decide (2 ^ 40 < jobCount b) || fld b 2 2 / 4096 != 0
    || ((upTo 7).any fun i => !(jobUses op).contains i && jobAddr b i != 0)
    || ((upTo 9).any fun i => decide (jobParams op ≤ i) && fld b (72 + 4 * i) 4 != 0)
    || (!(jobUses op).contains 6 && bit f 1) || (op == 6 && bits f 3 2 != 0)
    || (!(op == 2 || jobSr b) && fld b 2 2 != 0) || (!jobSr b && fld b 4 2 != 0)

/-- An array is misaligned or leaves the LPDDR5X range. -/
def jobAddrBad (s : State) (b : Bytes) : Bool :=
  (jobUses (jobOp b)).any fun i =>
    let a := jobAddr b i
    a % 64 != 0 || decide (a < 0x4000000) || decide (dramLimit s < a + jobWidth b i * jobCount b)

/-- A read of the range would meet an uncorrectable word (R278). -/
def readsUe (s : State) (a n : Nat) : Bool :=
  (flippedIn s a n).any fun x => tagBad s x || flipsAt s x == 2 || (decide (2 < flipsAt s x) && Config.tripleErr x % 3 == 0)

/-- The NMU of an address: that of its channel's controller (R229). -/
def nmuBlock (s : State) (a : Nat) : EpochBlock := .nmu (Fin.ofNat 32 (physChan s a / 4))

/-- The result that the record itself decides: 0 when the job can run. -/
def jobErr (s : State) (j : Nmu) (b : Bytes) : Nat :=
  if j.addr < 0x4000000 || dramLimit s < j.addr + 128 then 2
  else if !rangePermitted s j.world false j.addr 128 (nmuBlock s j.addr) then 3
  else if readsUe s j.addr 128 then 4
  else if jobBad b then 1
  else if jobAddrBad s b then 2
  else 0

/-! ### Elements (R228) -/

/-- FP32 results under RNE. -/
def r32 (v : Val) : Val := fp32Val (toFp32 v)
def mul32 (a b : Val) : Val := r32 (valMulS a b)
def add32 (a b : Val) : Val := r32 (valAdd a b)
def fma32 (a b c : Val) : Val := r32 (valAdd (valMulS a b) c)
def rsqrt32 (a : Val) : Val := fp32Val (rsqrtWord (toFp32 a))

/-- New parameter, first and second moment of one element from its uniform draw, parameter, moments and gradient. -/
def jobElem (b : Bytes) (u : Nat) (p m v g : Val) : Val × Val × Val :=
  let a := jobA b
  match jobOp b with
  | 1 => (a 0, m, v)
  | 2 => (valMulS (a 0) (.fin (Int.ofNat u - 2 ^ 31) (-31)), m, v)
  | 3 =>
    let m := fma32 (a 0) m g
    (fma32 (a 1) (fma32 (a 2) p m) p, m, v)
  | 4 =>
    let m := fma32 (a 0) m (mul32 (a 1) g)
    let v := fma32 (a 2) v (mul32 (a 3) (mul32 g g))
    let d := mul32 (mul32 m (a 4)) (rsqrt32 (add32 (mul32 v (a 5)) (a 6)))
    (fma32 (a 7) (fma32 (a 8) p d) p, m, v)
  | 5 => (mul32 (a 0) p, m, v)
  | _ => (p, m, v)

/-- A parameter or gradient of 2 bytes is BF16. -/
def paramVal (w x : Nat) : Val := if w = 2 then floatDecode fBF16 x else fp32Val x

/-- A parameter as it is written. -/
def paramWord (w : Nat) (r : Rnd) (draw : Nat) (v : Val) : Nat := floatEncode (if w = 2 then fBF16 else fFP32) r draw v

/-! ### A job -/

/-- Elements from `n` on whose parameter lies in the same 4 KiB granule: how many (R229). -/
def jobRun (b : Bytes) (n : Nat) : Nat :=
  let i := if (jobUses (jobOp b)).contains 0 then 0 else 1
  let w := jobWidth b i
  let a := jobAddr b i + w * n
  min (jobCount b - n) ((4096 - a % 4096) / w)

/-- Where element `n` of array `i` lies. -/
def jobAt (b : Bytes) (i n : Nat) : Nat := jobAddr b i + jobWidth b i * n

/-- Arrays that are read, and those that are written. -/
def jobReads (b : Bytes) : List Nat :=
  (jobUses (jobOp b)).filter fun i => i == 0 || i == 2 || i == 4 || i == 6 || (i == 1 && jobOp b == 6)
def jobWrites (b : Bytes) : List Nat :=
  (jobUses (jobOp b)).filter fun i => (i == 1 && jobOp b != 6) || i == 3 || i == 5

/-- What stops a granule: 3 denied, 4 uncorrectable; 0 for neither. -/
def granErr (s : State) (w : World) (b : Bytes) (n k : Nat) : Nat :=
  if (jobReads b).any fun i => !rangePermitted s w false (jobAt b i n) (jobWidth b i * k) (nmuBlock s (jobAt b i n)) then 3
  else if (jobWrites b).any fun i => !rangePermitted s w true (jobAt b i n) (jobWidth b i * k) (nmuBlock s (jobAt b i n)) then 3
  else if (jobReads b).any fun i => readsUe s (jobAt b i n) (jobWidth b i * k) then 4
  else 0

/-- Read one array's elements [n, n+k). -/
def jobRead (s : State) (w : World) (b : Bytes) (i n k : Nat) : State × List Nat :=
  if (jobReads b).contains i then
    let r := devRead s w .other (jobAt b i n) (jobWidth b i * k) (nmuBlock s (jobAt b i n))
    (r.1, (upTo k).map fun j => fld r.2 (jobWidth b i * j) (jobWidth b i))
  else (s, [])

/-- Write one array's elements from `n` on. -/
def jobWrite (s : State) (w : World) (b : Bytes) (i n : Nat) (l : List Nat) : State :=
  if (jobWrites b).contains i then devWrite s w .other (jobAt b i n) (l.flatMap fun x => natLe (jobWidth b i) x) (nmuBlock s (jobAt b i n)) else s

/-- The draws of a job: key and counter of its stream as it began, and the step number of SR. -/
structure JobDraw where
  key  : Nat
  ctr  : Nat
  step : Nat
  deriving DecidableEq, Repr

/-- The elements [n, n+k) of a granule; answers how many differ. -/
def jobGran (s : State) (w : World) (b : Bytes) (d : JobDraw) (n k : Nat) : State × Nat :=
  let p := jobRead s w b 0 n k
  let q := jobRead p.1 w b 1 n k
  let m := jobRead q.1 w b 2 n k
  let v := jobRead m.1 w b 4 n k
  let g := jobRead v.1 w b 6 n k
  let r := rndOf (bits (jobFlags b) 3 2)
  let es := (upTo k).map fun j =>
    let u := philox d.key ((d.ctr + (n + j) / 4) % 2 ^ 128) / 2 ^ (32 * ((n + j) % 4)) % 2 ^ 32
    jobElem b u (paramVal (jobWidth b 0) (p.2.getD j 0)) (fp32Val (m.2.getD j 0)) (fp32Val (v.2.getD j 0))
      (paramVal (jobWidth b 6) (g.2.getD j 0))
  let out := es.zipIdx.map fun x => paramWord (jobWidth b 1) r (srDraw d.key d.step (fld b 4 2) (n + x.2)) x.1.1
  let s := jobWrite g.1 w b 1 n out
  let s := jobWrite s w b 3 n (es.map fun x => toFp32 x.2.1)
  let s := jobWrite s w b 5 n (es.map fun x => toFp32 x.2.2)
  (s, ((upTo k).filter fun j => p.2.getD j 0 != q.2.getD j 0).length)

/-- Granule after granule, until one fails: elements done, elements that differ, and the result. -/
def jobLoop (w : World) (b : Bytes) (d : JobDraw) : Nat → State → Nat → Nat → State × Nat × Nat × Nat
  | 0, s, n, x => (s, n, x, 0)
  | fuel + 1, s, n, x =>
    if jobCount b ≤ n then (s, n, x, 0)
    else
      let k := max 1 (jobRun b n)
      let e := granErr s w b n k
      if e ≠ 0 then
        let s := if e = 4 then (jobReads b).foldl (fun s i => (jobRead s w b i n k).1) s else countDenied s (addrDie s (jobAt b 1 n))
        (s, n, x, e)
      else
        let r := jobGran s w b d n k
        jobLoop w b d fuel r.1 (n + k) (x + r.2)

/-- Advance the counter of INIT_UNIFORM's stream (R211, R228). -/
def jobAdvance (s : State) (b : Bytes) : State :=
  if jobOp b = 2 then
    let n := fld b 2 2
    let c := (s.rd .rngCtrLo n + 2 ^ 64 * s.rd .rngCtrHi n + cdiv (jobCount b) 4) % 2 ^ 128
    (s.wr .rngCtrLo n 0 (c % 2 ^ 64)).wr .rngCtrHi n 0 (c / 2 ^ 64)
  else s

/-- Run a job whose record is in order. The step number of its SR draws is free: the spec names none outside a step
(log 1). -/
def jobDo (s : State) (j : Nmu) (b : Bytes) : State :=
  let n := fld b 2 2
  let z := if jobSr b then (let r := drawFree s; (r.1, r.2 % 2 ^ 64)) else (s, 0)
  let s := z.1
  let d : JobDraw := { key := s.rd .rngKey n, ctr := s.rd .rngCtrLo n + 2 ^ 64 * s.rd .rngCtrHi n, step := z.2 }
  let r := jobLoop j.world b d (jobCount b) s 0 0
  let s := jobAdvance r.1 b
  { s.wr .nmuJobProg 0 0 r.2.1 with
    nmu := some { j with ran := true, err := r.2.2.2, count := if jobOp b = 6 then r.2.2.1 else r.2.1 } }

/-- A job row: the running register job, if its OP is this one. -/
def nmuRow (s : State) (op : Nat) : State :=
  match s.nmu with
  | none => s
  | some j =>
    if j.ran then s
    else
      let b := memBytes s j.addr 128
      if jobOp b ≠ op || jobErr s j b ≠ 0 then s else jobDo (devRead s j.world .other j.addr 128 (nmuBlock s j.addr)).1 j b

def execNmuFill (s : State) : Host.Outcome State Fault Refusal := .next (nmuRow s 1)
def execNmuInitUniform (s : State) : Host.Outcome State Fault Refusal := .next (nmuRow s 2)
def execNmuSgdm (s : State) : Host.Outcome State Fault Refusal := .next (nmuRow s 3)
def execNmuAdamw (s : State) : Host.Outcome State Fault Refusal := .next (nmuRow s 4)
def execNmuScale (s : State) : Host.Outcome State Fault Refusal := .next (nmuRow s 5)
def execNmuCompare (s : State) : Host.Outcome State Fault Refusal := .next (nmuRow s 6)

/-- NMU_JOB_END (R230): BUSY falls, DONE rises, and ERR holds the result. -/
def nmuEnd (s : State) (err : Nat) : State :=
  let s := { s with nmu := none }
  let x := s.rd .nmuJobCtl
  s.wr .nmuJobCtl 0 0 (setBits (setBit (setBit x 31 false) 30 true) 29 26 err)

def execNmuJobEnd (s : State) : Host.Outcome State Fault Refusal :=
  match s.nmu with
  | none => .next s
  | some j =>
    let e := jobErr s j (memBytes s j.addr 128)
    if j.ran then .next (nmuEnd (s.wr .nmuJobProg 0 0 j.count) j.err) else if e = 0 then .next s
    else .next (nmuEnd (if e = 3 || e = 4 then (devRead s j.world .other j.addr 128 (nmuBlock s j.addr)).1 else s) e)

/-- A write of NMU_JOB_CTL with GO = 1. -/
def nmuGo (s : State) (w : World) : State :=
  if s.nmu.isSome then countDropped s 0
  else
    let a := bits (s.rd .nmuJobAddr) 47 7 * 128
    let s := (s.wr .nmuJobCtl 0 0 (2 ^ 31 + worldBit w * 2 ^ 25)).wr .nmuJobProg 0 0 0
    { s with nmu := some { world := w, addr := a } }

end Sys2Proof.Machine
end

