-- ==== Sys2Proof/Machine/Queues.lean ====
section
/-! DEFINITION. Queues between pipeline stages (R252 to R254, R264). -/

namespace Sys2Proof.Machine

/-- The running phase with its queue operation q and the queue that it names. -/
def queueAt (s : State) (k : PlanKind) (q : Nat) : Option (Cur × QOp × Queue) :=
  match curOf s k with
  | none => none
  | some c => match c.f.qops[q]? with
    | none => none
    | some o => if o.done then none else (c.p.queues[o.q]?).map fun u => (c, o, u)

/-- Change queue table entry n of a plan. -/
def modQueue (s : State) (k : PlanKind) (n : Nat) (f : Queue → Queue) : State :=
  modPlan s k fun p => { p with queues := p.queues.zipIdx.map fun x => if x.2 = n then f x.1 else x.1 }

/-- A queue operation is done. -/
def qopDone (s : State) (k : PlanKind) (q : Nat) : State :=
  modPhase s k fun f => { f with qops := f.qops.zipIdx.map fun x => if x.2 = q then { x.1 with done := true } else x.1 }

/-- Where the receiver keeps entry `n`: its ring slot, or its place in the spill area (R252). -/
def ringAddr (u : Queue) (n : Nat) : Nat := sramAddr (u.ringTile + n % u.nt) u.ringOff
def spillAddr (u : Queue) (n : Nat) : Nat := u.spillBase + n % u.spillDepth * u.size

/-- The slot of entry `n` is free. -/
def slotFree (u : Queue) (n : Nat) : Bool := u.inRing.all fun m => m % u.nt != n % u.nt

/-- An access of the queues. -/
def qEng (k : PlanKind) (td : Td) : Eng := { w := td.world, ctx := .plan k, owner := some 0x52 }

/-- Where an entry that comes now goes: ring, spill, or no room (R253). -/
inductive Room where
  | ring
  | spill
  | none
  deriving DecidableEq, Repr

def roomFor (u : Queue) (n : Nat) : Room :=
  if slotFree u n && u.inSpill.isEmpty then .ring
  else if u.spillable && decide (u.inSpill.length < u.spillDepth) then .spill
  else .none

/-- Store an entry in the receiver's ring or spill; it uses a credit. -/
def placeEntry (s : State) (k : PlanKind) (w : World) (n : Nat) (u : Queue) (seq : Nat) (bs : Bytes) : State :=
  match roomFor u seq with
  | .ring => modQueue (engWrite s { w := w, ctx := .plan k } (ringAddr u seq) bs) k n fun u => { u with inRing := u.inRing ++ [seq], ringCr := u.ringCr - 1 }
  | .spill => modQueue (engWrite s { w := w, ctx := .plan k } (spillAddr u seq) bs) k n fun u => { u with inSpill := u.inSpill ++ [seq], spillCr := u.spillCr - 1 }
  | .none => s

/-- The spilled entry that goes next. -/
def firstSpilled (u : Queue) : Option Nat := u.inSpill.foldl (fun b n => match b with | some m => some (min m n) | none => some n) none

/-- Freed slots are refilled from the spill in SEQ order (R253). -/
def refillRing (k : PlanKind) (w : World) (n : Nat) : Nat → State → State
  | 0, s => s
  | fuel + 1, s =>
    match getPlan s k with
    | none => s
    | some p => match p.queues[n]? with
      | none => s
      | some u => match firstSpilled u with
        | none => s
        | some m =>
          if !slotFree u m then s
          else
            let r := engRead s { w := w, ctx := .plan k } (spillAddr u m) u.size
            let s := engWrite r.1 { w := w, ctx := .plan k } (ringAddr u m) r.2
            refillRing k w n fuel (modQueue s k n fun u => 
              { u with inRing := u.inRing ++ [m], ringCr := u.ringCr - 1, inSpill := u.inSpill.filter (· != m), spillCr := u.spillCr + 1 })

/-- An entry as a QSEND reads it from its TD: the footprint's bytes, cut or padded with 0 to ENTRY_SIZE (log 30). -/
def entryBytes (s : State) (k : PlanKind) (td : Td) (size : Nat) : State × Bytes :=
  let g := tdFoot td
  let n := min size (g.2 - g.1)
  let r := engRead s (qEng k td) g.1 n
  (r.1, r.2 ++ zeroBytes (size - n))

/-- The receiving end of a queue whose two ends are here (R252). -/
def localEnd (p : PlanRun) (u : Queue) : Option (Nat × Queue) :=
  (p.queues.zipIdx.find? fun x => x.1.qid == u.qid && x.1.recv).map fun x => (x.2, x.1)

/-- The operation waits. -/
def qStall (s : State) (k : PlanKind) (n : Nat) : State := modQueue s k n fun u => { u with stall := true }

/-- A QSEND whose entry goes to a peer. -/
def qopSent (s : State) (k : PlanKind) (q : Nat) : State :=
  modPhase s k fun f => { f with qops := f.qops.zipIdx.map fun x => if x.2 = q then { x.1 with sent := true } else x.1 }

/-- A QSEND whose turn has come: to a peer it is done when the receiver answers that the entry is in its ring or spill (R253). -/
def sendEntry (s : State) (c : Cur) (q : Nat) (o : QOp) (u : Queue) : State :=
  let td := tdOf c.f o.td
  let sent := fun (s : State) => qopDone (modQueue s c.k o.q fun u => { u with next := u.next + 1, stall := false }) c.k q
  if some u.peer = ownId s then
    match localEnd c.p u with
    | none => qStall s c.k o.q
    | some r =>
      if roomFor r.2 o.seq == .none then qStall s c.k o.q
      else
        let e := entryBytes s c.k td u.size
        sent (placeEntry e.1 c.k c.p.world r.1 r.2 o.seq e.2)
  else
    let e := entryBytes s c.k td u.size
    match sendMsg e.1 { peer := u.peer, typ := 0x08, vc := 2, key := u.qid, addr := o.seq, world := c.p.world, ctx := .plan c.k,
                        payload := e.2 } with
    | (s, .ok) => qopSent s c.k q
    | (s, .unreachable) => failPlan s c.k stPeerUnreachable
    | (s, .denied) => failPlan s c.k stAccessDenied

/-- QSEND: entries go in rising SEQ (R253). -/
def execQsend (k : PlanKind) (q : Fin 16) (s : State) : Host.Outcome State Fault Refusal :=
  match queueAt s k q with
  | none => .next s
  | some (c, o, u) =>
    if !o.send then .next s
    else if o.sent then .next s
    else if u.next ≠ o.seq || !tdReady s c.f (tdOf c.f o.td) then .next (qStall s k o.q)
    else .next (sendEntry s c q o u)

/-- A QRECV whose entry is present: copied into its TD, its slot freed and refilled. -/
def takeEntry (s : State) (c : Cur) (q : Nat) (o : QOp) (u : Queue) : State :=
  let td := tdOf c.f o.td
  let g := tdFoot td
  let r := engRead s { w := c.p.world, ctx := .plan c.k } (ringAddr u o.seq) u.size
  let s := engWrite r.1 (qEng c.k td) g.1 (r.2.take (g.2 - g.1))
  let s := modQueue s c.k o.q fun u => { u with next := u.next + 1, stall := false, inRing := u.inRing.filter (· != o.seq), ringCr := u.ringCr + 1 }
  qopDone (refillRing c.k c.p.world o.q (u.nt + 1) s) c.k q

/-- QRECV. -/
def execQrecv (k : PlanKind) (q : Fin 16) (s : State) : Host.Outcome State Fault Refusal :=
  match queueAt s k q with
  | none => .next s
  | some (c, o, u) =>
    if o.send then .next s
    else if u.next ≠ o.seq || !u.inRing.contains o.seq then .next (qStall s k o.q)
    else .next (takeEntry s c q o u)

/-- The running plan of a step number, as its draws use it. -/
def planOfStep (s : State) (step : Nat) : Option (PlanKind × PlanRun) :=
  match s.seq.train with
  | some p => if drawStep .training p = step then some (.training, p) else evalOf
  | none => evalOf
where
  evalOf := match s.seq.eval with
    | some p => if drawStep .eval p = step then some (.eval, p) else none
    | none => none

/-- A stale or duplicate entry is dropped and counted (R254). -/
def staleEntry (s : State) : State := rasBump (cntAdd s .qxfCnt 6 0 1) 66 0 1

/-- The receiving entry of a QID. -/
def recvEntry (p : PlanRun) (qid : Nat) : Option (Nat × Queue) :=
  (p.queues.zipIdx.find? fun x => x.1.qid == qid && x.1.recv).map fun x => (x.2, x.1)

/-- An entry is answered RETRY, and counted (R358, R381). -/
def entryRetry (s : State) (p : PlanRun) (u : Queue) (msg : Nat) : State :=
  sendDone (cntAdd s .qxfCnt 6 0 1) u.peer p.world msg doneRetry

/-- An entry that has come for a running plan. -/
def entryCame (s : State) (k : PlanKind) (p : PlanRun) (n : Nat) (u : Queue) (seq msg : Nat) (bs : Bytes) : State :=
  if seq < u.next || u.inRing.contains seq || u.inSpill.contains seq then staleEntry s
  else if roomFor u seq == .none then entryRetry s p u msg
  else sendDone (cntAdd (placeEntry s k p.world n u seq (slice bs 0 u.size)) .qxfCnt 1 0 1) u.peer p.world msg doneOk

/-- An entry whose step does not run: older is stale; the sender of a newer one tries again (R254, as R373). -/
def entryEarly (s : State) (step : Nat) : State :=
  if step < 2 ^ 63 && decide (step < (s.rd .seqStep + 1) % 2 ^ 64) then staleEntry s else s

/-- QUEUE_ENTRY_RECEIVE (R254), from the peer of the queue, whose directory entry is checked (R359, R362, R363). -/
def execQueueEntryReceive (qid : Fin 256) (step : W64) (attempt : Fin 8) (seq msg : W32) (data : Bytes) (s : State) :
    Host.Outcome State Fault Refusal :=
  if 2 ^ 21 < data.length then .refused .illFormed
  else match planOfStep s step.toNat with
    | none => .next (entryEarly s step.toNat)
    | some (k, p) => match recvEntry p qid with
      | none => .next s
      | some (n, u) =>
        if (ownId s).isNone then .next s
        else match peerCheck s 0 0x08 u.peer ((ownId s).getD 0) p.world with
          | (s, .drop) => .next s
          | (s, .refuse) => .next (sendDone s u.peer .ns msg.toNat doneDenied)
          | (s, .perform) =>
            if attempt.val < p.attempt then .next (staleEntry s)
            else if p.attempt < attempt.val then .next (entryRetry s p u msg.toNat)
            else .next (entryCame s k p n u seq.toNat msg.toNat data)

/-- QUEUE_LIMIT_EXPIRE: the wait has exceeded QUEUE_LIMIT. -/
def execQueueLimitExpire (k : PlanKind) (q : Fin 16) (s : State) : Host.Outcome State Fault Refusal :=
  match queueAt s k q with
  | none => .next s
  | some (_, _, u) => if u.stall then .next (failPlan s k stTimeout) else .next s

end Sys2Proof.Machine
end

