-- ==== Sys2Proof/Machine/LinkRows.lean ====
section
/-! DEFINITION. The link events of the LHL and of the QXF ports (R319 to R323, R355, R356). -/

namespace Sys2Proof.Machine

/-! ### Events that both kinds of link share -/

/-- RATE and WIDTH as configured for a link. -/
def linkCfg (s : State) : LinkId → Nat
  | .lhl => blockVal s .lhl .lhlCfg 0 0
  | .port p => portCfg s p

/-- Ash mode (R474): the LHL runs on lane 0 alone at 32 Gbit/s. -/
def ashMode (s : State) : Bool := bit (s.rd .rscBoot) 31

def ashLhl (s : State) (i : LinkId) : Bool := i == .lhl && ashMode s

def linkCfgRate (s : State) (i : LinkId) : Nat := if ashLhl s i then 2 else bits (linkCfg s i) 31 30
def linkCfgWidth (s : State) (i : LinkId) : Nat := if ashLhl s i then 3 else bits (linkCfg s i) 29 28

/-- The lanes that may form the link. -/
def usableLanes (s : State) (i : LinkId) (lanes : Nat) : Nat := if ashLhl s i then lanes % 2 else lanes

/-- Whether the link's lanes are on (R379). -/
def linkEnabled (s : State) : LinkId → Bool
  | .lhl => true
  | .port p => bit (portCfg s p) 27

/-- The link is up: it takes its rate and lanes, replays what is not acknowledged, grants credit and sends what waited (R321,
R322). With the LHL, bring-up ends (R469), and the HQE writes what it held (R323). -/
def linkUp (s : State) (i : LinkId) (rate width lanes : Nat) : State :=
  let l := getLink s i
  let s := setLink s i { l with st := .active, rate := rate, width := width, lanes := lanes, naked := false,
                                fallback := none, lost := false, cfgWidth := linkCfgWidth s i }
  let s := pumpAll (sendGrants (replayAll s i) i) i
  match i with
  | .lhl =>
    let s := if s.rdf .rscBoot 0 0 7 4 = 9 then s.wrf .rscBoot 0 0 7 4 10 else s
    if l.lost then hqeResume s else s
  | .port _ => s

/-- The lanes with a signal: the latch is set (R464), the status shows them (R346), and DETECT leads to TRAIN (R322). -/
def signalDetect (s : State) (i : LinkId) (lanes : Nat) : State :=
  let s := if lanes = 0 then s else wireWake s (match i with | .lhl => 1 | .port _ => 2)
  let l := { getLink s i with sig := lanes }
  if l.st == .detect && lanes != 0 && linkEnabled s i then setLink (serdesTakes s (linkNo i)) i { l with st := .train }
  else setLink s i l

/-- Training succeeds on a set of working lanes (R316, R322). -/
def trainDone (s : State) (i : LinkId) (lanes : Nat) : State :=
  if (getLink s i).st != .train then s
  else match formWidth (linkLanes i) (usableLanes s i lanes) (widths i (linkCfgWidth s i)) with
    | none => s
    | some (w, g) => linkUp s i (linkCfgRate s i) (widthCode i w) g

/-- 100 ms of training pass without success. -/
def trainTimeout (s : State) (i : LinkId) : State :=
  let l := getLink s i
  if l.st == .train then setLink s i { l with st := .detect, lanes := 0 } else s

/-- The operating point differs from the configured one: a RATE or WIDTH change has been committed (R256, R322). -/
def linkChanged (s : State) (i : LinkId) : Bool :=
  (getLink s i).rate != linkCfgRate s i || (getLink s i).cfgWidth != linkCfgWidth s i

/-- A link comes up anew in a state: only its count of retrains stays, from cold reset on (R346, R379). -/
def linkAnew (s : State) (i : LinkId) (st : LinkSt) : State := setLink s i { st := st, retrains := (getLink s i).retrains }

/-- A committed ENABLE takes effect at the port's marker: its lanes go off, and what it has not started goes to its partners, or
they come on (R356, R379). -/
def portEnable (s : State) (p : Nat) : State :=
  let l := getLink s (.port p)
  let was := bit (s.rd .qxfPortCfg p) 27
  let on := linkEnabled s (.port p)
  if was && !on then spreadHold (setLink s (.port p) { l with st := .down, lanes := 0 }) p
  else if !was && on && l.st == .down then setLink s (.port p) { l with st := .detect }
  else s

/-- A link enters RETRAIN; what a port has not started goes to its partners (R322, R356). -/
def leaveActive (s : State) (i : LinkId) (fb : Option (Nat × Nat)) : State :=
  let s := enterRetrain s i fb
  match i with
  | .lhl => s
  | .port p => spreadHold s p

/-- A trigger of the table "LHL link states" sends an ACTIVE link to RETRAIN. -/
def retrainEntry (s : State) (i : LinkId) (c : RetrainCause) : State :=
  let l := getLink s i
  if l.st != .active then s
  else match c with
    | .replayLimit => if l.replay.any fun f => decide (4 ≤ f.tries) then leaveActive s i none else s
    | .rateChange => if linkChanged s i then leaveActive s i (some (l.rate, l.width)) else s
    | _ => leaveActive s i none

/-- Retraining succeeds, at the same or a narrower width; a committed change takes its new operating point. -/
def retrainDone (s : State) (i : LinkId) (lanes : Nat) : State :=
  let l := getLink s i
  if l.st != .retrain then s
  else
    let code := if l.fallback.isSome then linkCfgWidth s i else max l.width (linkCfgWidth s i)
    let rate := if l.fallback.isSome then linkCfgRate s i else l.rate
    match formWidth (linkLanes i) (usableLanes s i lanes) (widths i code) with
    | none => s
    | some (w, g) => linkUp s i rate (widthCode i w) g

/-- A transition ends without its change: CONFIG_COMMIT completes with a status and the epoch as it is (R323, R339). -/
def abortTransition (s : State) (status : Nat) : State :=
  match s.seq.trans with
  | none => s
  | some t =>
    completeInfo { s with seq := { s.seq with trans := none } } t.iid status (natLe 4 s.seq.epoch)

/-- 10 ms of retraining pass without success: DETECT, or the previous operating point of a committed change (R322,
R323). -/
def retrainTimeout (s : State) (i : LinkId) : State :=
  let l := getLink s i
  if l.st != .retrain then s
  else match l.fallback with
    | none => setLink s i { l with st := .detect, lanes := 0 }
    | some (r, w) => linkUp (abortTransition s stTimeout) i r w l.lanes

/-- A NAK: what it acknowledges leaves the buffer, the rest is replayed (R320). -/
def takeNak (s : State) (i : LinkId) (last : Nat) : State :=
  if (getLink s i).st == .active then replayAll (takeAck s i last) i else s

/-- 10 µs without an acknowledgement of the oldest buffered flit (R320). -/
def replayTimeout (s : State) (i : LinkId) : State :=
  if (getLink s i).st == .active then replayAll s i else s

/-! ### The Limdal Host Link -/

/-- LHL_FLIT_RECEIVE (R319, R320, R321). -/
def execLhlFlitReceive (f : Flit) (s : State) : Host.Outcome State Fault Refusal :=
  if f.payload.length ≤ 248 then .next (receiveFlit s .lhl f) else .refused .illFormed
/-- LHL_NAK (R320). -/
def execLhlNak (last : Fin 4096) (s : State) : Host.Outcome State Fault Refusal := .next (takeNak s .lhl last)
/-- LHL_REPLAY_TIMEOUT (R320). -/
def execLhlReplayTimeout (s : State) : Host.Outcome State Fault Refusal := .next (replayTimeout s .lhl)
/-- LHL_ACK_DUE (R320). -/
def execLhlAckDue (s : State) : Host.Outcome State Fault Refusal := .next (sendAck s .lhl)
/-- LHL_SIGNAL_DETECT (R322). -/
def execLhlSignalDetect (lanes : BitVec 8) (s : State) : Host.Outcome State Fault Refusal :=
  .next (signalDetect s .lhl lanes.toNat)
/-- LHL_TRAIN_DONE (R322). -/
def execLhlTrainDone (lanes : BitVec 8) (s : State) : Host.Outcome State Fault Refusal :=
  .next (trainDone s .lhl lanes.toNat)
/-- LHL_TRAIN_TIMEOUT (R322). -/
def execLhlTrainTimeout (s : State) : Host.Outcome State Fault Refusal := .next (trainTimeout s .lhl)
/-- LHL_RETRAIN_ENTRY (R322). -/
def execLhlRetrainEntry (c : RetrainCause) (s : State) : Host.Outcome State Fault Refusal :=
  .next (retrainEntry s .lhl c)
/-- LHL_RETRAIN_DONE (R322). -/
def execLhlRetrainDone (lanes : BitVec 8) (s : State) : Host.Outcome State Fault Refusal :=
  .next (retrainDone s .lhl lanes.toNat)
/-- LHL_RETRAIN_TIMEOUT (R322). -/
def execLhlRetrainTimeout (s : State) : Host.Outcome State Fault Refusal := .next (retrainTimeout s .lhl)

/-! ### QXF ports -/

/-- QXF_FLIT_RECEIVE (R355). -/
def execQxfFlitReceive (p : PortNo) (f : Flit) (s : State) : Host.Outcome State Fault Refusal :=
  if f.payload.length ≤ 248 then .next (receiveFlit s (.port p) f) else .refused .illFormed
/-- QXF_NAK (R355). -/
def execQxfNak (p : PortNo) (last : Fin 4096) (s : State) : Host.Outcome State Fault Refusal :=
  .next (takeNak s (.port p) last)
/-- QXF_REPLAY_TIMEOUT (R355). -/
def execQxfReplayTimeout (p : PortNo) (s : State) : Host.Outcome State Fault Refusal := .next (replayTimeout s (.port p))
/-- QXF_SIGNAL_DETECT (R355). -/
def execQxfSignalDetect (p : PortNo) (lanes : BitVec 4) (s : State) : Host.Outcome State Fault Refusal :=
  .next (signalDetect s (.port p) lanes.toNat)
/-- QXF_TRAIN_DONE (R355). -/
def execQxfTrainDone (p : PortNo) (lanes : BitVec 4) (s : State) : Host.Outcome State Fault Refusal :=
  .next (trainDone s (.port p) lanes.toNat)
/-- QXF_TRAIN_TIMEOUT (R355). -/
def execQxfTrainTimeout (p : PortNo) (s : State) : Host.Outcome State Fault Refusal := .next (trainTimeout s (.port p))
/-- QXF_RETRAIN_ENTRY (R356). -/
def execQxfRetrainEntry (p : PortNo) (c : RetrainCause) (s : State) : Host.Outcome State Fault Refusal :=
  .next (retrainEntry s (.port p) c)
/-- QXF_RETRAIN_DONE (R355). -/
def execQxfRetrainDone (p : PortNo) (lanes : BitVec 4) (s : State) : Host.Outcome State Fault Refusal :=
  .next (retrainDone s (.port p) lanes.toNat)
/-- QXF_RETRAIN_TIMEOUT (R355). -/
def execQxfRetrainTimeout (p : PortNo) (s : State) : Host.Outcome State Fault Refusal :=
  .next (retrainTimeout s (.port p))
/-- QXF_ACK_DUE (R355). -/
def execQxfAckDue (p : PortNo) (s : State) : Host.Outcome State Fault Refusal := .next (sendAck s (.port p))

/-- One lost packet, whose last flit is not acknowledged: FABRIC_LOST, failing the step it belongs to (R356). -/
def packetLost (p : Nat) (s : State) (f : TxFlit) : State :=
  if f.posted = 0 then s
  else dieEvent (qxfErrSet (cntAdd s .qxfCnt 3 0 1) 7 p f.pkt.1 f.pkt.2.1 f.pkt.2.2) f.ctx 36 (p / 16) 1

/-- PORT_DOWN_TIMEOUT: a port that is still down discards its unacknowledged packets (R356). -/
def execPortDownTimeout (p : PortNo) (s : State) : Host.Outcome State Fault Refusal :=
  let l := getLink s (.port p)
  if l.st == .active || l.st == .off then .next s
  else
    let s1 := setLink s (.port p) { l with replay := [], wait := [], hold := [], lost := true }
    .next ((l.replay ++ l.wait ++ l.hold.flatMap flitsOf).foldl (packetLost p) s1)

end Sys2Proof.Machine
end

