-- ==== Sys2Proof/Machine/Epoch.lean ====
section
/-! DEFINITION. Configuration epochs (R255 to R259, R263): committing the shadows of a world. -/

namespace Sys2Proof.Machine

def ccEpoch (o : Bytes) : Nat := fld o 0 4
def ccDiscard (o : Bytes) : Bool := bit (fld o 4 1) 0

/-- Every block with a marker of its own. -/
def epochBlocks : List EpochBlock :=
  ((List.finRange 4).map .die) ++ [.hqe] ++ ((List.finRange 32).map .mct) ++ ((List.finRange 32).map .nmu)
    ++ ((List.finRange 4).map .routers) ++ ((List.finRange 64).map .qxf) ++ [.lhl]

/-- The shadows a world has written and that are listed. -/
def shadowVals (s : State) (w : World) : NMap W64 :=
  (match w with | .ns => s.shadNs | .s => s.shadS).filterMap fun (p : Nat × Option W64) => p.2.map fun v => (p.1, v)

/-- A register's value once the shadows of a world are active. -/
def afterCommit (s : State) (w : World) (n : RegName) (i j : Nat) : Nat :=
  shadowMerge n (s.rd n i j) (shadowVal s w n i j)

/-! ### The checks of a commit -/

/-- Channels retired after the commit. -/
def retiredAfter (s : State) (w : World) : List Nat :=
  (upTo 128).filter fun c => bit (afterCommit s w .mctRetire (c / 64) 0) (c % 64)

/-- A limit above the bound, or no greater than 64 (R287). -/
def limitBad (s : State) (w : World) : Bool :=
  let v := bits (afterCommit s w .mctLimit 0 0) 19 0
  (v != s.rdf .mctLimit 0 0 19 0 || (retiredAfter s w).length != retiredCount s)
    && (decide (limitBound (retiredAfter s w).length < v) || decide (v ≤ 64))

/-- A committed detour entry, valid or not, whose waypoint is a fenced router, or whose first coordinate exceeds its last (R312). -/
def detourBad (s : State) (v : Nat) : Bool :=
  rtrFenced s (bits v 62 52) || decide (bits v 51 46 < bits v 40 35)
    || decide (bits v 45 41 < bits v 34 30) || decide (bits v 29 24 < bits v 18 13) || decide (bits v 23 19 < bits v 12 8)

/-- Some committed detour entry is bad. -/
def detoursBad (s : State) (w : World) : Bool :=
  (shadowVals s w).any fun p => match regDecode p.1 with
    | some (.mshDetour, i, j) => detourBad s (afterCommit s w .mshDetour i j)
    | _ => false

/-- A valid region entry of the committed table has SIZE 0 or reaches beyond the LPDDR5X range (R420). -/
def regionsBad (s : State) (w : World) : Bool :=
  w == .s && (shadowVals s .s).any fun p => match regDecode p.1 with
    | some (.secRegion, i, j) =>
      let v := afterCommit s .s .secRegion i j
      let lim := bits (afterCommit s .s .mctLimit 0 0) 19 0 * 16
      bit v 63 && (bits v 55 32 == 0 || decide (lim < bits v 31 0 + bits v 55 32))
    | _ => false

/-- A channel that the commit retires has an evacuation that has not ended (R284). -/
def retiresEvacuating (s : State) (w : World) : Bool :=
  (retiredAfter s w).any fun c => !retired s c
    && (evacuating s c || (s.evacs.any fun q => q.1 == c && decide (q.2 < evacTotal s)))

/-- Quiesce fields differ (R257). -/
def quiesceDiffers (s : State) (w : World) : Bool := shadowDiffers s w fun g => g.qu

/-! ### CONFIG_COMMIT -/

/-- A row of CONFIG_COMMIT: held during a transition, then its EPOCH is checked. -/
def commitRow (s : State) (iid : Nat) (discard : Bool) (act : State → Issued → State) : State :=
  match getIssued s iid with
  | none => s
  | some c =>
    if c.op ≠ 0x0023 || ccDiscard c.ops ≠ discard || (match s.seq.trans with | some t => t.iid == iid | none => false) then s
    else if s.seq.trans.isSome || olderHeld s iid [0x0023] then holdCmd s iid
    else if ccEpoch c.ops ≠ (s.seq.epoch + 1) % 2 ^ 32 then completeInfo s iid stBadDescriptor (natLe 4 s.seq.epoch)
    else act (unholdCmd s iid) c

/-- Start a transition. -/
def transitionStart (s : State) (c : Issued) : State :=
  let t : Transition := { iid := c.iid, world := c.world, vals := shadowVals s c.world, left := epochBlocks }
  { s with seq := { s.seq with trans := some t } }

/-- CONFIG_COMMIT: checked, held while it retires an evacuating channel, and begun. -/
def execConfigCommit (iid : Nat) (s : State) : Host.Outcome State Fault Refusal :=
  .next (commitRow s iid false fun s c =>
    if limitBad s c.world || detoursBad s c.world || regionsBad s c.world then
      completeInfo s iid stBadDescriptor (natLe 4 s.seq.epoch)
    else if retiresEvacuating s c.world then holdCmd s iid
    else if quiesceDiffers s c.world && !quiet s then completeInfo s iid stNeedsQuiesce (natLe 4 s.seq.epoch)
    else transitionStart s c)

/-- CONFIG_DISCARD: every active value of the world goes into its shadow. -/
def execConfigDiscard (iid : Nat) (s : State) : Host.Outcome State Fault Refusal :=
  .next (commitRow s iid true fun s c =>
    let s := match c.world with | .ns => { s with shadNs := [] } | .s => { s with shadS := [] }
    completeInfo s iid stOk (natLe 4 s.seq.epoch))

/-- The block is at its marker (R258): a die at a phase boundary, anything else between two of its requests. -/
def atMarker (s : State) : EpochBlock → Bool
  | .die d => match curPhase s with | none => true | some c => !c.f.left.contains d.val
  | _ => true

/-- EPOCH_MARKER. -/
def execEpochMarker (b : EpochBlock) (s : State) : Host.Outcome State Fault Refusal :=
  match s.seq.trans with
  | none => .next s
  | some t =>
    if t.left.contains b && atMarker s b then
      let s := { s with seq := { s.seq with trans := some { t with left := t.left.filter (· != b) } } }
      match b with
      | .mct i => .next (rateTrain s i)
      | .qxf p => .next (portEnable s p)
      | _ => .next s
    else .next s

/-- Old-tagged packets on their way: multicasts, forwarded blocks and pieces of the running phases. -/
def oldTagged (s : State) : Nat :=
  let old := s.seq.epoch % 2
  (s.mcs.filter fun m => b2n (bit m.pkt.ctl.toNat 1) == old).length
    + ((runningPhases s).map fun f => if f.tag = old then f.fly.length + f.sheetFly.length else 0).sum

/-- The drain count (R258). -/
def drainCount (s : State) : Nat :=
  match s.seq.trans with
  | none => 0
  | some t => t.left.length + oldTagged s

/-- A link still trains for a committed change (R323, R356). -/
def linkPending (s : State) (i : LinkId) : Bool :=
  let l := getLink s i
  l.fallback.isSome || (l.st == .active && linkChanged s i)

/-- Channels still train for a committed rate (R276). -/
def ratePending (s : State) : Bool :=
  rateMoves s 0 && (upTo 128).any fun c => chState s c == 1

/-- The committed values become active. -/
def takeVals (s : State) (vals : NMap W64) : State :=
  vals.foldl (fun s p => match regDecode p.1 with
    | some (n, i, j) => s.wr n i j (shadowMerge n (s.rd n i j) p.2.toNat)
    | none => s) s

/-- Shadows that equal their active values are listed no longer. -/
def pruneShadow (s : State) (m : NMap (Option W64)) : NMap (Option W64) :=
  m.filter fun p => match p.2, regDecode p.1 with
    | some v, some (n, i, j) => shadowMerge n (s.rd n i j) v.toNat != s.rd n i j
    | _, _ => false

/-- The transition ends. -/
def transitionEnd (s : State) (t : Transition) : State :=
  let s := takeVals s t.vals
  let s := match t.world with
    | .ns => { s with shadNs := pruneShadow s s.shadNs }
    | .s => { s with shadS := pruneShadow s s.shadS }
  let e := (s.seq.epoch + 1) % 2 ^ 32
  completeInfo { s with seq := { s.seq with trans := none, epoch := e } } t.iid stOk (natLe 4 e)

/-- TRANSITION_END: the drain count is 0. -/
def execTransitionEnd (s : State) : Host.Outcome State Fault Refusal :=
  match s.seq.trans with
  | none => .next s
  | some t =>
    if drainCount s = 0 && !ratePending s && !linkPending s .lhl && !(upTo 64).any (fun p => linkPending s (.port p)) then .next (transitionEnd s t)
    else .next s

end Sys2Proof.Machine
end

