-- ==== Sys2Proof/Machine/Snapshot.lean ====
section
/-! DEFINITION. Snapshots and their restoration (R401 to R406). -/

namespace Sys2Proof.Machine

/-! ### Operands and the region list (R401) -/

def snList (o : Bytes) : Nat := fld o 0 8
def snNlist (o : Bytes) : Nat := fld o 8 4
def snKind (o : Bytes) : Nat := fld o 12 1
def snPeer (o : Bytes) : Nat := fld o 14 2
def snDest (o : Bytes) : Nat := fld o 16 8
def snCow (o : Bytes) : Nat := fld o 24 8
def snCowPages (o : Bytes) : Nat := fld o 32 4

/-- DEST_KIND, PEER and DEST, of either command. -/
def imageOk (o : Bytes) : Bool :=
  decide (snKind o ≤ 2) && (snKind o == 2 || snPeer o == 0) && snDest o % 65536 == 0

/-- The operands' own checks. -/
def snapOperandsOk (o : Bytes) : Bool :=
  imageOk o && snList o % 64 == 0 && decide (1 ≤ snNlist o) && decide (snNlist o ≤ 256) && snCow o % 65536 == 0
    && decide (1 ≤ snCowPages o) && decide (snCowPages o ≤ 16384)

/-- Bytes lie in the LPDDR5X range of R265. -/
def inDram (s : State) (lo hi : Nat) : Bool := decide (0x4000000 ≤ lo) && decide (hi ≤ dramLimit s)

/-- A list entry, with whether it is good: KIND 0 a range, KIND 1 the committed copy of a loaded region. In a command's
list a KIND 1 entry holds no page count; in an image it holds the region's SIZE, which RESTORE compares (log 35). -/
def snapEntry (s : State) (image : Bool) (b : Bytes) : SnapEntry × Bool :=
  let a := fld b 0 6
  let n := fld b 8 4
  if fld b 6 1 = 0 then
    ({ addr := a, pages := n, region := none, version := 0, bytes := b },
     a % 65536 == 0 && zeros b 7 1 && zeros b 12 4 && inDram s a (a + 65536 * n))
  else
    let r := getRegion s a
    let base := regionBase r r.comm
    ({ addr := base, pages := r.size, region := some a, version := 0, bytes := b },
     fld b 6 1 == 1 && zeros b 7 1 && n == (if image then r.size else 0) && zeros b 12 4 && decide (a < 256) && r.valid
       && inDram s base (base + 65536 * r.size))

/-- No range intersects another, or the buffer. -/
def rangesApart : List (Nat × Nat) → Bool
  | [] => true
  | r :: rs => rs.all (fun q => !overlaps r q) && rangesApart rs

/-- Device ranges of the entries. -/
def snapRanges (l : List SnapEntry) : List (Nat × Nat) := l.map fun e => (e.addr, e.addr + 65536 * e.pages)

/-- The entries may be accessed by the world (R78, R416). -/
def snapAccess (s : State) (w : World) (wr : Bool) (l : List SnapEntry) : Bool :=
  l.all fun e =>
    (match e.region with | some n => w == .s || (getRegion s n).world == .ns | none => true)
      && (e.pages == 0 || rangePermitted s w wr e.addr (65536 * e.pages))

/-- The far side can be reached (R163). -/
def imagePeer (s : State) (w : World) (o : Bytes) : Nat :=
  if snKind o = 0 then stOk
  else if snKind o = 1 && (twinId s).isNone then stPeerUnreachable
  else match sendCheck s (snapPeer s (snKind o) (snPeer o)) w with
    | .unreachable => stPeerUnreachable
    | .denied => stAccessDenied
    | .ok => failIf (routeBundle s 0 (snapPeer s (snKind o) (snPeer o))).isNone stPeerUnreachable

/-- The checks before capture. -/
def snapStatus (s : State) (w : World) (o : Bytes) (l : List (SnapEntry × Bool)) : Nat :=
  let es := l.map Prod.fst
  let cow := (snCow o, snCow o + 65536 * snCowPages o)
  if l.any (fun e => !e.2) || !inDram s cow.1 cow.2 || !rangesApart (cow :: snapRanges es) then stBadDescriptor
  else if !snapAccess s w false es || !rangePermitted s w true cow.1 (cow.2 - cow.1) then stAccessDenied
  else imagePeer s w o

/-- The snapshot waits for its capture point. -/
def snapBegin (s : State) (iid : Option Nat) (w : World) (o : Bytes) (l : List SnapEntry) : State :=
  let n : Snap :=
    { iid := iid, auto := iid.isNone, world := w, kind := snKind o, peer := snPeer o, dest := snDest o, cowBuf := snCow o,
      cowPages := snCowPages o, list := l, due := quiet s, ras0 := rasSnap s }
  { s with snp := { s.snp with cur := some n } }

/-- SNAPSHOT: one at a time; its list comes from host memory. -/
def snapRow (s : State) (iid : Nat) : State :=
  match getIssued s iid with
  | none => s
  | some c =>
    if c.op ≠ 0x0030 || (match s.snp.cur with | some n => n.iid == some iid | none => false) then s
    else if !snapOperandsOk c.ops then complete s iid stBadDescriptor
    else if s.snp.cur.isSome || olderHeld s iid [0x0030, 0x0031] then holdCmd s iid
    else match hostRead (unholdCmd s iid) c.world (.cmd iid) (snList c.ops) (16 * snNlist c.ops) with
      | (s, .wait) => s
      | (s, .fail st) => complete s iid st
      | (s, .ok bs) =>
        let l := (entries bs 0 (snNlist c.ops) 16).map (snapEntry s false)
        let st := snapStatus s c.world c.ops l
        if st ≠ stOk then complete s iid st
        else
          let s := snapBegin s (some iid) c.world c.ops (l.map Prod.fst)
          { s with snp := { s.snp with cur := s.snp.cur.map fun n => { n with ras0 := c.ras0 } } }

/-- SNAPSHOT. -/
def execSnapshot (iid : Nat) (s : State) : Host.Outcome State Fault Refusal := .next (snapRow s iid)

/-! ### Capture (R402) -/

/-- An entry as it stands at capture. -/
def captureEntry (s : State) (e : SnapEntry) : SnapEntry :=
  match e.region with
  | none => e
  | some n =>
    let r := getRegion s n
    { e with addr := regionBase r r.comm, bytes := slice e.bytes 0 8 ++ natLe 4 r.size ++ zeroBytes 4, version := ((if r.comm = 0 then r.v0 else r.v1).getD 0) }

/-- Every valid stream with its key and counter. -/
def validStreams (s : State) : List (Nat × Nat × Nat) :=
  ((upTo 4096).filter fun n => bit (s.rd .rngCfg n) 31).map fun n => (n, s.rd .rngKey n, streamCtr s n)

/-- The mean time of the 16 steps before. -/
def meanOf (l : List Nat) : Nat := if l.isEmpty then 0 else l.sum / l.length

/-- The state is captured. -/
def capture (s : State) (n : Snap) : State :=
  let n := { n with captured := true, step := s.rd .seqStep, list := n.list.map (captureEntry s), streams := validStreams s }
  let s := (snapPages n).foldl (fun s p => setTracked s p true) s
  { s with snp := { s.snp with cur := some n, base := meanOf (s.snp.times.take 16), run := 0, openEnd := false } }

/-- SNAPSHOT_CAPTURE: at a step boundary, or at once when the part is quiet. -/
def execSnapshotCapture (s : State) : Host.Outcome State Fault Refusal :=
  match s.snp.cur with
  | none => .next s
  | some n => if !n.captured && (captureDue s || quiet s) then .next (capture s n) else .next s

/-- COW_COPY: a write to a tracked page, after its old content has been copied (R403). -/
def execCowCopy (w : World) (addr : DevAddr) (data : Bytes) (s : State) : Host.Outcome State Fault Refusal :=
  if decide (65536 < data.length) then .refused .illFormed
  else match s.snp.cur with
  | none => .next s
  | some n =>
    if n.captured && tracked s (addr.toNat / 65536) then .next (devWriteL w .other (data.length / 65536 + 2) s addr.toNat data)
    else .next s

/-! ### The image (R404) -/

/-- The stream-record area. -/
def streamBytes (l : List (Nat × Nat × Nat)) : Bytes :=
  (upTo 4096).flatMap fun i => match l.find? fun q => q.1 == i with
    | some q => natLe 8 q.2.1 ++ natLe 16 q.2.2
    | none => zeroBytes 24

/-- The list area. -/
def listBytes (l : List SnapEntry) : Bytes := let b := l.flatMap fun e => e.bytes; b ++ zeroBytes (4096 - b.length)

/-- The header, once every page has been sent. -/
def snapHeader (s : State) (n : Snap) : Bytes :=
  let h := natLe 4 0x534E4150 ++ natLe 2 (s.rdf .gblId 0 0 15 0) ++ natLe 2 n.list.length ++ natLe 8 n.step
    ++ digestBytes n.digest ++ zeroBytes 40 ++ n.list.flatMap fun e => natLe 8 e.version
  h ++ zeroBytes (4096 - h.length)

/-- Messages of the snapshot whose DONE is out. -/
def snapOut (s : State) : Bool := s.fab.out.any (fun m => m.ctx == .snap) || s.fab.queued.any fun m => m.ctx == .snap

/-- Nothing of the snapshot is left to send: the list, the streams and, last, the header; then its completion. -/
def snapFinish (s : State) (n : Snap) : State :=
  if n.headed then (if snapOut s then s else endSnap s stOk)
  else if snapOut s then s
  else
    let sb := streamBytes n.streams
    let n := { n with digest := digestGrans n.digest (0x2000 / 32) (chunk 32 3072 sb), headed := true }
    let s := { s with snp := { s.snp with cur := some n } }
    let s := snapPut (snapPut s n 0x1000 (listBytes n.list)) n 0x2000 sb
    match s.snp.cur with
    | none => s
    | some n =>
      let s := snapPut s n 0 (snapHeader s n)
      if s.snp.cur.isNone || snapOut s then s else endSnap s stOk

/-- The first page whose bit is still set, in list order. -/
def nextPage (s : State) (n : Snap) : Option Nat := (snapPages n).find? (tracked s)

/-- The copier's next page: buffered ones first (R403). -/
def snapPageSend (s : State) : State :=
  match s.snp.cur with
  | none => s
  | some n =>
    if !n.captured then s
    else if !n.buffered.isEmpty then snapSendBuffered s
    else match nextPage s n with
      | none => snapFinish s n
      | some p =>
        let r := rawRead s .snap (p * 65536) 65536
        snapSendPage (setTracked r.1 p false) p r.2

/-- SNAPSHOT_PAGE_SEND. -/
def execSnapshotPageSend (s : State) : Host.Outcome State Fault Refusal := .next (snapPageSend s)

/-! ### Automatic snapshots (R406) -/

/-- The integer square root of x, up to 2^(n+1) - 1. -/
def isqrt (x : Nat) : Nat → Nat → Nat
  | 0, r => if (r + 1) * (r + 1) ≤ x then r + 1 else r
  | n + 1, r => let q := r + 2 ^ (n + 1); isqrt x n (if q * q ≤ x then q else r)

/-- H + 3,600 × PRIOR_H in ns, and F + 1. -/
def mtbfNum (s : State) : Nat := (s.time - s.snp.enTime) + 3600 * 10 ^ 9 * orElse0 (s.rdf .snpAuto 0 0 31 16) 1
def mtbfDen (s : State) : Nat := s.snp.fails + 1

/-- N: MAX_LOST until a first snapshot has completed. -/
def autoInterval (s : State) : Nat :=
  let most := orElse0 (s.rdf .snpAuto 0 0 47 32) 1
  let t := meanOf s.snp.times
  if !s.snp.ever || t = 0 then most
  else min most (max 1 (isqrt (2 * s.snp.cost * mtbfNum s / (mtbfDen s * t * t)) 16 0))

/-- An automatic snapshot that cannot start: its completion goes to the ring of SNP_AUTO.CQ. -/
def autoFail (s : State) (st : Nat) : State :=
  let cq := s.rdf .snpAuto 0 0 13 0
  let s := clearAns { s with snp := { s.snp with since := 0 } } .template
  putCpl s { cq := cq, irq := false, seq := 0xFFFFFFFF, tag := s.rd .seqStep, status := st, src := cq, op := 0x0030,
             info := deltaInfo s (rasSnap s) ++ [0, 0] }

/-- The template's descriptor is here; its list comes next. -/
def autoStart (s : State) (w : World) (d : Bytes) : State :=
  let o := slice d 16 48
  if fld d 0 2 ≠ 0x0030 || !opReservedOk 0x0030 o || !snapOperandsOk o then autoFail s stBadDescriptor
  else match hostRead s w .template (snList o) (16 * snNlist o) with
    | (s, .wait) => s
    | (s, .fail st) => autoFail s st
    | (s, .ok bs) =>
      let l := (entries bs 0 (snNlist o) 16).map (snapEntry s false)
      let st := snapStatus s w o l
      if st ≠ stOk then autoFail s st
      else
        let s := clearAns { s with snp := { s.snp with since := 0 } } .template
        snapBegin s none w o (l.map Prod.fst)

/-- The part issues the template's SNAPSHOT, every N committed steps; a due one is deferred while one runs. -/
def autoGo (s : State) : State :=
  if !bit (s.rd .snpAuto) 63 || s.snp.since < autoInterval s || s.snp.cur.isSome then s
  else
    let w := ringWorld s (s.rdf .snpAuto 0 0 13 0)
    match hostRead s w .template (s.rd .snpAutoTpl / 64 * 64) 64 with
    | (s, .wait) => s
    | (s, .fail st) => autoFail s st
    | (s, .ok d) => autoStart s w d

/-- SNAPSHOT_AUTO. -/
def execSnapshotAuto (s : State) : Host.Outcome State Fault Refusal := .next (autoGo s)

/-! ### RESTORE (R405) -/

/-- Bytes of the image at an offset: from host memory, or from a peer by READs of 64 KiB. `part` says which of the
command's fetches this is. -/
def imageFetch (s : State) (c : Issued) (part off n : Nat) : State × HostRes :=
  if snKind c.ops = 0 then hostRead s c.world (.cmd c.iid) (snDest c.ops + off) n
  else if c.stage < part then
    let s := modIssued s c.iid fun c => { c with stage := part }
    let peer := snapPeer s (snKind c.ops) (snPeer c.ops)
    ((upTo (cdiv n 65536)).foldl (fun s i =>
      let a := snDest c.ops + off + 65536 * i
      (sendRead s peer c.world (.cmd c.iid) a (min 65536 (n - 65536 * i)) a).1) s, .wait)
  else if cmdOut s c.iid then (s, .wait)
  else (s, .ok (mapGetList memD c.fetched (snDest c.ops + off) n))

/-- The image may be written back. -/
def restoreStatus (s : State) (w : World) (h : Bytes) (l : List (SnapEntry × Bool)) : Nat :=
  if fld h 0 4 ≠ 0x534E4150 || fld h 4 2 ≠ s.rdf .gblId 0 0 15 0 || l.any (fun e => !e.2) then stBadDescriptor
  else failIf (!snapAccess s w true (l.map Prod.fst)) stAccessDenied

/-- Pages go back to their addresses. -/
def restorePages (w : World) (iid : Nat) : List Nat → Bytes → State → State
  | [], _, s => s
  | p :: ps, bs, s => restorePages w iid ps (bs.drop 65536) (devWrite s w (.cmd iid) (p * 65536) (slice bs 0 65536))

/-- Regions of the image take their versions. -/
def restoreVersions (h : Bytes) (s : State) : Nat → List SnapEntry → State
  | _, [] => s
  | i, e :: es =>
    let s := match e.region with
      | none => s
      | some n =>
        let r := getRegion s n
        let v := some (fld h (64 + 8 * i) 8)
        setRegion s n (if r.comm = 0 then { r with v0 := v } else { r with v1 := v })
    restoreVersions h s (i + 1) es

/-- Every valid stream takes its record. -/
def restoreStreams (s : State) (sb : Bytes) : State :=
  ((upTo 4096).filter fun n => bit (s.rd .rngCfg n) 31).foldl (fun s n =>
    let r := slice sb (24 * n) 24
    ((s.wr .rngKey n 0 (fld r 0 8)).wr .rngCtrLo n 0 (fld r 8 8)).wr .rngCtrHi n 0 (fld r 16 8)) s

/-- Write the image back, and compare its digest; stage 3 awaits the mirrored writes (R338, R395). -/
def restoreDo (s : State) (c : Issued) (h : Bytes) (l : List SnapEntry) (pages : Bytes) : State :=
  let ps := l.flatMap fun e => (upTo e.pages).map (e.addr / 65536 + ·)
  let sb := slice h 0x2000 98304
  let d := digestGrans [0, 0, 0, 0, 0, 0, 0, 0] (0x20000 / 32) (chunk 32 (pages.length / 32 + 1) pages)
  let d := digestGrans d (0x2000 / 32) (chunk 32 3072 sb)
  let s := restorePages c.world c.iid ps pages s
  let s := (restoreStreams (restoreVersions h s 0 l) sb).wr .seqStep 0 0 (fld h 8 8)
  copyFinish (modIssued s c.iid fun c => { c with stage := 3, failed := digestBytes d ≠ slice h 16 8 }) c.iid

/-- RESTORE: held while the part is not quiet or a snapshot runs; later RUN_PLANs stay behind it until it ends. -/
def restoreRow (s : State) (iid : Nat) : State :=
  match getIssued s iid with
  | none => s
  | some c =>
    if c.op ≠ 0x0031 then s
    else if c.stage = 3 then copyFinish s iid
    else if !imageOk c.ops then complete s iid stBadDescriptor
    else if c.stage = 0 && imagePeer s c.world c.ops ≠ stOk then complete s iid (imagePeer s c.world c.ops)
    else if c.stage = 0 && (!quietBut s iid || s.snp.cur.isSome || olderHeld s iid [0x0030, 0x0031]) then holdCmd s iid
    else
      let s := holdCmd s iid
      match imageFetch s c 1 0 0x20000 with
      | (s, .wait) => s
      | (s, .fail st) => complete s iid st
      | (s, .ok h) =>
        let l := (entries h 0x1000 (fld h 6 2 % 257) 16).map (snapEntry s true)
        let st := restoreStatus s c.world h l
        if st ≠ stOk then complete s iid st
        else
          let es := l.map Prod.fst
          match imageFetch s c 2 0x20000 (65536 * (es.map fun e => e.pages).sum) with
          | (s, .wait) => s
          | (s, .fail st) => complete s iid st
          | (s, .ok bs) => restoreDo s c h es bs
where
  /-- Quiet, but for RUN_PLANs held behind this command. -/
  quietBut (s : State) (iid : Nat) : Bool :=
    !planRuns s && s.seq.held.all (fun h => decide (iid < h.iid)) && s.seq.copies.all (fun c => !c.running) && s.seq.trans.isNone

/-- RESTORE. -/
def execRestore (iid : Nat) (s : State) : Host.Outcome State Fault Refusal := .next (restoreRow s iid)

end Sys2Proof.Machine
end

