-- ==== Sys2Proof/Machine/Flash.lean ====
section
/-! DEFINITION. The module flash (R482): option bytes (R470, R471), the activation record (R487), manifests and their
verification (R422, R423, R483, R484), and the choice of the slot to start (R487). -/

namespace Sys2Proof.Machine

/-! ### Bytes -/

/-- A flash byte: as last written, or as delivered. -/
def flashByte (s : State) (a : Nat) : Byte :=
  match s.plat.flash.find? fun g => decide (g.addr ≤ a) && decide (a < g.addr + g.len) with
  | some g => g.data.getD (a - g.addr) 0xFF
  | none => Config.factoryFlash a

def flashRead (s : State) (a n : Nat) : Bytes := (upTo n).map fun i => flashByte s (a + i)

/-- Erase `n` bytes, then write `bs` at their start. -/
def flashPut (s : State) (a n : Nat) (bs : Bytes) : State :=
  modPlat s fun p => { p with flash := { addr := a, len := n, data := bs } :: p.flash }

/-- Slots and settings blocks (R482). -/
def slotSize : Nat := 62 * 2 ^ 20
def slotAddr (n : Nat) : Nat := if n = 0 then 0x100000 else 0x3F00000
def settingsAddr (n : Nat) : Nat := if n = 0 then 0x7D00000 else 0x7E00000

/-! ### Two-copy records (R471, R487) -/

/-- The newer of two copies that are valid; the first when their SEQs are equal. The flag says the second. -/
def pickCopy (ok : Bytes → Bool) (a b : Bytes) : Option (Bool × Bytes) :=
  if ok a then (if ok b && decide (fld a 4 4 < fld b 4 4) then some (true, b) else some (false, a))
  else if ok b then some (true, b)
  else none

/-- An option-byte copy is valid: MAGIC, CRC and every zero field. -/
def obOk (b : Bytes) : Bool :=
  fld b 0 4 == 0x4F505442 && fld b 508 4 == crc32 (slice b 0 508) && fld b 8 1 / 2 == 0 && fld b 9 1 / 16 == 0
    && fld b 10 1 / 4 == 0 && fld b 11 1 == 0 && zeros b 22 486

/-- The option bytes in force (READ_A, READ_B, SELECT). -/
def optionBytes (s : State) : Option (Bool × Bytes) := pickCopy obOk (flashRead s 0 512) (flashRead s 0x1000 512)

def recOk (b : Bytes) : Bool := fld b 0 4 == 0x52454341 && fld b 60 4 == crc32 (slice b 0 60) && zeros b 12 48

/-- The activation record in force. -/
def actRecord (s : State) : Option (Bool × Bytes) := pickCopy recOk (flashRead s 0x2000 64) (flashRead s 0x3000 64)

def recState (b : Bytes) : Nat := fld b 8 1
def recSlot (b : Bytes) : Nat := fld b 9 1 % 2
def recOld (b : Bytes) : Nat := fld b 10 1 % 2
def recTries (b : Bytes) : Nat := fld b 11 1

/-- An update writes the older copy with SEQ one above the newer. -/
def recWrite (s : State) (st slot old tries : Nat) : State :=
  let second := match actRecord s with | some (b, _) => !b | none => false
  let seq := match actRecord s with | some (_, r) => (fld r 4 4 + 1) % 2 ^ 32 | none => 1
  let h := natLe 4 0x52454341 ++ natLe 4 seq ++ natLe 1 st ++ natLe 1 slot ++ natLe 1 old ++ natLe 1 tries ++ zeroBytes 48
  flashPut s (if second then 0x3000 else 0x2000) 64 (h ++ natLe 4 (crc32 h))

/-- The option bytes are written with BOOT_SLOT, in the copy that is not in force, from `b` (R491). -/
def obWrite (s : State) (b : Bytes) (slot : Nat) : State :=
  let second := match optionBytes s with | some (x, _) => !x | none => false
  let seq := match optionBytes s with | some (_, r) => (fld r 4 4 + 1) % 2 ^ 32 | none => 1
  let h := natLe 4 0x4F505442 ++ natLe 4 seq ++ natLe 1 slot ++ slice b 9 499
  flashPut s (if second then 0x1000 else 0) 512 (h ++ natLe 4 (crc32 h))

/-! ### Manifests (R483, R484) -/

def mfSvn (m : Bytes) : Nat := fld m 12 1
def mfVersion (m : Bytes) : Nat := fld m 8 4
def mfEntry (m : Bytes) (i : Nat) : Bytes := slice m (64 + 96 * i) 96
def mfSig (m : Bytes) (i : Nat) : Bytes := slice m (1024 + 1024 * i) 528
def mfCompVersion (m : Bytes) (i : Nat) : Nat := fld (mfEntry m i) 4 4
def mfCompMin (m : Bytes) (i : Nat) : Nat := fld (mfEntry m i) 8 4

/-- The manifest of a slot: its first 4 KiB. -/
def manifest (s : State) (slot : Nat) : Bytes := flashRead s (slotAddr slot) 4096

/-- MAGIC, MEMBER, FORMAT, NCOMP and the reserved fields. -/
def mfFieldsOk (s : State) (m : Bytes) : Bool :=
  fld m 0 4 == 0x4D4E4654 && fld m 4 2 == s.rdf .gblId 0 0 15 0 && fld m 6 2 == 1 && fld m 13 1 == 8
    && decide (1 ≤ fld m 14 1) && decide (fld m 14 1 ≤ 2) && fld m 15 1 == 0 && zeros m 24 40 && decide (mfSvn m ≤ 128)
    && ((upTo 8).all fun i =>
      let e := mfEntry m i
      fld e 0 1 == i + 1 && zeros e 1 3 && fld e 12 4 % 4096 == 0 && zeros e 20 12)
    && (upTo (fld m 14 1)).all fun i => zeros (mfSig m i) 1 15

/-- A key slot is programmed and not revoked (R432). -/
def keyOk (s : State) (k : Nat) : Bool := bit (s.rd .secBootStatus) (44 + k) && !bit (s.rd .secBootStatus) (40 + k)

/-- The first signature block of one of the slots `ks` that verifies: its key slot. -/
def sigBy (s : State) (m : Bytes) (ks : List Nat) : Option Nat :=
  ((upTo (fld m 14 1)).find? fun i =>
    let g := mfSig m i
    ks.contains (fld g 0 1) && keyOk s (fld g 0 1) && Config.sigVerifies (fld g 0 1) (slice m 0 832) (slice g 16 512)).map
    fun i => fld (mfSig m i) 0 1

/-- An owner signature is required. -/
def ownerReq (s : State) : Bool := keyOk s 2 || keyOk s 3

/-- The signature rule of R423. -/
def sigsOk (s : State) (m : Bytes) : Bool := (sigBy s m [0, 1]).isSome && (!ownerReq s || (sigBy s m [2, 3]).isSome)

/-- Bytes that a component occupies. -/
def compRange (m : Bytes) (i : Nat) : Nat × Nat := let e := mfEntry m i; (fld e 12 4, fld e 12 4 + fld e 16 4)

/-- The manifest's own bytes. -/
def mfRange (m : Bytes) : Nat × Nat := (0, 1024 + 1024 * fld m 14 1)

/-- Every component lies in the slot and matches its digest, and none shares a byte (R484). -/
def compsOk (s : State) (slot : Nat) (m : Bytes) : Bool :=
  rangesApart (mfRange m :: (upTo 8).map (compRange m)) && (upTo 8).all fun i =>
    let r := compRange m i
    decide (r.2 ≤ slotSize) && sha512 (flashRead s (slotAddr slot + r.1) (r.2 - r.1)) == slice (mfEntry m i) 32 64

/-- The fused security version. -/
def svnFused (s : State) : Nat := s.rdf .secBootStatus 0 0 63 56

/-- The checks of R423 on a slot, as a reason of R494; 0 accepts. -/
def slotReason (s : State) (slot : Nat) : Nat :=
  let m := manifest s slot
  if !mfFieldsOk s m then 2
  else if !sigsOk s m then 3
  else if mfSvn m < svnFused s then 5
  else if !compsOk s slot m then 4
  else 0

/-! ### The slot to start (R487) -/

/-- The ROM's choice from the record and the option bytes, with TRIES counted. -/
def romChoice (s : State) : State × Nat :=
  match actRecord s with
  | none => (s, match optionBytes s with | some (_, b) => fld b 8 1 % 2 | none => 0)
  | some (_, r) =>
    if recState r ≠ 1 then (s, recSlot r)
    else if 3 < recTries r + 1 then (recWrite s 2 (recOld r) (recOld r) (recTries r + 1), recOld r)
    else (recWrite s 1 (recSlot r) (recOld r) (recTries r + 1), recSlot r)

/-- The slot that starts: the chosen one, else the other; none if both fail R423. -/
def bootChoice (s : State) : State × Option Nat :=
  let r := romChoice s
  if slotReason r.1 r.2 = 0 then (r.1, some r.2)
  else if slotReason r.1 (1 - r.2) = 0 then (r.1, some (1 - r.2))
  else (r.1, none)

/-! ### Settings (R490) -/

/-- A half of a settings block, from its header on. -/
def settingsHalf (slot i : Nat) : Nat := settingsAddr slot + i * 0x80000

def setFmt (h : Bytes) : Nat := fld h 8 4
def setLen (h : Bytes) : Nat := fld h 12 4

/-- The half at a flash address is valid: MAGIC, and the CRC over the rest of the header and the LEN bytes that follow. -/
def settingsOk (s : State) (a : Nat) : Bool :=
  let h := flashRead s a 64
  fld h 0 4 == 0x53544753 && decide (setLen h ≤ 0x80000 - 64)
    && fld h 60 4 == crc32 (slice h 0 60 ++ flashRead s (a + 64) (setLen h))

/-- The address of the half in force: the valid one with the larger SEQ. -/
def settingsOf (s : State) (slot : Nat) : Option Nat :=
  match (([0, 1] : List Nat).map (settingsHalf slot)).filter (settingsOk s) with
  | [a, b] => some (if fld (flashRead s a 64) 4 4 < fld (flashRead s b 64) 4 4 then b else a)
  | [a] => some a
  | _ => none

/-- Write a settings block: its first half. -/
def settingsWrite (s : State) (slot fmt : Nat) (d : Bytes) : State :=
  let h := natLe 4 0x53544753 ++ natLe 4 1 ++ natLe 4 fmt ++ natLe 4 d.length ++ zeroBytes 44
  flashPut s (settingsHalf slot 0) 0x80000 (h ++ natLe 4 (crc32 (h ++ d)) ++ d)

/-- Settings that migration makes, or the defaults: what the firmware writes is free (log 39). -/
def settingsFree (s : State) (slot fmt : Nat) : State :=
  let r := drawFree s
  let q := drawFree r.1
  settingsWrite q.1 slot fmt (natLe (r.2 % (0x80000 - 63)) q.2)

/-- Firmware of a manifest finds its settings in its own block, migrates the other slot's, or takes defaults. -/
def settleSettings (s : State) (slot : Nat) (m : Bytes) : State :=
  if (settingsOf s slot).isSome then s
  else
    let fmt := fld m 16 4
    match settingsOf s (1 - slot) with
    | none => settingsFree s slot fmt
    | some a =>
      let h := flashRead s a 64
      if setFmt h = fmt then settingsWrite s slot fmt (flashRead s (a + 64) (setLen h)) else settingsFree s slot fmt

/-! ### What the running firmware shows (R432, R494) -/

def runSlot (s : State) : Nat := s.rdf .gblFwStatus 0 0 25 25

/-- STATE and TRIES of the record in GBL_FW_STATUS. -/
def showRecord (s : State) : State :=
  match actRecord s with
  | none => (s.wrf .gblFwStatus 0 0 29 28 3).wrf .gblFwStatus 0 0 27 26 0
  | some (_, r) => (s.wrf .gblFwStatus 0 0 29 28 (recState r)).wrf .gblFwStatus 0 0 27 26 (min 3 (recTries r))

/-- The slot not running holds a staged image, or none does. -/
def setStaged (s : State) (b : Bool) (svn : Nat) : State :=
  (s.wrf .gblFwStatus 0 0 31 31 (b2n b)).wrf .gblFwStatus 0 0 23 16 (if b then svn else 0)

/-- Links that train or run. -/
def liveLinks (s : State) : List Nat :=
  (upTo 65).filter fun n =>
    let st := (if n = 0 then s.lhl else getLink s (.port (n - 1))).st
    st == .active || st == .train || st == .retrain

/-- Firmware from a slot runs: the status registers, and the versions of the components that take effect in a start of
the given kind (R484): IDs 1 to 4 always, Amber with a cold one, SerDes and LPDDR5X training with a reset; without one they take
over link by link and channel by channel. -/
def runFirmware (s : State) (slot : Nat) (reset cold : Bool) : State :=
  let m := manifest s slot
  let kept := slot == runSlot s && !(match actRecord s with | some (_, r) => recState r == 2 | none => false)
  let s := (s.wrf .gblFwStatus 0 0 63 32 (mfVersion m)).wrf .gblFwStatus 0 0 25 25 slot
  let s := if kept then s else setStaged s false 0
  let b := s.rd .secBootStatus
  let b := setBits (setBits (setBits (setBits (setBits b 55 48 (mfSvn m)) 39 38 ((sigBy s m [0, 1]).getD 0)) 37 36
    (if ownerReq s then (sigBy s m [2, 3]).getD 0 else 0)) 35 35 (b2n (ownerReq s))) 34 34 slot
  let links := if reset then [] else liveLinks s
  let chans := if reset then [] else (upTo 128).filter fun c => s.rdf .mctChstat c 0 31 29 != 4
  let v := (upTo 8).map fun i =>
    if i < 4 || (links.isEmpty && i == 5) || (chans.isEmpty && i == 6) || (cold && i == 4) then mfCompVersion m i
    else s.plat.compVer.getD i 0
  showRecord (modPlat (settleSettings (s.wr .secBootStatus 0 0 b) slot m) fun p =>
    { p with compVer := v, meas := b, oldLinks := links, oldChans := chans, nextVer := (mfCompVersion m 5, mfCompVersion m 6) })

end Sys2Proof.Machine
end

