-- ==== Sys2Proof/Machine/Reset.lean ====
section
/-! DEFINITION. Resets and bring-up (R465 to R474, R511, R512). -/

namespace Sys2Proof.Machine

/-! ### What each scope keeps (R466) -/

/-- Registers that a warm reset keeps: Amber's and the event table's (R463), RAS counters, world assignments, the limit
and the retire mask (R285), the reset and boot records, and the counters that count from cold reset on (R347, R352, R381, R382;
log 175). -/
def warmKeeps : RegName → Bool
  | .lhlCnt | .hqeCnt | .qxfCnt | .qxfPortCnt | .fijCnt
  | .mctLimit | .mctRetire | .rasCnt | .rasTile | .rasChan | .secWorldTile | .secWorldRing | .secWorldPort
  | .secWorldStream | .secWorldEvt | .rscCfg | .rscCause | .rscBoot | .rscBlkstat | .evcSrc | .evcWatch | .evcWake
  | .ambSens | .ambFilt | .ambRule | .ambWdog | .ambAlarm | .gblFwStatus | .secBootStatus => true
  | _ => false

/-- Registers that a cold reset keeps: fuses, the boot counter, and the counts since power-on. -/
def coldKeeps : RegName → Bool
  | .secBootStatus | .rscBoot | .rscCause | .gblFwStatus => true
  | _ => false

/-- The offset belongs to a register that satisfies `f`. -/
def offKept (f : RegName → Bool) (o : Nat) : Bool := match regDecode o with | some (n, _, _) => f n | none => false

/-- After a Warm reset an ACTIVE source is READY again, with its ATAG. -/
def evcReready (s : State) : State :=
  (s.regs.map Prod.fst).foldl (fun s o => match regDecode o with
    | some (.evcSrc, i, _) =>
      let x := s.rd .evcSrc i
      if bit x 62 then
        let s := s.wr .evcSrc i 0 (setBits (setBit (setBit x 62 false) 61 true) 31 16 (bits x 15 0))
        evcTakeWaiting s i
      else s
    | _ => s) s

/-- A new debug nonce (R429): eight free words. -/
def newNonce : Nat → State → State
  | 0, s => s
  | n + 1, s => let r := drawFree s; newNonce n (r.1.wr .secDbgNonce n 0 (r.2 % 2 ^ 32))

/-- The debug level returns to 0 and the nonce is renewed at any reset; the last firmware reason is gone. -/
def resetDebug (s : State) : State :=
  let s := newNonce 8 (s.wrf .secBootStatus 0 0 33 32 0)
  let s := modPlat s fun p => { p with meas := s.rd .secBootStatus }
  (s.wrf .gblFwStatus 0 0 15 8 0).wrf .gblFwStatus 0 0 30 30 0

/-- The active Shadowed and Quiesce fields of `s` stay in force in `t` (R259). -/
def keepConfig (s t : State) : State :=
  s.regs.foldl (fun t p => match regDecode p.1 with
    | some (n, i, j) =>
      if (regInfo n).sh + (regInfo n).qu = 0 then t else t.wr n i j (shadowMerge n (t.rd n i j) p.2.toNat)
    | none => t) t

/-- Every link comes up anew in a state. -/
def linksAnew (s : State) (st : LinkSt) : State := (upTo 64).foldl (fun s p => linkAnew s (.port p) st) (linkAnew s .lhl st)

/-- What a warm reset leaves: LPDDR5X, the time base and the Amber domain, and the active configuration with its epoch; shadows
and transitions are discarded (R259, R466; log 151). -/
def warmClear (s : State) : State :=
  let t : State :=
    { State.reset with
      regs := mapKeep (offKept warmKeeps) s.regs
      waiting := mapKeep (offKept fun n => n == .ambRule || n == .evcSrc) s.waiting
      time := s.time
      mem := mapKeep (fun a => decide (a < 0x400000000000)) s.mem
      flips := mapKeep (fun a => decide (a < 0x400000000000)) s.flips
      evacs := s.evacs
      seq := { State.reset.seq with epoch := s.seq.epoch }
      host := s.host
      plat := { s.plat with restart := none, blk := (0, 0), retrains := [], evac := none, ash := none, ceil := [0, 0, 0, 0], power := 0,
                            lowReads := 0, dbgLock := false, reloaded := false, unitsOut := false, waitHigh := false, dies := [] }
      out := s.out
      freeCtr := s.freeCtr
      pending := s.pending }
  let t := (upTo 128).foldl (fun t c => t.wrf .mctChstat c 0 15 0 (s.rdf .mctChstat c 0 15 0)) { t with lhl := s.lhl, ports := s.ports }
  refreshPoints (resetDebug (evcReready (keepConfig s (linksAnew t .down))))

/-- What a cold reset leaves: fuses, flash, and the boot counter. -/
def coldClear (s : State) : State :=
  let t : State :=
    { State.reset with
      regs := mapKeep (offKept coldKeeps) s.regs
      host := s.host
      plat := { flash := s.plat.flash, compVer := s.plat.compVer }
      out := s.out
      freeCtr := s.freeCtr
      pending := s.pending }
  resetDebug t

/-! ### Bring-up (R469) -/

/-- Every listed tile is fenced, its microcode load having failed (step 8). -/
def failTiles (s : State) (l : List Tile) : State := l.foldl (fun s t => bankSet s .mshFenceTile t.val true) s

/-- Option bytes, or the reset values where no copy is valid, into the fields they name, active and shadow (R470, R471). -/
def applyOptions (s : State) : State :=
  match optionBytes s with
  | none =>
    let s := (s.wrf .rscBoot 0 0 30 30 1).wrf .rscBoot 0 0 29 29 0
    let s := (s.wrf .lhlCfg 0 0 31 28 (bits (regReset .lhlCfg 0 0) 31 28)).wrf .mctCfg 0 0 31 30 (bits (regReset .mctCfg 0 0) 31 30)
    let s := (upTo 64).foldl (fun s p => s.wrf .qxfPortCfg p 0 27 27 (bits (regReset .qxfPortCfg p 0) 27 27)) s
    s.wrf .ambWdog 0 0 15 0 (bits (regReset .ambWdog 0 0) 15 0)
  | some (second, b) =>
    let s := (s.wrf .rscBoot 0 0 30 30 0).wrf .rscBoot 0 0 29 29 (b2n second)
    let s := (s.wrf .lhlCfg 0 0 31 30 (fld b 9 1 % 4)).wrf .lhlCfg 0 0 29 28 (fld b 9 1 / 4 % 4)
    let s := s.wrf .mctCfg 0 0 31 30 (fld b 10 1 % 4)
    let s := (upTo 64).foldl (fun s p => s.wrf .qxfPortCfg p 0 27 27 (b2n (bit (fld b 12 8) p))) s
    if fld b 20 2 = 0 then s else s.wrf .ambWdog 0 0 15 0 (fld b 20 2)

/-- The boot counter counts a start, saturating (R473). -/
def countBoot (s : State) : State := s.wrf .rscBoot 0 0 11 8 (min 15 (s.rdf .rscBoot 0 0 11 8 + 1))

/-- The last bring-up step completed. -/
def bootStep (s : State) (n : Nat) : State := s.wrf .rscBoot 0 0 7 4 n

/-- Ports and the LHL start (steps 9 and 10): enabled ports whose start did not fail, and the LHL, look for a signal. -/
def startLinks (s : State) (fail : List PortNo) : State :=
  let s := (upTo 64).foldl (fun s p =>
    let up := linkEnabled s (.port p) && !(fail.map Fin.val).contains p
    linkAnew s (.port p) (if up then .detect else .down)) s
  linkAnew s .lhl .detect

/-- Ash mode (R474): the boot counter has passed 3. -/
def enterAsh (s : State) : State :=
  linkAnew (bootStep (s.wrf .rscBoot 0 0 31 31 1) 4) .lhl .detect

/-- Steps 5 to 10 on the firmware of a slot. -/
def bringUnits (s : State) (cold : Bool) (b : BringUp) (slot : Nat) : State :=
  let s := runFirmware s slot true cold
  let s := b.chanFail.foldl (fun s c => s.wrf .mctChstat c.val 0 31 29 4) s
  let s := startLinks (failTiles s b.tileFail) b.portFail
  let s := s.wr .ckgStatus 0 0 0xC000FFF0
  let out := !b.tileFail.isEmpty || !b.portFail.isEmpty || !b.chanFail.isEmpty
  bootStep (modPlat s fun p => { p with unitsOut := out }) 9

/-- Steps 2 to 4, then the rest: a failed verification of both slots ends the boot. -/
def bringUp (s : State) (cold : Bool) (b : BringUp) : State :=
  let s := modPlat s fun p => { p with pwrGood := true, waitHigh := false, wakeDue := false, heldWake := false, tripped := false, wdogAt := s.time }
  let s := countBoot (applyOptions (bootStep (s.wrf .rscBoot 0 0 31 31 0) 3))
  if 3 < s.rdf .rscBoot 0 0 11 8 then enterAsh s
  else match bootChoice s with
    | (s, none) => s
    | (s, some slot) => bringUnits s cold b slot

/-! ### The resets (R465) -/

/-- A Warm reset from source `src`. -/
def warmReset (s : State) (src : Nat) (b : BringUp) : State := bringUp (resetCause (warmClear s) src 1 0) false b

/-- A Cold reset: with MOD_RESET_N low, bring-up waits at step 1 with MOD_PWR_GOOD low (R511). -/
def coldReset (s : State) (src : Nat) (b : BringUp) : State :=
  let s := resetCause (coldClear s) src 0 0
  if b.resetLow then bootStep (modPlat s fun p => { p with waitHigh := true, pwrGood := false }) 0
  else bringUp s true b

/-- The part runs: its rails are up and bring-up does not wait. -/
def running (s : State) : Bool := s.plat.powered && !s.plat.waitHigh

/-- MOD_RESET_N held low: ignored below 0.5 µs, acting from 1 µs on, and in between as a free value has it. -/
def execModResetN (lowNs : Nat) (b : BringUp) (s : State) : Host.Outcome State Fault Refusal :=
  if !running s || lowNs < 500 then .next s
  else
    let r := if lowNs < 1000 then drawFree s else (s, 1)
    if r.2 % 2 = 0 then .next r.1
    else if bit (s.rd .rscCfg) 30 then .next (warmReset r.1 1 b)
    else .next (coldReset r.1 1 b)

/-- MOD_RESET_N_RELEASE: the pin has been high for 1 µs, and bring-up held at step 1 proceeds. -/
def execModResetNRelease (b : BringUp) (s : State) : Host.Outcome State Fault Refusal :=
  if s.plat.powered && s.plat.waitHigh then .next (bringUp s true b) else .next s

/-- INPUT_POWER_RISE: power-on, which clears the boot counter and the counts since power-on; it also runs the bring-up of
a part that has just come out of reset (log 2). -/
def execInputPowerRise (b : BringUp) (s : State) : Host.Outcome State Fault Refusal :=
  if s.plat.powered && s.lhl.st != .down then .next s
  else
    let s := (s.wrf .rscBoot 0 0 11 8 0).wrf .rscCause 0 0 31 0 0
    .next (coldReset (modPlat s fun p => { p with powered := true }) 0 b)

/-- INPUT_POWER_LOSS: every rail falls; flash and fuses stay. -/
def execInputPowerLoss (s : State) : Host.Outcome State Fault Refusal :=
  let s := coldClear s
  .next (modPlat s fun p => { p with powered := false, pwrGood := false })

/-! ### Resets asked for by software -/

/-- An LHL RESET acts only where RSC_CFG allows its world (R465). -/
def resetAllowed (s : State) (w : World) : Bool := w == .s || bit (s.rd .rscCfg) 31

/-- The operand of a RESET holds a scope, and a die for the Die scope; anything else is dropped and counted (R329). -/
def resetOperand (x : W64) : Option (Nat × Nat) :=
  let v := x.toNat
  if v % 4 = 2 then (if v / 64 = 0 && bits v 3 2 = 0 then some (2, bits v 5 4) else none)
  else if v < 2 then some (v, 0)
  else none

/-- An LHL RESET message: of the named scope, or dropped and counted. -/
def lhlReset (s : State) (w : World) (x : W64) (scope : Nat) (b : BringUp) : State :=
  match resetOperand x with
  | none => if lhlActive s then countDropped (cntAdd s .lhlCnt 7 0 1) 0 else s
  | some (sc, d) =>
    if !lhlActive s || sc ≠ scope then s
    else if !resetAllowed s w then countDenied s 0
    else if scope = 0 then coldReset s 2 b
    else if scope = 1 then warmReset s 2 b
    else dieReset s 2 d

/-- A bring-up in which nothing fails. -/
def cleanBringUp : BringUp := { tileFail := [], portFail := [], chanFail := [], resetLow := false }

/-- RESET, scope Cold. -/
def execLhlResetCold (w : World) (operand : W64) (b : BringUp) (s : State) : Host.Outcome State Fault Refusal :=
  .next (lhlReset s w operand 0 b)
/-- RESET, scope Warm. -/
def execLhlResetWarm (w : World) (operand : W64) (b : BringUp) (s : State) : Host.Outcome State Fault Refusal :=
  .next (lhlReset s w operand 1 b)
/-- RESET, scope Die. -/
def execLhlResetDie (w : World) (operand : W64) (s : State) : Host.Outcome State Fault Refusal :=
  .next (lhlReset s w operand 2 cleanBringUp)

/-- RSC_SWRST is the secure world's alone. -/
def swrstOk (s : State) (w : World) (act : State → State) : State := if w = .s then act s else countDenied s 0

/-- RSC_SWRST, scope Cold. -/
def execRscSwrstCold (w : World) (b : BringUp) (s : State) : Host.Outcome State Fault Refusal :=
  .next (swrstOk s w fun s => coldReset s 4 b)
/-- RSC_SWRST, scope Warm. -/
def execRscSwrstWarm (w : World) (b : BringUp) (s : State) : Host.Outcome State Fault Refusal :=
  .next (swrstOk s w fun s => warmReset s 4 b)
/-- RSC_SWRST, scope Die: SCOPE and DIE are stored, and a Die reset keeps them (R7, R466). -/
def execRscSwrstDie (w : World) (d : Die) (s : State) : Host.Outcome State Fault Refusal :=
  .next (swrstOk s w fun s => dieReset (s.wr .rscSwrst 0 0 (16 * d.val + 2)) 4 d.val)

/-- The secure world declares boot good: the boot counter is cleared (R473). -/
def bootGood (s : State) (w : World) : State := if w = .s then s.wrf .rscBoot 0 0 11 8 0 else countDenied s 0

/-- RSC_BOOT_GOOD. -/
def execRscBootGood (w : World) (s : State) : Host.Outcome State Fault Refusal := .next (bootGood s w)

/-! ### Block reset (R467, R468, R480) -/

def brKind (s : State) : Nat := s.plat.blk.1
def brIndex (s : State) : Nat := s.plat.blk.2
def brBusy (s : State) : Bool := bit (s.rd .rscBlkrst) 31
def brState (s : State) : Nat := s.rdf .rscBlkrst 0 0 30 29

/-- The named block exists. -/
def blockOk (kind index : Nat) : Bool :=
  match kind with
  | 1 => decide (index < 64)
  | 2 => decide (index < 32)
  | 3 => decide (index < 16)
  | 4 => decide (index < 69)
  | _ => false

/-- A block of the other world is refused (R467): a port has the world of SEC_WORLD_PORT, an injector that of its registers (R382);
controllers and slices serve both worlds. -/
def blockWorldOk (s : State) (w : World) (kind index : Nat) : Bool :=
  match kind with
  | 1 => portWorld s index == w
  | 4 => w == .s
  | _ => true

/-- GO: the block quiesces; GO while BUSY, or of a block that does not exist, is dropped and counted. -/
def blockGo (s : State) (kind index : Nat) : State :=
  if brBusy s || !blockOk kind index then countDropped s 0
  else (modPlat s fun p => { p with blk := (kind, index) }).wr .rscBlkrst 0 0 (2 ^ 31 + 2 ^ 29 + kind * 2 ^ 16 + index * 2 ^ 8)

/-- BLOCK_RESET: a write of RSC_BLKRST. KIND and INDEX are stored (R7); a write whose GO names a block of the other world is
dropped (R467). -/
def blockReset (s : State) (w : World) (v : Nat) : State :=
  if bit v 0 && !blockWorldOk s w (bits v 19 16) (bits v 15 8) then countDropped s 0
  else
    let s := s.wr .rscBlkrst 0 0 (setBits (setBits (s.rd .rscBlkrst) 19 16 (bits v 19 16)) 15 8 (bits v 15 8))
    if bit v 0 then blockGo s (bits v 19 16) (bits v 15 8) else s

def execBlockReset (w : World) (val : W32) (s : State) : Host.Outcome State Fault Refusal := .next (blockReset s w val.toNat)

/-- The epoch block of a reset block: it comes up in the new configuration (R259). -/
def blockEpoch (kind index : Nat) : List EpochBlock :=
  match kind with
  | 1 => [.qxf (Fin.ofNat 64 index)]
  | 2 => [.mct (Fin.ofNat 32 index), .nmu (Fin.ofNat 32 index)]
  | _ => []

/-- A fault injector is cleared; its count stays, from cold reset on (R375, R382). -/
def injClear (s : State) (n : Nat) : State :=
  ({ s with fij := mapDel s.fij n } : State).wr .fijCtl n 0 (regReset .fijCtl n 0)

/-- The block returns to its reset state. A port's traffic moves to its bundle partners (R467). -/
def blockClear (s : State) (kind index : Nat) : State :=
  let s := match s.seq.trans with
    | none => s
    | some t => { s with seq := { s.seq with trans := some { t with left := t.left.filter fun b => !(blockEpoch kind index).contains b } } }
  match kind with
  | 1 =>
    let s := linkAnew (spreadHold (setLink s (.port index) { getLink s (.port index) with st := .down }) index) (.port index)
      (if linkEnabled s (.port index) then .detect else .down)
    injClear s index
  | 2 =>
    let s := if s.plat.evac.any fun c => c / 4 == index then evacAbort s else s
    (upTo 4).foldl (fun s i => trainReset s (4 * index + i)) s
  | 3 => { s with tkr := { s.tkr with tickets := s.tkr.tickets.filter fun q => q.1 / 8192 != index } }
  | 4 => injClear s index
  | _ => s

/-- RESET and RELEASE: the block runs again, with the result and the aborted requests shown. -/
def blockEnd (s : State) (result aborted : Nat) : State :=
  let k := brKind s
  let i := brIndex s
  let s := resetCause (blockClear s k i) 6 3 0
  let x := s.rd .rscBlkstat
  let s := s.wr .rscBlkstat 0 0 (min 65535 aborted * 2 ^ 16 + satAdd 65535 (bits x 15 0) 1)
  s.wr .rscBlkrst 0 0 (setBits (s.rd .rscBlkrst % 2 ^ 27) 28 27 result)

/-- No request is in flight in the block: a port's link holds no flit that is not acknowledged. -/
def blockIdle (s : State) (kind index : Nat) : Bool :=
  kind != 1 || ((getLink s (.port index)).replay.isEmpty && (getLink s (.port index)).wait.isEmpty)

/-- BLOCK_QUIESCE_DONE: the block is idle. -/
def execBlockQuiesceDone (s : State) : Host.Outcome State Fault Refusal :=
  if brBusy s && brState s = 1 && blockIdle s (brKind s) (brIndex s) then .next (blockEnd s 1 0) else .next s

/-- The die of a block. -/
def blockDie (kind index : Nat) : Nat :=
  match kind with
  | 1 => index / 16
  | 2 => index / 8
  | 3 => index / 4
  | _ => 0

/-- Plans that run, of those that satisfy `f`. -/
def plansOf (s : State) (f : PlanRun → Bool) : List Ctx :=
  ([PlanKind.training, .eval]).filterMap fun k => match getPlan s k with
    | some p => if f p then some (.plan k) else none
    | none => none

/-- Some 4 KiB granule of an address range lies on a channel of controller `index` (R279). -/
def onController (s : State) (index : Nat) (f : Nat × Nat) : Bool :=
  decide (f.1 < f.2) && (upTo ((min f.2 (dramLimit s) - 1) / 4096 + 1 - f.1 / 4096)).any fun i =>
    physChan s (4096 * (f.1 / 4096 + i)) / 4 == index

/-- The work that the requests of a block belong to: of a port, whose messages go by it; of a controller, the running plans, and
the ring copies with a granule of this device's memory on one of its channels; of a TKR slice, the plans that route a context of
its; a fault injector serves no request. -/
def abortCtxs (s : State) (kind index : Nat) : List Ctx :=
  match kind with
  | 1 => (((s.fab.out ++ s.fab.queued).filter fun m => m.packets.any fun x => pickPort s m.bundle x == some index).map
      fun m => m.ctx).eraseDups
  | 2 => plansOf s (fun _ => true) ++ (s.seq.copies.filter fun c => c.running && (copyFoots c).any fun x =>
      x.spc == 0 && onController s index x.rng).map fun c => .cmd c.iid
  | 3 => plansOf s fun p => match p.phase with
    | some f => f.passes.any fun x => sliceOf x.ctx == index
    | none => false
  | _ => []

/-- BLOCK_QUIESCE_TIMEOUT: requests in flight are aborted; each counts as PATH_PAR and fails the work it belongs to. -/
def execBlockQuiesceTimeout (aborted : Nat) (s : State) : Host.Outcome State Fault Refusal :=
  if brBusy s && brState s = 1 then
    let d := blockDie (brKind s) (brIndex s)
    let s1 := if aborted = 0 then s
      else (abortCtxs s (brKind s) (brIndex s)).foldl (fun s c => failCtx s c .replay none) (rasBump s 19 d aborted)
    .next (blockEnd s1 2 aborted)
  else .next s

end Sys2Proof.Machine
end

