-- ==== Sys2Proof/Machine/Power.lean ====
section
/-! DEFINITION. Clocks, operating points, gating, shades and Amber (R435 to R457). -/

namespace Sys2Proof.Machine

/-- The part runs outside Black. -/
def awake (s : State) : Bool := running s && decide (shade s < 3)

/-- The time base; in Black it is the value at entry plus the crystal count, in steps of 1/32768 s (R439). -/
def timeBase (s : State) : Nat :=
  if shade s = 3 then s.plat.blackAt + (s.time - s.plat.blackAt) * 32768 / 1000000000 * 1000000000 / 32768 else s.time

/-! ### Entering and leaving shades (R444, R445, R464) -/

/-- Fields of MIR_STATUS that R446 names. -/
def mirBusy (s : State) : Bool := !s.mir.seeding.isEmpty || s.fab.out.any (fun m => m.mirror) || s.fab.queued.any fun m => m.mirror

/-- What forbids Charcoal and Black (R446), for the issued POWER `me`, or for Amber. -/
def shadeBusy (s : State) (me : Option Nat) : Bool :=
  !quiet s || s.hqe.issued.any (fun c => some c.iid != me) || !s.hqe.buf.isEmpty || s.snp.cur.any (fun x => x.captured) || mirBusy s
    || s.nmu.isSome || bit (s.rd .mctEvac) 31 || bit (s.rd .secAttest) 31

/-- READY: pending and not active (R460). -/
def srcReady (s : State) (n : Nat) : Bool := let x := s.rd .evcSrc n; bit x 61 && !bit x 62

/-- The watched source with the lowest number that is READY. -/
def watchedReady (s : State) : Option Nat :=
  ((upTo 256).map fun i => s.rd .evcWatch i).filterMap (fun x => if bit x 31 && srcReady s (bits x 11 0) then some (bits x 11 0) else none)
    |>.foldl (fun b n => match b with | none => some n | some m => some (min m n)) none

/-- A latch of EVC_WAKE is set. -/
def latchSet (s : State) : Bool := bits (s.rd .evcWake) 4 0 != 0

/-- In Charcoal, a watched source that is READY or a latch that is set wakes the part (R442, R463). -/
def charcoalTurn (s : State) : Option Nat → State
  | some n => wakeWatched s n
  | none => if latchSet s then wakeWhite s else s

/-- The part enters Charcoal; what is latched or watched wakes it at once. -/
def enterCharcoal (s : State) : State :=
  let s := s.wrf .pwcStatus 0 0 63 62 2
  charcoalTurn s (watchedReady s)

/-- Every link is OFF. -/
def linksOff (s : State) : State :=
  linksAnew s .off

/-- The part is in Black, with what a warm reset keeps. -/
def blackNow (s : State) : State :=
  let s := linksOff ((warmClear s).wrf .pwcStatus 0 0 63 62 3)
  modPlat s fun p => { p with blackAt := s.time }

/-- The part enters Black; what is latched or watched wakes it at once. -/
def enterBlack (s : State) : State :=
  let s := blackNow s
  if latchSet s || (watchedReady s).isSome then modPlat s fun p => { p with wakeDue := true } else s

/-- The part enters Grey while quiet. -/
def enterGrey (s : State) : State := if shade s = 0 && quiet s then setInterval (s.wrf .pwcStatus 0 0 63 62 1) (scanGrey s) else s

/-- The part enters shade 2 or 3. -/
def enterDark (s : State) (n : Nat) : State := if n = 2 then enterCharcoal s else enterBlack s

/-- A trip (R451): every rail but the kept ones is off, and the part is in Black. -/
def trip (s : State) : State :=
  let s := if shade s = 3 then s else blackNow s
  modPlat (resetCause s 5 1 0) fun p => { p with tripped := true, wakeDue := false }

/-! ### POWER (R443, R446, R447) -/

def pwOp (o : Bytes) : Nat := fld o 0 1
def pwShade (o : Bytes) : Nat := fld o 1 1
def pwDies (o : Bytes) : List Nat := (upTo 4).filter fun d => bit (fld o 2 1) d
def pwPoint (o : Bytes) : Nat := fld o 3 1

/-- The issued POWER with an OP. -/
def powerCmd (s : State) (iid op : Nat) : Option Issued :=
  match getIssued s iid with
  | none => none
  | some c => if c.op == 0x0070 && pwOp c.ops == op then some c else none

/-- The completion of a command can be written now. -/
def cplRoom (s : State) (c : Issued) : Bool := lhlActive s && !ringFull s (ringCq s c.ring)

/-- SET_SHADE: the completion and its INTR go out before the part enters the shade. -/
def setShadeGo (s : State) (c : Issued) : State :=
  match pwShade c.ops with
  | 0 => complete (wakeWhite s) c.iid stOk
  | 1 => enterGrey (complete s c.iid stOk)
  | n =>
    if shadeBusy s (some c.iid) then complete s c.iid stNeedsQuiesce
    else if cplRoom s c then enterDark (complete s c.iid stOk) n
    else s

/-- SET_SHADE. -/
def execSetShade (iid : Nat) (s : State) : Host.Outcome State Fault Refusal :=
  match powerCmd s iid 1 with
  | some c => .next (setShadeGo s c)
  | none => .next s

/-- Every named die runs at the slowest of its three points. -/
def pointsSettled (s : State) (o : Bytes) : Bool := (pwDies o).all fun d => curPoint s d == pointTarget s d

/-- SET_POINT commands whose dies have settled complete. -/
def settlePoints (s : State) : State :=
  (s.hqe.issued.filter fun c => c.op == 0x0070 && pwOp c.ops == 2 && c.stage == 1).foldl
    (fun s c => if pointsSettled s c.ops then complete s c.iid stOk else s) s

/-- The driver's ceilings of the named dies. -/
def setCeil (s : State) (o : Bytes) : State :=
  modPlat s fun p => { p with ceil := (upTo 4).map fun d => if (pwDies o).contains d then pwPoint o else p.ceil.getD d 0 }

/-- SET_POINT: the ceilings are set at once. -/
def execSetPoint (iid : Nat) (s : State) : Host.Outcome State Fault Refusal :=
  match powerCmd s iid 2 with
  | none => .next s
  | some c =>
    let s := if c.stage = 0 then refreshPoints (setCeil (modIssued s iid fun c => { c with stage := 1 }) c.ops) else s
    .next (settlePoints s)

/-- The tiles a running phase names (R443). -/
def namedTiles (s : State) : List Nat :=
  match curPhase s with
  | none => []
  | some c => phaseTiles c.p.queues c.f

/-- The status of a GATE or UNGATE before it acts. -/
def gateStatus (s : State) (c : Issued) : Nat :=
  let r := gtRect c.ops
  if !rectOk r.1 r.2.1 r.2.2.1 r.2.2.2 then stOutOfRange
  else if (gtTiles c.ops).all fun t => tileWorld s t == c.world then stOk
  else stAccessDenied

/-- Opcodes that act on tiles, and POWER: a held one lets no later one pass (R501). -/
def gateOps : List Nat := [0x0040, 0x0041, 0x0042, 0x0070]

/-- A GATE or UNGATE: held while a tile is under test (R498). -/
def gateRow (s : State) (c : Issued) (act : State → State) : State :=
  if gateStatus s c ≠ stOk then complete s c.iid (gateStatus s c)
  else if (gtTiles c.ops).any (underTest s) || olderHeld s c.iid gateOps then
    holdCmd s c.iid
  else act (unholdCmd s c.iid)

/-- GATE: the tiles that a running phase names are gated when it ends. -/
def execGate (iid : Nat) (s : State) : Host.Outcome State Fault Refusal :=
  match powerCmd s iid 3 with
  | none => .next s
  | some c => .next (if c.stage = 0 then gateRow s c fun s => gateStep (namedTiles s) s c else s)

/-- UNGATE. -/
def execUngate (iid : Nat) (s : State) : Host.Outcome State Fault Refusal :=
  match powerCmd s iid 4 with
  | none => .next s
  | some c => .next (gateRow s c fun s => complete (ungateTiles s (gtTiles c.ops)) c.iid stOk)

/-- TILE_CLOCK_GATE: software sees only time. -/
def execTileClockGate (_ : Tile) (s : State) : Host.Outcome State Fault Refusal := .next s

/-! ### Power and points (R441, R442) -/

/-- LIMIT_W, within its range. -/
def limitW (s : State) : Nat := max 800 (min 2400 (s.rdf .pwcCtl 0 0 11 0))

/-- The power point and its count of low readings. -/
def setPower (s : State) (v n : Nat) : State := refreshPoints (modPlat s fun p => { p with power := v, lowReads := n })

/-- One reading of module input power. -/
def powerPoint (s : State) (w : Nat) : State :=
  let p := s.plat
  if limitW s < w then setPower s (min 4 (p.power + 1)) 0
  else if w < limitW s - 100 then
    if 50 ≤ p.lowReads + 1 then setPower s (p.power - 1) 0 else setPower s p.power (p.lowReads + 1)
  else setPower s p.power 0

/-- POWER_READING. -/
def execPowerReading (watts : Fin 4096) (s : State) : Host.Outcome State Fault Refusal :=
  .next (if awake s then powerPoint (s.wrf .pwcStatus 0 0 43 32 watts) watts else s)

/-- TCLK_SWITCH_UP: the rail of die d is in regulation. -/
def execTclkSwitchUp (d : Die) (s : State) : Host.Outcome State Fault Refusal :=
  .next (if awake s then settlePoints (setPointOf s d (pointTarget s d)) else s)

/-! ### Amber's sensors and rules (R448 to R451) -/

/-- The filter class of a sensor. -/
def senClass (x : Nat) : Nat :=
  if x < 32 then 0 else if x < 56 then 1 else if x < 80 then 2 else if x < 83 then 3 else if x < 85 then 4
  else if x < 89 then 5 else if x < 93 then 6 else 7

/-- Temperatures are signed; the other units are not. -/
def senSigned (x : Nat) : Bool := decide (x < 32) || (decide (83 ≤ x) && decide (x < 93)) || decide (96 ≤ x)

/-- A 16-bit reading in the sensor's unit. -/
def senVal (x v : Nat) : Int := if senSigned x then toSigned 16 v else Int.ofNat (v % 65536)

/-- The median of five readings. -/
def median5 (l : List Int) : Int :=
  (l.find? fun m => decide ((l.filter fun x => decide (x < m)).length ≤ 2) && decide ((l.filter fun x => decide (m < x)).length ≤ 2)).getD 0

/-- The filter exponent of a class (R457). -/
def filtN (s : State) (c : Nat) : Nat := min 7 (bits (s.rd .ambFilt) (4 * c + 3) (4 * c))

/-- Store a sensor's filtered value and its median. -/
def setSens (s : State) (x : Nat) (v m : Int) : State := s.wr .ambSens x 0 (ofSigned 16 m * 65536 + ofSigned 16 v)

/-- The filtered value of a sensor, in its unit. -/
def sensValue (s : State) (x : Nat) : Int := senVal x (s.rdf .ambSens x 0 15 0)

/-- One raw reading: from the fifth on, the median updates the filtered value, which starts at the first median. The
result says whether there is a new filtered value. -/
def sensSample (s : State) (x : Nat) (raw : Int) : State × Bool :=
  let old := mapGet (fun _ => []) s.plat.raws x
  let l := (raw :: old).take 5
  let s := modPlat s fun p => { p with raws := mapIns p.raws x l }
  if l.length < 5 then (s, false)
  else
    let m := median5 l
    let y0 := mapGet (fun _ => 0) s.plat.filt x
    let y := if old.length < 5 then m * 256 else y0 + Int.tdiv (m * 256 - y0) (Int.ofNat (2 ^ filtN s (senClass x)))
    let s := modPlat s fun p => { p with filt := mapIns p.filt x y }
    (setSens s x (Int.tdiv y 256) m, true)

/-- A derived sensor takes the largest filtered value of others that have one. -/
def derive (s : State) (x : Nat) (l : List Nat) : State × Bool :=
  match (l.filter fun i => decide (5 ≤ (mapGet (fun _ => []) s.plat.raws i).length) || decide (96 ≤ i)).map (sensValue s) with
  | [] => (s, false)
  | v :: vs => (setSens s x (vs.foldl max v) 0, true)

def ruleDwell (r : Nat) : Nat := orElse0 (bits r 38 34) 1
def ruleParam (r : Nat) : Nat := bits r 57 46
def ruleAction (r : Nat) : Nat := bits r 60 58
def ruleActive (r : Nat) : Bool := bit r 63 && bit r 62

/-- The value meets what an inactive rule waits for (activation), or an active one (clearing). -/
def ruleMeets (r x : Nat) (v : Int) : Bool :=
  let th := senVal x (bits r 31 16)
  let hy := Int.ofNat (bits r 15 0)
  match bit r 62, bit r 61 with
  | false, false => decide (th < v)
  | false, true => decide (v < th)
  | true, false => decide (v < th - hy)
  | true, true => decide (th + hy < v)

/-- The rule changes state: a rule that clears takes the value written while it was active. -/
def ruleFlip (s : State) (n : Nat) : State :=
  let r := s.rd .ambRule n
  if bit r 62 then
    match waitingVal s .ambRule n 0 with
    | some v => clearWaiting (s.wr .ambRule n 0 (setBit v 62 false)) .ambRule n 0
    | none => s.wr .ambRule n 0 (setBit r 62 false)
  else s.wr .ambRule n 0 (setBit r 62 true)

/-- Evaluate rule n at a new filtered value of its sensor; the result says whether it has become active. -/
def ruleEval (s : State) (n : Nat) (v : Int) : State × Bool :=
  let r := s.rd .ambRule n
  let c := if ruleMeets r (bits r 45 39) v then mapGet (fun _ => 0) s.plat.dwell n + 1 else 0
  let put := fun (s : State) (k : Nat) => modPlat s fun p => { p with dwell := mapSet (fun _ => 0) p.dwell n k }
  if c < ruleDwell r then (put s c, false) else (ruleFlip (put s 0) n, !bit r 62)

/-- Evaluate every valid rule of sensor x; the numbers of those that have become active. -/
def rulesEval (s : State) (x : Nat) (v : Int) : State × List Nat :=
  (upTo 64).foldl (fun (a : State × List Nat) n =>
    let r := a.1.rd .ambRule n
    if bit r 63 && bits r 45 39 == x then
      let e := ruleEval a.1 n v
      (e.1, if e.2 then a.2 ++ [n] else a.2)
    else a) (s, [])

/-- Lower the thermal point of each die of a STEP_DOWN rule. -/
def stepDown (s : State) (r : Nat) : State :=
  refreshPoints (modPlat s fun p =>
    { p with therm := (upTo 4).map fun d => if bit r (46 + d) then min 4 (p.therm.getD d 0 + 1) else p.therm.getD d 0 })

/-- What a rule does when it becomes active (the table "Rule actions" of R450). -/
def actRule (s : State) (n : Nat) : State :=
  let r := s.rd .ambRule n
  match ruleAction r with
  | 0 => evcFire s (ruleParam r) n
  | 1 => stepDown s r
  | 2 => if 2 ≤ bits r 47 46 then refreshPoints (modPlat s fun p => { p with therm := [4, 4, 4, 4] }) else s
  | 3 => wakeWhite s
  | 4 => trip s
  | _ => s

/-- The order in which actions of one sample take effect (R450). -/
def actOrder : List Nat := [4, 2, 1, 3, 0]

/-- The actions of rules that have become active; a trip overrides the others. -/
def actRules (s : State) (l : List Nat) : State :=
  (actOrder.flatMap fun a => l.filter fun n => ruleAction (s.rd .ambRule n) == a).foldl
    (fun s n => if s.plat.tripped && ruleAction (s.rd .ambRule n) != 4 then s else actRule s n) s

/-- A wake that was kept pending acts once no SHADE action is active. -/
def heldWakeGo (s : State) : State :=
  if s.plat.heldWake && amberHeld s == 0 then wakeWhite (modPlat s fun p => { p with heldWake := false }) else s

/-- A new filtered value of sensor x. -/
def sensorNew (s : State) (x : Nat) : State :=
  let e := rulesEval s x (sensValue s x)
  heldWakeGo (actRules e.1 e.2)

/-- A sensor, and the derived sensors that share its sample: those of a die with its last sensor. -/
def sampleOne (s : State) (x : Nat) (raw : Int) : State :=
  let a := sensSample s x raw
  let s := if a.2 then sensorNew a.1 x else a.1
  if x < 32 && x % 8 = 7 then
    let b := derive s (96 + x / 8) ((upTo 8).map fun j => x / 8 * 8 + j)
    let s := if b.2 then sensorNew b.1 (96 + x / 8) else b.1
    if x = 31 then
      let c := derive s 100 [96, 97, 98, 99]
      if c.2 then sensorNew c.1 100 else c.1
    else s
  else s

/-- AMBER_SAMPLE: a raw reading of a sensor; the derived ones have none. -/
def execAmberSample (sensor : Fin 101) (raw : BitVec 16) (s : State) : Host.Outcome State Fault Refusal :=
  .next (if running s && decide (sensor.val < 96) then sampleOne s sensor (senVal sensor raw.toNat) else s)

/-- The rules that are active with an action. -/
def activeRules (s : State) (a : Nat) : List Nat :=
  ((upTo 64).map fun n => s.rd .ambRule n).filter fun r => ruleActive r && ruleAction r == a

/-- THERMAL_STEP_REPEAT: every active STEP_DOWN rule lowers its dies again. -/
def execThermalStepRepeat (s : State) : Host.Outcome State Fault Refusal :=
  .next (if running s && !s.plat.tripped then (activeRules s 1).foldl stepDown s else s)

/-- THERMAL_POINT_RISE: dies that no active STEP_DOWN rule names rise by one code. -/
def execThermalPointRise (s : State) : Host.Outcome State Fault Refusal :=
  let keep := fun (d : Nat) => (activeRules s 1).any fun r => bit r (46 + d)
  .next (if running s then
    refreshPoints (modPlat s fun p =>
      { p with therm := (upTo 4).map fun d => if keep d then p.therm.getD d 0 else p.therm.getD d 0 - 1 })
  else s)

/-- AMBER_SHADE_ENTRY: the darkest held shade is entered once R446 would allow it. -/
def execAmberShadeEntry (s : State) : Host.Outcome State Fault Refusal :=
  let n := amberHeld s
  .next (if !running s || decide (n ≤ shade s) then s
    else if n = 1 then enterGrey s
    else if shadeBusy s none then s
    else enterDark s n)

/-- REGULATOR_ALERT: the latch wakes, and a fault bit trips (R452), with MOD_PWR_GOOD driven low (R512). -/
def execRegulatorAlert (st : RegStatus) (s : State) : Host.Outcome State Fault Refusal :=
  .next (if !running s then s
    else if st.voutOv || st.ioutOc || st.temp || st.off then
      modPlat (wireWake (trip s) 3) fun p => { p with pwrGood := false }
    else wireWake s 3)

/-! ### Watchdog, alarm, clocks (R435, R439, R453, R454, R456) -/

/-- A write of AMB_WDOG with KICK = 1 restarts the count; the register is the secure world's. -/
def wdogKick (s : State) : State := modPlat s fun p => { p with wdogAt := s.time }

/-- AMB_WDOG_KICK. -/
def execAmbWdogKick (w : World) (s : State) : Host.Outcome State Fault Refusal :=
  .next (if w = .s then wdogKick s else countDenied s 0)

/-- WATCHDOG_EXPIRE: TIMEOUT ms have passed since the last KICK. -/
def execWatchdogExpire (b : BringUp) (s : State) : Host.Outcome State Fault Refusal :=
  let x := s.rd .ambWdog
  .next (if awake s && bit x 31 && decide (s.plat.wdogAt + 1000000 * orElse0 (bits x 15 0) 1 ≤ s.time) then warmReset s 3 b else s)

/-- AMBER_CORE_UE: class 41; a trip that has not cleared keeps the part in Black. -/
def execAmberCoreUe (b : BringUp) (s : State) : Host.Outcome State Fault Refusal :=
  .next (if !running s then s
    else if tripHolds s then rasBump s 41 0 1
    else warmReset { rasBump s 41 0 1 with time := timeBase s } 3 b)

/-- AMBER_ALARM: the time base has reached the armed time. -/
def execAmberAlarm (s : State) : Host.Outcome State Fault Refusal :=
  let x := s.rd .ambAlarm
  if running s && bit x 63 && decide (s.plat.alarmHi * 2 ^ 48 + bits x 47 0 ≤ timeBase s) then
    let s := wireWake s 4
    let r := drawFree s
    let s := if bit x 62 then evcFire r.1 (bits x 59 48) (r.2 % 65536) else s
    .next (s.wr .ambAlarm 0 0 (setBit x 63 false))
  else .next s

/-- ACLK_TRIM: the frequency of ACLK stays in its bounds. -/
def execAclkTrim (s : State) : Host.Outcome State Fault Refusal := .next s

/-- TIME_ALIGN_PULSE: the dies' copies differ by at most 4 ns. -/
def execTimeAlignPulse (skew : Byte) (s : State) : Host.Outcome State Fault Refusal :=
  .next (if awake s && decide (skew.toNat ≤ 4) then s.wrf .ckgStatus 0 0 23 16 skew.toNat else s)

/-- AUTO_GREY_ENTRY: no descriptor has been fetched for IDLE_GREY µs. -/
def execAutoGreyEntry (s : State) : Host.Outcome State Fault Refusal :=
  .next (if running s && bit (s.rd .pwcCtl) 31 then enterGrey s else s)

/-- A write of CKG_TIME: secure, while quiet, and forward only. -/
def ckgTimeSet (s : State) (w : World) (v : Nat) : State :=
  if w = .s && quiet s && decide (s.time ≤ v) then { s with time := v } else countDropped s 0

/-- A read of CKG_SYNC: the barrier has completed, and TIME_LO shows when. -/
def ckgSync (s : State) : State := s.wr .ckgSync 0 0 (s.time % 2 ^ 32)

/-! ### Waking (R445, R464) -/

/-- The EVC_WAKE latch of a wire-class trigger. -/
def wireLatch : WakeTrigger → Option Nat
  | .wakePin => some 0
  | .lhlSignal => some 1
  | .qxfSignal => some 2
  | .regAlert => some 3
  | .alarm => some 4
  | _ => none

/-- Triggers that leave Grey. -/
def greyWakes : WakeTrigger → Bool
  | .descriptor | .nudge | .wakeMsg | .localPacket | .seqEvent | .dueSnapshot | .amberWake => true
  | _ => false

/-- A trigger in Charcoal. -/
def charcoalWake (s : State) (x : WakeTrigger) : State :=
  match wireLatch x, x with
  | some i, _ => wireWake s i
  | none, .watchedSource n => if watched s n && srcReady s n then wakeWatched s n else s
  | none, .wakeMsg => wakeWhite s
  | none, .localPacket => wakeWhite s
  | none, .amberWake => wakeWhite s
  | none, _ => s

/-- SHADE_WAKE. -/
def execShadeWake (x : WakeTrigger) (s : State) : Host.Outcome State Fault Refusal :=
  .next (if shade s = 1 then (if greyWakes x then wakeWhite s else s)
    else if shade s = 2 then charcoalWake s x
    else s)

/-- Black is left through a warm bring-up; the watchdog starts again with EN = 1. -/
def leaveBlack (s : State) (b : BringUp) : State :=
  let s := bringUp (warmClear { s with time := timeBase s }) false b
  s.wrf .ambWdog 0 0 31 31 1

/-- BLACK_WAKE: refused while a trip has not cleared; kept pending while a SHADE action holds Black. -/
def execBlackWake (x : WakeTrigger) (b : BringUp) (s : State) : Host.Outcome State Fault Refusal :=
  if shade s ≠ 3 || !running s then .next s
  else
    let s := match wireLatch x with | some i => wireWake s i | none => s
    .next (if s.plat.wakeDue && !tripHolds s && amberHeld s == 0 then leaveBlack s b else s)

end Sys2Proof.Machine
end

