-- ==== Sys2Proof/Machine/Firmware.lean ====
section
/-! DEFINITION. Firmware staging, activation, confirmation and the Ash download (R485 to R494). -/

namespace Sys2Proof.Machine

/-! ### Status and turns -/

/-- The outcome of a firmware command or Ash message (R494). -/
def setReason (s : State) (n : Nat) : State := s.wrf .gblFwStatus 0 0 15 8 n

/-- A firmware command runs, or none does. -/
def setFwBusy (s : State) (b : Bool) : State := s.wrf .gblFwStatus 0 0 30 30 (b2n b)

/-- The completion status of a reason. -/
def reasonStatus (n : Nat) : Nat :=
  match n with
  | 0 | 10 => stOk
  | 1 | 9 => stCheckFailed
  | _ => stBadDescriptor

/-- A firmware command ends with a reason. -/
def fwEnd (s : State) (iid n : Nat) : State := complete (setFwBusy (setReason s n) false) iid (reasonStatus n)

/-- FW_STAGE, FW_ACTIVATE and FW_CONFIRM. -/
def fwOps : List Nat := [0x0060, 0x0061, 0x0062]

/-- No earlier firmware command is incomplete (R486). -/
def fwTurn (s : State) (iid : Nat) : Bool := s.hqe.issued.all fun c => !fwOps.contains c.op || decide (iid ≤ c.iid)

/-- A firmware command of an opcode at its turn, or held. -/
def fwRow (s : State) (iid op : Nat) (act : State → Issued → State) : State :=
  match getIssued s iid with
  | none => s
  | some c => if c.op ≠ op then s else if fwTurn s iid then act s c else holdCmd s iid

/-- The record is TRIAL. -/
def onTrial (s : State) : Bool := match actRecord s with | some (_, r) => recState r == 1 | none => false

/-- The slot that does not run. -/
def otherSlot (s : State) : Nat := 1 - runSlot s

/-! ### FW_STAGE (R485) -/

def stAddr (o : Bytes) : Nat := fld o 0 8
def stLen (o : Bytes) : Nat := fld o 8 4

/-- Erase a slot. -/
def eraseSlot (s : State) (slot : Nat) : State := flashPut s (slotAddr slot) slotSize []

/-- The slot and its settings block are erased, and nothing is staged. -/
def stageErase (s : State) (iid : Nat) : State :=
  let s := flashPut (eraseSlot s (otherSlot s)) (settingsAddr (otherSlot s)) 0x100000 []
  setFwBusy (setStaged (modIssued (unholdCmd s iid) iid fun c => { c with stage := 1 }) false 0) true

/-- The image has come: written, read back and checked; a slot that fails is left erased. -/
def stageImage (s : State) (iid : Nat) (bs : Bytes) : State :=
  let slot := otherSlot s
  let s := flashPut s (slotAddr slot) bs.length bs
  let r := slotReason s slot
  if r = 0 then fwEnd (setStaged s true (mfSvn (manifest s slot))) iid 0 else fwEnd (eraseSlot s slot) iid r

/-- FW_STAGE at its turn. -/
def stageGo (s : State) (c : Issued) : State :=
  if c.stage = 0 && (stAddr c.ops % 4096 != 0 || decide (slotSize < stLen c.ops)) then complete s c.iid stBadDescriptor
  else if c.stage = 0 && onTrial s then fwEnd s c.iid 6
  else
    let s := if c.stage = 0 then stageErase s c.iid else s
    match hostRead s c.world (.cmd c.iid) (stAddr c.ops) (stLen c.ops) with
    | (s, .wait) => s
    | (s, .fail st) => complete (setFwBusy (setReason s 0) false) c.iid st
    | (s, .ok bs) => stageImage s c.iid bs

/-- FW_STAGE. -/
def execFwStage (iid : Nat) (s : State) : Host.Outcome State Fault Refusal := .next (fwRow s iid 0x0060 stageGo)

/-! ### FW_ACTIVATE (R488, R489) -/

/-- The running versions of the listed components meet the staged manifest's MIN_COMPAT. -/
def compatible (s : State) (l : List Nat) : Bool :=
  let m := manifest s (otherSlot s)
  l.all fun i => decide (mfCompMin m i ≤ s.plat.compVer.getD i 0)

/-- The mode that a MODE selects, if it is allowed: 1 in place, 2 warm, 3 cold. -/
def activationMode (s : State) (mode : Nat) : Option Nat :=
  let inPlace := compatible s (upTo 8)
  let warm := compatible s [4]
  if !bit (s.rd .gblFwStatus) 31 then none
  else match mode with
    | 0 => some (if inPlace then 1 else if warm then 2 else 3)
    | 1 => if inPlace then some 1 else none
    | 2 => if warm then some 2 else none
    | 3 => some 3
    | _ => none

/-- FW_ACTIVATE at its turn: it waits for the quiesce point, and RUN_PLANs issued after it are held. -/
def activateGo (mode : Nat) (s : State) (c : Issued) : State :=
  if fld c.ops 0 1 ≠ mode || c.stage ≠ 0 then s
  else match activationMode s mode with
    | none => fwEnd s c.iid 7
    | some m => setFwBusy (holdCmd (modIssued s c.iid fun c => { c with stage := m }) c.iid) true

/-- MODE AUTO. -/
def execFwActivateAuto (iid : Nat) (s : State) : Host.Outcome State Fault Refusal := .next (fwRow s iid 0x0061 (activateGo 0))
/-- MODE IN_PLACE. -/
def execFwActivateInPlace (iid : Nat) (s : State) : Host.Outcome State Fault Refusal := .next (fwRow s iid 0x0061 (activateGo 1))
/-- MODE WARM. -/
def execFwActivateWarm (iid : Nat) (s : State) : Host.Outcome State Fault Refusal := .next (fwRow s iid 0x0061 (activateGo 2))
/-- MODE COLD. -/
def execFwActivateCold (iid : Nat) (s : State) : Host.Outcome State Fault Refusal := .next (fwRow s iid 0x0061 (activateGo 3))

/-- The quiesce point: no step is open, no eval plan runs, and none of four BUSY bits is set. -/
def quiescePoint (s : State) : Bool :=
  !planRuns s && !s.snp.cur.any (fun x => x.captured) && s.nmu.isNone && !bit (s.rd .mctEvac) 31 && !bit (s.rd .secAttest) 31

/-- The FW_ACTIVATE that waits for its quiesce point. -/
def activating (s : State) : Option Issued := s.hqe.issued.find? fun c => c.op == 0x0061 && c.stage != 0 && fwTurn s c.iid

/-- The record that commits the activation. -/
def activationRecord (s : State) : State := showRecord (recWrite s 1 (otherSlot s) (runSlot s) 0)

/-- ACTIVATION_COMMIT: the record is written; the control cores restart, or the part completes the command and resets. -/
def execActivationCommit (b : BringUp) (s : State) : Host.Outcome State Fault Refusal :=
  match activating s with
  | none => .next s
  | some c =>
    if !quiescePoint s || s.plat.restart.isSome then .next s
    else if c.stage = 1 then .next (modPlat (activationRecord s) fun p => { p with restart := some c.iid })
    else if !cplRoom s c then .next s
    else
      let s := fwEnd (activationRecord s) c.iid 0
      .next (if c.stage = 2 then warmReset s 4 b else coldReset s 4 b)

/-- Buffered completions are written as far as their rings have room. -/
def drainAll (s : State) : State := ((s.hqe.buf.map fun c => c.cq).eraseDups).foldl (fun s n => drainBuf n 4096 s) s

/-- IN_PLACE_RESTART_DONE: the new firmware runs, kicks the watchdog first, and writes the completion. -/
def execInPlaceRestartDone (s : State) : Host.Outcome State Fault Refusal :=
  match s.plat.restart with
  | none => .next s
  | some iid =>
    let s := wdogKick (modPlat s fun p => { p with restart := none })
    .next (fwEnd (drainAll (runFirmware s (otherSlot s) false false)) iid 0)

/-! ### FW_CONFIRM (R491) -/

/-- The option bytes that a confirmation writes: the copy in force, or the defaults component. -/
def confirmBytes (s : State) : Bytes :=
  match bit (s.rd .rscBoot) 30, optionBytes s with
  | false, some (_, b) => b
  | _, _ => flashRead s (slotAddr (runSlot s) + (compRange (manifest s (runSlot s)) 7).1) 512

/-- Steps 3 to 6. -/
def confirmNow (s : State) (iid : Nat) (r : Bytes) : State :=
  let s := s.wrf .secBootStatus 0 0 63 56 (max (svnFused s) (s.rdf .secBootStatus 0 0 55 48))
  let s := obWrite s (confirmBytes s) (recSlot r)
  let s := modPlat s fun p => { p with compVer := p.compVer.take 7 ++ [mfCompVersion (manifest s (runSlot s)) 7] }
  fwEnd (showRecord (recWrite s 0 (recSlot r) (recOld r) (recTries r))) iid 0

/-- FW_CONFIRM at its turn. -/
def confirmGo (s : State) (c : Issued) : State :=
  match actRecord s with
  | none => fwEnd s c.iid 10
  | some (_, r) =>
    if recState r ≠ 1 || runSlot s ≠ recSlot r then fwEnd s c.iid 10
    else if s.plat.unitsOut && !bit (fld c.ops 0 1) 0 then fwEnd s c.iid 9
    else confirmNow s c.iid r

/-- FW_CONFIRM. -/
def execFwConfirm (iid : Nat) (s : State) : Host.Outcome State Fault Refusal := .next (fwRow s iid 0x0062 confirmGo)

/-! ### Ash mode (R474, R493) -/

/-- The part is in Ash mode. -/
def inAsh (s : State) : Bool := bit (s.rd .rscBoot) 31

/-- The answer of an Ash message: its result byte, kept as the REASON. -/
def ashAnswer (s : State) (r : Nat) : State := emit (setReason s r) (.sideband 0x7F [BitVec.ofNat 8 r])

/-- ASH_BEGIN: the target slot is erased. -/
def execAshBegin (slot : Fin 2) (len : Nat) (s : State) : Host.Outcome State Fault Refusal :=
  .next (if !inAsh s then s
    else if slotSize < len then ashAnswer s 1
    else ashAnswer (modPlat (eraseSlot s slot) fun p => { p with ash := some (slot.val, len) }) 0)

/-- ASH_DATA: a piece of 1 to 4,032 B. -/
def execAshData (off : Nat) (data : Bytes) (s : State) : Host.Outcome State Fault Refusal :=
  match s.plat.ash with
  | none => .next (if inAsh s then ashAnswer s 1 else s)
  | some (slot, len) =>
    .next (if data.isEmpty || decide (4032 < data.length) || decide (len < off + data.length) then ashAnswer s 1
      else ashAnswer (flashPut s (slotAddr slot + off) data.length data) 0)

/-- ASH_END: a passing image is put on trial, the boot counter is cleared, and the part resets Cold. -/
def execAshEnd (b : BringUp) (s : State) : Host.Outcome State Fault Refusal :=
  match s.plat.ash with
  | none => .next (if inAsh s then ashAnswer s 1 else s)
  | some (slot, _) =>
    let r := slotReason s slot
    let s := modPlat s fun p => { p with ash := none }
    if r ≠ 0 then .next (ashAnswer (eraseSlot s slot) r)
    else
      let s := (recWrite (ashAnswer s 0) 1 slot (1 - slot) 0).wrf .rscBoot 0 0 11 8 0
      .next (coldReset s 4 b)

end Sys2Proof.Machine
end

