-- ==== Sys2Proof/Machine/Security.lean ====
section
/-! DEFINITION. Fuses, attestation and debug unlock (R424 to R434, R510). -/

namespace Sys2Proof.Machine

/-! ### Fuses (R424, R433) -/

/-- Revoking the slot is refused: no usable vendor slot would be left, or the running manifest was verified by it. -/
def revokeRefused (s : State) (slot : Nat) : Bool :=
  let b := s.rd .secBootStatus
  !(([0, 1] : List Nat).any fun k => keyOk s k && k != slot) || bits b 39 38 == slot || (bit b 35 && bits b 37 36 == slot)

/-- A write of SEC_FUSE_CMD by the secure world. -/
def fuseCmd (s : State) (v : Nat) : State :=
  let slot := bits v 2 1
  let s := s.wrf .secFuseCmd 0 0 2 1 slot
  if !bit v 0 then s
  else if revokeRefused s slot then countDropped (s.wrf .secFuseCmd 0 0 30 29 1) 0
  else (s.wrf .secFuseCmd 0 0 30 29 0).wr .secBootStatus 0 0 (setBit (s.rd .secBootStatus) (40 + slot) true)

/-- The secure world's alone. -/
def secureOnly (s : State) (w : World) (act : State → State) : State := if w = .s then act s else countDenied s 0

/-- REVOKE_SLOT: SEC_FUSE_CMD with REVOKE = 1. -/
def execRevokeSlot (w : World) (slot : Fin 4) (s : State) : Host.Outcome State Fault Refusal :=
  .next (secureOnly s w fun s => fuseCmd s (2 * slot.val + 1))

/-! ### Peer attestation (R428) -/

/-- A write of SEC_ATTEST by the secure world: GO is ignored and counted while BUSY = 1; else the SPDM messages start as
non-secure WRITEs with KEY 0xFFFE. -/
def attestWrite (s : State) (v : Nat) : State :=
  let s := s.wrf .secAttest 0 0 15 0 v
  if !bit v 16 then s
  else if bit (s.rd .secAttest) 31 then countDropped s 0
  else
    let d := bits v 15 0
    let s := (s.wrf .secAttest 0 0 31 31 1).wrf .secAttest 0 0 30 28 0
    let s := modPlat s fun p => { p with attPeer := d, reloaded := false }
    (sendMsg s { peer := d, typ := 0x01, vc := 2, key := 0xFFFE, world := .ns, ctx := .other,
                 payload := slice (Config.answerBytes 0x84 (natLe 2 d)) 0 64 }).1

/-- ATTEST_PEER. -/
def execAttestPeer (w : World) (peer : DeviceId) (s : State) : Host.Outcome State Fault Refusal :=
  .next (secureOnly s w fun s => attestWrite s (2 ^ 16 + peer.toNat))

/-- The attestation ends with a RESULT. -/
def attestEnd (s : State) (n : Nat) : State := (s.wrf .secAttest 0 0 31 31 0).wrf .secAttest 0 0 30 28 n

/-- The pass is written into the peer's directory entry. -/
def attestPass (s : State) (identity : Nat) : State :=
  let a := peerAddr s.plat.attPeer
  let f := peerFlags s s.plat.attPeer
  setMem (setMem s (a + 2) (natLe 1 (setBit f 1 true))) (a + 4) (natLe 8 identity)

/-- ATTEST_RESULT. -/
def execAttestResult (r : AttestEnd) (s : State) : Host.Outcome State Fault Refusal :=
  .next (if !bit (s.rd .secAttest) 31 then s
    else match r with
      | .noAnswer => attestEnd s 2
      | .pass i => if s.plat.reloaded then attestEnd s 3 else attestPass (attestEnd s 1) i.toNat
      | .chainFailed => attestEnd s (if s.plat.reloaded then 3 else 4)
      | .signatureFailed => attestEnd s (if s.plat.reloaded then 3 else 5)
      | .refused => attestEnd s (if s.plat.reloaded then 3 else 6))

/-! ### The SPDM responder (R426, R427, R434, R510) -/

/-- The sideband endpoint answers: from bring-up step 5, and in Ash mode (R508). -/
def sidebandUp (s : State) : Bool := running s && (decide (5 ≤ s.rdf .rscBoot 0 0 7 4) || inAsh s)

/-- Bytes of SEC_SPDM_BUF. -/
def spdmBuf (s : State) (n : Nat) : Bytes :=
  ((upTo (cdiv n 4)).flatMap fun i => natLe 4 (s.rd .secSpdmBuf i)).take n

/-- Write SEC_SPDM_BUF from its start. -/
def spdmPut (s : State) (bs : Bytes) : State :=
  (upTo (cdiv bs.length 4)).foldl (fun s i => s.wr .secSpdmBuf i 0 (fld bs (4 * i) 4)) s

/-- The response is in the mailbox: REQ clears, RSP is set with its length. -/
def mailboxAnswer (s : State) (bs : Bytes) : State :=
  let b := bs.take 4095
  (spdmPut s b).wr .secSpdmCtl 0 0 (2 ^ 30 + b.length)

/-- Answer an SPDM request over its transport with a message code and its bytes. -/
def spdmSend (s : State) (t : Transport) (code : Nat) (bs : Bytes) : State :=
  match t with
  | .sideband => emit s (.spdm t code bs)
  | .mailbox => emit (mailboxAnswer s (BitVec.ofNat 8 code :: bs)) (.spdm t code bs)

/-- SPDM ERROR, with its error code: 3 Busy, 7 UnsupportedRequest. -/
def spdmError (s : State) (t : Transport) (e : Nat) : State := spdmSend s t 0x7F [BitVec.ofNat 8 e]

/-- The request's bytes: the message, or what SEC_SPDM_BUF holds. -/
def spdmReq (s : State) (t : Transport) (req : Bytes) : Bytes :=
  match t with | .sideband => req | .mailbox => spdmBuf s (s.rdf .secSpdmCtl 0 0 11 0)

/-- A request that has arrived: the sideband's is answered Busy while the management cores are stopped, the mailbox's
waits for them; Ash mode supports none. -/
def spdmServe (s : State) (t : Transport) (act : State → State) : State :=
  let here := match t with | .sideband => sidebandUp s | .mailbox => running s && bit (s.rd .secSpdmCtl) 31
  if !here then s
  else if inAsh s then spdmError s t 7
  else if 2 ≤ shade s || s.plat.restart.isSome then (match t with | .sideband => spdmError s t 3 | .mailbox => s)
  else act s

/-- A supported request: what the rules fix of its answer, then the rest of the message (log 12). -/
def spdmRow (s : State) (t : Transport) (req : Bytes) (code : Nat) (known : State → Bytes) : State :=
  spdmServe s t fun s => spdmSend s t code (known s ++ Config.answerBytes code (spdmReq s t req ++ known s))

/-- A request that is not supported. -/
def spdmNo (s : State) (t : Transport) : State := spdmServe s t fun s => spdmError s t 7

/-- The certificate chain as the flash holds it (R425, R482). -/
def certChain (s : State) : Bytes := flashRead s 0x10000 (960 * 1024)

/-- Measurement block n (R427). -/
def measurement (s : State) (n : Nat) : Bytes :=
  let m := manifest s (runSlot s)
  if n = 0 || 10 < n then []
  else if n ≤ 8 then slice (mfEntry m (n - 1)) 32 64
  else if n = 9 then sha512 (slice m 0 (mfRange m).2)
  else natLe 8 s.plat.meas

/-- The blocks a GET_MEASUREMENTS names: 0xFF names all. -/
def measurements (s : State) (idx : Nat) : Bytes :=
  if idx = 0xFF then (upTo 10).flatMap fun i => measurement s (i + 1) else measurement s idx

/-- GET_VERSION. -/
def execGetVersion (t : Transport) (req : Bytes) (s : State) : Host.Outcome State Fault Refusal :=
  .next (spdmRow s t req 0x04 fun _ => [])
/-- GET_CAPABILITIES. -/
def execGetCapabilities (t : Transport) (req : Bytes) (s : State) : Host.Outcome State Fault Refusal :=
  .next (spdmRow s t req 0x61 fun _ => [])
/-- NEGOTIATE_ALGORITHMS. -/
def execNegotiateAlgorithms (t : Transport) (req : Bytes) (s : State) : Host.Outcome State Fault Refusal :=
  .next (spdmRow s t req 0x63 fun _ => [])
/-- GET_DIGESTS: the digest of the chain of certificate slot 0. -/
def execGetDigests (t : Transport) (req : Bytes) (s : State) : Host.Outcome State Fault Refusal :=
  .next (spdmRow s t req 0x01 fun s => sha512 (certChain s))
/-- GET_CERTIFICATE: the chain of slot 0; no other slot is supported. -/
def execGetCertificate (t : Transport) (slot : Byte) (req : Bytes) (s : State) : Host.Outcome State Fault Refusal :=
  if slot = 0 then .next (spdmRow s t req 0x02 fun s => certChain s)
  else .next (spdmNo s t)
/-- CHALLENGE: signed with the identity key. -/
def execChallenge (t : Transport) (req : Bytes) (s : State) : Host.Outcome State Fault Refusal :=
  .next (spdmRow s t req 0x03 fun s => sha512 (certChain s))
/-- GET_MEASUREMENTS. -/
def execGetMeasurements (t : Transport) (idx : Byte) (req : Bytes) (s : State) : Host.Outcome State Fault Refusal :=
  .next (spdmRow s t req 0x60 fun s => measurements s idx.toNat)
/-- Any other request: ERROR UnsupportedRequest. -/
def execSpdmUnsupportedRequest (t : Transport) (_ : Byte) (_ : Bytes) (s : State) : Host.Outcome State Fault Refusal :=
  .next (spdmNo s t)

/-! ### Debug unlock (R429, R434) -/

/-- The current nonce. -/
def dbgNonce (s : State) : Bytes := (upTo 8).flatMap fun i => natLe 4 (s.rd .secDbgNonce i)

/-- A read of SEC_DBG_NONCE0 renews the nonce; it returns the first word, a 64-bit read the first two. -/
def nonceRead (s : State) (wide : Bool) : State × Nat :=
  let s := newNonce 8 s
  (s, s.rd .secDbgNonce 0 + if wide then 2 ^ 32 * s.rd .secDbgNonce 1 else 0)

/-- DBG_NONCE_READ; the register has no upper half. -/
def execDbgNonceRead (h : Half) (s : State) : Host.Outcome State Fault Refusal :=
  match h with
  | .high => .next s
  | .low => let r := nonceRead s false; .next (emit r.1 (.read 0xD00100 r.2))
  | .full => let r := nonceRead s true; .next (emit r.1 (.read 0xD00100 r.2))

/-- The bytes of SEC_DBG_RESP as written. -/
def dbgResp (s : State) : Bytes := (upTo 132).flatMap fun i => natLe 4 (s.rd .secDbgResp i)

/-- A response of level `lv` from key slot `k` may unlock: the levels' conditions (R429). -/
def dbgSlotOk (s : State) (lv k : Nat) : Bool :=
  let noOwner := !bit (s.rd .secBootStatus) 46 && !bit (s.rd .secBootStatus) 47
  keyOk s k && (if lv = 1 then (k == 2 || k == 3 || (noOwner && decide (k < 2)))
    else lv == 2 && Config.debugFuse && decide (k < 2))

/-- The response in SEC_DBG_RESP is signed over the nonce, the device certificate's digest and the level. -/
def dbgPass (s : State) : Bool :=
  let r := dbgResp s
  let lv := fld r 512 1
  let k := fld r 513 1
  dbgSlotOk s lv k && Config.sigVerifies k (dbgNonce s ++ sha512 Config.deviceCert ++ natLe 1 lv) (slice r 0 512)

/-- The last word of SEC_DBG_RESP is written: the response is checked, or ignored within 1 s of a failed one. -/
def dbgCheck (s : State) (v : Nat) : State :=
  let s := s.wr .secDbgResp 131 0 v
  if s.plat.dbgLock then s
  else if dbgPass s then
    modPlat (s.wrf .secBootStatus 0 0 33 32 (fld (dbgResp s) 512 1)) fun p => { p with tdo := true }
  else modPlat (countDropped s 0) fun p => { p with dbgLock := true }

/-- DBG_RESPONSE_CHECK. -/
def execDbgResponseCheck (val : W32) (s : State) : Host.Outcome State Fault Refusal := .next (dbgCheck s val.toNat)

/-- DBG_LOCKOUT_EXPIRE. -/
def execDbgLockoutExpire (s : State) : Host.Outcome State Fault Refusal :=
  .next (modPlat s fun p => { p with dbgLock := false })

end Sys2Proof.Machine
end

