-- ==== Sys2Proof/Machine/Sideband.lean ====
section
/-! DEFINITION. The sideband: MCTP control and PLDM (R508 to R510). -/

namespace Sys2Proof.Machine

/-- An answer of the endpoint while it is up: what the rules fix of it, then the rest of the message (log 12). -/
def sbAnswer (s : State) (code : Nat) (known : Bytes) : State :=
  if sidebandUp s then emit s (.sideband code (known ++ Config.answerBytes code known)) else s

/-- Set Endpoint ID: the bus owner assigns the EID. -/
def execSetEndpointId (eid : Byte) (s : State) : Host.Outcome State Fault Refusal :=
  .next (if sidebandUp s then sbAnswer (modPlat s fun p => { p with eid := eid.toNat }) 0x01 [eid] else s)
/-- Get Endpoint ID. -/
def execGetEndpointId (s : State) : Host.Outcome State Fault Refusal := .next (sbAnswer s 0x02 (natLe 1 s.plat.eid))
/-- Get MCTP Version Support. -/
def execGetMctpVersionSupport (s : State) : Host.Outcome State Fault Refusal := .next (sbAnswer s 0x04 [])
/-- Get Message Type Support. -/
def execGetMessageTypeSupport (s : State) : Host.Outcome State Fault Refusal := .next (sbAnswer s 0x05 [])

/-- ENTDAA: the I3C dynamic address. -/
def execEntdaa (addr : Fin 128) (s : State) : Host.Outcome State Fault Refusal :=
  .next (if sidebandUp s then modPlat s fun p => { p with i3c := some addr.val } else s)

/-- A PLDM message code: type and command. -/
def pldmCode (typ cmd : Nat) : Nat := 0x100 * (typ + 1) + cmd

/-- GetTID. -/
def execGetTid (s : State) : Host.Outcome State Fault Refusal := .next (sbAnswer s (pldmCode 0 0x02) [])
/-- GetPLDMVersion. -/
def execGetPldmVersion (s : State) : Host.Outcome State Fault Refusal := .next (sbAnswer s (pldmCode 0 0x03) [])
/-- GetPLDMTypes. -/
def execGetPldmTypes (s : State) : Host.Outcome State Fault Refusal := .next (sbAnswer s (pldmCode 0 0x04) [])
/-- GetPLDMCommands. -/
def execGetPldmCommands (s : State) : Host.Outcome State Fault Refusal := .next (sbAnswer s (pldmCode 0 0x05) [])
/-- GetPDRRepositoryInfo: one PDR for each Amber sensor. -/
def execGetPdrRepositoryInfo (s : State) : Host.Outcome State Fault Refusal := .next (sbAnswer s (pldmCode 2 0x50) (natLe 4 101))

/-- GetPDR: the numeric-sensor PDR with a record handle, by its sensor ID; no other handle has a record. -/
def execGetPdr (handle : Nat) (s : State) : Host.Outcome State Fault Refusal :=
  .next (sbAnswer s (pldmCode 2 0x51) (if 1 ≤ handle && handle ≤ 101 then natLe 2 handle else []))

/-- GetSensorReading: sensor ID n reads AMB_SENS(n − 1).VALUE. -/
def execGetSensorReading (sensorId : BitVec 16) (s : State) : Host.Outcome State Fault Refusal :=
  let n := sensorId.toNat
  .next (sbAnswer s (pldmCode 2 0x11) (if 1 ≤ n && n ≤ 101 then natLe 2 (s.rdf .ambSens (n - 1) 0 15 0) else []))

/-- Any other PLDM command: ERROR_UNSUPPORTED_PLDM_CMD. -/
def execPldmUnsupportedCmd (typ cmd : Byte) (s : State) : Host.Outcome State Fault Refusal :=
  .next (if sidebandUp s then emit s (.sideband (pldmCode typ.toNat cmd.toNat) [0x05]) else s)

end Sys2Proof.Machine
end

