-- ==== Sys2Proof/Machine/Status.lean ====
section
/-! DEFINITION. Registers whose value is the state of an engine: what a read of each returns. -/

namespace Sys2Proof.Machine

/-- Bits [n-1:0] from a predicate. -/
def bitsOf (n : Nat) (f : Nat → Bool) : Nat := ((upTo n).map fun i => b2n (f i) * 2 ^ i).sum

/-! ### Tiles (R109, R134, R157) -/

/-- The tasks an array holds in its two slots (R90). -/
def daAt (s : State) (t a : Nat) : List Da :=
  (s.das.filter fun q => q.1 == daKey t (2 * a) || q.1 == daKey t (2 * a + 1)).map Prod.snd

/-- What a running task of an array waits for (R109): the blocks of a sheet slot, E_out, or operand bytes. -/
def daWaitsSlot (d : Da) : Bool := !d.folded && !d.eOut.isEmpty
def daWaitsAnchor (d : Da) : Bool := !d.folded && d.begun && d.eOut.isEmpty
def daWaitsOpnd (d : Da) : Bool := !d.folded && !d.begun

/-- The regime a tile works in. -/
def tileRegime (s : State) (t : Nat) : Nat :=
  match curPhase s with
  | none => 0
  | some c =>
    if tileOut s t || tileGated s t then 0
    else if c.f.sheet then b2n ((rectTiles c.f.rect.1 c.f.rect.2.1 c.f.rect.2.2.1 c.f.rect.2.2.2).contains t)
    else if tileWorld s t == c.p.world && c.f.dies.contains (tileDie t) then 2 else 0

/-- A slot holds live long partials. -/
def slotLive (s : State) (t n : Nat) : Bool := (mapGet (fun _ => []) s.acc (13 * t + n)).any fun l => l.live

def tileDaStatus (s : State) (t : Nat) : Nat :=
  tileRegime s t * 2 ^ 30 + bitsOf 13 (slotLive s t) * 2 ^ 16
    + bitsOf 4 (fun a => (daAt s t a).any daWaitsSlot) * 2 ^ 12 + bitsOf 4 (fun a => (daAt s t a).any daWaitsAnchor) * 2 ^ 8
    + bitsOf 4 (fun a => (daAt s t a).any daWaitsOpnd) * 2 ^ 4 + bitsOf 4 fun a => !(daAt s t a).isEmpty



/-- The slots of a tile that the GME holds: those of owned blocks, and until the operation ends those of SCATTER tags (R119, R134). -/
def gmeSlots (f : PhaseRun) (t : Nat) : List Nat :=
  ((f.owned.filter fun o => o.tile == t && o.sel == .gme).filterMap Owned.slot)
    ++ if gmeClosed f && f.owned.all (fun o => o.sel != .gme) then [] else tagsAt f .gme t

/-- What the running phase holds at a tile: a held task waits for anchors or cuts, of a HEADER first pass or of a scan unless it is a
GROUP product, or for a ready bit (R134). -/
def tileGmeStatus (s : State) (t : Nat) : Nat :=
  match curPhase s with
  | none => 0
  | some c =>
    let own := c.f.owned.filter fun o => o.tile == t && o.sel == .gme
    let held := c.f.gmeHeld.find? fun h => h.tile == t
    bitsOf 5 (fun n => (gmeSlots c.f t).contains (8 + n)) * 2 ^ 24 + b2n (!own.isEmpty) * 2 ^ 29
      + match held with
        | none => 0
        | some h => 2 ^ 31 + fld h.task.bytes 0 1
          + if h.waits then 2 ^ 22 else b2n (heldAcc h || gtPart h.task.bytes) * 2 ^ 30 + 2 ^ 23

def tileVeStatus (s : State) (t : Nat) : Nat :=
  match s.ves.find? fun q => q.1 == t with
  | none => 0
  | some (_, v) => match v.task with
    | none => 0
    | some x => 2 ^ 31 + b2n v.xch.isSome * 2 ^ 29 + v.pass % 4 * 2 ^ 27 + fld x.bytes 0 1 % 8 * 2 ^ 24 + v.ip % 256

/-! ### Token router (R202) -/

/-- The passes of the running phase. -/
def curPasses (s : State) : List Pass := match curPhase s with | none => [] | some c => c.f.passes

def tkrStatus (s : State) : Nat :=
  let busy := fun (n : Nat) => (curPasses s).any fun p => sliceOf p.ctx == n && 
    ((p.took && !p.closed) || p.arrs.any fun a => a.2.arrived.any fun r => !a.2.launched.contains r.1)
  bitsOf 16 busy * 2 ^ 32 + b2n ((plans s).any fun p => p.ansWait) * 2 ^ 31
    + b2n ((curPasses s).any fun p => p.stall.isSome) * 2 ^ 30 + min 131072 s.tkr.tickets.length

/-! ### Sequencers (R154, R226, R260, R263, R264) -/

/-- The plan that the status shows: the training plan, else the eval plan. -/
def shownPlan (s : State) : Option (PlanKind × PlanRun) :=
  match s.seq.train, s.seq.eval with
  | some p, _ => some (.training, p)
  | none, some p => some (.eval, p)
  | none, none => none

/-- To the non-secure world, every field but QUIET reads 0 while a secure plan runs (R260). -/
def planStatus (s : State) (w : World) : Nat :=
  let hide := fun (o : Option PlanRun) => match o with | some p => p.world == .s | none => false
  if w == .ns && (hide s.seq.train || hide s.seq.eval) then b2n (quiet s) * 2 ^ 61
  else
  let top := b2n s.seq.train.isSome * 2 ^ 63 + b2n s.seq.eval.isSome * 2 ^ 62 + b2n (quiet s) * 2 ^ 61
  match shownPlan s with
  | none => top
  | some (_, p) =>
    let ph := match p.phase with | some f => f.index | none => p.nextPhase
    top + b2n ((p.st == .members && !p.atBound) || p.st == .drain) * 2 ^ 60 + p.attempt % 8 * 2 ^ 57 + ph % 65536 * 2 ^ 32 + p.step % 2 ^ 32

/-- FROZEN for the running step, pins and versions of a region. -/
def regionStatus (s : State) (n : Nat) : Nat :=
  let r := getRegion s n
  let pc := if r.comm = 0 then r.pins0 else r.pins1
  let pf := if r.comm = 0 then r.pins1 else r.pins0
  b2n r.valid * 2 ^ 63 + worldBit r.world * 2 ^ 62 + r.comm % 2 * 2 ^ 61 + b2n r.frozen * 2 ^ 60 + b2n r.stall * 2 ^ 59
    + pf % 65536 * 2 ^ 16 + pc % 65536

def regionVersion (s : State) (n : Nat) : Nat := let r := getRegion s n; ((if r.comm = 0 then r.v0 else r.v1).getD 0)

def epochStatus (s : State) : Nat :=
  min (2 ^ 24 - 1) (drainCount s) * 2 ^ 40 + b2n s.seq.trans.isSome * 2 ^ 39 + s.seq.epoch % 2 ^ 32

/-- SEQ_CFG_CTL to a reader of a world. SHADOW_RD is kept for each world, in bits 0 and 1 of the stored register. -/
def cfgCtl (s : State) (w : World) : Nat :=
  let all := fun (g : RegInfo) => g.sh + g.qu
  let qu := fun (g : RegInfo) => g.qu
  (if w = .s then b2n (shadowDiffers s .s all) * 2 ^ 31 + b2n (shadowDiffers s .s qu) * 2 ^ 29 else 0)
    + b2n (shadowDiffers s .ns all) * 2 ^ 30 + b2n (shadowDiffers s .ns qu) * 2 ^ 28
    + b2n (bit (s.rd .seqCfgCtl) (worldBit w))

/-- A world's reads of shadowed fields return the shadow (R255). -/
def shadowRd (s : State) (w : World) : Bool := bit (s.rd .seqCfgCtl) (worldBit w)

/-- The queue with a QID that a running plan declares, the training plan's first; where both its ends are here, the receive end. -/
def shownQueue (s : State) (qid : Nat) : Option Queue :=
  let of := fun (o : Option PlanRun) =>
    let l := ((o.map PlanRun.queues).getD []).filter fun q => q.qid == qid
    (l.find? fun q => q.recv).or l.head?
  (of s.seq.train).or (of s.seq.eval)

/-- Entries of a queue in its ring and in its spill: the receiver's own; of a send end to a peer as its credits show them
(log 152). -/
def queueHeld (time : Nat) (q : Queue) : Nat × Nat :=
  if q.recv then (q.inRing.length, q.inSpill.length)
  else
    let v := Config.queueSeen q.qid (q.next + 2 ^ 32 * time)
    let r := min q.next (v.1 % 65)
    (r, min (q.next - r) (v.2 % 65536))

def queueStatus (s : State) (qid : Nat) : Nat :=
  match shownQueue s qid with
  | none => 0
  | some q =>
    let h := queueHeld s.time q
    2 ^ 63 + b2n q.recv * 2 ^ 62 + b2n q.stall * 2 ^ 61 + b2n (h.2 != 0) * 2 ^ 60 + h.1 % 128 * 2 ^ 48
      + h.2 % 65536 * 2 ^ 32 + q.next % 2 ^ 32

/-- A mailbox entry of a kind and world: the running plan's, or what the last run left. -/
def mailAt (s : State) (k : PlanKind) (w : World) (n : Nat) : Mail :=
  let left := mapGet (fun _ => []) s.mails (2 * (match k with | .training => 0 | .eval => 1) + worldBit w)
  let old := ((left.find? fun q => q.1 == n).map Prod.snd).getD { kind := 0xFF }
  match getPlan s k with
  | some p => if p.world = w then getMail p n else old
  | none => old

def mailStatus (m : Mail) : Nat :=
  if m.kind = 0xFF then 0
  else b2n m.final * 2 ^ 63 + b2n m.nonfin * 2 ^ 62 + m.kind % 8 * 2 ^ 59 + m.phase % 256 * 2 ^ 48 + mailValue m % 2 ^ 32

/-! ### Memory, mesh, links (R292, R311, R346, R379) -/

/-- Channel state: self-refresh in Charcoal and Black, training, evacuating, retired, or as stored. -/
def chanStatus (s : State) (c : Nat) : Nat :=
  let x := s.rd .mctChstat c
  let st := if 2 ≤ shade s then 4 else if bits x 31 29 = 1 then 1 else if evacuating s c then 2 else if retired s c then 3
    else bits x 31 29
  setBits x 31 29 st

/-- QUAR with the dies that adopt a quarantined die's lists. -/
def quarStatus (s : State) : Nat :=
  s.rdf .mshQuar 0 0 3 0 + bitsOf 4 (fun d => (upTo 4).any fun e => dieQuar s e && adopter s e == d && e != d) * 2 ^ 4

def linkCode : LinkSt → Nat
  | .down => 0
  | .detect => 1
  | .train => 2
  | .active => 3
  | .retrain => 4
  | .off => 5

def lhlStatus (s : State) : Nat :=
  let l := s.lhl
  linkCode l.st * 2 ^ 61 + l.rate % 4 * 2 ^ 59 + l.width % 4 * 2 ^ 57 + l.lanes % 256 * 2 ^ 48 + l.sig % 256 * 2 ^ 40
    + l.retrains % 2 ^ 32

def portStatus (s : State) (p : Nat) : Nat :=
  let l := getLink s (.port p)
  linkCode l.st * 2 ^ 61 + l.rate % 4 * 2 ^ 59 + l.width % 4 * 2 ^ 57 + l.lanes % 16 * 2 ^ 48 + l.sig % 16 * 2 ^ 44
    + l.retrains % 2 ^ 32

/-- CPL_PEND, FETCHED and INTERVAL (R351). -/
def hqeStatus (s : State) : Nat :=
  min 4096 s.hqe.buf.length * 2 ^ 32 + min 256 s.hqe.fetched.length * 2 ^ 16 + min 65535 s.hqe.interval

/-! ### Mirroring and snapshots (R412, R413) -/

def mirStatusVal (s : State) : Nat :=
  b2n (bit (s.rd .mirStatus) 63) * 2 ^ 63 + b2n (!s.mir.seeding.isEmpty) * 2 ^ 62 + b2n (standinId s).isSome * 2 ^ 61
    + min (2 ^ 19 - 1) (cdiv (mirOutBytes s) 1024)

def snpStatusVal (s : State) : Nat :=
  match s.snp.cur with
  | none => 0
  | some n =>
    if !n.captured then 0
    else
      let left := ((snapPages n).filter (tracked s)).length + n.buffered.length
      2 ^ 63 + b2n n.auto * 2 ^ 62 + n.buffered.length % 2 ^ 15 * 2 ^ 32 + left % 2 ^ 24

/-- INTERVAL, MTBF in s and COST in ms (R406). -/
def snpAutoStat (s : State) : Nat :=
  min 65535 (autoInterval s) * 2 ^ 48 + min (2 ^ 24 - 1) (mtbfNum s / mtbfDen s / 10 ^ 9) * 2 ^ 24
    + min (2 ^ 24 - 1) (s.snp.cost / 1000000)

/-- The pin MOD_ALERT_N is driven low (R509). -/
def modAlert (s : State) : Bool :=
  s.plat.tripped || !(activeRules s 1).isEmpty || !(activeRules s 2).isEmpty || bit (s.rd .rasWatchCtl) 31

/-- The pin QXj_RST_N holds the cable of connector j in reset: until bring-up step 9, and while none of the connector's four
ports is enabled (R504). -/
def qxReset (s : State) (j : Nat) : Bool :=
  !s.plat.powered || s.plat.waitHigh || decide (s.rdf .rscBoot 0 0 7 4 < 9) || !((upTo 4).any fun i => bit (s.rd .qxfPortCfg (4 * j + i)) 27)

/-- The pin MOD_PRSNT_N is driven low (R505). -/
def modPresent (s : State) : Bool := s.plat.powered

/-! ### The value a read returns -/

/-- A register that shows an engine's state, to a reader of a world; `none` for one that returns what it stores. -/
def statusVal (s : State) (w : World) (n : RegName) (i : Nat) : Option Nat :=
  match n with
  | .tilDaStatus => some (tileDaStatus s i)
  | .tilGmeStatus => some (tileGmeStatus s i)
  | .tilVeStatus => some (tileVeStatus s i)
  | .tkrStatus => some (tkrStatus s)
  | .seqPlanStatus => some (planStatus s w)
  | .seqVstat => some (regionStatus s i)
  | .seqVver => some (regionVersion s i)
  | .seqCfgEpoch => some (epochStatus s)
  | .seqCfgCtl => some (cfgCtl s w)
  | .seqQstat => some (queueStatus s i)
  | .seqSummNs => some (mailStatus (mailAt s .training .ns i))
  | .seqSummS => some (mailStatus (mailAt s .training .s i))
  | .seqSummEvNs => some (mailStatus (mailAt s .eval .ns i))
  | .seqSummEvS => some (mailStatus (mailAt s .eval .s i))
  | .mctChstat => some (chanStatus s i)
  | .mshFenceHash => some (fenceHash s)
  | .mshQuar => some (quarStatus s)
  | .lhlStatus => some (lhlStatus s)
  | .qxfPortStatus => some (portStatus s i)
  | .hqeStatus => some (hqeStatus s)
  | .hqeRingState => some (ringStateVal s i)
  | .mirStatus => some (mirStatusVal s)
  | .snpStatus => some (snpStatusVal s)
  | .snpAutoStat => some (snpAutoStat s)
  | .ckgTime => some s.time
  | .secDbgResp => some 0
  | _ => none

/-- What a register stores, as a read shows it: with a write that waits for its moment (R438), and for a shadowed field the
world's shadow while it asks for it (R255). -/
def storedVal (s : State) (w : World) (n : RegName) (i j : Nat) : Nat :=
  let g := regInfo n
  let v := match n with
    | .evcSrc => match waitingVal s n i j with
      | some x => setBits (s.rd n i j) 60 42 (bits x 60 42)
      | none => s.rd n i j
    | .ambRule => match waitingVal s n i j with
      | some x => setBit x 62 (bit (s.rd n i j) 62)
      | none => s.rd n i j
    | .mirRegCfg => setBit (rdStored s n i j) 28 (bit (s.rd n i j) 28)
    | _ => rdStored s n i j
  if shadowRd s w && g.sh + g.qu != 0 then shadowMerge n v (shadowVal s w n i j) else v

/-- The value of a register. -/
def regVal (s : State) (w : World) (n : RegName) (i j : Nat) : Nat := (statusVal s w n i).getD (storedVal s w n i j)

end Sys2Proof.Machine
end

