-- ==== Sys2Proof/Machine/Window.lean ====
section
/-! DEFINITION. The configuration window (R7 to R9, R327, R438): accesses by size, world and half, what each register does
when it is read or written, and the rows that are such accesses; and the messages NUDGE and WAKE (R329, R332). -/

namespace Sys2Proof.Machine

/-! ### Which register an access reaches (R9) -/

/-- Bits [hi:lo] of a register. -/
structure WinRef where
  n  : RegName
  i  : Nat
  j  : Nat
  hi : Nat
  lo : Nat
  deriving DecidableEq, Repr

/-- A naturally aligned 32-bit or 64-bit access of an assigned offset. -/
def winRef (off size : Nat) : Option WinRef :=
  if size = 8 && off % 8 = 0 then
    match regDecode off with
    | some (n, i, j) => if (regInfo n).wide then some { n := n, i := i, j := j, hi := 63, lo := 0 } else none
    | none => none
  else if size = 4 && off % 4 = 0 then
    match regDecode off with
    | some (n, i, j) => some { n := n, i := i, j := j, hi := 31, lo := 0 }
    | none =>
      if off % 8 = 4 then
        match regDecode (off - 4) with
        | some (n, i, j) => if (regInfo n).wide then some { n := n, i := i, j := j, hi := 63, lo := 32 } else none
        | none => none
      else none
  else none

/-- Ash mode serves GBL, RSC, SEC and AMB (R474). -/
def ashServes (off : Nat) : Bool := [0x00, 0x0A, 0x0C, 0x0D].contains (off / 0x100000)

/-- An access that reaches its register: the reference, or what is counted instead. DESIGN CHOICE (log 153): R9 says only that a
refused access is counted; it is counted at die 0, but a denied access to a TIL register at the die of its tile. -/
def winAccess (s : State) (w : World) (off size : Nat) : State × Option WinRef :=
  if inAsh s && !ashServes off then (countBadAccess s, none)
  else match winRef off size with
    | none => (countBadAccess s, none)
    | some r =>
      if regWorldOk s w r.n r.i then (s, some r)
      else (countDenied s (if (regInfo r.n).world = .tile then tileDie r.i else 0), none)

/-! ### Reading -/

/-- Capture registers whose fields are RC (R7). -/
def readClears : RegName → Bool
  | .gblLayoutErr | .tilSlotErr | .tilGmeErr | .tilVeErr | .tkrErr | .mshErr | .qxfErr => true
  | _ => false

/-- What a 64-bit read of a register does and returns. -/
def regReadAll (s : State) (w : World) (n : RegName) (i j : Nat) : State × Nat :=
  if readClears n then (s.wr n i j 0, s.rd n i j)
  else match n with
    | .evcClaim => claim s i
    | .ckgSync => let s := ckgSync s; (s, s.rd .ckgSync)
    | .secDbgNonce => if i = 0 then nonceRead s false else (s, s.rd .secDbgNonce i)
    | _ => (s, regVal s w n i j)

/-- A read of a register or of a half: the upper half has no side effect (R9). -/
def regRead (s : State) (w : World) (r : WinRef) : State × Nat :=
  let a := regReadAll s w r.n r.i r.j
  (if r.lo = 0 then a.1 else s, bits a.2 r.hi r.lo)

/-- A read of the configuration window. -/
def winRead (s : State) (w : World) (off size : Nat) : State × Nat :=
  if off = 0xD00100 && size = 8 then nonceRead s true
  else match winAccess s w off size with
    | (s, none) => (s, 0)
    | (s, some r) => regRead s w r

/-! ### Writing -/

/-- `x` with the bits of `m` taken from `v`. -/
def pickBits (m x v : Nat) : Nat := x - Nat.land x m + Nat.land v m

/-- A write with no effect beyond what its field table says: shadowed fields go to the world's shadow, others to the
register, at once or to wait for their moment; W1C bits clear. -/
def plainWrite (s : State) (w : World) (r : WinRef) (v : Nat) : State :=
  let g := regInfo r.n
  let sel := 2 ^ (r.hi + 1) - 2 ^ r.lo
  let x := v % 2 ^ (r.hi + 1 - r.lo) * 2 ^ r.lo
  let sh := Nat.land sel (g.sh + g.qu)
  let now := Nat.land sel (g.rw - Nat.land g.rw (g.sh + g.qu))
  let s := if sh = 0 then s else setShadow s w r.n r.i r.j (pickBits sh (shadowVal s w r.n r.i r.j) x)
  let s :=
    if now = 0 then s
    else if g.moment = .now then s.wr r.n r.i r.j (pickBits now (s.rd r.n r.i r.j) x)
    else setWaiting s r.n r.i r.j (pickBits now (rdStored s r.n r.i r.j) x)
  let clr := Nat.land (Nat.land x g.w1c) (s.rd r.n r.i r.j)
  if clr = 0 then s else s.wr r.n r.i r.j (s.rd r.n r.i r.j - clr)

/-- The whole register as the write would leave it. -/
def merged (s : State) (w : World) (r : WinRef) (v : Nat) : Nat := setBits (storedVal s w r.n r.i r.j) r.hi r.lo v

/-- A dropped write. -/
def dropWrite (s : State) : State := countDropped s 0

/-- A write that its condition allows. -/
def writeIf (s : State) (w : World) (r : WinRef) (v : Nat) (ok : Bool) : State :=
  if ok then plainWrite s w r v else dropWrite s

/-- Every block whose world a write changes satisfies the condition of R414. -/
def worldChangeOk (s : State) (w : World) (r : WinRef) (v : Nat) (free : Nat → Bool) : Bool :=
  let x := Nat.xor (merged s w r v) (s.rd r.n r.i r.j)
  (upTo 64).all fun b => !bit x b || free (64 * r.i + b)

/-- A region given to the secure world ends above a limit in MiB (R284). -/
def limitCutsSecure (s : State) (l : Nat) : Bool :=
  (upTo 128).any fun n =>
    let x := s.rd .secRegion n
    bit x 63 && !bit x 62 && !bit x 61 && decide (l * 16 < bits x 31 0 + bits x 55 32)

/-- A write of MCT_RETIREk: a retired channel's bit stays set (R288). -/
def retireWrite (s : State) (w : World) (r : WinRef) (v : Nat) : State :=
  let act := bits (s.rd r.n r.i r.j) r.hi r.lo
  let lost := act - Nat.land act v
  let s := plainWrite s w r (v + Nat.land lost (2 ^ 64 - 1))
  if lost = 0 then s else dropWrite s

/-- A write of SEQ_VFROZENk: a non-secure write leaves the bits of secure regions (R225). -/
def frozenWrite (s : State) (w : World) (r : WinRef) (v : Nat) : State :=
  let m := merged s w r v
  let old := rdStored s r.n r.i r.j
  let locked := fun (b : Nat) => w == .ns && (getRegion s (64 * r.i + b)).world == .s
  let bad := (upTo 64).filter fun b => locked b && bit m b != bit old b
  let m := bad.foldl (fun m b => setBit m b (bit old b)) m
  let s := setWaiting s r.n r.i r.j m
  if bad.isEmpty then s else countDenied s 0

/-- A write of EVC_SRCn (R459, R462). -/
def srcWrite (s : State) (w : World) (r : WinRef) (v : Nat) : State :=
  let m := merged s w r v
  let wd := evtWorld s r.i
  let x := bits m 59 46
  if (if bit m 60 then ringWorld s x != wd else decide (18 < x) || (x == 16 && wd == .ns)) then dropWrite s
  else
    let cur := s.rd .evcSrc r.i
    let s := s.wr .evcSrc r.i 0 (setBit cur 63 (bit m 63))
    if bits cur 62 61 = 0 then s.wr .evcSrc r.i 0 (setBits (s.rd .evcSrc r.i) 60 42 (bits m 60 42))
    else setWaiting s .evcSrc r.i 0 m

/-- A write of EVC_WATCHn: an entry that names a secure source is the secure world's (R478). -/
def watchWrite (s : State) (w : World) (r : WinRef) (v : Nat) : State :=
  let names := fun (x : Nat) => bit x 31 && evtWorld s (bits x 11 0) == .s
  writeIf s w r v (w == .s || (!names v && !names (s.rd .evcWatch r.i)))

/-- A write of AMB_RULEn: rules 0 to 4 are read-only, and an active rule keeps its value until it clears (R451, R457). -/
def ruleWrite (s : State) (w : World) (r : WinRef) (v : Nat) : State :=
  let cur := s.rd .ambRule r.i
  if r.i < 5 then s
  else
    let m := Nat.land (merged s w r v) (regInfo .ambRule).rw
    if bit cur 62 then setWaiting s .ambRule r.i 0 m
    else
      let s := s.wr .ambRule r.i 0 m
      modPlat s fun p => { p with dwell := mapDel p.dwell r.i }

/-- A write of AMB_ALARM: with EN written, bits [63:48] of the time are those of now (R457). -/
def alarmWrite (s : State) (w : World) (r : WinRef) (v : Nat) : State :=
  let s := plainWrite s w r v
  if r.hi = 63 then modPlat s fun p => { p with alarmHi := s.time / 2 ^ 48 } else s

/-- A write of SNP_AUTO: H and F count from the time EN is set (R406). -/
def autoWrite (s : State) (w : World) (r : WinRef) (v : Nat) : State :=
  let was := bit (rdStored s .snpAuto 0 0) 63
  let s := plainWrite s w r v
  if !was && bit (rdStored s .snpAuto 0 0) 63 then { s with snp := { s.snp with enTime := s.time, fails := 0 } } else s

/-- A write of RAS_WATCH_CTL: 1 in FIRED re-arms, and the sum restarts (R389). -/
def watchCtlWrite (s : State) (w : World) (r : WinRef) (v : Nat) : State :=
  let s := plainWrite s w r v
  if bit v 31 then { s with rasSum := 0 } else s

/-- What a mirror entry would be, valid with this configuration, breaks a condition of R394. -/
def mirrorBad (s : State) (n cfg : Nat) : Bool :=
  let size := 65536 * bits cfg 22 0
  let inRange := fun (a : Nat) => decide (0x4000000 ≤ a) && decide (a + size ≤ dramLimit s)
  let others := (upTo 64).filter fun k => k != n && bit (rdStored s .mirRegCfg k 0) 31 && !bit (rdStored s .mirRegCfg k 0) 30
  let span := fun (k : Nat) => let b := s.rd .mirRegSrc k; (b, b + 65536 * bits (rdStored s .mirRegCfg k 0) 22 0)
  let mine := (s.rd .mirRegSrc n, s.rd .mirRegSrc n + size)
  !inRange (s.rd .mirRegSrc n) || !inRange (s.rd .mirRegDst n)
    || (!bit cfg 30 && (others.any (fun k => overlaps mine (span k))
      || decide (2 ^ 38 < size + (others.map fun k => (span k).2 - (span k).1).sum)))

/-- A write of MIR_REGn_CFG (R394): of a valid entry only VALID can be cleared. -/
def mirCfgWrite (s : State) (w : World) (r : WinRef) (v : Nat) : State :=
  let cur := rdStored s .mirRegCfg r.i 0
  if bit cur 31 then (if bit v 31 then dropWrite s else setWaiting s .mirRegCfg r.i 0 (setBit cur 31 false))
  else writeIf s w r v (!bit v 31 || !mirrorBad s r.i v)

/-- A write of MIR_CTL: RESEED acts at once (R396). -/
def mirCtlWrite (s : State) (w : World) (r : WinRef) (v : Nat) : State :=
  let s := plainWrite s w r v
  if bit v 30 then mirReseedAll s else s

/-- A write of FIJ_AUTH: EN cannot be set without the fuse, and clearing it clears every injector's EN (R375, R382). -/
def fijAuthWrite (s : State) (v : Nat) : State :=
  if bit v 0 then (if bit (s.rd .fijAuth) 31 then s.wrf .fijAuth 0 0 0 0 1 else dropWrite s)
  else
    let s := { (s.wrf .fijAuth 0 0 0 0 0) with fij := [] }
    (upTo 69).foldl (fun s n => if bit (s.rd .fijCtl n) 63 then s.wrf .fijCtl n 0 63 63 0 else s) s

/-- A write of FIJ_CTLn: the LFSR is seeded when EN is set (R376). -/
def fijCtlWrite (s : State) (w : World) (r : WinRef) (v : Nat) : State :=
  let was := bit (s.rd .fijCtl r.i) 63
  let s := plainWrite s w r v
  let c := s.rd .fijCtl r.i
  if !bit c 63 then { s with fij := mapDel s.fij r.i }
  else if was then s
  else { s with fij := mapIns s.fij r.i (orElse0 (bits c 31 0) 1, 0) }

/-- A ring of the world is enabled or draining (R349). -/
def worldRings (s : State) (w : World) : Bool :=
  s.hqe.rings.any fun q => ringWorld s q.1 == w && (q.2.st == .active || q.2.st == .draining || ringEnabled s q.1)

/-- BASE and AUX of a ring change only while it is disabled (R343). -/
def ringFree (s : State) (n : Nat) : Bool := !ringEnabled s n && (getRing s n).st != .draining

/-- A write of BASE or AUX. -/
def ringRegWrite (s : State) (w : World) (r : WinRef) (v : Nat) : State :=
  if ringFree s r.i then plainWrite s w r v else ringWriteDropped s

/-- A write of NMU_JOB_CTL (R230). -/
def nmuCtlWrite (s : State) (w : World) (r : WinRef) (v : Nat) : State :=
  let s := plainWrite s w r v
  if bit v 0 then nmuGo s w else s

/-- A write of MCT_RETRAIN (R290). -/
def retrainWrite (s : State) (w : World) (r : WinRef) (v : Nat) : State :=
  let s := plainWrite s w r v
  if bit v 0 then retrainGo s else s

/-- A write of RSC_SWRST; units fail in no bring-up that it starts (log 40). -/
def swrstWrite (s : State) (w : World) (r : WinRef) (v : Nat) : State :=
  let s := plainWrite s w r v
  if !bit v 31 then s
  else match bits v 1 0 with
    | 0 => coldReset s 4 cleanBringUp
    | 1 => warmReset s 4 cleanBringUp
    | 2 => dieReset s 4 (bits v 5 4)
    | _ => dropWrite s

/-- A write of AMB_WDOG (R453). -/
def wdogWrite (s : State) (w : World) (r : WinRef) (v : Nat) : State :=
  let s := plainWrite s w r v
  if bit v 30 then wdogKick s else s

/-- A write of SEQ_CFG_CTL: SHADOW_RD of the writing world (R263). -/
def cfgCtlWrite (s : State) (w : World) (v : Nat) : State :=
  s.wr .seqCfgCtl 0 0 (setBit (s.rd .seqCfgCtl) (worldBit w) (bit v 0))

/-- A write of SEC_SPDM_CTL: REQ is W1S (R434). -/
def spdmCtlWrite (s : State) (w : World) (r : WinRef) (v : Nat) : State :=
  let s := plainWrite s w r v
  if bit v 31 then s.wrf .secSpdmCtl 0 0 31 31 1 else s

/-- A write of SEC_DBG_RESP: the last word has it checked (R434). -/
def dbgRespWrite (s : State) (i v : Nat) : State := if i = 131 then dbgCheck s v else s.wr .secDbgResp i 0 v

/-- A write of bits of a register. -/
def regWrite (s : State) (w : World) (r : WinRef) (v : Nat) : State :=
  match r.n with
  | .seqStep => writeIf s w r v (quiet s)
  | .qxfDevid => writeIf s w r v (quiet s)
  | .mctLimit => writeIf s w r v (w == .s || !limitCutsSecure s (bits v 19 0))
  | .mctRetire => retireWrite s w r v
  | .mctEvac => evacWrite s v
  | .mctRetrain => retrainWrite s w r v
  | .nmuJobCtl => nmuCtlWrite s w r v
  | .seqVfrozen => frozenWrite s w r v
  | .seqCfgCtl => cfgCtlWrite s w v
  | .secWorldTile => writeIf s w r v (worldChangeOk s w r v (tileFenced s))
  | .secWorldRing => writeIf s w r v (worldChangeOk s w r v fun n => (getRing s n).st == .disabled)
  | .secWorldPort => writeIf s w r v (worldChangeOk s w r v fun p => !bit (s.rd .qxfPortCfg p) 27)
  | .secWorldEvt => writeIf s w r v (worldChangeOk s w r v fun n => bits (s.rd .evcSrc n) 62 61 == 0)
  | .secFuseCmd => fuseCmd s v
  | .secAttest => attestWrite s v
  | .secSpdmCtl => spdmCtlWrite s w r v
  | .secDbgResp => dbgRespWrite s r.i v
  | .ckgTime => ckgTimeSet s w (setBits s.time r.hi r.lo v)
  | .evcDbNs => doorbellWrite s .ns v
  | .evcDbS => doorbellWrite s .s v
  | .evcEoi => eoi s r.i (bits v 11 0)
  | .evcSrc => srcWrite s w r v
  | .evcWatch => watchWrite s w r v
  | .ambRule => ruleWrite s w r v
  | .ambAlarm => alarmWrite s w r v
  | .ambWdog => wdogWrite s w r v
  | .rscSwrst => swrstWrite s w r v
  | .rscBlkrst => blockReset s w v
  | .rscBootGood => if bit v 0 then bootGood s w else s
  | .snpAuto => autoWrite s w r v
  | .rasWatchCtl => watchCtlWrite s w r v
  | .mirCtl => mirCtlWrite s w r v
  | .mirRegCfg => mirCfgWrite s w r v
  | .mirRegSrc | .mirRegDst => writeIf s w r v (!bit (rdStored s .mirRegCfg r.i 0) 31)
  | .fijAuth => fijAuthWrite s v
  | .fijCtl => fijCtlWrite s w r v
  | .hqeDbBaseNs => writeIf s w r v (!worldRings s .ns)
  | .hqeDbBaseS => writeIf s w r v (!worldRings s .s)
  | .hqeRingBase | .hqeRingAux => ringRegWrite s w r v
  | .hqeRingCfg => ringCfgWrite s r.i (merged s w r v)
  | _ => plainWrite s w r v

/-- A write of the configuration window. -/
def winWrite (s : State) (w : World) (off size v : Nat) : State :=
  match winAccess s w off size with
  | (s, none) => s
  | (s, some r) => regWrite s w r (v % 2 ^ (8 * size))

/-! ### The rows -/

/-- The window is served: its rails are up, bring-up has reached its clocks, and the part is not in Black. -/
def windowUp (s : State) : Bool := s.plat.powered && decide (shade s < 3)

/-- REGISTER_WRITE: a store of an on-chip core (R266, R327), to the device address 0x7F00_0000_0000 + `off`. Beyond the register
space, from offset 0x0400_0000 on, that address is unmapped: the write is dropped and counted as BAD_ACCESS (R265, R266). -/
def execRegisterWrite (w : World) (off : W32) (size : Nat) (val : W64) (s : State) : Host.Outcome State Fault Refusal :=
  .next (if windowUp s then winWrite s w off.toNat size val.toNat else s)

/-- Answer a host request: CPL, or CPL_D with its data (R324). -/
def cplOut (s : State) (tag : Nat) (d : Option (Nat × Nat)) : State :=
  match d with
  | none => linkSend s .lhl [{ cls := 2, use := .cpl tag none, bytes := lhlHdr 0x06 0 0 tag 0 0 }]
  | some (size, v) =>
    let h := natLe 1 0x07 ++ natLe 1 0 ++ natLe 2 tag ++ natLe 2 size ++ natLe 2 4 ++ zeroBytes 8
    linkSend s .lhl [{ cls := 2, data := 1, use := .cpl tag (some v), bytes := h ++ natLe 8 v }]

/-- CFG_RD. -/
def execCfgRd (w : World) (tag : Fin 4096) (off : W32) (size : Nat) (s : State) : Host.Outcome State Fault Refusal :=
  if windowUp s && lhlActive s then
    let r := winRead s w off.toNat size
    .next (cplOut r.1 tag (some (size, r.2)))
  else .next s

/-- CFG_WR: acknowledged once the write has reached its register. -/
def execCfgWr (w : World) (tag : Fin 4096) (off : W32) (size : Nat) (val : W64) (s : State) : Host.Outcome State Fault Refusal :=
  if windowUp s && lhlActive s then .next (cplOut (winWrite s w off.toNat size val.toNat) tag none) else .next s

/-- A read by an on-chip core, of a whole 64-bit register or of a half. -/
def coreRead (s : State) (w : World) (off : Nat) (h : Half) : State :=
  if !windowUp s then s
  else
    let o := match h with | .high => off + 4 | _ => off
    let r := winRead s w o (match h with | .full => 8 | _ => 4)
    emit r.1 (.read o r.2)

/-- GBL_LAYOUT_ERR_READ. -/
def execGblLayoutErrRead (w : World) (h : Half) (s : State) : Host.Outcome State Fault Refusal :=
  .next (coreRead s w (regOff .gblLayoutErr 0 0) h)
/-- TIL_SLOT_ERR_READ. -/
def execTilSlotErrRead (w : World) (t : Tile) (h : Half) (s : State) : Host.Outcome State Fault Refusal :=
  .next (coreRead s w (regOff .tilSlotErr t 0) h)
/-- TIL_GME_ERR_READ. -/
def execTilGmeErrRead (w : World) (t : Tile) (h : Half) (s : State) : Host.Outcome State Fault Refusal :=
  .next (coreRead s w (regOff .tilGmeErr t 0) h)
/-- TIL_VE_ERR_READ. -/
def execTilVeErrRead (w : World) (t : Tile) (h : Half) (s : State) : Host.Outcome State Fault Refusal :=
  .next (coreRead s w (regOff .tilVeErr t 0) h)
/-- TKR_ERR_READ. -/
def execTkrErrRead (w : World) (h : Half) (s : State) : Host.Outcome State Fault Refusal :=
  .next (coreRead s w (regOff .tkrErr 0 0) h)
/-- MSH_ERR_READ. -/
def execMshErrRead (w : World) (h : Half) (s : State) : Host.Outcome State Fault Refusal :=
  .next (coreRead s w (regOff .mshErr 0 0) h)
/-- QXF_ERR_READ. -/
def execQxfErrRead (w : World) (h : Half) (s : State) : Host.Outcome State Fault Refusal :=
  .next (coreRead s w (regOff .qxfErr 0 0) h)
/-- CKG_SYNC_READ: the crossing barrier completes, and every write before it has taken effect (R438). -/
def execCkgSyncRead (w : World) (s : State) : Host.Outcome State Fault Refusal :=
  .next (coreRead s w (regOff .ckgSync 0 0) .low)
/-- CKG_TIME_WRITE. -/
def execCkgTimeWrite (w : World) (val : W64) (s : State) : Host.Outcome State Fault Refusal :=
  .next (if windowUp s then winWrite s w (regOff .ckgTime 0 0) 8 val.toNat else s)
/-- EVENT_FIRE: a write of the world's doorbell register (R458). -/
def execEventFire (w : World) (val : W32) (s : State) : Host.Outcome State Fault Refusal :=
  .next (if windowUp s then
    winWrite s w (match w with | .ns => regOff .evcDbNs 0 0 | .s => regOff .evcDbS 0 0) 4 val.toNat
  else s)
/-- EVENT_CLAIM: a read of EVC_CLAIMc. -/
def execEventClaim (w : World) (c : Fin 19) (h : Half) (s : State) : Host.Outcome State Fault Refusal :=
  .next (coreRead s w (regOff .evcClaim c 0) h)
/-- EVENT_EOI: a write of EVC_EOIc. -/
def execEventEoi (w : World) (c : Fin 19) (val : W32) (s : State) : Host.Outcome State Fault Refusal :=
  .next (if windowUp s then winWrite s w (regOff .evcEoi c 0) 4 val.toNat else s)

/-- A write of HQE_RINGn_CFG that does what `f` says. -/
def ringRow (s : State) (w : World) (n : RingNo) (cfg : W64) (f : Nat → Bool) : State :=
  if windowUp s && f cfg.toNat then winWrite s w (regOff .hqeRingCfg n 0) 8 cfg.toNat else s

/-- RING_ENABLE: ENABLE is set in a ring that is not enabled. -/
def execRingEnable (w : World) (n : RingNo) (cfg : W64) (s : State) : Host.Outcome State Fault Refusal :=
  .next (ringRow s w n cfg fun v => bit v 63 && !ringEnabled s n)
/-- RING_DISABLE: ENABLE is cleared in an enabled ring. -/
def execRingDisable (w : World) (n : RingNo) (cfg : W64) (s : State) : Host.Outcome State Fault Refusal :=
  .next (ringRow s w n cfg fun v => !bit v 63 && ringEnabled s n)
/-- RING_RESET: RESET, with ENABLE = 0. -/
def execRingReset (w : World) (n : RingNo) (cfg : W64) (s : State) : Host.Outcome State Fault Refusal :=
  .next (ringRow s w n cfg fun v => bit v 62 && !bit v 63 && !ringEnabled s n)

/-- RAS_WATCH_REARM: 1 is written to FIRED; the rest of the register keeps its value. -/
def execRasWatchRearm (w : World) (s : State) : Host.Outcome State Fault Refusal :=
  .next (if windowUp s then winWrite s w (regOff .rasWatchCtl 0 0) 4 (Nat.lor (s.rd .rasWatchCtl) (2 ^ 31)) else s)

/-! ### NUDGE and WAKE (R329, R332, R445) -/

/-- A message that is dropped and counted. -/
def msgDropped (s : State) : State := countDropped (cntAdd s .lhlCnt 7 0 1) 0

/-- What a NUDGE asks for: a ring's doorbell word, or a scan. -/
def nudgeGo (s : State) (r : Option Nat) : State :=
  let s := setInterval s (scanMin s)
  match r with
  | some n => if fetches s n then readDoorbell s n else s
  | none => hqeScanOnce s

/-- NUDGE: in Grey it wakes the part; in Charcoal it is acted on after waking. -/
def execNudge (_ : World) (operand : W64) (s : State) : Host.Outcome State Fault Refusal :=
  let v := operand.toNat
  let r := if bit v 14 then some (bits v 13 0) else none
  if !lhlActive s then .next s
  else if v / 2 ^ 15 ≠ 0 then .next (msgDropped s)
  else
    let s := cntAdd s .hqeCnt 5 0 1
    if shade s = 2 then .next { s with hqe := { s.hqe with nudges := s.hqe.nudges ++ [r] } }
    else .next (nudgeGo (if shade s = 1 then wakeWhite s else s) r)

/-- WAKE: from Grey or Charcoal to White. -/
def execWake (_ : World) (operand : W64) (s : State) : Host.Outcome State Fault Refusal :=
  if !lhlActive s then .next s
  else if operand ≠ 0 then .next (msgDropped s)
  else .next (wakeWhite (setInterval s (scanMin s)))

/-- HQE_SCAN: the scan interval has passed; NUDGEs that came in Charcoal act first. -/
def execHqeScan (s : State) : Host.Outcome State Fault Refusal :=
  if s.hqe.nudges.isEmpty || decide (2 ≤ shade s) then .next (hqeScanOnce s)
  else .next (hqeScanOnce (s.hqe.nudges.foldl nudgeGo { s with hqe := { s.hqe with nudges := [] } }))

end Sys2Proof.Machine
end

