-- ==== Sys2Proof/Machine/Continue.lean ====
section
/-! DEFINITION. Answers from outside that a waiting command goes on with: completions of host requests (R324, R328), their
timeouts, the LHL's down limit (R323), and RESPONSEs and DONEs from the fabric (R358). -/

namespace Sys2Proof.Machine

/-! ### Going on -/

/-- Messages of a copy have their answers: what was fetched is written, or the written copy ends. -/
def copyOn (s : State) (iid op : Nat) : State :=
  match s.seq.copies.find? fun c => c.iid == iid with
  | none => copyRow s iid op
  | some c =>
    if !c.running then copyTry s iid
    else if cmdOut s iid then s
    else if c.written then copyFinish s iid
    else copyDo s c

/-- A table load goes on by its KIND. -/
def loadOn (s : State) (iid kind : Nat) : State :=
  match kind with
  | 0x10 => contextsRow s iid
  | 0x20 => regionsRow s iid
  | 0x30 => routesRow s iid
  | 0x31 => peersRow s iid
  | 0x32 => groupsRow s iid
  | 0x33 => windowsRow s iid
  | _ => s

/-- An issued command goes on with what has come for it. -/
def cmdOn (s : State) (iid : Nat) : State :=
  match getIssued s iid with
  | none => s
  | some c =>
    match c.op with
    | 0x0010 => copyOn s iid 0x10
    | 0x0011 => copyOn s iid 0x11
    | 0x0012 => copyOn s iid 0x12
    | 0x0020 => planRow s iid (planKindOf c) (rpRecompute c.ops)
    | 0x0021 => stepAnswerRow s iid
    | 0x0030 => snapRow s iid
    | 0x0031 => restoreRow s iid
    | 0x0050 => loadOn s iid (ltKind c.ops)
    | 0x0060 => fwRow s iid 0x0060 stageGo
    | _ => s

/-- What a context does when one of its messages has its answer. -/
def ctxOn (s : State) : Ctx → State
  | .cmd iid => cmdOn s iid
  | .snap => match s.snp.cur with
    | some n => if n.headed then snapFinish s n else s
    | none => s
  | _ => s

/-! ### Host requests (R324, R328) -/

/-- The request of a tag. -/
def hostReqOf (s : State) (tag : Nat) : Option HostReq := s.hostReqs.find? fun r => r.tag == tag && reqSent s tag

/-- The request is out no longer, and its tag is free for one that waits (R324). -/
def dropReq (s : State) (tag : Nat) : State :=
  hostNext s.hostLine.length { s with hostReqs := s.hostReqs.filter fun r => r.tag != tag }

/-- Note an answer for the command that asked, and let it go on; the HQE's own requests act at once. -/
def hostAnswer (s : State) (r : HostReq) (status : Nat) : State :=
  let note := fun (s : State) =>
    { s with hostAns := s.hostAns ++ [{ use := r.use, addr := r.addr, len := r.len, status := status }] }
  match r.use with
  | .cmd iid => cmdOn (note s) iid
  | .template => autoGo (note s)
  | _ => if status = stOk then hqeCame s r else hqeFailed s r

/-- A request fails: counted, and its requester learns the status (R328). -/
def hostFail (s : State) (r : HostReq) (status : Nat) : State :=
  hostAnswer (cntAdd (dropReq s r.tag) .lhlCnt 6 0 1) r status

/-- Data of a request: its CPL_Ds come in ascending OFFSET, and the last of them answers it (R324). -/
def hostData (s : State) (r : HostReq) (data : Bytes) : State :=
  let s := setHost s (r.addr + r.got) data
  if r.got + data.length < r.len then
    { s with hostReqs := updWhere (fun q => q.tag == r.tag) (fun q => { q with got := q.got + data.length }) s.hostReqs }
  else hostAnswer (dropReq s r.tag) r stOk

/-- HOST_COMPLETION: OK with the next bytes of what was asked for, UR or DENIED; any other completion answers no request. -/
def execHostCompletion (tag : Fin 4096) (status : Fin 4) (data : Bytes) (s : State) :
    Host.Outcome State Fault Refusal :=
  if 4096 < data.length then .refused .illFormed
  else match hostReqOf s tag.val with
    | none => .next s
    | some r =>
      match status.val with
      | 0 => if data.isEmpty || decide (r.len < r.got + data.length) then .next s else .next (hostData s r data)
      | 1 => .next (hostFail s r stOutOfRange)
      | 2 => .next (hostFail s r stAccessDenied)
      | _ => .next s

/-- CPL_TIMEOUT: no completion has come within LHL_CFG.CPL_TIMEOUT. -/
def execCplTimeout (tag : Fin 4096) (s : State) : Host.Outcome State Fault Refusal :=
  match hostReqOf s tag.val with
  | none => .next s
  | some r => .next (hostFail s r stTimeout)

/-- Each of the requests that is still out fails as a timeout. -/
def failReqs : List HostReq → State → State
  | [], s => s
  | r :: rs, s => failReqs rs (if s.hostReqs.contains r then hostFail s r stTimeout else s)

/-- LHL_DOWN_LIMIT (R323): the replay buffer is discarded, its posted transactions are counted lost, and every
outstanding host request fails. -/
def execLhlDownLimit (s : State) : Host.Outcome State Fault Refusal :=
  let l := s.lhl
  if l.st == .active || l.st == .off then .next s
  else
    let lost := ((l.replay ++ l.wait).map fun f => f.posted).sum
    let unsent := l.hold.filter fun m => match m.use with | .req _ => false | _ => true
    let s1 := { s with lhl := { l with replay := [], wait := [], hold := unsent, lost := true } }
    .next (failReqs s.hostReqs (cntAdd s1 .lhlCnt 7 0 lost))

/-! ### The fabric's answers (R358) -/

/-- FABRIC_RESPONSE: data of an earlier READ, and what waited for it goes on. -/
def execFabricResponse (p : PortNo) (m : List FabPacket) (s : State) : Host.Outcome State Fault Refusal :=
  if pktsWellFormed m then
    let r := responseTake s p m
    .next (match r.2 with
      | none => r.1
      | some c => ctxOn r.1 c)
  else .refused .illFormed

/-- DONE_RECEIVE: a message of ours is answered OK, RETRY or DENIED. -/
def execDoneReceive (src : DeviceId) (msg : W32) (status : Fin 3) (s : State) : Host.Outcome State Fault Refusal :=
  let r := doneTake s src.toNat msg.toNat status.val
  .next (mirOn (match r.2 with
    | none => r.1
    | some c => ctxOn r.1 c))

end Sys2Proof.Machine
end

