-- ==== Sys2Proof/Machine/Dispatch.lean ====
section
/-! DEFINITION. The effect of every command: one arm per command, each a direct call of its meaning. -/

namespace Sys2Proof.Machine

/-- The effect of a command on everything but the queue. -/
def exec (i : Instr) (s : State) : Host.Outcome State Fault Refusal :=
  match i with
  | .registerWrite w off size val => Sys2Proof.Machine.execRegisterWrite w off size val s
  | .cfgRd w tag off size => Sys2Proof.Machine.execCfgRd w tag off size s
  | .cfgWr w tag off size val => Sys2Proof.Machine.execCfgWr w tag off size val s
  | .gblLayoutErrRead w h => Sys2Proof.Machine.execGblLayoutErrRead w h s
  | .tilSlotErrRead w t h => Sys2Proof.Machine.execTilSlotErrRead w t h s
  | .tilGmeErrRead w t h => Sys2Proof.Machine.execTilGmeErrRead w t h s
  | .tilVeErrRead w t h => Sys2Proof.Machine.execTilVeErrRead w t h s
  | .tkrErrRead w h => Sys2Proof.Machine.execTkrErrRead w h s
  | .mshErrRead w h => Sys2Proof.Machine.execMshErrRead w h s
  | .qxfErrRead w h => Sys2Proof.Machine.execQxfErrRead w h s
  | .ckgSyncRead w => Sys2Proof.Machine.execCkgSyncRead w s
  | .ckgTimeWrite w val => Sys2Proof.Machine.execCkgTimeWrite w val s
  | .nop iid => Sys2Proof.Machine.execNop iid s
  | .copyIn iid => Sys2Proof.Machine.execCopyIn iid s
  | .copyOut iid => Sys2Proof.Machine.execCopyOut iid s
  | .copyDev iid => Sys2Proof.Machine.execCopyDev iid s
  | .heldCopyStart iid => Sys2Proof.Machine.execHeldCopyStart iid s
  | .runPlan iid => Sys2Proof.Machine.execRunPlan iid s
  | .runPlanEval iid => Sys2Proof.Machine.execRunPlanEval iid s
  | .runPlanRecompute iid => Sys2Proof.Machine.execRunPlanRecompute iid s
  | .heldPlanStart k => Sys2Proof.Machine.execHeldPlanStart k s
  | .stepAnswer iid => Sys2Proof.Machine.execStepAnswer iid s
  | .cancelBatch iid => Sys2Proof.Machine.execCancelBatch iid s
  | .configCommit iid => Sys2Proof.Machine.execConfigCommit iid s
  | .configDiscard iid => Sys2Proof.Machine.execConfigDiscard iid s
  | .epochMarker b => Sys2Proof.Machine.execEpochMarker b s
  | .transitionEnd => Sys2Proof.Machine.execTransitionEnd s
  | .snapshot iid => Sys2Proof.Machine.execSnapshot iid s
  | .snapshotCapture => Sys2Proof.Machine.execSnapshotCapture s
  | .cowCopy w addr data => Sys2Proof.Machine.execCowCopy w addr data s
  | .snapshotPageSend => Sys2Proof.Machine.execSnapshotPageSend s
  | .snapshotAuto => Sys2Proof.Machine.execSnapshotAuto s
  | .restore iid => Sys2Proof.Machine.execRestore iid s
  | .fenceTiles iid => Sys2Proof.Machine.execFenceTiles iid s
  | .unfenceTiles iid => Sys2Proof.Machine.execUnfenceTiles iid s
  | .dieQuarantine iid => Sys2Proof.Machine.execDieQuarantine iid s
  | .dieUnquarantine iid => Sys2Proof.Machine.execDieUnquarantine iid s
  | .selfTest iid => Sys2Proof.Machine.execSelfTest iid s
  | .testFenceStart t => Sys2Proof.Machine.execTestFenceStart t s
  | .tileTestEnd t sramFail accFail logicFail layer granule => Sys2Proof.Machine.execTileTestEnd t sramFail accFail logicFail layer granule s
  | .loadRoutingContexts iid => Sys2Proof.Machine.execLoadRoutingContexts iid s
  | .loadVersionedRegions iid => Sys2Proof.Machine.execLoadVersionedRegions iid s
  | .loadRouteBank iid => Sys2Proof.Machine.execLoadRouteBank iid s
  | .loadPeerEntries iid => Sys2Proof.Machine.execLoadPeerEntries iid s
  | .loadCloseGroups iid => Sys2Proof.Machine.execLoadCloseGroups iid s
  | .loadReductionWindows iid => Sys2Proof.Machine.execLoadReductionWindows iid s
  | .fwStage iid => Sys2Proof.Machine.execFwStage iid s
  | .fwActivateAuto iid => Sys2Proof.Machine.execFwActivateAuto iid s
  | .fwActivateInPlace iid => Sys2Proof.Machine.execFwActivateInPlace iid s
  | .fwActivateWarm iid => Sys2Proof.Machine.execFwActivateWarm iid s
  | .fwActivateCold iid => Sys2Proof.Machine.execFwActivateCold iid s
  | .activationCommit b => Sys2Proof.Machine.execActivationCommit b s
  | .fwConfirm iid => Sys2Proof.Machine.execFwConfirm iid s
  | .setShade iid => Sys2Proof.Machine.execSetShade iid s
  | .setPoint iid => Sys2Proof.Machine.execSetPoint iid s
  | .gate iid => Sys2Proof.Machine.execGate iid s
  | .ungate iid => Sys2Proof.Machine.execUngate iid s
  | .phaseStart k => Sys2Proof.Machine.execPhaseStart k s
  | .freeWriteUnblock r => Sys2Proof.Machine.execFreeWriteUnblock r s
  | .versionStallExpire r => Sys2Proof.Machine.execVersionStallExpire r s
  | .phaseEnd k d => Sys2Proof.Machine.execPhaseEnd k d s
  | .branchDecide k => Sys2Proof.Machine.execBranchDecide k s
  | .phaseLimitExceeded k => Sys2Proof.Machine.execPhaseLimitExceeded k s
  | .stepCommit k => Sys2Proof.Machine.execStepCommit k s
  | .mirrorDrainDone => Sys2Proof.Machine.execMirrorDrainDone s
  | .checkResultMessage src pass atOnce => Sys2Proof.Machine.execCheckResultMessage src pass atOnce s
  | .replayStart k => Sys2Proof.Machine.execReplayStart k s
  | .updateRetryStart => Sys2Proof.Machine.execUpdateRetryStart s
  | .qsend k q => Sys2Proof.Machine.execQsend k q s
  | .qrecv k q => Sys2Proof.Machine.execQrecv k q s
  | .queueEntryReceive qid step attempt seq msg data => Sys2Proof.Machine.execQueueEntryReceive qid step attempt seq msg data s
  | .queueLimitExpire k q => Sys2Proof.Machine.execQueueLimitExpire k q s
  | .denseTaskTake t => Sys2Proof.Machine.execDenseTaskTake t s
  | .outputBlockFinish t a => Sys2Proof.Machine.execOutputBlockFinish t a s
  | .sheetBlockArrive t north slot => Sys2Proof.Machine.execSheetBlockArrive t north slot s
  | .splitkPartDone t a => Sys2Proof.Machine.execSplitkPartDone t a s
  | .splitkClose t => Sys2Proof.Machine.execSplitkClose t s
  | .gatherPosting d g p => Sys2Proof.Machine.execGatherPosting d g p s
  | .gatherFlushExpire d g => Sys2Proof.Machine.execGatherFlushExpire d g s
  | .packedSuperblockWrite t => Sys2Proof.Machine.execPackedSuperblockWrite t s
  | .blockMerge w td pos els => Sys2Proof.Machine.execBlockMerge w td pos els s
  | .gmeSpprod t => Sys2Proof.Machine.execGmeSpprod t s
  | .gmeGather t => Sys2Proof.Machine.execGmeGather t s
  | .gmeScatter t => Sys2Proof.Machine.execGmeScatter t s
  | .gmeScatterAcc t => Sys2Proof.Machine.execGmeScatterAcc t s
  | .gmeSegsum t => Sys2Proof.Machine.execGmeSegsum t s
  | .gmeRaggedCat t => Sys2Proof.Machine.execGmeRaggedCat t s
  | .gmeSortKey t => Sys2Proof.Machine.execGmeSortKey t s
  | .gmeMergeKey t => Sys2Proof.Machine.execGmeMergeKey t s
  | .gmeTopk t => Sys2Proof.Machine.execGmeTopk t s
  | .partCutsReady k => Sys2Proof.Machine.execPartCutsReady k s
  | .ownerContribution t => Sys2Proof.Machine.execOwnerContribution t s
  | .anchorPassClose k => Sys2Proof.Machine.execAnchorPassClose k s
  | .ownerFinish t => Sys2Proof.Machine.execOwnerFinish t s
  | .veTaskTake t => Sys2Proof.Machine.execVeTaskTake t s
  | .ldb t x => Sys2Proof.Machine.execLdb t x s
  | .stb t x => Sys2Proof.Machine.execStb t x s
  | .mov t x => Sys2Proof.Machine.execMov t x s
  | .add t x => Sys2Proof.Machine.execAdd t x s
  | .sub t x => Sys2Proof.Machine.execSub t x s
  | .mul t x => Sys2Proof.Machine.execMul t x s
  | .fma t x => Sys2Proof.Machine.execFma t x s
  | .max t x => Sys2Proof.Machine.execMax t x s
  | .min t x => Sys2Proof.Machine.execMin t x s
  | .abs t x => Sys2Proof.Machine.execAbs t x s
  | .neg t x => Sys2Proof.Machine.execNeg t x s
  | .cvt t x => Sys2Proof.Machine.execCvt t x s
  | .cmplt t x => Sys2Proof.Machine.execCmplt t x s
  | .cmpeq t x => Sys2Proof.Machine.execCmpeq t x s
  | .sel t x => Sys2Proof.Machine.execSel t x s
  | .exp t x => Sys2Proof.Machine.execExp t x s
  | .log t x => Sys2Proof.Machine.execLog t x s
  | .rsqrt t x => Sys2Proof.Machine.execRsqrt t x s
  | .tanh t x => Sys2Proof.Machine.execTanh t x s
  | .rcp t x => Sys2Proof.Machine.execRcp t x s
  | .perm t x => Sys2Proof.Machine.execPerm t x s
  | .shuf t x => Sys2Proof.Machine.execShuf t x s
  | .pack t x => Sys2Proof.Machine.execPack t x s
  | .unpack t x => Sys2Proof.Machine.execUnpack t x s
  | .trb t x => Sys2Proof.Machine.execTrb t x s
  | .rowsum t x => Sys2Proof.Machine.execRowsum t x s
  | .rowdot t x => Sys2Proof.Machine.execRowdot t x s
  | .rowmax t x => Sys2Proof.Machine.execRowmax t x s
  | .rowmin t x => Sys2Proof.Machine.execRowmin t x s
  | .rowcnt t x => Sys2Proof.Machine.execRowcnt t x s
  | .colsum t x => Sys2Proof.Machine.execColsum t x s
  | .divn t x => Sys2Proof.Machine.execDivn t x s
  | .xch t x => Sys2Proof.Machine.execXch t x s
  | .xchCombine brow idx2 => Sys2Proof.Machine.execXchCombine brow idx2 s
  | .rowtopk t x => Sys2Proof.Machine.execRowtopk t x s
  | .tkemit t x => Sys2Proof.Machine.execTkemit t x s
  | .summ t x => Sys2Proof.Machine.execSumm t x s
  | .acceptBlockRow k ctx => Sys2Proof.Machine.execAcceptBlockRow k ctx s
  | .dispatchFrame f => Sys2Proof.Machine.execDispatchFrame f s
  | .closeFrame f => Sys2Proof.Machine.execCloseFrame f s
  | .epochFrame f => Sys2Proof.Machine.execEpochFrame f s
  | .arrivalFlush ctx loc blk => Sys2Proof.Machine.execArrivalFlush ctx loc blk s
  | .returnSend src ticket => Sys2Proof.Machine.execReturnSend src ticket s
  | .returnFrame f => Sys2Proof.Machine.execReturnFrame f s
  | .answerTimeout => Sys2Proof.Machine.execAnswerTimeout s
  | .ticketStallLimit ctx => Sys2Proof.Machine.execTicketStallLimit ctx s
  | .nmuFill => Sys2Proof.Machine.execNmuFill s
  | .nmuInitUniform => Sys2Proof.Machine.execNmuInitUniform s
  | .nmuSgdm => Sys2Proof.Machine.execNmuSgdm s
  | .nmuAdamw => Sys2Proof.Machine.execNmuAdamw s
  | .nmuScale => Sys2Proof.Machine.execNmuScale s
  | .nmuCompare => Sys2Proof.Machine.execNmuCompare s
  | .nmuJobEnd => Sys2Proof.Machine.execNmuJobEnd s
  | .sramScrubRead t g => Sys2Proof.Machine.execSramScrubRead t g s
  | .dramPatrolRead c burst => Sys2Proof.Machine.execDramPatrolRead c burst s
  | .dramRefresh c bank mr4 => Sys2Proof.Machine.execDramRefresh c bank mr4 s
  | .zqLatch c => Sys2Proof.Machine.execZqLatch c s
  | .wckTracking c inWindow => Sys2Proof.Machine.execWckTracking c inWindow s
  | .channelRetrain c => Sys2Proof.Machine.execChannelRetrain c s
  | .evacuationStart w val => Sys2Proof.Machine.execEvacuationStart w val s
  | .evacGranuleMove => Sys2Proof.Machine.execEvacGranuleMove s
  | .meshPacketRoute p => Sys2Proof.Machine.execMeshPacketRoute p s
  | .mcWrite p => Sys2Proof.Machine.execMcWrite p s
  | .mcBranchPrune id b => Sys2Proof.Machine.execMcBranchPrune id b s
  | .mcDone id => Sys2Proof.Machine.execMcDone id s
  | .bridgeFlitReceive b f => Sys2Proof.Machine.execBridgeFlitReceive b f s
  | .bridgeNak b last => Sys2Proof.Machine.execBridgeNak b last s
  | .bridgeRetrain b => Sys2Proof.Machine.execBridgeRetrain b s
  | .lhlFlitReceive f => Sys2Proof.Machine.execLhlFlitReceive f s
  | .lhlNak last => Sys2Proof.Machine.execLhlNak last s
  | .lhlReplayTimeout => Sys2Proof.Machine.execLhlReplayTimeout s
  | .lhlAckDue => Sys2Proof.Machine.execLhlAckDue s
  | .lhlSignalDetect lanes => Sys2Proof.Machine.execLhlSignalDetect lanes s
  | .lhlTrainDone lanes => Sys2Proof.Machine.execLhlTrainDone lanes s
  | .lhlTrainTimeout => Sys2Proof.Machine.execLhlTrainTimeout s
  | .lhlRetrainEntry c => Sys2Proof.Machine.execLhlRetrainEntry c s
  | .lhlRetrainDone lanes => Sys2Proof.Machine.execLhlRetrainDone lanes s
  | .lhlRetrainTimeout => Sys2Proof.Machine.execLhlRetrainTimeout s
  | .lhlDownLimit => Sys2Proof.Machine.execLhlDownLimit s
  | .hostCompletion tag status data => Sys2Proof.Machine.execHostCompletion tag status data s
  | .cplTimeout tag => Sys2Proof.Machine.execCplTimeout tag s
  | .nudge w operand => Sys2Proof.Machine.execNudge w operand s
  | .wake w operand => Sys2Proof.Machine.execWake w operand s
  | .lhlResetCold w operand b => Sys2Proof.Machine.execLhlResetCold w operand b s
  | .lhlResetWarm w operand b => Sys2Proof.Machine.execLhlResetWarm w operand b s
  | .lhlResetDie w operand => Sys2Proof.Machine.execLhlResetDie w operand s
  | .hqeScan => Sys2Proof.Machine.execHqeScan s
  | .descriptorFetch n => Sys2Proof.Machine.execDescriptorFetch n s
  | .descriptorSeqRecheck n => Sys2Proof.Machine.execDescriptorSeqRecheck n s
  | .descriptorIssue => Sys2Proof.Machine.execDescriptorIssue s
  | .cqSpacePoll n => Sys2Proof.Machine.execCqSpacePoll n s
  | .coalesceTimer n => Sys2Proof.Machine.execCoalesceTimer n s
  | .ringEnable w n cfg => Sys2Proof.Machine.execRingEnable w n cfg s
  | .ringDisable w n cfg => Sys2Proof.Machine.execRingDisable w n cfg s
  | .ringDrained n => Sys2Proof.Machine.execRingDrained n s
  | .ringReset w n cfg => Sys2Proof.Machine.execRingReset w n cfg s
  | .qxfFlitReceive p f => Sys2Proof.Machine.execQxfFlitReceive p f s
  | .qxfNak p last => Sys2Proof.Machine.execQxfNak p last s
  | .qxfReplayTimeout p => Sys2Proof.Machine.execQxfReplayTimeout p s
  | .qxfSignalDetect p lanes => Sys2Proof.Machine.execQxfSignalDetect p lanes s
  | .qxfTrainDone p lanes => Sys2Proof.Machine.execQxfTrainDone p lanes s
  | .qxfTrainTimeout p => Sys2Proof.Machine.execQxfTrainTimeout p s
  | .qxfRetrainEntry p c => Sys2Proof.Machine.execQxfRetrainEntry p c s
  | .qxfRetrainDone p lanes => Sys2Proof.Machine.execQxfRetrainDone p lanes s
  | .qxfRetrainTimeout p => Sys2Proof.Machine.execQxfRetrainTimeout p s
  | .portDownTimeout p => Sys2Proof.Machine.execPortDownTimeout p s
  | .fabricTransit p x => Sys2Proof.Machine.execFabricTransit p x s
  | .fabricWrite p m => Sys2Proof.Machine.execFabricWrite p m s
  | .fabricRead p m => Sys2Proof.Machine.execFabricRead p m s
  | .fabricResponse p m => Sys2Proof.Machine.execFabricResponse p m s
  | .reductionContribution w own m => Sys2Proof.Machine.execReductionContribution w own m s
  | .reductionWaitTimeout k win blk => Sys2Proof.Machine.execReductionWaitTimeout k win blk s
  | .anchorMessage p m => Sys2Proof.Machine.execAnchorMessage p m s
  | .mirrorMessage p m => Sys2Proof.Machine.execMirrorMessage p m s
  | .doneReceive src msg status => Sys2Proof.Machine.execDoneReceive src msg status s
  | .retryResend peer msg => Sys2Proof.Machine.execRetryResend peer msg s
  | .probeReceive src => Sys2Proof.Machine.execProbeReceive src s
  | .msgTimeoutExpire peer msg => Sys2Proof.Machine.execMsgTimeoutExpire peer msg s
  | .probeInterval => Sys2Proof.Machine.execProbeInterval s
  | .peerCacheFill peer => Sys2Proof.Machine.execPeerCacheFill peer s
  | .mirrorSeedPage n => Sys2Proof.Machine.execMirrorSeedPage n s
  | .mirrorReseed w => Sys2Proof.Machine.execMirrorReseed w s
  | .rasWatchRearm w => Sys2Proof.Machine.execRasWatchRearm w s
  | .revokeSlot w slot => Sys2Proof.Machine.execRevokeSlot w slot s
  | .attestPeer w peer => Sys2Proof.Machine.execAttestPeer w peer s
  | .attestResult r => Sys2Proof.Machine.execAttestResult r s
  | .getVersion t req => Sys2Proof.Machine.execGetVersion t req s
  | .getCapabilities t req => Sys2Proof.Machine.execGetCapabilities t req s
  | .negotiateAlgorithms t req => Sys2Proof.Machine.execNegotiateAlgorithms t req s
  | .getDigests t req => Sys2Proof.Machine.execGetDigests t req s
  | .getCertificate t slot req => Sys2Proof.Machine.execGetCertificate t slot req s
  | .challenge t req => Sys2Proof.Machine.execChallenge t req s
  | .getMeasurements t idx req => Sys2Proof.Machine.execGetMeasurements t idx req s
  | .spdmUnsupportedRequest t code req => Sys2Proof.Machine.execSpdmUnsupportedRequest t code req s
  | .dbgNonceRead h => Sys2Proof.Machine.execDbgNonceRead h s
  | .dbgResponseCheck val => Sys2Proof.Machine.execDbgResponseCheck val s
  | .dbgLockoutExpire => Sys2Proof.Machine.execDbgLockoutExpire s
  | .powerReading watts => Sys2Proof.Machine.execPowerReading watts s
  | .tclkSwitchUp d => Sys2Proof.Machine.execTclkSwitchUp d s
  | .amberSample sensor raw => Sys2Proof.Machine.execAmberSample sensor raw s
  | .thermalStepRepeat => Sys2Proof.Machine.execThermalStepRepeat s
  | .thermalPointRise => Sys2Proof.Machine.execThermalPointRise s
  | .amberShadeEntry => Sys2Proof.Machine.execAmberShadeEntry s
  | .regulatorAlert st => Sys2Proof.Machine.execRegulatorAlert st s
  | .ambWdogKick w => Sys2Proof.Machine.execAmbWdogKick w s
  | .watchdogExpire b => Sys2Proof.Machine.execWatchdogExpire b s
  | .amberAlarm => Sys2Proof.Machine.execAmberAlarm s
  | .aclkTrim => Sys2Proof.Machine.execAclkTrim s
  | .timeAlignPulse skew => Sys2Proof.Machine.execTimeAlignPulse skew s
  | .autoGreyEntry => Sys2Proof.Machine.execAutoGreyEntry s
  | .tileClockGate t => Sys2Proof.Machine.execTileClockGate t s
  | .shadeWake x => Sys2Proof.Machine.execShadeWake x s
  | .blackWake x b => Sys2Proof.Machine.execBlackWake x b s
  | .eventFire w val => Sys2Proof.Machine.execEventFire w val s
  | .eventClaim w c h => Sys2Proof.Machine.execEventClaim w c h s
  | .eventEoi w c val => Sys2Proof.Machine.execEventEoi w c val s
  | .eventRecordWrite n => Sys2Proof.Machine.execEventRecordWrite n s
  | .modWakeN => Sys2Proof.Machine.execModWakeN s
  | .modResetN lowNs b => Sys2Proof.Machine.execModResetN lowNs b s
  | .inputPowerRise b => Sys2Proof.Machine.execInputPowerRise b s
  | .inputPowerLoss => Sys2Proof.Machine.execInputPowerLoss s
  | .rscSwrstCold w b => Sys2Proof.Machine.execRscSwrstCold w b s
  | .rscSwrstWarm w b => Sys2Proof.Machine.execRscSwrstWarm w b s
  | .rscSwrstDie w d => Sys2Proof.Machine.execRscSwrstDie w d s
  | .blockReset w val => Sys2Proof.Machine.execBlockReset w val s
  | .blockQuiesceDone => Sys2Proof.Machine.execBlockQuiesceDone s
  | .blockQuiesceTimeout aborted => Sys2Proof.Machine.execBlockQuiesceTimeout aborted s
  | .rscBootGood w => Sys2Proof.Machine.execRscBootGood w s
  | .ashBegin slot len => Sys2Proof.Machine.execAshBegin slot len s
  | .ashData off data => Sys2Proof.Machine.execAshData off data s
  | .ashEnd b => Sys2Proof.Machine.execAshEnd b s
  | .setEndpointId eid => Sys2Proof.Machine.execSetEndpointId eid s
  | .getEndpointId => Sys2Proof.Machine.execGetEndpointId s
  | .getMctpVersionSupport => Sys2Proof.Machine.execGetMctpVersionSupport s
  | .getMessageTypeSupport => Sys2Proof.Machine.execGetMessageTypeSupport s
  | .entdaa addr => Sys2Proof.Machine.execEntdaa addr s
  | .getTid => Sys2Proof.Machine.execGetTid s
  | .getPldmVersion => Sys2Proof.Machine.execGetPldmVersion s
  | .getPldmTypes => Sys2Proof.Machine.execGetPldmTypes s
  | .getPldmCommands => Sys2Proof.Machine.execGetPldmCommands s
  | .getPdrRepositoryInfo => Sys2Proof.Machine.execGetPdrRepositoryInfo s
  | .getPdr handle => Sys2Proof.Machine.execGetPdr handle s
  | .getSensorReading sensorId => Sys2Proof.Machine.execGetSensorReading sensorId s
  | .pldmUnsupportedCmd typ cmd => Sys2Proof.Machine.execPldmUnsupportedCmd typ cmd s
  | .qxfAckDue p => Sys2Proof.Machine.execQxfAckDue p s
  | .anchorRoundTimeout k g => Sys2Proof.Machine.execAnchorRoundTimeout k g s
  | .probeAnswerTimeout peer => Sys2Proof.Machine.execProbeAnswerTimeout peer s
  | .bridgeRetrainDone b => Sys2Proof.Machine.execBridgeRetrainDone b s
  | .channelRetrainDone c => Sys2Proof.Machine.execChannelRetrainDone c s
  | .inPlaceRestartDone => Sys2Proof.Machine.execInPlaceRestartDone s
  | .amberCoreUe b => Sys2Proof.Machine.execAmberCoreUe b s
  | .modResetNRelease b => Sys2Proof.Machine.execModResetNRelease b s

end Sys2Proof.Machine
end

