-- ==== Sys2Proof/Safety.lean ====
section
/-! DEFINITION. What counts as a safe step and as a state in order: the block goes on, and its tables are in canonical
form; and the commands that act on no memory. -/

namespace Sys2Proof.Machine

/-- An outcome that goes on. -/
def goesOn (o : Host.Outcome State Fault Refusal) : Bool :=
  match o with
  | .next _ => true
  | .fault _ => false
  | .refused _ => false

/-- A state whose next step goes on: the command in front is one that an event of the part can carry. -/
def stepSafe (s : State) : Bool := goesOn (step s)

/-- Every key of a table is at least `b`, and keys rise strictly. -/
def keysFrom {α : Type} : Nat → NMap α → Bool
  | _, [] => true
  | b, (j, _) :: m => decide (b ≤ j) && keysFrom (j + 1) m

/-- Keys rise strictly. -/
def keysRise {α : Type} (m : NMap α) : Bool := keysFrom 0 m

/-- Device memory and the view of host memory are in canonical form, and the register table lists offsets strictly
rising. -/
def canonical (s : State) : Bool := memWf s.mem && memWf s.host && keysRise s.regs

/-- The commands that act on registers, links, rings, the sideband and the vector engines' own registers: none stores a
byte of device memory, touches an accumulation slot or moves a dense array. -/
def storesNothing (c : Instr) : Bool :=
  match c with
  | .cfgRd .. | .gblLayoutErrRead .. | .tilSlotErrRead .. | .tilGmeErrRead .. | .tilVeErrRead ..
  | .tkrErrRead .. | .mshErrRead .. | .qxfErrRead .. | .ckgSyncRead .. | .epochMarker .. | .branchDecide ..
  | .sheetBlockArrive .. | .gatherFlushExpire .. | .mov .. | .add .. | .sub .. | .mul .. | .fma .. | .max ..
  | .min .. | .abs .. | .neg .. | .cvt .. | .cmplt .. | .cmpeq .. | .sel .. | .exp .. | .log .. | .rsqrt ..
  | .tanh .. | .rcp .. | .perm .. | .shuf .. | .pack .. | .unpack .. | .trb .. | .rowsum .. | .rowdot ..
  | .rowmax .. | .rowmin .. | .rowcnt .. | .divn .. | .xch .. | .rowtopk .. | .summ .. | .dramRefresh ..
  | .zqLatch .. | .wckTracking .. | .channelRetrain .. | .evacuationStart .. | .mcBranchPrune ..
  | .bridgeFlitReceive .. | .bridgeNak .. | .bridgeRetrain .. | .lhlFlitReceive .. | .lhlNak ..
  | .lhlReplayTimeout .. | .lhlAckDue .. | .lhlSignalDetect .. | .lhlTrainDone .. | .lhlTrainTimeout ..
  | .lhlRetrainEntry .. | .lhlRetrainDone .. | .lhlRetrainTimeout .. | .nudge .. | .wake .. | .hqeScan ..
  | .descriptorFetch .. | .descriptorSeqRecheck .. | .cqSpacePoll .. | .coalesceTimer .. | .ringDrained ..
  | .qxfFlitReceive .. | .qxfNak .. | .qxfReplayTimeout .. | .qxfSignalDetect .. | .qxfTrainDone ..
  | .qxfTrainTimeout .. | .qxfRetrainEntry .. | .qxfRetrainDone .. | .qxfRetrainTimeout ..
  | .fabricTransit .. | .retryResend .. | .probeInterval .. | .mirrorReseed .. | .revokeSlot ..
  | .getVersion .. | .getCapabilities .. | .negotiateAlgorithms .. | .getDigests .. | .getCertificate ..
  | .challenge .. | .getMeasurements .. | .spdmUnsupportedRequest .. | .dbgNonceRead ..
  | .dbgResponseCheck .. | .dbgLockoutExpire .. | .powerReading .. | .tclkSwitchUp .. | .thermalStepRepeat ..
  | .thermalPointRise .. | .ambWdogKick .. | .amberAlarm .. | .aclkTrim .. | .timeAlignPulse ..
  | .autoGreyEntry .. | .tileClockGate .. | .shadeWake .. | .eventClaim .. | .eventRecordWrite ..
  | .modWakeN .. | .blockReset .. | .rscBootGood .. | .ashBegin .. | .ashData .. | .setEndpointId ..
  | .getEndpointId .. | .getMctpVersionSupport .. | .getMessageTypeSupport .. | .entdaa .. | .getTid ..
  | .getPldmVersion .. | .getPldmTypes .. | .getPldmCommands .. | .getPdrRepositoryInfo .. | .getPdr ..
  | .getSensorReading .. | .pldmUnsupportedCmd .. | .qxfAckDue .. | .bridgeRetrainDone ..
  | .channelRetrainDone .. => true
  | .registerWrite .. | .cfgWr .. | .ckgTimeWrite .. | .nop .. | .copyIn .. | .copyOut .. | .copyDev ..
  | .heldCopyStart .. | .runPlan .. | .runPlanEval .. | .runPlanRecompute .. | .heldPlanStart ..
  | .stepAnswer .. | .cancelBatch .. | .configCommit .. | .configDiscard .. | .transitionEnd ..
  | .snapshot .. | .snapshotCapture .. | .cowCopy .. | .snapshotPageSend .. | .snapshotAuto .. | .restore ..
  | .fenceTiles .. | .unfenceTiles .. | .dieQuarantine .. | .dieUnquarantine .. | .selfTest ..
  | .testFenceStart .. | .tileTestEnd .. | .loadRoutingContexts .. | .loadVersionedRegions ..
  | .loadRouteBank .. | .loadPeerEntries .. | .loadCloseGroups .. | .loadReductionWindows .. | .fwStage ..
  | .fwActivateAuto .. | .fwActivateInPlace .. | .fwActivateWarm .. | .fwActivateCold ..
  | .activationCommit .. | .fwConfirm .. | .setShade .. | .setPoint .. | .gate .. | .ungate ..
  | .phaseStart .. | .freeWriteUnblock .. | .versionStallExpire .. | .phaseEnd .. | .phaseLimitExceeded ..
  | .stepCommit .. | .mirrorDrainDone .. | .checkResultMessage .. | .replayStart .. | .updateRetryStart ..
  | .qsend .. | .qrecv .. | .queueEntryReceive .. | .queueLimitExpire .. | .denseTaskTake ..
  | .outputBlockFinish .. | .splitkPartDone .. | .splitkClose .. | .gatherPosting ..
  | .packedSuperblockWrite .. | .blockMerge .. | .gmeSpprod .. | .gmeGather .. | .gmeScatter ..
  | .gmeScatterAcc .. | .gmeSegsum .. | .gmeRaggedCat .. | .gmeSortKey .. | .gmeMergeKey .. | .gmeTopk ..
  | .partCutsReady .. | .ownerContribution .. | .anchorPassClose .. | .ownerFinish .. | .veTaskTake ..
  | .ldb .. | .stb .. | .colsum .. | .xchCombine .. | .tkemit .. | .acceptBlockRow .. | .dispatchFrame ..
  | .closeFrame .. | .epochFrame .. | .arrivalFlush .. | .returnSend .. | .returnFrame .. | .answerTimeout ..
  | .ticketStallLimit .. | .nmuFill .. | .nmuInitUniform .. | .nmuSgdm .. | .nmuAdamw .. | .nmuScale ..
  | .nmuCompare .. | .nmuJobEnd .. | .sramScrubRead .. | .dramPatrolRead .. | .evacGranuleMove ..
  | .meshPacketRoute .. | .mcWrite .. | .mcDone .. | .lhlDownLimit .. | .hostCompletion .. | .cplTimeout ..
  | .lhlResetCold .. | .lhlResetWarm .. | .lhlResetDie .. | .descriptorIssue .. | .ringEnable ..
  | .ringDisable .. | .ringReset .. | .portDownTimeout .. | .fabricWrite .. | .fabricRead ..
  | .fabricResponse .. | .reductionContribution .. | .reductionWaitTimeout .. | .anchorMessage ..
  | .mirrorMessage .. | .doneReceive .. | .probeReceive .. | .msgTimeoutExpire .. | .peerCacheFill ..
  | .mirrorSeedPage .. | .rasWatchRearm .. | .attestPeer .. | .attestResult .. | .amberSample ..
  | .amberShadeEntry .. | .regulatorAlert .. | .watchdogExpire .. | .blackWake .. | .eventFire ..
  | .eventEoi .. | .modResetN .. | .inputPowerRise .. | .inputPowerLoss .. | .rscSwrstCold ..
  | .rscSwrstWarm .. | .rscSwrstDie .. | .blockQuiesceDone .. | .blockQuiesceTimeout .. | .ashEnd ..
  | .anchorRoundTimeout .. | .probeAnswerTimeout .. | .inPlaceRestartDone .. | .amberCoreUe ..
  | .modResetNRelease .. => false

/-- The tile of a VE instruction that acts on the engine's own registers alone (R138, R139). -/
def veRegisterRow (c : Instr) : Option Tile :=
  match c with
  | .mov t _ => some t
  | .add t _ => some t
  | .sub t _ => some t
  | .mul t _ => some t
  | .fma t _ => some t
  | .max t _ => some t
  | .min t _ => some t
  | .abs t _ => some t
  | .neg t _ => some t
  | .cvt t _ => some t
  | .cmplt t _ => some t
  | .cmpeq t _ => some t
  | .sel t _ => some t
  | .exp t _ => some t
  | .log t _ => some t
  | .rsqrt t _ => some t
  | .tanh t _ => some t
  | .rcp t _ => some t
  | .perm t _ => some t
  | .shuf t _ => some t
  | .pack t _ => some t
  | .unpack t _ => some t
  | .trb t _ => some t
  | .rowsum t _ => some t
  | .rowdot t _ => some t
  | .rowmax t _ => some t
  | .rowmin t _ => some t
  | .rowcnt t _ => some t
  | .divn t _ => some t
  | .xch t _ => some t
  | .rowtopk t _ => some t
  | .summ t _ => some t
  | .registerWrite .. | .cfgRd .. | .cfgWr .. | .gblLayoutErrRead .. | .tilSlotErrRead .. | .tilGmeErrRead ..
  | .tilVeErrRead .. | .tkrErrRead .. | .mshErrRead .. | .qxfErrRead .. | .ckgSyncRead .. | .ckgTimeWrite ..
  | .nop .. | .copyIn .. | .copyOut .. | .copyDev .. | .heldCopyStart .. | .runPlan .. | .runPlanEval ..
  | .runPlanRecompute .. | .heldPlanStart .. | .stepAnswer .. | .cancelBatch .. | .configCommit ..
  | .configDiscard .. | .epochMarker .. | .transitionEnd .. | .snapshot .. | .snapshotCapture ..
  | .cowCopy .. | .snapshotPageSend .. | .snapshotAuto .. | .restore .. | .fenceTiles .. | .unfenceTiles ..
  | .dieQuarantine .. | .dieUnquarantine .. | .selfTest .. | .testFenceStart .. | .tileTestEnd ..
  | .loadRoutingContexts .. | .loadVersionedRegions .. | .loadRouteBank .. | .loadPeerEntries ..
  | .loadCloseGroups .. | .loadReductionWindows .. | .fwStage .. | .fwActivateAuto .. | .fwActivateInPlace ..
  | .fwActivateWarm .. | .fwActivateCold .. | .activationCommit .. | .fwConfirm .. | .setShade ..
  | .setPoint .. | .gate .. | .ungate .. | .phaseStart .. | .freeWriteUnblock .. | .versionStallExpire ..
  | .phaseEnd .. | .branchDecide .. | .phaseLimitExceeded .. | .stepCommit .. | .mirrorDrainDone ..
  | .checkResultMessage .. | .replayStart .. | .updateRetryStart .. | .qsend .. | .qrecv ..
  | .queueEntryReceive .. | .queueLimitExpire .. | .denseTaskTake .. | .outputBlockFinish ..
  | .sheetBlockArrive .. | .splitkPartDone .. | .splitkClose .. | .gatherPosting .. | .gatherFlushExpire ..
  | .packedSuperblockWrite .. | .blockMerge .. | .gmeSpprod .. | .gmeGather .. | .gmeScatter ..
  | .gmeScatterAcc .. | .gmeSegsum .. | .gmeRaggedCat .. | .gmeSortKey .. | .gmeMergeKey .. | .gmeTopk ..
  | .partCutsReady .. | .ownerContribution .. | .anchorPassClose .. | .ownerFinish .. | .veTaskTake ..
  | .ldb .. | .stb .. | .colsum .. | .xchCombine .. | .tkemit .. | .acceptBlockRow .. | .dispatchFrame ..
  | .closeFrame .. | .epochFrame .. | .arrivalFlush .. | .returnSend .. | .returnFrame .. | .answerTimeout ..
  | .ticketStallLimit .. | .nmuFill .. | .nmuInitUniform .. | .nmuSgdm .. | .nmuAdamw .. | .nmuScale ..
  | .nmuCompare .. | .nmuJobEnd .. | .sramScrubRead .. | .dramPatrolRead .. | .dramRefresh .. | .zqLatch ..
  | .wckTracking .. | .channelRetrain .. | .evacuationStart .. | .evacGranuleMove .. | .meshPacketRoute ..
  | .mcWrite .. | .mcBranchPrune .. | .mcDone .. | .bridgeFlitReceive .. | .bridgeNak .. | .bridgeRetrain ..
  | .lhlFlitReceive .. | .lhlNak .. | .lhlReplayTimeout .. | .lhlAckDue .. | .lhlSignalDetect ..
  | .lhlTrainDone .. | .lhlTrainTimeout .. | .lhlRetrainEntry .. | .lhlRetrainDone .. | .lhlRetrainTimeout ..
  | .lhlDownLimit .. | .hostCompletion .. | .cplTimeout .. | .nudge .. | .wake .. | .lhlResetCold ..
  | .lhlResetWarm .. | .lhlResetDie .. | .hqeScan .. | .descriptorFetch .. | .descriptorSeqRecheck ..
  | .descriptorIssue .. | .cqSpacePoll .. | .coalesceTimer .. | .ringEnable .. | .ringDisable ..
  | .ringDrained .. | .ringReset .. | .qxfFlitReceive .. | .qxfNak .. | .qxfReplayTimeout ..
  | .qxfSignalDetect .. | .qxfTrainDone .. | .qxfTrainTimeout .. | .qxfRetrainEntry .. | .qxfRetrainDone ..
  | .qxfRetrainTimeout .. | .portDownTimeout .. | .fabricTransit .. | .fabricWrite .. | .fabricRead ..
  | .fabricResponse .. | .reductionContribution .. | .reductionWaitTimeout .. | .anchorMessage ..
  | .mirrorMessage .. | .doneReceive .. | .retryResend .. | .probeReceive .. | .msgTimeoutExpire ..
  | .probeInterval .. | .peerCacheFill .. | .mirrorSeedPage .. | .mirrorReseed .. | .rasWatchRearm ..
  | .revokeSlot .. | .attestPeer .. | .attestResult .. | .getVersion .. | .getCapabilities ..
  | .negotiateAlgorithms .. | .getDigests .. | .getCertificate .. | .challenge .. | .getMeasurements ..
  | .spdmUnsupportedRequest .. | .dbgNonceRead .. | .dbgResponseCheck .. | .dbgLockoutExpire ..
  | .powerReading .. | .tclkSwitchUp .. | .amberSample .. | .thermalStepRepeat .. | .thermalPointRise ..
  | .amberShadeEntry .. | .regulatorAlert .. | .ambWdogKick .. | .watchdogExpire .. | .amberAlarm ..
  | .aclkTrim .. | .timeAlignPulse .. | .autoGreyEntry .. | .tileClockGate .. | .shadeWake .. | .blackWake ..
  | .eventFire .. | .eventClaim .. | .eventEoi .. | .eventRecordWrite .. | .modWakeN .. | .modResetN ..
  | .inputPowerRise .. | .inputPowerLoss .. | .rscSwrstCold .. | .rscSwrstWarm .. | .rscSwrstDie ..
  | .blockReset .. | .blockQuiesceDone .. | .blockQuiesceTimeout .. | .rscBootGood .. | .ashBegin ..
  | .ashData .. | .ashEnd .. | .setEndpointId .. | .getEndpointId .. | .getMctpVersionSupport ..
  | .getMessageTypeSupport .. | .entdaa .. | .getTid .. | .getPldmVersion .. | .getPldmTypes ..
  | .getPldmCommands .. | .getPdrRepositoryInfo .. | .getPdr .. | .getSensorReading ..
  | .pldmUnsupportedCmd .. | .qxfAckDue .. | .anchorRoundTimeout .. | .probeAnswerTimeout ..
  | .bridgeRetrainDone .. | .channelRetrainDone .. | .inPlaceRestartDone .. | .amberCoreUe ..
  | .modResetNRelease .. => none

end Sys2Proof.Machine
end

