-- ==== Sys2Proof/WellFormed.lean ====
section
/-! DEFINITION. Well-formed commands: the operands that an event of the part can carry (log 8). A command that is not is
refused as ill-formed. -/

namespace Sys2Proof

open Machine

/-- The PREC and RND codes of a VE word that the tables of R142 assign. -/
def veCodesOk (x : VeWord) : Bool := x.prec.val != 7 && x.rnd.val != 3

/-- An element-wise word: the destination's shape takes its sources (R140). -/
def veElemOk (x : VeWord) (srcs : List Nat) : Bool := veCodesOk x && shapeOk x srcs

/-- A lane word: V registers alone (R143). -/
def veLanesOk (x : VeWord) (srcs : List Nat) : Bool := veCodesOk x && isV x.dst.val && srcs.all isV

/-- A row reduction: a P destination, and sources other than the immediate (R140). -/
def veRowOk (x : VeWord) (srcs : List Nat) : Bool := veCodesOk x && isP x.dst.val && srcs.all (· != 31)

/-- A word over P registers alone (R140). -/
def vePOk (x : VeWord) : Bool := veCodesOk x && isP x.dst.val && isP x.src1.val

/-- A flit of the LHL or a QXF port holds at most 248 bytes of packets (R318). -/
def flitOk (f : Flit) : Bool := decide (f.payload.length ≤ 248)

/-- The operands of a multicast (R300). -/
def mcOk (p : MeshPacket) : Bool :=
  (endpointTile p.src.toNat).isSome && p.typ == 0x06 && rectOk p.x0.toNat p.y0.toNat p.w.toNat p.h.toNat
    && decide (p.payload.length ≤ 1152)

/-- The operands of a command are ones that an event of the part can carry. -/
def Instr.wellFormed (c : Instr) : Bool :=
  match c with
  | .cowCopy _ _ data => decide (data.length ≤ 65536)
  | .queueEntryReceive _ _ _ _ _ data => decide (data.length ≤ 2 ^ 21)
  | .gatherPosting _ _ p => postingOk p
  | .blockMerge _ td pos _ => td.length == 64 && pos.length == 5
  | .ldb _ x => veCodesOk x && isV x.dst.val
  | .stb _ x => veCodesOk x
  | .mov _ x => veElemOk x [x.src1]
  | .add _ x => veElemOk x [x.src1, x.src2]
  | .sub _ x => veElemOk x [x.src1, x.src2]
  | .mul _ x => veElemOk x [x.src1, x.src2]
  | .fma _ x => veElemOk x [x.src1, x.src2, x.src3]
  | .max _ x => veElemOk x [x.src1, x.src2]
  | .min _ x => veElemOk x [x.src1, x.src2]
  | .abs _ x => veElemOk x [x.src1]
  | .neg _ x => veElemOk x [x.src1]
  | .cvt _ x => veElemOk x [x.src1]
  | .cmplt _ x => veElemOk x [x.src1, x.src2]
  | .cmpeq _ x => veElemOk x [x.src1, x.src2]
  | .sel _ x => veElemOk x [x.src1, x.src2, x.src3]
  | .exp _ x => veElemOk x [x.src1]
  | .log _ x => veElemOk x [x.src1]
  | .rsqrt _ x => veElemOk x [x.src1]
  | .tanh _ x => veElemOk x [x.src1]
  | .rcp _ x => veElemOk x [x.src1]
  | .perm _ x => veLanesOk x [x.src1]
  | .shuf _ x => veLanesOk x [x.src1]
  | .pack _ x => veLanesOk x [x.src1, x.src2]
  | .unpack _ x => veLanesOk x [x.src1, x.src2]
  | .trb _ x => veLanesOk x [x.src1]
  | .rowsum _ x => veRowOk x [x.src1]
  | .rowdot _ x => veRowOk x [x.src1, x.src2]
  | .rowmax _ x => veRowOk x [x.src1]
  | .rowmin _ x => veRowOk x [x.src1]
  | .rowcnt _ x => veRowOk x [x.src1]
  | .colsum _ x => veCodesOk x && x.src1.val != 31 && decide (8 ≤ x.imm.toNat % 16) && decide (x.imm.toNat % 16 ≤ 12)
  | .divn _ x => vePOk x
  | .xch _ x => vePOk x
  | .rowtopk _ x => veCodesOk x && x.src1.val != 31 && decide (1 ≤ x.imm.toNat % 32) && decide (x.imm.toNat % 32 ≤ 16)
  | .tkemit _ x => veCodesOk x
  | .summ _ x => veCodesOk x
  | .dispatchFrame f => frameFormed f
  | .closeFrame f => frameFormed f
  | .epochFrame f => frameFormed f
  | .returnFrame f => frameFormed f
  | .meshPacketRoute p => meshPacketOk p
  | .mcWrite p => mcOk p
  | .bridgeFlitReceive _ f => f.data.length == 64
  | .lhlFlitReceive f => flitOk f
  | .qxfFlitReceive _ f => flitOk f
  | .hostCompletion _ _ data => decide (data.length ≤ 4096)
  | .fabricTransit _ x => decide (x.payload.length ≤ 2048)
  | .fabricWrite _ m => pktsWellFormed m
  | .fabricRead _ m => pktsWellFormed m
  | .fabricResponse _ m => pktsWellFormed m
  | .reductionContribution _ _ m => pktsWellFormed m
  | .anchorMessage _ m => pktsWellFormed m
  | .mirrorMessage _ m => pktsWellFormed m
  | .registerWrite .. | .cfgRd .. | .cfgWr .. | .gblLayoutErrRead .. | .tilSlotErrRead .. | .tilGmeErrRead ..
  | .tilVeErrRead .. | .tkrErrRead .. | .mshErrRead .. | .qxfErrRead .. | .ckgSyncRead .. | .ckgTimeWrite ..
  | .nop .. | .copyIn .. | .copyOut .. | .copyDev .. | .heldCopyStart .. | .runPlan .. | .runPlanEval ..
  | .runPlanRecompute .. | .heldPlanStart .. | .stepAnswer .. | .cancelBatch .. | .configCommit ..
  | .configDiscard .. | .epochMarker .. | .transitionEnd .. | .snapshot .. | .snapshotCapture ..
  | .snapshotPageSend .. | .snapshotAuto .. | .restore .. | .fenceTiles .. | .unfenceTiles ..
  | .dieQuarantine .. | .dieUnquarantine .. | .selfTest .. | .testFenceStart .. | .tileTestEnd ..
  | .loadRoutingContexts .. | .loadVersionedRegions .. | .loadRouteBank .. | .loadPeerEntries ..
  | .loadCloseGroups .. | .loadReductionWindows .. | .fwStage .. | .fwActivateAuto .. | .fwActivateInPlace ..
  | .fwActivateWarm .. | .fwActivateCold .. | .activationCommit .. | .fwConfirm .. | .setShade ..
  | .setPoint .. | .gate .. | .ungate .. | .phaseStart .. | .freeWriteUnblock .. | .versionStallExpire ..
  | .phaseEnd .. | .branchDecide .. | .phaseLimitExceeded .. | .stepCommit .. | .mirrorDrainDone ..
  | .checkResultMessage .. | .replayStart .. | .updateRetryStart .. | .qsend .. | .qrecv ..
  | .queueLimitExpire .. | .denseTaskTake .. | .outputBlockFinish .. | .sheetBlockArrive ..
  | .splitkPartDone .. | .splitkClose .. | .gatherFlushExpire .. | .packedSuperblockWrite .. | .gmeSpprod ..
  | .gmeGather .. | .gmeScatter .. | .gmeScatterAcc .. | .gmeSegsum .. | .gmeRaggedCat .. | .gmeSortKey ..
  | .gmeMergeKey .. | .gmeTopk .. | .partCutsReady .. | .ownerContribution .. | .anchorPassClose ..
  | .ownerFinish .. | .veTaskTake .. | .xchCombine .. | .acceptBlockRow .. | .arrivalFlush ..
  | .returnSend .. | .answerTimeout .. | .ticketStallLimit .. | .nmuFill .. | .nmuInitUniform ..
  | .nmuSgdm .. | .nmuAdamw .. | .nmuScale .. | .nmuCompare .. | .nmuJobEnd .. | .sramScrubRead ..
  | .dramPatrolRead .. | .dramRefresh .. | .zqLatch .. | .wckTracking .. | .channelRetrain ..
  | .evacuationStart .. | .evacGranuleMove .. | .mcBranchPrune .. | .mcDone .. | .bridgeNak ..
  | .bridgeRetrain .. | .lhlNak .. | .lhlReplayTimeout .. | .lhlAckDue .. | .lhlSignalDetect ..
  | .lhlTrainDone .. | .lhlTrainTimeout .. | .lhlRetrainEntry .. | .lhlRetrainDone .. | .lhlRetrainTimeout ..
  | .lhlDownLimit .. | .cplTimeout .. | .nudge .. | .wake .. | .lhlResetCold .. | .lhlResetWarm ..
  | .lhlResetDie .. | .hqeScan .. | .descriptorFetch .. | .descriptorSeqRecheck .. | .descriptorIssue ..
  | .cqSpacePoll .. | .coalesceTimer .. | .ringEnable .. | .ringDisable .. | .ringDrained .. | .ringReset ..
  | .qxfNak .. | .qxfReplayTimeout .. | .qxfSignalDetect .. | .qxfTrainDone .. | .qxfTrainTimeout ..
  | .qxfRetrainEntry .. | .qxfRetrainDone .. | .qxfRetrainTimeout .. | .portDownTimeout ..
  | .reductionWaitTimeout .. | .doneReceive .. | .retryResend .. | .probeReceive .. | .msgTimeoutExpire ..
  | .probeInterval .. | .peerCacheFill .. | .mirrorSeedPage .. | .mirrorReseed .. | .rasWatchRearm ..
  | .revokeSlot .. | .attestPeer .. | .attestResult .. | .getVersion .. | .getCapabilities ..
  | .negotiateAlgorithms .. | .getDigests .. | .getCertificate .. | .challenge .. | .getMeasurements ..
  | .spdmUnsupportedRequest .. | .dbgNonceRead .. | .dbgResponseCheck .. | .dbgLockoutExpire ..
  | .powerReading .. | .tclkSwitchUp .. | .amberSample .. | .thermalStepRepeat .. | .thermalPointRise ..
  | .amberShadeEntry .. | .regulatorAlert .. | .ambWdogKick .. | .watchdogExpire .. | .amberAlarm ..
  | .aclkTrim .. | .timeAlignPulse .. | .autoGreyEntry .. | .tileClockGate .. | .shadeWake .. | .blackWake ..
  | .eventFire .. | .eventClaim .. | .eventEoi .. | .eventRecordWrite .. | .modWakeN .. | .modResetN ..
  | .inputPowerRise .. | .inputPowerLoss .. | .rscSwrstCold .. | .rscSwrstWarm .. | .rscSwrstDie ..
  | .blockReset .. | .blockQuiesceDone .. | .blockQuiesceTimeout .. | .rscBootGood .. | .ashBegin ..
  | .ashData .. | .ashEnd .. | .setEndpointId .. | .getEndpointId .. | .getMctpVersionSupport ..
  | .getMessageTypeSupport .. | .entdaa .. | .getTid .. | .getPldmVersion .. | .getPldmTypes ..
  | .getPldmCommands .. | .getPdrRepositoryInfo .. | .getPdr .. | .getSensorReading ..
  | .pldmUnsupportedCmd .. | .qxfAckDue .. | .anchorRoundTimeout .. | .probeAnswerTimeout ..
  | .bridgeRetrainDone .. | .channelRetrainDone .. | .inPlaceRestartDone .. | .amberCoreUe ..
  | .modResetNRelease .. => true

end Sys2Proof
end

