-- ==== Sys2Proof/Certificates/Slice0/Obligations.lean ====
section
/-! DEFINITION. The statements for the provers: what the commands and the machine do, by the rules of spec/. -/

open Sys2Proof Sys2Proof.Machine

/-- For every state whose queue begins with command c and goes on with rest: one step is exec of c on the state whose
queue is rest. For every state with an empty queue: one step answers the state with the time base one nanosecond on
(the model's own choice, log 5). (01_architecture.md, 98_reader.md) -/
def Obligations.StepRunsFront : Prop :=
  (∀ (s : State) (c : Instr) (rest : List Instr), s.pending = c :: rest → step s = exec c { s with pending := rest })
    ∧ ∀ s : State, s.pending = [] → step s = .next { s with time := s.time + 1 }

/-- After reset every register of the window holds the reset value of its line, no write waits and no shadow differs, the
part is in White, memory lists no byte, every ring is disabled, no plan runs, no link is up, no command waits, and the
tables of bytes and registers are in canonical form. The values of a register whose line states none and the LHL state
DOWN are the model's choice (log 2). (R9, R254, R442, R353, 13_host_interface.md) -/
def Obligations.ResetState : Prop :=
  (∀ (n : RegName) (i j : Nat), State.reset.rd n i j = regReset n i j % 2 ^ 64)
    ∧ State.reset.waiting = [] ∧ State.reset.shadNs = [] ∧ State.reset.shadS = [] ∧ shade State.reset = 0
    ∧ State.reset.mem = [] ∧ State.reset.flips = [] ∧ State.reset.acc = []
    ∧ (∀ n : Nat, (getRing State.reset n).st = .disabled ∧ (getRing State.reset n).count = 0)
    ∧ State.reset.seq.train = none ∧ State.reset.seq.eval = none ∧ State.reset.seq.epoch = 0
    ∧ (∀ i : LinkId, (getLink State.reset i).st = .down) ∧ State.reset.pending = [] ∧ canonical State.reset = true

/-- For every command and every state: if the command's operands are ones an event of the part can carry, exec answers a
next state; otherwise exec refuses it as ill-formed. No command ends in a fault. Which operands are ill-formed is the
model's choice (log 8). (98_reader.md, 00_scope.md) -/
def Obligations.CompletesExactlyWhenWellFormed : Prop :=
  ∀ (c : Instr) (s : State),
    (c.wellFormed = true → ∃ t : State, exec c s = .next t) ∧ (c.wellFormed = false → exec c s = .refused .illFormed)

/-- For every state whose queue begins with a command: if a step answers a next state, the next state's queue is the rest
of the queue. No meaning touches the queue of commands (the queue is the model's own, log 5). (98_reader.md) -/
def Obligations.StepTakesOneCommand : Prop :=
  ∀ (s t : State) (c : Instr) (rest : List Instr), s.pending = c :: rest → step s = .next t → t.pending = rest

/-- For every state, reached or not, whose device memory and view of host memory list addresses strictly rising with no
byte equal to the default and whose register table lists offsets strictly rising: if one step (any command, or idling)
answers a next state, the same holds of it. So equal contents are equal data, and a register reads back what was
stored. (R265, R9, 11_memory.md, 13_host_interface.md) -/
def Obligations.TablesStayCanonical : Prop :=
  ∀ s t : State, canonical s = true → step s = .next t → canonical t = true

/-- For every state in canonical form, every register instance and value: after storing the value the register reads it
modulo 2^64; every register instance that lies at another offset reads as before; the store changes nothing but the
register table, and the table stays in canonical form. For every state in canonical form, every address and byte
string: after storing the string each of its bytes reads back at its address, every address outside it reads as
before, and the memory stays in canonical form. A byte nothing has written reads 0 (the model's choice, log 4). (R9,
R265, R270, 11_memory.md) -/
def Obligations.TablesReadBack : Prop :=
  (∀ (s : State) (n : RegName) (i j v : Nat), canonical s = true →
    (s.wr n i j v).rd n i j = v % 2 ^ 64
    ∧ (∀ (m : RegName) (k l : Nat), regOff m k l ≠ regOff n i j → (s.wr n i j v).rd m k l = s.rd m k l)
    ∧ canonical (s.wr n i j v) = true ∧ { s.wr n i j v with regs := s.regs } = s)
    ∧ (∀ (s : State) (a : Nat) (bs : Bytes), canonical s = true →
    memBytes (setMem s a bs) a bs.length = bs
    ∧ (∀ x : Nat, (x < a ∨ a + bs.length ≤ x) → mapGet memD (setMem s a bs).mem x = mapGet memD s.mem x)
    ∧ canonical (setMem s a bs) = true ∧ { setMem s a bs with mem := s.mem } = s)

/-- With the window served and the part not in Ash mode, a naturally aligned 32-bit or 64-bit write by an allowed world
(REGISTER_WRITE of a core; CFG_WR over an active LHL, which is then acknowledged with CPL) changes exactly: for the
listed plain registers the written RW bits of the register at once; for the listed registers with a later moment the
waiting value; for the listed shadowed registers the world's shadow; for the listed read-only registers nothing. The
listed registers are examples of each kind of field. (R7, R9, R255, R327, R438) -/
def Obligations.WindowWritesStore : Prop :=
  ∀ (s : State) (w : World) (off : W32) (size : Nat) (val : W64) (tag : Fin 4096) (r : WinRef),
    windowUp s = true → inAsh s = false → winRef off.toNat size = some r → regWorldOk s w r.n r.i = true →
    let sel := 2 ^ (r.hi + 1) - 2 ^ r.lo
    let x := val.toNat % 2 ^ (8 * size) % 2 ^ (r.hi + 1 - r.lo) * 2 ^ r.lo
    let answers := fun (t : State) => exec (.registerWrite w off size val) s = .next t
      ∧ (lhlActive s = true → exec (.cfgWr w tag off size val) s = .next (cplOut t tag none))
    (r.n ∈ [RegName.nmuJobAddr, .gblBounceBaseNs, .gblBounceBaseS, .ambFilt, .mctScrub, .rscCfg] →
        Nat.land sel (regInfo r.n).rw ≠ 0 →
        answers (s.wr r.n r.i r.j (pickBits (Nat.land sel (regInfo r.n).rw) (s.rd r.n r.i r.j) x)))
    ∧ (r.n ∈ [RegName.gblArithCtl, .tilDaCtl, .tkrCtl, .tkrQbufBase, .seqVerCtl, .seqCtl, .rngKey, .rngCfg] →
        Nat.land sel (regInfo r.n).rw ≠ 0 →
        answers (setWaiting s r.n r.i r.j (pickBits (Nat.land sel (regInfo r.n).rw) (rdStored s r.n r.i r.j) x)))
    ∧ (r.n ∈ [RegName.mshCtl, .mshDetour, .hqeScan, .hqeWrr, .lhlCfg] →
        Nat.land sel ((regInfo r.n).sh + (regInfo r.n).qu) ≠ 0 →
        answers (setShadow s w r.n r.i r.j
          (pickBits (Nat.land sel ((regInfo r.n).sh + (regInfo r.n).qu)) (shadowVal s w r.n r.i r.j) x)))
    ∧ (r.n ∈ [RegName.gblId, .gblCap, .gblSpareMap, .tilDaStatus, .tilDaCnt, .tkrEpoch, .tkrCnt, .mshCnt, .lhlStatus, .lhlCnt,
          .hqeStatus, .hqeCnt] → answers s)

/-- With the window served and the part not in Ash mode: a read over an active LHL of a register that returns what it
holds answers CPL_D with the register's value or the addressed half and changes nothing else; an access that is not a
naturally aligned 32-bit or 64-bit access of an assigned offset reads 0, writes nothing and counts in class 68; an
access by a world the register does not belong to reads 0, writes nothing and counts in class 67. (R9) -/
def Obligations.WindowReadsAnswer : Prop :=
  ∀ (s : State) (w : World) (off : W32) (size : Nat) (val : W64) (tag : Fin 4096),
    windowUp s = true → inAsh s = false → lhlActive s = true → ¬(off.toNat = 0xD00100 ∧ size = 8) →
    (∀ r : WinRef, winRef off.toNat size = some r → regWorldOk s w r.n r.i = true → readClears r.n = false →
        r.n ∉ [RegName.evcClaim, .ckgSync, .secDbgNonce] →
        exec (.cfgRd w tag off size) s = .next (cplOut s tag (some (size, bits (regVal s w r.n r.i r.j) r.hi r.lo))))
    ∧ (winRef off.toNat size = none →
        exec (.cfgRd w tag off size) s = .next (cplOut (rasBump s 68 0 1) tag (some (size, 0)))
        ∧ exec (.cfgWr w tag off size val) s = .next (cplOut (rasBump s 68 0 1) tag none)
        ∧ exec (.registerWrite w off size val) s = .next (rasBump s 68 0 1))
    ∧ (∀ r : WinRef, winRef off.toNat size = some r → regWorldOk s w r.n r.i = false →
        let d := if (regInfo r.n).world = .tile then tileDie r.i else 0
        exec (.cfgRd w tag off size) s = .next (cplOut (rasBump s 67 d 1) tag (some (size, 0)))
        ∧ exec (.cfgWr w tag off size val) s = .next (cplOut (rasBump s 67 d 1) tag none)
        ∧ exec (.registerWrite w off size val) s = .next (rasBump s 67 d 1))

/-- For each of GBL_LAYOUT_ERR, TIL_SLOT_ERR, TIL_GME_ERR, TIL_VE_ERR, TKR_ERR, MSH_ERR and QXF_ERR, with the window
served, the part not in Ash mode and the register in the reader's world: a 64-bit read returns the whole register and
clears it, a 32-bit read of the lower half returns that half and clears the register, a 32-bit read of the upper half
returns that half and clears nothing. Nothing but the register and the value returned changes. (R7, R9) -/
def Obligations.CaptureReadsClear : Prop :=
  ∀ (s : State) (w : World) (t : Tile) (h : Half) (c : Instr) (n : RegName) (i : Nat),
    (c = .gblLayoutErrRead w h ∧ n = .gblLayoutErr ∧ i = 0) ∨ (c = .tilSlotErrRead w t h ∧ n = .tilSlotErr ∧ i = t)
      ∨ (c = .tilGmeErrRead w t h ∧ n = .tilGmeErr ∧ i = t) ∨ (c = .tilVeErrRead w t h ∧ n = .tilVeErr ∧ i = t)
      ∨ (c = .tkrErrRead w h ∧ n = .tkrErr ∧ i = 0) ∨ (c = .mshErrRead w h ∧ n = .mshErr ∧ i = 0)
      ∨ (c = .qxfErrRead w h ∧ n = .qxfErr ∧ i = 0) →
    windowUp s = true → inAsh s = false → regWorldOk s w n i = true →
    exec c s = .next (match h with
      | .full => emit (s.wr n i 0 0) (.read (regOff n i 0) (s.rd n i 0))
      | .low => emit (s.wr n i 0 0) (.read (regOff n i 0) (s.rd n i 0 % 2 ^ 32))
      | .high => emit s (.read (regOff n i 0 + 4) (s.rd n i 0 / 2 ^ 32)))

/-- With the window served, the part not in Ash mode and in White: a fire through the world's doorbell register of a
source of that world makes an IDLE source with nothing waiting READY with the tag (PTAG), makes an ACTIVE source
pending with the tag, and counts on MERGED (saturating at 255, the old tag kept) where the source is already pending;
a fire of a source of the other world is denied and counted. A whole read of a core's EVC_CLAIM by a world that may
read it takes the deliverable source with the highest PRIO, and among equals the lowest number, and returns VALID,
MERGED, PRIO, tag and number, or 0 if there is none. An EOI of a source ACTIVE at that core ends its service; any
other EOI is dropped and counted. (R458, R460, R461, R462, R477) -/
def Obligations.EventSourcesMove : Prop :=
  ∀ (s : State) (w : World), windowUp s = true → inAsh s = false → shade s = 0 → canonical s = true →
    (∀ val : W32, bits val.toNat 15 12 = 0 →
      let n := bits val.toNat 11 0
      let tag := bits val.toNat 31 16
      let x := s.rd .evcSrc n
      (evtWorld s n ≠ w → exec (.eventFire w val) s = .next (rasBump s 67 0 1))
      ∧ (evtWorld s n = w →
          (bit x 61 = true →
            exec (.eventFire w val) s = .next (s.wr .evcSrc n 0 (setBits x 39 32 (satAdd 255 (bits x 39 32) 1))))
          ∧ (bit x 61 = false → bit x 62 = true →
            exec (.eventFire w val) s = .next (s.wr .evcSrc n 0 (setBits (setBit x 61 true) 31 16 tag)))
          ∧ (bit x 61 = false → bit x 62 = false → waitingVal s .evcSrc n 0 = none →
            exec (.eventFire w val) s = .next (s.wr .evcSrc n 0 (setBits (setBit x 61 true) 31 16 tag)))))
    ∧ (∀ c : Fin 19, regWorldOk s w .evcClaim c = true →
        (nextSource s false c = none → exec (.eventClaim w c .full) s = .next (emit s (.read (regOff .evcClaim c 0) 0)))
        ∧ ∀ n : Nat, nextSource s false c = some n →
          let x := s.rd .evcSrc n
          exec (.eventClaim w c .full) s = .next (emit (takeSource s n) (.read (regOff .evcClaim c 0)
            (bits (2 ^ 63 + bits x 39 32 * 2 ^ 36 + bits x 45 42 * 2 ^ 32 + bits x 31 16 * 2 ^ 16 + n) 63 0))))
    ∧ (∀ (c : Fin 19) (val : W32), regWorldOk s w .evcEoi c = true →
        let n := bits val.toNat 11 0
        let x := s.rd .evcSrc n
        (bit x 62 = true ∧ bit x 60 = false ∧ bits x 59 46 = c →
          exec (.eventEoi w c val) s = .next (endService s n))
        ∧ (¬(bit x 62 = true ∧ bit x 60 = false ∧ bits x 59 46 = c) →
          exec (.eventEoi w c val) s = .next (rasBump s 77 0 1)))

/-- An active event ring outside Charcoal and Black takes its next source and, with room in the ring, writes one 32-byte
record with the source, its tag and MERGED, after which the source's service ends. The wake pin of a powered part sets
latch 0 and, in White, does nothing more. A secure 64-bit write of CKG_TIME on a quiet part at a time not before the
present sets the time base; a non-secure one is dropped and counted. A read of CKG_SYNC returns the low 32 bits of the
time at which the barrier completed. Writing 1 to FIRED of RAS_WATCH_CTL clears it and restarts the sum. (R340, R438,
R439, R464, R389) -/
def Obligations.EventRecordsAndTimeReads : Prop :=
  (∀ (s : State) (n : RingNo) (k : Nat),
      (getRing s n).st = .active → ringType s n = 2 → shade s < 2 → nextSource s true n = some k →
      (let x := s.rd .evcSrc k
       exec (.eventRecordWrite n) s = .next (endService (putEvent (takeSource s k) n k (bits x 31 16) (natLe 4 (bits x 39 32))) k)))
    ∧ (∀ s : State, s.plat.powered = true → shade s = 0 → canonical s = true →
        exec .modWakeN s = .next (s.wr .evcWake 0 0 (setBit (s.rd .evcWake) 0 true)))
    ∧ (∀ (s : State) (v : W64), windowUp s = true → inAsh s = false →
        (quiet s = true → s.time ≤ v.toNat → exec (.ckgTimeWrite .s v) s = .next { s with time := v.toNat })
        ∧ exec (.ckgTimeWrite .ns v) s = .next (rasBump s 77 0 1))
    ∧ (∀ (s : State) (w : World), windowUp s = true → inAsh s = false → canonical s = true →
        exec (.ckgSyncRead w) s
          = .next (emit (s.wr .ckgSync 0 0 (s.time % 2 ^ 32)) (.read (regOff .ckgSync 0 0) (s.time % 2 ^ 32))))
    ∧ ∀ (s : State) (w : World), windowUp s = true → inAsh s = false → bit (s.rd .rasWatchCtl) 31 = true → canonical s = true →
        ∃ t : State, exec (.rasWatchRearm w) s = .next t ∧ bit (t.rd .rasWatchCtl) 31 = false ∧ t.rasSum = 0
          ∧ bits (t.rd .rasWatchCtl) 30 0 = bits (s.rd .rasWatchCtl) 30 0 ∧ t.mem = s.mem

/-- With the window served, the part not in Ash mode and the ring in the writer's world, a write of HQE_RINGn_CFG: that
sets ENABLE in a DISABLED ring stores the configuration and makes the ring ACTIVE with its counts at 0 where the
context passes the checks, and else puts it into ERROR with ERR 4; that clears ENABLE in an enabled submission ring
that is not in error makes it DRAINING and keeps the rest of the configuration, counting the other fields it would
change as dropped; with RESET = 1 in a ring that is not enabled and not DRAINING stores the configuration and leaves
the ring DISABLED. A DRAINING ring with no fetched descriptor and no completion unwritten becomes DISABLED. A row
whose condition does not hold changes nothing. (R343, R349, R353, 13_host_interface.md) -/
def Obligations.RingContextsChange : Prop :=
  ∀ (s : State) (w : World) (n : RingNo) (cfg : W64), windowUp s = true → inAsh s = false → ringWorld s n = w →
    let stored := setBit (Nat.land cfg.toNat (ringCfgMask + 2 ^ 62)) 62 false
    let s1 := s.wr .hqeRingCfg n 0 stored
    let kept := setBit (s.rd .hqeRingCfg n) 63 false
    let s2 := if stored = kept then s else ringWriteDropped s
    (bit cfg.toNat 63 = true → ringEnabled s n = false → (getRing s n).st = .disabled →
      (ringContextOk s n stored = true → exec (.ringEnable w n cfg) s = .next (setRing s1 n { st := .active }))
      ∧ (ringContextOk s n stored = false → exec (.ringEnable w n cfg) s = .next (ringError s1 n 4)))
    ∧ (bit cfg.toNat 63 = false → ringEnabled s n = true → ringType s n = 0 → (getRing s n).st ≠ .error →
        exec (.ringDisable w n cfg) s = .next (setRing (s2.wr .hqeRingCfg n 0 kept) n { getRing s n with st := .draining }))
    ∧ (bit cfg.toNat 62 = true → bit cfg.toNat 63 = false → ringEnabled s n = false → (getRing s n).st ≠ .draining →
        exec (.ringReset w n cfg) s = .next (setRing s1 n { count := (getRing s n).count, seen := (getRing s n).seen }))
    ∧ ((getRing s n).st = .draining → ringBusy s n = false → (∀ f ∈ s.hqe.fetched, f.ring ≠ n.val) →
        exec (.ringDrained n) s = .next (setRing s n { count := (getRing s n).count, seen := (getRing s n).seen }))
    ∧ (ringEnabled s n = true → exec (.ringEnable w n cfg) s = .next s ∧ exec (.ringReset w n cfg) s = .next s)
    ∧ (ringEnabled s n = false → exec (.ringDisable w n cfg) s = .next s)
    ∧ ((getRing s n).st ≠ .draining → exec (.ringDrained n) s = .next s)

/-- Over an active LHL: a NUDGE with a reserved bit set, or a WAKE whose operand is not 0, is dropped and counted. A NUDGE
in White counts and sets the scan interval to its minimum, and then reads the named ring's doorbell word where that
ring fetches (without a ring named, a scan begins); in Charcoal it counts and is kept. A WAKE sets the interval to its
minimum and wakes Grey or Charcoal to White where no Amber shade holds. A scan that begins while no earlier scan waits
for lines, outside Charcoal and Black and outside a restart, counts, and with no area enabled doubles the interval up
to its base. (R329, R332, R348, R445) -/
def Obligations.ScansAndNudges : Prop :=
  ∀ (s : State) (w : World) (x : W64),
    (lhlActive s = true →
      (2 ^ 15 ≤ x.toNat → exec (.nudge w x) s = .next (rasBump (cntAdd s .lhlCnt 7 0 1) 77 0 1))
      ∧ (x ≠ 0 → exec (.wake w x) s = .next (rasBump (cntAdd s .lhlCnt 7 0 1) 77 0 1))
      ∧ (x.toNat < 2 ^ 15 → shade s = 2 → canonical s = true → ∃ t : State, exec (.nudge w x) s = .next t
          ∧ t.hqe.nudges = s.hqe.nudges ++ [if bit x.toNat 14 then some (bits x.toNat 13 0) else none]
          ∧ t.rd .hqeCnt 5 = satAdd (2 ^ 64 - 1) (s.rd .hqeCnt 5) 1 ∧ shade t = 2 ∧ t.mem = s.mem)
      ∧ (∀ n : Nat, x.toNat < 2 ^ 15 → bit x.toNat 14 = true → n = bits x.toNat 13 0 → shade s = 0 → canonical s = true →
          let s1 := setInterval (cntAdd s .hqeCnt 5 0 1) (scanMin s)
          exec (.nudge w x) s = .next (if fetches s1 n then readDoorbell s1 n else s1))
      ∧ (shade s = 0 ∨ amberHeld s = 0 → shade s < 3 → canonical s = true → ∃ t : State, exec (.wake w 0) s = .next t
          ∧ shade t = 0 ∧ t.hqe.interval = scanMin s ∧ t.mem = s.mem ∧ t.lhl = s.lhl))
    ∧ (s.hqe.scanLeft = 0 → s.hqe.nudges = [] → shade s = 0 → s.plat.restart = none → canonical s = true →
        (dbArea s .ns = none → dbArea s .s = none →
          exec .hqeScan s = .next (let s1 := cntAdd { s with hqe := { s.hqe with scanFound := false } } .hqeCnt 0 0 1
            setInterval s1 (min (scanBase s) (s.hqe.interval * 2))))
        ∧ ∃ t : State, exec .hqeScan s = .next t ∧ t.rd .hqeCnt 0 = satAdd (2 ^ 64 - 1) (s.rd .hqeCnt 0) 1)
    ∧ (s.hqe.scanLeft ≠ 0 → s.hqe.nudges = [] → exec .hqeScan s = .next s)

/-- A grant goes to the next fetchable ring of its class while the class has weight left: up to 8 consecutive descriptors
are asked for without crossing the ring's end, and the grant is counted. With the link up, no restart, the part
outside Charcoal and Black and places of the completion buffer left for it, the first issuable descriptor: with the
expected SEQ and reserved bits in order becomes an issued command with the next identifier, and nothing else of the
block changes; with another SEQ marks its ring for a second read, which the recheck then asks for. An active full
completion or event ring's doorbell word is read for its consumer index. A ring with interrupts, a coalescing time and
unsignalled entries sends its INTR and has none left. A NOP completes OK. (R333, R334, R335, R337, R338, R350) -/
def Obligations.DescriptorsFetchAndIssue : Prop :=
  ∀ (s : State) (n : RingNo),
    (let s1 := if roundOver s then { s with hqe := { s.hqe with grants := [] } } else s
     fetchable s n = true → nextOfClass s1 (ringClass s n) = some n.val →
      grantsUsed s1 (ringClass s n) < classWeight s (ringClass s n) →
      exec (.descriptorFetch n) s = .next (fetchFrom (takeGrant s1 n) n))
    ∧ (fetchable s n = false → exec (.descriptorFetch n) s = .next s)
    ∧ (∀ (f : Fetched) (rest : List Fetched), s.lhl.lost = false → s.plat.restart = none → shade s < 2 →
        nextToIssue s [] s.hqe.fetched = some (f, rest) → cplKept s + cplNeed (fld f.desc 0 2) (slice f.desc 16 48) ≤ 4096 →
        (fld f.desc 4 4 ≠ f.seq → exec .descriptorIssue s = .next (setRing s f.ring { getRing s f.ring with recheck := true }))
        ∧ (fld f.desc 4 4 = f.seq → descOk s f = true → exec .descriptorIssue s = .next { s with hqe := { s.hqe with
              fetched := rest, issued := s.hqe.issued ++ [issuedOf s f], nextIid := s.hqe.nextIid + 1 } }))
    ∧ (∀ f : Fetched, (getRing s n).recheck = true → s.hqe.fetched.find? (fun g => g.ring == n.val) = some f →
        exec (.descriptorSeqRecheck n) s
          = .next (hostAsk s (ringWorld s n) (.recheck n) (ringBase s n + 64 * (f.seq % ringSize s n)) 64))
    ∧ (∀ a : Nat, (getRing s n).st = .active → ringType s n ≠ 0 → ringFull s n = true → doorbell s n = some a →
        exec (.cqSpacePoll n) s = .next (hostAsk s (ringWorld s n) (.space n) a 8))
    ∧ (let cfg := s.rd .hqeRingCfg n
       bit cfg 51 = true → bits cfg 16 5 ≠ 0 → ringType s n ≠ 0 → 0 < (getRing s n).unsig →
        exec (.coalesceTimer n) s
          = .next (sendIntr (setRing s n { getRing s n with unsig := 0, oldest := 0 }) (ringWorld s n) (bits cfg 35 25)))
    ∧ (∀ (iid : Nat) (c : Issued), getIssued s iid = some c → c.op = 0x0001 →
        exec (.nop iid) s = .next (completeInfo s iid stOk (deltaInfo s c.ras0 ++ [0, 0])))

/-- For an issued command whose completion ring has room, with no entry of that ring buffered, no restart, interrupts of
the ring off, its base on a 4 KiB boundary, and the LHL active with credit for one posted write and nothing waiting in
front of it: completing it writes one entry (SEQ, TAG, STATUS, PHASE with the ring, time, opcode, INFO) at the next
place of the completion ring, counts it, and takes the command from the issued list; every byte of the part's view of
host memory outside the entry and every byte of device memory are unchanged. (R338, R339, R341) -/
def Obligations.CompletionEntriesWritten : Prop :=
  ∀ (s : State) (iid status : Nat) (info : Bytes) (c : Issued), getIssued s iid = some c → lhlActive s = true →
    s.plat.restart = none → s.lhl.lost = false → s.lhl.hold = [] → s.lhl.wait = [] →
    creditOk .lhl s.lhl { cls := 0, data := 1, bytes := [] } = true → ringBase s (ringCq s c.ring) % 4096 = 0 →
    ringFull s (ringCq s c.ring) = false → (∀ d ∈ s.hqe.buf, d.cq ≠ ringCq s c.ring) →
    bit (s.rd .hqeRingCfg (ringCq s c.ring)) 51 = false → canonical s = true →
    let q := ringCq s c.ring
    let e : Cpl := { cq := q, irq := c.irq, seq := c.seq, tag := c.tag, status := status, src := c.ring, op := c.op, info := info }
    let a := ringBase s q + 32 * ((getRing s q).count % ringSize s q)
    let t := completeInfo s iid status info
    getIssued t iid = none ∧ t.mem = s.mem ∧ t.hqe.buf = s.hqe.buf
      ∧ hostBytes t a 32 = cplBytes s e ∧ (∀ x : Nat, x < a ∨ a + 32 ≤ x → mapGet memD t.host x = mapGet memD s.host x)
      ∧ t.rd .hqeCnt 3 = satAdd (2 ^ 64 - 1) (s.rd .hqeCnt 3) 1

/-- On an ACTIVE link (the LHL or a QXF port), for a DATA or CONTROL flit without acknowledgement: with a CRC that holds
and the expected SEQ, the expected SEQ advances modulo 4096, one acknowledgement more is owed, no NAK is out, what it
carries is taken (CONTROL: the credit grants of its 8 B entries, each a total of headers and of data), the flit is
counted, and what waited for credit goes out; with a wrong CRC or another SEQ it is discarded and counted, and a NAK
flit with the last good SEQ goes out unless one is out already. On a link that is not ACTIVE nothing happens. (R318,
R319, R320, R321, R355) -/
def Obligations.LinkFlitsInOrder : Prop :=
  ∀ (s : State) (i : LinkId) (c : Instr) (f : Flit),
    (c = .lhlFlitReceive f ∧ i = .lhl) ∨ (∃ p : PortNo, c = .qxfFlitReceive p f ∧ i = .port p) →
    f.payload.length ≤ 248 → f.kind.val < 2 → f.ackv = false →
    let l := getLink s i
    let l1 := { l with rxSeq := (l.rxSeq + 1) % 4096, got := true, naked := false, ackOwed := l.ackOwed + 1 }
    (l.st = .active →
      (flitGood f = true → f.seq.val = l.rxSeq →
        exec c s = .next (pumpAll (linkCount (takePayload (setLink s i l1) i f) i 1 1) i)
        ∧ (f.kind.val = 1 → l.hold = [] → l.wait = [] →
          exec c s = .next (linkCount (setLink s i (takeCredits l1 (chunk 8 31 (slice f.payload 0 248)))) i 1 1)))
      ∧ ((flitGood f = false ∨ f.seq.val ≠ l.rxSeq) →
          (l.naked = true → exec c s = .next (linkCount s i 2 1))
          ∧ (l.naked = false → exec c s = .next (flitOut (setLink (linkCount s i 2 1) i { l with naked := true }) i 3 0 []))))
    ∧ (l.st ≠ .active → exec c s = .next s)

/-- On an ACTIVE link: a NAK acknowledges the flits up to its SEQ and replays the rest in order; a replay timeout replays
every buffered flit and counts one more replay of each; an owed acknowledgement goes out with the last SEQ received in
order and is owed no longer: with no credit update owed and the link's injector off it is an IDLE flit of 256 bytes
whose first word holds SEQ 0, ACK, KIND 2 and ACKV, whose payload is zero and whose last word is the CRC of the rest.
Replaying changes no memory. On a link that is not ACTIVE none of them does anything. (R318, R320, R355) -/
def Obligations.LinkReplayAndAck : Prop :=
  ∀ (s : State) (i : LinkId) (nak timeout ack : Instr) (last : Fin 4096),
    (nak = .lhlNak last ∧ timeout = .lhlReplayTimeout ∧ ack = .lhlAckDue ∧ i = .lhl)
      ∨ (∃ p : PortNo, nak = .qxfNak p last ∧ timeout = .qxfReplayTimeout p ∧ ack = .qxfAckDue p ∧ i = .port p) →
    let l := getLink s i
    let head := natLe 4 ((l.rxSeq + 4095) % 4096 * 2 ^ 8 + 2 * 2 ^ 6 + b2n l.got * 2 ^ 5) ++ zeroBytes 248
    (l.st = .active →
      exec nak s = .next (replayAll (takeAck s i last) i)
      ∧ (∃ t : State, exec timeout s = .next t ∧ (getLink t i).replay = l.replay.map (fun f => { f with tries := f.tries + 1 })
          ∧ t.mem = s.mem ∧ t.host = s.host ∧ (l.replay = [] → t = s))
      ∧ (0 < l.ackOwed → l.grantDue = false → bit (s.rd .fijCtl (linkInj i)) 63 = false →
          exec ack s = .next (emit (setLink s i { l with ackOwed := 0 }) (.flit (linkNo i) (head ++ natLe 4 (crc32 head)))))
      ∧ (l.ackOwed = 0 → exec ack s = .next s))
    ∧ (l.st ≠ .active → exec nak s = .next s ∧ exec timeout s = .next s ∧ exec ack s = .next s)

/-- For the LHL and each port: a signal on an enabled link in DETECT in White sets the link's wake latch and leads to
TRAIN, where the running SerDes firmware takes over; training that finds working lanes makes a link on which nothing
waits ACTIVE at its configured rate with the width the lanes form; 100 ms without success lead back to DETECT; on an
ACTIVE link codeword errors or loss of signal lead to RETRAIN, counted, as does a buffered flit replayed 4 times, and
a committed change of rate or width, which keeps the operating point to return to; retraining that succeeds makes the
link ACTIVE; 10 ms without success lead to DETECT where no change is pending. (R316, R322, R323, R354, R355) -/
def Obligations.LinkTrainingStates : Prop :=
  ∀ (s : State) (i : LinkId) (lanes : Nat) (sig done tout rdone rtout : Instr) (entry : RetrainCause → Instr),
    ((∃ v : BitVec 8, lanes = v.toNat ∧ sig = .lhlSignalDetect v ∧ done = .lhlTrainDone v ∧ tout = .lhlTrainTimeout
        ∧ entry = Instr.lhlRetrainEntry ∧ rdone = .lhlRetrainDone v ∧ rtout = .lhlRetrainTimeout ∧ i = .lhl)
      ∨ ∃ (p : PortNo) (v : BitVec 4), lanes = v.toNat ∧ sig = .qxfSignalDetect p v ∧ done = .qxfTrainDone p v
        ∧ tout = .qxfTrainTimeout p ∧ entry = Instr.qxfRetrainEntry p ∧ rdone = .qxfRetrainDone p v
        ∧ rtout = .qxfRetrainTimeout p ∧ i = .port p) →
    canonical s = true →
    let l := getLink s i
    let latch := match i with | .lhl => 1 | .port _ => 2
    let quiet := l.replay = [] ∧ l.wait = [] ∧ l.hold = [] ∧ l.grantDue = false ∧ l.lost = false ∧ s.rdf .rscBoot 0 0 7 4 ≠ 9
    let left := fun (fb : Option (Nat × Nat)) => setLink (serdesTakes s (linkNo i)) i
      { l with st := .retrain, retrains := satAdd (2 ^ 32 - 1) l.retrains 1, fallback := fb,
               replay := l.replay.map fun f => { f with tries := 0 } }
    (l.st = .detect → lanes ≠ 0 → linkEnabled s i = true → shade s = 0 →
      exec sig s = .next (setLink (serdesTakes (s.wr .evcWake 0 0 (setBit (s.rd .evcWake) latch true)) (linkNo i)) i
        { l with st := .train, sig := lanes }))
    ∧ (∀ w g : Nat, l.st = .train → formWidth (linkLanes i) (usableLanes s i lanes) (widths i (linkCfgWidth s i)) = some (w, g) →
        quiet →
        exec done s = .next (setLink s i { l with st := .active, rate := linkCfgRate s i, width := widthCode i w, lanes := g,
                                                  naked := false, fallback := none, cfgWidth := linkCfgWidth s i }))
    ∧ (l.st = .train → exec tout s = .next (setLink s i { l with st := .detect, lanes := 0 }))
    ∧ (∀ c : RetrainCause, l.st = .active → l.hold = [] →
        (c = .codewords ∨ c = .signalLoss ∨ (c = .replayLimit ∧ ∃ f ∈ l.replay, 4 ≤ f.tries)) → exec (entry c) s = .next (left none))
    ∧ (l.st = .active → l.hold = [] → linkChanged s i = true → exec (entry .rateChange) s = .next (left (some (l.rate, l.width))))
    ∧ (∀ w g : Nat, l.st = .retrain → l.fallback = none →
        formWidth (linkLanes i) (usableLanes s i lanes) (widths i (max l.width (linkCfgWidth s i))) = some (w, g) →
        quiet →
        exec rdone s = .next (setLink s i { l with st := .active, width := widthCode i w, lanes := g,
                                                   naked := false, fallback := none, cfgWidth := linkCfgWidth s i }))
    ∧ (l.st = .retrain → l.fallback = none → exec rtout s = .next (setLink s i { l with st := .detect, lanes := 0 }))
    ∧ (l.st ≠ .train → exec done s = .next s ∧ exec tout s = .next s)
    ∧ (l.st ≠ .retrain → exec rdone s = .next s ∧ exec rtout s = .next s)
    ∧ (l.st ≠ .active → ∀ c : RetrainCause, exec (entry c) s = .next s)

/-- When the LHL's down limit passes while it is neither ACTIVE nor OFF and no host request is out, its flits are
discarded and the posted transactions among them counted lost; a port past its limit discards its flits and what waits
in front of them, each packet whose last flit is among them counting as lost in the work it belongs to. A host
request's data of the length asked for goes into the part's view of host memory, after which the request is out no
longer; a failed or timed-out request is counted, and one for a ring's doorbell word puts the ring into ERROR with ERR
3. This is stated for requests that have gone out while no other request waits for a tag. (R323, R324, R328, R356) -/
def Obligations.LinksGivenUp : Prop :=
  (∀ s : State, s.lhl.st ≠ .active → s.lhl.st ≠ .off → s.hostReqs = [] →
      let kept := s.lhl.hold.filter fun m => match m.use with | .req _ => false | _ => true
      exec .lhlDownLimit s = .next (cntAdd { s with lhl := { s.lhl with replay := [], wait := [], hold := kept, lost := true } }
        .lhlCnt 7 0 ((s.lhl.replay ++ s.lhl.wait).map fun f => f.posted).sum))
    ∧ (∀ (s : State) (p : PortNo), (getLink s (.port p)).st ≠ .active → (getLink s (.port p)).st ≠ .off →
        let l := getLink s (.port p)
        let s1 := setLink s (.port p) { l with replay := [], wait := [], hold := [], lost := true }
        let fs := l.replay ++ l.wait ++ l.hold.flatMap flitsOf
        exec (.portDownTimeout p) s = .next (fs.foldl (packetLost p) s1)
        ∧ ((∀ f ∈ fs, f.posted = 0) → exec (.portDownTimeout p) s = .next s1))
    ∧ (∀ (s : State) (p : PortNo), (getLink s (.port p)).st = .active → exec (.portDownTimeout p) s = .next s)
    ∧ ∀ (s : State) (tag : Fin 4096) (r : HostReq) (n : Nat), hostReqOf s tag.val = some r → r.use = .doorbell n →
        s.hostLine = [] →
        let s1 := { s with hostReqs := s.hostReqs.filter fun q => q.tag != r.tag }
        let failed := ringError (cntAdd s1 .lhlCnt 6 0 1) n 3
        exec (.cplTimeout tag) s = .next failed
        ∧ (∀ data : Bytes, data.length ≤ 4096 → exec (.hostCompletion tag 1 data) s = .next failed
            ∧ exec (.hostCompletion tag 2 data) s = .next failed)
        ∧ ∀ data : Bytes, data.length = 8 → r.len = 8 → r.got = 0 → fetches s n = true → canonical s = true →
            exec (.hostCompletion tag 0 data) s = .next (takePi (setHost s1 r.addr data) n (leNat data))

/-- For an issued COPY_IN, COPY_OUT or COPY_DEV at its turn, not yet begun, with well-formed operands (SRC_TD on a 64 B
boundary), whose tensor descriptors (with that of an index list, where one is named) have come from the host, whose
checks and peer check pass, whose overlap needs no refusal and which, a SCATTER apart, writes no part of a PACKED
destination: the copy enters the table with its operands, descriptors and the bounce register as it was at issue; it
then starts at once where nothing holds it and stays in the table where something does. A held copy whose hold has
ended starts by its own row. A copy of the table that runs already, or is still held, is left as it is. (R162, R163,
R164, R165, R166, R167, R173, R501) -/
def Obligations.RingCopiesRun : Prop :=
  ∀ (s : State) (iid : Nat) (k : Issued) (a d : Bytes) (i : Option Td) (row : Instr), getIssued s iid = some k →
    (k.op = 0x10 ∧ row = .copyIn iid) ∨ (k.op = 0x11 ∧ row = .copyOut iid) ∨ (k.op = 0x12 ∧ row = .copyDev iid) →
    (let c := parseCopy k.ops
     let ov := overlapPlan s k.world c (parseTd a) (parseTd d) k.bounce (copyXtiles c)
     let r : CopyRun := { iid := k.iid, world := k.world, op := c, src := parseTd a, dst := parseTd d, idx := i, bounce := k.bounce,
                          staged := ov == .staged, bounced := ov == .bounced }
     let s1 := { s with seq := { s.seq with copies := s.seq.copies ++ [r] } }
     copyTurn s iid = true → (∀ e ∈ s.seq.copies, e.iid ≠ iid) → copyFieldsOk c = true →
      c.src % 64 = 0 → fetchTd s k c.src = (s, .ok a) → fetchTd s k c.dst = (s, .ok d) →
      ((c.idx = 0 ∧ i = none) ∨ (c.idx ≠ 0 ∧ ∃ b : Bytes, fetchTd s k c.idx = (s, .ok b) ∧ i = some (parseTd b))) →
      copyChecks s k c (parseTd a) (parseTd d) i = stOk → copyPeerStatus s c (parseTd a) (parseTd d) = stOk →
      (∀ st : Nat, ov ≠ .refuse st) → (c.kind = 3 ∨ copyPartial c (parseTd a) (parseTd d) [] = false) →
      (copyHeld s1 r = false → exec row s = .next (copyStart s1 r)) ∧ (copyHeld s1 r = true → exec row s = .next s1))
    ∧ (∀ r : CopyRun, s.seq.copies.find? (fun e => e.iid == iid) = some r →
        (r.running = false → copyHeld s r = false → exec (.heldCopyStart iid) s = .next (copyStart s r))
        ∧ (r.running = true ∨ copyHeld s r = true → exec (.heldCopyStart iid) s = .next s))

/-- For an issued LOAD_TABLE of KIND 0x10, 0x20, 0x30, 0x31, 0x32 or 0x33 whose operands name records of that table: while
a running plan uses what it would change, or an older load is held, it is held; else, once its bytes are in the part's
view of host memory and its records pass their checks, every record is stored in its table and the command completes
OK. (R178, R212, R336, R360, R363, R366, R370, R501) -/
def Obligations.TableLoadsTakeEffect : Prop :=
  ∀ (s : State) (iid : Nat) (c : Issued) (bs : Bytes), getIssued s iid = some c → c.op = 0x0050 → ltOk c.ops = true →
    let go := fun (row : Instr) (kind len : Nat) (held : Bool) (status : State → Issued → List (Nat × Bytes) → Nat)
        (load : State → Issued → List (Nat × Bytes) → State) =>
      ltKind c.ops = kind →
      ((held = true ∨ olderHeld s iid [0x0050] = true) → exec row s = .next (holdCmd s iid))
      ∧ (let s1 := unholdCmd s iid
         let rs := (ltNums c.ops).zip (entries bs 0 (ltCount c.ops) len)
         held = false → olderHeld s iid [0x0050] = false →
          hostRead s1 c.world (.cmd iid) (ltAddr c.ops) (len * ltCount c.ops) = (s1, .ok bs) → status s1 c rs = stOk →
          exec row s = .next (complete (load s1 c rs) iid stOk))
    go (.loadRoutingContexts iid) 0x10 64 ((plans s).any fun p => (ltNums c.ops).any fun n => p.nCtxs.contains n)
        contextStatus loadContexts
    ∧ go (.loadVersionedRegions iid) 0x20 32 ((ltNums c.ops).any (regionInUse s)) regionsStatus loadRegions
    ∧ go (.loadRouteBank iid) 0x30 2 ((plans s).any fun p => p.nBanks.contains (ltBank c.ops)) routesStatus loadRoutes
    ∧ go (.loadPeerEntries iid) 0x31 16 false peersStatus loadPeers
    ∧ go (.loadCloseGroups iid) 0x32 32 ((plans s).any fun p => (ltNums c.ops).any fun n => p.nGroups.contains n)
        groupsLoadStatus loadGroups
    ∧ go (.loadReductionWindows iid) 0x33 32 false windowsStatus loadWindows

/-- With no transition and no older commit held, a CONFIG_COMMIT with the next epoch completes BAD_DESCRIPTOR where a
committed limit, detour or region entry is bad, is held while it would retire a channel under evacuation, completes
NEEDS_QUIESCE where Quiesce fields differ and the part is not quiet, and else starts a transition with the shadows of
its world and every block before its marker; a CONFIG_DISCARD with it makes every shadow of the world follow its
active register and completes OK with the epoch; either with another epoch completes BAD_DESCRIPTOR and changes no
shadow; during a transition, or behind an older commit, either is held. A block at its marker passes it once (with it
a memory controller's channels train for a new rate, and a port's lanes follow its ENABLE); one not at it waits. When
no block is left, no old-tagged packet is on its way and no link or channel still trains, the transition ends: its
values become active, the epoch is the next one, and the command completes OK with it; until then it does not end.
(R255, R256, R257, R258, R259, R263, R284, R287, R312, R420) -/
def Obligations.EpochsCommit : Prop :=
  (∀ (s : State) (iid : Nat) (c : Issued), getIssued s iid = some c → c.op = 0x0023 →
      (∀ t : Transition, s.seq.trans = some t → t.iid ≠ iid) →
      let busy := s.seq.trans ≠ none ∨ olderHeld s iid [0x0023] = true
      let s1 := unholdCmd s iid
      let bad := limitBad s1 c.world = true ∨ detoursBad s1 c.world = true ∨ regionsBad s1 c.world = true
      (busy → (ccDiscard c.ops = false → exec (.configCommit iid) s = .next (holdCmd s iid))
        ∧ (ccDiscard c.ops = true → exec (.configDiscard iid) s = .next (holdCmd s iid)))
      ∧ (¬ busy → ccEpoch c.ops ≠ (s.seq.epoch + 1) % 2 ^ 32 →
          (ccDiscard c.ops = false → exec (.configCommit iid) s = .next (completeInfo s iid stBadDescriptor (natLe 4 s.seq.epoch)))
          ∧ (ccDiscard c.ops = true →
              exec (.configDiscard iid) s = .next (completeInfo s iid stBadDescriptor (natLe 4 s.seq.epoch))))
      ∧ (¬ busy → ccEpoch c.ops = (s.seq.epoch + 1) % 2 ^ 32 → ccDiscard c.ops = false →
          (bad → exec (.configCommit iid) s = .next (completeInfo s1 iid stBadDescriptor (natLe 4 s1.seq.epoch)))
          ∧ (¬ bad → retiresEvacuating s1 c.world = true → exec (.configCommit iid) s = .next (holdCmd s1 iid))
          ∧ (¬ bad → retiresEvacuating s1 c.world = false → quiesceDiffers s1 c.world = true → quiet s1 = false →
              exec (.configCommit iid) s = .next (completeInfo s1 iid stNeedsQuiesce (natLe 4 s1.seq.epoch)))
          ∧ (¬ bad → retiresEvacuating s1 c.world = false → (quiesceDiffers s1 c.world = false ∨ quiet s1 = true) →
              exec (.configCommit iid) s = .next (
                let w : Transition := { iid := c.iid, world := c.world, vals := shadowVals s1 c.world, left := epochBlocks }
                { s1 with seq := { s1.seq with trans := some w } })))
      ∧ (¬ busy → ccEpoch c.ops = (s.seq.epoch + 1) % 2 ^ 32 → ccDiscard c.ops = true →
          (c.world = .ns → exec (.configDiscard iid) s = .next (completeInfo { s1 with shadNs := [] } iid stOk (natLe 4 s1.seq.epoch)))
          ∧ (c.world = .s → exec (.configDiscard iid) s = .next (completeInfo { s1 with shadS := [] } iid stOk (natLe 4 s1.seq.epoch)))))
    ∧ (∀ (s : State) (t : Transition) (b : EpochBlock), s.seq.trans = some t →
        let s1 := { s with seq := { s.seq with trans := some { t with left := t.left.filter (· != b) } } }
        (b ∈ t.left → atMarker s b = true →
          (∀ i : Fin 32, b = .mct i → exec (.epochMarker b) s = .next (rateTrain s1 i))
          ∧ (∀ p : PortNo, b = .qxf p → exec (.epochMarker b) s = .next (portEnable s1 p))
          ∧ ((∀ i : Fin 32, b ≠ .mct i) → (∀ p : PortNo, b ≠ .qxf p) → exec (.epochMarker b) s = .next s1))
        ∧ (b ∈ t.left → atMarker s b = false → exec (.epochMarker b) s = .next s)
        ∧ (b ∉ t.left → exec (.epochMarker b) s = .next s))
    ∧ ∀ (s : State) (t : Transition), s.seq.trans = some t →
        let trains := ratePending s = true ∨ linkPending s .lhl = true ∨ ∃ p : Nat, p < 64 ∧ linkPending s (.port p) = true
        (t.left = [] → oldTagged s = 0 → ¬ trains →
          exec .transitionEnd s = .next (transitionEnd s t)
          ∧ (transitionEnd s t).seq.epoch = (s.seq.epoch + 1) % 2 ^ 32 ∧ (transitionEnd s t).seq.trans = none)
        ∧ ((t.left ≠ [] ∨ oldTagged s ≠ 0 ∨ trains) → exec .transitionEnd s = .next s)

/-- For an issued FENCE_TILES or UNFENCE_TILES over a rectangle of the grid, with no tile under test and no older tile
command held: with no RUN_PLAN running a fence takes effect and completes OK, once its tiles have no copy in flight or
QUIESCE_TIMEOUT has passed (while a RUN_PLAN runs it is held), and an unfence takes effect and completes OK whatever
runs. With QUARANTINE = 1, a zero rectangle and a die of 1 to 3: a quarantine takes effect when no phase runs, an
unquarantine when no plan runs, and each completes OK; die 0 or a rectangle that is not 0 is BAD_DESCRIPTOR. A
rectangle outside the grid is OUT_OF_RANGE. (R304, R309, R311, R501) -/
def Obligations.FencesAndQuarantine : Prop :=
  ∀ (s : State) (iid : Nat) (c : Issued), getIssued s iid = some c →
    let s1 := unholdCmd s iid
    (fnQuar c.ops = false → fnRectOk c.ops = true → (fnTiles c.ops).any (underTest s) = false → olderHeld s iid tileOps = false →
      (c.op = 0x0040 → planRuns s = false →
        ((fenceBusy s c.ops = false ∨ quiesceOver s c = true) → exec (.fenceTiles iid) s = .next (complete (fenceNow s1 c.ops) iid stOk))
        ∧ (fenceBusy s c.ops = true → quiesceOver s c = false → exec (.fenceTiles iid) s = .next (quiesceStart s iid)))
      ∧ (c.op = 0x0040 → planRuns s = true → exec (.fenceTiles iid) s = .next (holdCmd s iid))
      ∧ (c.op = 0x0041 → exec (.unfenceTiles iid) s = .next (complete (unfenceNow s1 c.ops) iid stOk)))
    ∧ (fnQuar c.ops = false → fnRectOk c.ops = false →
        (c.op = 0x0040 → exec (.fenceTiles iid) s = .next (complete s iid stOutOfRange))
        ∧ (c.op = 0x0041 → exec (.unfenceTiles iid) s = .next (complete s iid stOutOfRange)))
    ∧ (fnQuar c.ops = true → zeros c.ops 0 4 = true → 1 ≤ fnDie c.ops → fnDie c.ops ≤ 3 →
        (dieTiles (fnDie c.ops)).any (underTest s) = false →
        (c.op = 0x0040 → phaseFree s = true → exec (.dieQuarantine iid) s = .next (complete (quarantine s1 (fnDie c.ops)) iid stOk))
        ∧ (c.op = 0x0041 → planRuns s = false → olderHeld s iid tileOps = false →
            exec (.dieUnquarantine iid) s = .next (complete (unquarantine s1 (fnDie c.ops)) iid stOk)))
    ∧ (fnQuar c.ops = true → (zeros c.ops 0 4 = false ∨ fnDie c.ops = 0 ∨ 3 < fnDie c.ops) →
        (c.op = 0x0040 → exec (.dieQuarantine iid) s = .next (complete s iid stBadDescriptor))
        ∧ (c.op = 0x0041 → exec (.dieUnquarantine iid) s = .next (complete s iid stBadDescriptor)))

/-- An issued SELF_TEST that asks for a test over a rectangle of the grid, of tiles of its world that no running plan
names, none under test and with no older tile command held, is accepted: on a quiet part every tile is test-fenced at
once, else every tile waits for its boundary. A waiting tile whose die is at a phase boundary (no phase runs) is
test-fenced. The end of a test of a test-fenced tile writes TIL_BIST with DONE, PASS and the failed tests and releases
the tile: fenced if it failed or the command keeps it fenced; then the command completes once its last tile is done.
(R496, R497, R498, R499) -/
def Obligations.SelfTestsRun : Prop :=
  (∀ (s : State) (iid : Nat) (c : Issued), getIssued s iid = some c → c.op = 0x0042 → c.st ≠ .running → tsTests c.ops ≠ 0 →
      fnRectOk c.ops = true → (∀ t ∈ fnTiles c.ops, tileWorld s t = c.world ∧ underTest s t = false) →
      olderHeld s iid tileOps = false → testNamed s c.ops = false →
      let s1 := unholdCmd s iid
      (quiet s1 = true → exec (.selfTest iid) s = .next ((fnTiles c.ops).foldl testFence s1))
      ∧ (quiet s1 = false → exec (.selfTest iid) s = .next ((fnTiles c.ops).foldl (fun s t => s.wr .tilBist t 0 (2 ^ 30)) s1)))
    ∧ (∀ (s : State) (t : Tile), s.rdf .tilBist t 0 31 30 = 1 → curPhase s = none → exec (.testFenceStart t) s = .next (testFence s t))
    ∧ (∀ (s : State) (t : Tile), s.rdf .tilBist t 0 31 30 ≠ 1 → exec (.testFenceStart t) s = .next s)
    ∧ ∀ (s : State) (t : Tile) (sf af lf layer : Bool) (g : Fin 131072) (c : Issued), testFenced s t = true → testCmd s t = some c →
        let on := fun i => bit (tsTests c.ops) i
        exec (.tileTestEnd t sf af lf layer g) s
          = .next (testEnd (testResult s t c (sf && on 0) (af && on 1) (lf && on 2) layer g) c)

/-- For a firmware command at its turn: FW_STAGE whose erase has been done and whose image is in the part's view of host
memory writes the image into the slot that does not run, and ends with reason 0 and STAGED where the slot passes its
checks, or with the failing reason and the slot erased. FW_ACTIVATE of the mode its operand names, of a staged image
that the mode allows, is held with the mode kept until the quiesce point. At the quiesce point an in-place activation
writes its record and restarts the control cores; a warm or cold one completes OK and resets the part. When the
restart is done the new firmware runs, the watchdog is kicked and the command ends with reason 0. FW_CONFIRM with
nothing on trial ends with reason 10; on trial with a unit out of service and no override, with 9; else it confirms.
(R485, R486, R488, R489, R491, R494) -/
def Obligations.FirmwareCommands : Prop :=
  (∀ (s : State) (iid : Nat) (c : Issued) (bs : Bytes), getIssued s iid = some c → fwTurn s iid = true → c.op = 0x0060 →
      c.iid = iid → c.stage ≠ 0 → hostRead s c.world (.cmd iid) (stAddr c.ops) (stLen c.ops) = (s, .ok bs) →
      let s1 := flashPut s (slotAddr (otherSlot s)) bs.length bs
      (slotReason s1 (otherSlot s) = 0 →
        exec (.fwStage iid) s = .next (fwEnd (setStaged s1 true (mfSvn (manifest s1 (otherSlot s)))) iid 0))
      ∧ (slotReason s1 (otherSlot s) ≠ 0 →
        exec (.fwStage iid) s = .next (fwEnd (eraseSlot s1 (otherSlot s)) iid (slotReason s1 (otherSlot s)))))
    ∧ (∀ (s : State) (iid mode m : Nat) (c : Issued) (row : Instr), getIssued s iid = some c → fwTurn s iid = true → c.op = 0x0061 →
        c.iid = iid → c.stage = 0 → fld c.ops 0 1 = mode →
        (mode = 0 ∧ row = .fwActivateAuto iid) ∨ (mode = 1 ∧ row = .fwActivateInPlace iid) ∨ (mode = 2 ∧ row = .fwActivateWarm iid)
          ∨ (mode = 3 ∧ row = .fwActivateCold iid) →
        (activationMode s mode = some m →
          exec row s = .next (setFwBusy (holdCmd (modIssued s iid fun c => { c with stage := m }) iid) true))
        ∧ (activationMode s mode = none → exec row s = .next (fwEnd s iid 7)))
    ∧ (∀ (s : State) (c : Issued) (b : BringUp), activating s = some c → quiescePoint s = true → s.plat.restart = none →
        (c.stage = 1 → exec (.activationCommit b) s = .next (modPlat (activationRecord s) fun p => { p with restart := some c.iid }))
        ∧ (c.stage = 2 → cplRoom s c = true →
            exec (.activationCommit b) s = .next (warmReset (fwEnd (activationRecord s) c.iid 0) 4 b))
        ∧ (c.stage = 3 → cplRoom s c = true →
            exec (.activationCommit b) s = .next (coldReset (fwEnd (activationRecord s) c.iid 0) 4 b)))
    ∧ (∀ (s : State) (iid : Nat), s.plat.restart = some iid →
        let s1 := modPlat s fun p => { p with restart := none, wdogAt := s.time }
        exec .inPlaceRestartDone s = .next (fwEnd (drainAll (runFirmware s1 (otherSlot s1) false false)) iid 0))
    ∧ ∀ (s : State) (iid : Nat) (c : Issued), getIssued s iid = some c → fwTurn s iid = true → c.op = 0x0062 → c.iid = iid →
        (onTrial s = false → exec (.fwConfirm iid) s = .next (fwEnd s iid 10))
        ∧ ∀ (a : Bool × Bytes), actRecord s = some a → recState a.2 = 1 → runSlot s = recSlot a.2 →
            (s.plat.unitsOut = true → bit (fld c.ops 0 1) 0 = false → exec (.fwConfirm iid) s = .next (fwEnd s iid 9))
            ∧ ((s.plat.unitsOut = false ∨ bit (fld c.ops 0 1) 0 = true) → exec (.fwConfirm iid) s = .next (confirmNow s iid a.2))

/-- In Ash mode: ASH_BEGIN of a length that fits erases the slot, keeps it as the target and answers 0; ASH_DATA of 1 to
4,032 bytes within the length writes them to the slot at the offset and answers 0, and any other piece answers 1 and
writes nothing; ASH_END of a failing image erases the slot and answers its reason; of a passing one answers 0, writes
the trial record, clears the boot counter and resets the part Cold. Outside Ash mode, with no download begun, none of
them does anything. (R474, R493, R494) -/
def Obligations.AshDownloads : Prop :=
  ∀ (s : State), (inAsh s = true →
      (∀ (slot : Fin 2) (len : Nat), len ≤ slotSize → exec (.ashBegin slot len) s
          = .next (ashAnswer (modPlat (flashPut s (slotAddr slot) slotSize []) fun p => { p with ash := some (slot.val, len) }) 0))
      ∧ (∀ (slot : Fin 2) (len : Nat), slotSize < len → exec (.ashBegin slot len) s = .next (ashAnswer s 1)))
    ∧ (∀ (slot len off : Nat) (data : Bytes) (b : BringUp), s.plat.ash = some (slot, len) →
        (1 ≤ data.length → data.length ≤ 4032 → off + data.length ≤ len →
          exec (.ashData off data) s = .next (ashAnswer (flashPut s (slotAddr slot + off) data.length data) 0))
        ∧ (data = [] ∨ 4032 < data.length ∨ len < off + data.length → exec (.ashData off data) s = .next (ashAnswer s 1))
        ∧ (let s1 := modPlat s fun p => { p with ash := none }
           (slotReason s slot ≠ 0 →
             exec (.ashEnd b) s = .next (ashAnswer (flashPut s1 (slotAddr slot) slotSize []) (slotReason s slot)))
           ∧ (slotReason s slot = 0 → exec (.ashEnd b) s
             = .next (coldReset ((recWrite (ashAnswer s1 0) 1 slot (1 - slot) 0).wrf .rscBoot 0 0 11 8 0) 4 b))))
    ∧ (inAsh s = false → s.plat.ash = none → ∀ (slot : Fin 2) (len off : Nat) (data : Bytes) (b : BringUp),
        exec (.ashBegin slot len) s = .next s ∧ exec (.ashData off data) s = .next s ∧ exec (.ashEnd b) s = .next s)

/-- An issued POWER whose OP is SET_SHADE: to White wakes the part and completes OK; to Grey completes OK and then enters
Grey where the part is in White and quiet; to Charcoal or Black is NEEDS_QUIESCE while what R446 names is at work, and
else, with room for its completion, completes OK and then enters the shade. SET_POINT not yet acted on sets the
ceilings of the named dies to its point, and every limit takes effect before settled SET_POINTs complete. GATE and
UNGATE of tiles of their world, with none under test and no older such command held, gate every named tile (one that a
running phase names when it ends), or ungate every one and complete OK; a rectangle outside the grid is OUT_OF_RANGE
and a tile of the other world ACCESS_DENIED. (R440, R443, R445, R446, R447) -/
def Obligations.PowerCommands : Prop :=
  ∀ (s : State) (iid : Nat) (c : Issued), getIssued s iid = some c → c.iid = iid → c.op = 0x0070 →
    (pwOp c.ops = 1 →
      (pwShade c.ops = 0 → exec (.setShade iid) s = .next (complete (wakeWhite s) iid stOk))
      ∧ (pwShade c.ops = 1 → exec (.setShade iid) s = .next (enterGrey (complete s iid stOk)))
      ∧ (2 ≤ pwShade c.ops → shadeBusy s (some iid) = true → exec (.setShade iid) s = .next (complete s iid stNeedsQuiesce))
      ∧ (2 ≤ pwShade c.ops → shadeBusy s (some iid) = false → cplRoom s c = true →
          exec (.setShade iid) s = .next (enterDark (complete s iid stOk) (pwShade c.ops))))
    ∧ (pwOp c.ops = 2 → c.stage = 0 → exec (.setPoint iid) s
        = .next (settlePoints (refreshPoints (setCeil (modIssued s iid fun c => { c with stage := 1 }) c.ops))))
    ∧ ((pwOp c.ops = 3 → c.stage = 0 → gateStatus s c = stOk → (gtTiles c.ops).any (underTest s) = false →
          olderHeld s iid gateOps = false →
          exec (.gate iid) s = .next (let s1 := unholdCmd s iid; gateStep (namedTiles s1) s1 c))
      ∧ (pwOp c.ops = 4 → gateStatus s c = stOk → (gtTiles c.ops).any (underTest s) = false → olderHeld s iid gateOps = false →
          exec (.ungate iid) s = .next (complete (ungateTiles (unholdCmd s iid) (gtTiles c.ops)) iid stOk))
      ∧ (gateStatus s c ≠ stOk →
          (pwOp c.ops = 3 → c.stage = 0 → exec (.gate iid) s = .next (complete s iid (gateStatus s c)))
          ∧ (pwOp c.ops = 4 → exec (.ungate iid) s = .next (complete s iid (gateStatus s c)))))

/-- Outside Black, a reading of module input power above LIMIT_W raises the power point by one code (to at most 4), one
more than 100 W below the limit lowers it by one after 50 such readings, and any other keeps it; the reading shows in
PWC_STATUS. TCLK_SWITCH_UP sets a die to the slowest of its three points. A thermal step repeats for every active
STEP_DOWN rule while the part has not tripped; a thermal rise lowers the thermal point code of each die that no active
STEP_DOWN rule names. Every change of a limit is followed by a refresh that can only slow a die, which leaves each die
at least as slow as its slowest limit (in a state whose tables are in canonical form). (R440, R441, R442, R450) -/
def Obligations.PointsFollowLimits : Prop :=
  (∀ (s : State) (w : Fin 4096), awake s = true →
      let s1 := s.wrf .pwcStatus 0 0 43 32 w
      let p := s1.plat
      (limitW s1 < w.val → exec (.powerReading w) s
        = .next (refreshPoints (modPlat s1 fun q => { q with power := min 4 (p.power + 1), lowReads := 0 })))
      ∧ (w.val < limitW s1 - 100 → p.lowReads + 1 < 50 → exec (.powerReading w) s
        = .next (refreshPoints (modPlat s1 fun q => { q with power := p.power, lowReads := p.lowReads + 1 })))
      ∧ (w.val < limitW s1 - 100 → 50 ≤ p.lowReads + 1 → exec (.powerReading w) s
        = .next (refreshPoints (modPlat s1 fun q => { q with power := p.power - 1, lowReads := 0 })))
      ∧ (limitW s1 - 100 ≤ w.val → w.val ≤ limitW s1 → exec (.powerReading w) s
        = .next (refreshPoints (modPlat s1 fun q => { q with power := p.power, lowReads := 0 }))))
    ∧ (∀ (s : State) (d : Die), awake s = true →
        exec (.tclkSwitchUp d) s = .next (settlePoints (setPointOf s d (pointTarget s d))))
    ∧ (∀ s : State, running s = true → s.plat.tripped = false →
        exec .thermalStepRepeat s = .next ((activeRules s 1).foldl stepDown s))
    ∧ (∀ s : State, running s = true → ∃ t : State, exec .thermalPointRise s = .next t
        ∧ ∀ d : Nat, d < 4 → t.plat.therm.getD d 0
            = if (activeRules s 1).any (fun r => bit r (46 + d)) then s.plat.therm.getD d 0 else s.plat.therm.getD d 0 - 1)
    ∧ ∀ (s : State) (d : Nat), canonical s = true → d < 4 → s.plat.ceil.getD d 0 < 5 → s.plat.power < 5 → s.plat.therm.getD d 0 < 5 →
        pointTarget s d ≤ curPoint (refreshPoints s) d ∧ curPoint s d ≤ curPoint (refreshPoints s) d

/-- While the part runs, a raw reading of one of the sensors 0 to 95: while fewer than five readings of the sensor have
come it is only kept; otherwise the median of the last five updates the filtered value (which starts at the first
median), AMB_SENS shows it, every valid rule of the sensor is evaluated, and the actions of those that have become
active take effect in the order of R450. A sensor that shares its sample with no derived sensor does nothing more. A
raw reading of a derived sensor changes nothing. (R448, R449, R450, R451, R457) -/
def Obligations.AmberSamplesFilter : Prop :=
  ∀ (s : State) (x : Fin 101) (raw : BitVec 16), running s = true →
    let old := mapGet (fun _ => []) s.plat.raws x
    let l := (senVal x raw.toNat :: old).take 5
    let s1 := modPlat s fun p => { p with raws := mapIns p.raws x l }
    (96 ≤ x.val → exec (.amberSample x raw) s = .next s)
    ∧ ((32 ≤ x.val ∨ x.val % 8 ≠ 7) → x.val < 96 →
        (l.length < 5 → exec (.amberSample x raw) s = .next s1)
        ∧ (l.length = 5 →
            let m := median5 l
            let y0 := mapGet (fun _ => 0) s.plat.filt x
            let y := if old.length < 5 then m * 256 else y0 + Int.tdiv (m * 256 - y0) (Int.ofNat (2 ^ filtN s (senClass x)))
            exec (.amberSample x raw) s
              = .next (sensorNew (setSens (modPlat s1 fun p => { p with filt := mapIns p.filt x y }) x (Int.tdiv y 256) m) x)))

/-- A KICK by the secure world restarts the watchdog's count, by the other world it is denied and counted. Outside Black
with EN = 1 and TIMEOUT ms since the last KICK the watchdog resets the part Warm; before that it does nothing. An
armed alarm whose time has come sets the alarm latch, disarms, and with its event enabled fires it (with a free tag,
log 2). A regulator alert while the part runs sets its latch, and with a fault bit trips the part first and drives
MOD_PWR_GOOD low. IDLE_GREY enters Grey, with the scan interval of Grey, while White and quiet where PWC_CTL bit 31
asks for it; a held SHADE action enters the darkest held shade once allowed; an uncorrectable word of an Amber core
resets Warm unless a trip holds. A time alignment within 4 ns shows its skew. Trimming ACLK and gating a tile's clock
change no state. (R435, R437, R439, R443, R452, R453, R454, R456, R512) -/
def Obligations.AmberEventsAct : Prop :=
  ∀ (s : State), (exec (.ambWdogKick .s) s = .next (modPlat s fun p => { p with wdogAt := s.time })
      ∧ exec (.ambWdogKick .ns) s = .next (countDenied s 0))
    ∧ (∀ b : BringUp, awake s = true → bit (s.rd .ambWdog) 31 = true →
        let due := s.plat.wdogAt + 1000000 * orElse0 (bits (s.rd .ambWdog) 15 0) 1
        (due ≤ s.time → exec (.watchdogExpire b) s = .next (warmReset s 3 b))
        ∧ (s.time < due → exec (.watchdogExpire b) s = .next s))
    ∧ (running s = true → bit (s.rd .ambAlarm) 63 = true →
        s.plat.alarmHi * 2 ^ 48 + bits (s.rd .ambAlarm) 47 0 ≤ timeBase s →
        (bit (s.rd .ambAlarm) 62 = false →
          exec .amberAlarm s = .next ((wireWake s 4).wr .ambAlarm 0 0 (setBit (s.rd .ambAlarm) 63 false)))
        ∧ (bit (s.rd .ambAlarm) 62 = true → ∃ tag : Nat, exec .amberAlarm s
          = .next ((evcFire { wireWake s 4 with freeCtr := (wireWake s 4).freeCtr + 1 } (bits (s.rd .ambAlarm) 59 48) tag).wr
              .ambAlarm 0 0 (setBit (s.rd .ambAlarm) 63 false))))
    ∧ (∀ st : RegStatus, running s = true →
        ((st.voutOv || st.ioutOc || st.temp || st.off) = true → exec (.regulatorAlert st) s
          = .next (modPlat (wireWake (trip s) 3) fun p => { p with pwrGood := false }))
        ∧ ((st.voutOv || st.ioutOc || st.temp || st.off) = false → exec (.regulatorAlert st) s = .next (wireWake s 3)))
    ∧ (running s = true → bit (s.rd .pwcCtl) 31 = true → shade s = 0 → quiet s = true →
        exec .autoGreyEntry s = .next (setInterval (s.wrf .pwcStatus 0 0 63 62 1) (scanGrey s)))
    ∧ (running s = true → shade s < amberHeld s →
        (amberHeld s = 1 → exec .amberShadeEntry s = .next (enterGrey s))
        ∧ (amberHeld s ≠ 1 → shadeBusy s none = false → exec .amberShadeEntry s = .next (enterDark s (amberHeld s)))
        ∧ (amberHeld s ≠ 1 → shadeBusy s none = true → exec .amberShadeEntry s = .next s))
    ∧ (∀ b : BringUp, running s = true →
        (tripHolds s = false → exec (.amberCoreUe b) s = .next (warmReset { rasBump s 41 0 1 with time := timeBase s } 3 b))
        ∧ (tripHolds s = true → exec (.amberCoreUe b) s = .next (rasBump s 41 0 1)))
    ∧ (∀ k : Byte, awake s = true → k.toNat ≤ 4 → exec (.timeAlignPulse k) s = .next (s.wrf .ckgStatus 0 0 23 16 k.toNat))
    ∧ exec .aclkTrim s = .next s ∧ ∀ t : Tile, exec (.tileClockGate t) s = .next s

/-- In Grey each waking trigger wakes the part to White and no other trigger does anything. In Charcoal a wire-class
trigger sets its latch and wakes; a watched source that is READY wakes; a wake message, a local packet and an Amber
wake wake it to White. In Black, with the part running, a trigger sets its latch if it has one, and where a wake is
then due, no trip holds and no SHADE action holds Black, the part leaves Black through a warm bring-up with the
watchdog enabled. In White no trigger changes anything. (R444, R445, R464) -/
def Obligations.ShadesWake : Prop :=
  ∀ (s : State) (x : WakeTrigger),
    (shade s = 0 → exec (.shadeWake x) s = .next s)
    ∧ (shade s = 1 → (greyWakes x = true → exec (.shadeWake x) s = .next (wakeWhite s))
        ∧ (greyWakes x = false → exec (.shadeWake x) s = .next s))
    ∧ (shade s = 2 →
        (∀ i : Nat, wireLatch x = some i → exec (.shadeWake x) s = .next (wireWake s i))
        ∧ (∀ n : Fin 4096, x = .watchedSource n → watched s n = true → srcReady s n = true → exec (.shadeWake x) s = .next (wakeWatched s n))
        ∧ ((x = .wakeMsg ∨ x = .localPacket ∨ x = .amberWake) → exec (.shadeWake x) s = .next (wakeWhite s)))
    ∧ ∀ b : BringUp, (shade s ≠ 3 → exec (.blackWake x b) s = .next s)
        ∧ (shade s = 3 → running s = true →
            let s1 := match wireLatch x with | some i => wireWake s i | none => s
            (s1.plat.wakeDue = true → tripHolds s1 = false → amberHeld s1 = 0 → exec (.blackWake x b) s
              = .next ((bringUp (warmClear { s1 with time := timeBase s1 }) false b).wrf .ambWdog 0 0 31 31 1))
            ∧ (s1.plat.wakeDue = false → exec (.blackWake x b) s = .next s1))

/-- MOD_RESET_N low for 1 µs or more resets a running part, Warm or Cold by RSC_CFG; for less than 0.5 µs it is ignored;
its release lets a bring-up held at step 1 go on. Input power rising on an unpowered part clears the boot counter and
the counts since power-on and resets Cold; falling, every rail falls. An LHL RESET over an active LHL whose operand
names the row's scope, by a world RSC_CFG allows, resets by that scope; by the other it is denied and counted. A write
of RSC_SWRST by the secure world resets by its scope, by the other it is denied and counted; RSC_BOOT_GOOD by the
secure world clears the boot counter. (R465, R469, R473, R479, R511, R512) -/
def Obligations.ResetsByScope : Prop :=
  (∀ (s : State) (n : Nat) (b : BringUp),
      (n < 500 → exec (.modResetN n b) s = .next s)
      ∧ (1000 ≤ n → running s = true → bit (s.rd .rscCfg) 30 = true → exec (.modResetN n b) s = .next (warmReset s 1 b))
      ∧ (1000 ≤ n → running s = true → bit (s.rd .rscCfg) 30 = false → exec (.modResetN n b) s = .next (coldReset s 1 b)))
    ∧ (∀ (s : State) (b : BringUp), s.plat.powered = true →
        (s.plat.waitHigh = true → exec (.modResetNRelease b) s = .next (bringUp s true b))
        ∧ (s.plat.waitHigh = false → exec (.modResetNRelease b) s = .next s))
    ∧ (∀ (s : State) (b : BringUp), (s.plat.powered = false → exec (.inputPowerRise b) s
          = .next (coldReset (modPlat ((s.wrf .rscBoot 0 0 11 8 0).wrf .rscCause 0 0 31 0 0) fun p => { p with powered := true }) 0 b))
        ∧ (s.plat.powered = true → s.lhl.st ≠ .down → exec (.inputPowerRise b) s = .next s))
    ∧ (∀ s : State, exec .inputPowerLoss s = .next (modPlat (coldClear s) fun p => { p with powered := false, pwrGood := false }))
    ∧ (∀ (s : State) (w : World) (x : W64) (b : BringUp) (sc d : Nat), lhlActive s = true → resetOperand x = some (sc, d) →
        let row := fun (sc : Nat) => if sc = 0 then Instr.lhlResetCold w x b else if sc = 1 then .lhlResetWarm w x b else .lhlResetDie w x
        (resetAllowed s w = true →
          (sc = 0 → exec (row sc) s = .next (coldReset s 2 b)) ∧ (sc = 1 → exec (row sc) s = .next (warmReset s 2 b))
          ∧ (sc = 2 → exec (row sc) s = .next (dieReset s 2 d)))
        ∧ (resetAllowed s w = false → sc ≤ 2 → exec (row sc) s = .next (countDenied s 0)))
    ∧ ∀ (s : State) (b : BringUp) (d : Die),
        exec (.rscSwrstCold .s b) s = .next (coldReset s 4 b) ∧ exec (.rscSwrstWarm .s b) s = .next (warmReset s 4 b)
        ∧ exec (.rscSwrstDie .s d) s = .next (dieReset (s.wr .rscSwrst 0 0 (16 * d.val + 2)) 4 d) ∧ exec (.rscSwrstCold .ns b) s = .next (countDenied s 0)
        ∧ exec (.rscSwrstWarm .ns b) s = .next (countDenied s 0) ∧ exec (.rscSwrstDie .ns d) s = .next (countDenied s 0)
        ∧ exec (.rscBootGood .s) s = .next (s.wrf .rscBoot 0 0 11 8 0) ∧ exec (.rscBootGood .ns) s = .next (countDenied s 0)

/-- Before its bring-up, what a Warm reset has cleared keeps every byte of device memory below the SRAM addresses, the
time base, the registers of the warm list but for the event sources, the debug level and the reasons, the Shadowed and
Quiesce fields in force with their epoch, and host memory; every SRAM byte reads 0; rings, plans, shadows, transitions
and snapshots are as after reset, and so are links and channels but for their counts of retrains, which with the other
counts since cold reset are kept (log 175). A Cold reset also clears device memory and the time base and keeps the
flash. Neither changes the queue of commands. (R259, R285, R292, R346, R347, R463, R466) -/
def Obligations.ResetsKeep : Prop :=
  ∀ s : State, canonical s = true →
    (∀ a : Nat, a < 0x400000000000 → mapGet memD (warmClear s).mem a = mapGet memD s.mem a)
    ∧ (∀ a : Nat, 0x400000000000 ≤ a → mapGet memD (warmClear s).mem a = 0)
    ∧ (warmClear s).time = s.time ∧ (warmClear s).host = s.host ∧ (warmClear s).pending = s.pending
    ∧ (∀ n ∈ [RegName.mctLimit, .mctRetire, .rasCnt, .rasTile, .rasChan, .secWorldTile, .secWorldRing, .secWorldPort, .secWorldStream,
          .secWorldEvt, .rscCfg, .rscCause, .rscBoot, .evcWatch, .evcWake, .ambSens, .ambFilt, .ambRule, .ambWdog, .ambAlarm,
          .rscBlkstat, .lhlCnt, .hqeCnt, .qxfCnt, .qxfPortCnt, .fijCnt],
        ∀ i j : Nat, regDecode (regOff n i j) = some (n, i, j) → (warmClear s).rd n i j = s.rd n i j)
    ∧ (∀ (n : RegName) (i j : Nat), regDecode (regOff n i j) = some (n, i, j) →
        let m := (regInfo n).sh + (regInfo n).qu
        Nat.land ((warmClear s).rd n i j) m = Nat.land (s.rd n i j) m)
    ∧ (warmClear s).hqe = {} ∧ (warmClear s).seq = { epoch := s.seq.epoch } ∧ (warmClear s).shadNs = [] ∧ (warmClear s).shadS = []
    ∧ (warmClear s).snp = {} ∧ (warmClear s).lhl = { retrains := s.lhl.retrains }
    ∧ (∀ p : Nat, p < 64 → getLink (warmClear s) (.port p) = { retrains := (getLink s (.port p)).retrains })
    ∧ (∀ c : Nat, c < 128 → (warmClear s).rdf .mctChstat c 0 15 0 = s.rdf .mctChstat c 0 15 0)
    ∧ (coldClear s).mem = [] ∧ (coldClear s).time = 0 ∧ (coldClear s).plat.flash = s.plat.flash
    ∧ (coldClear s).seq = {} ∧ (coldClear s).pending = s.pending

/-- A write of RSC_BLKRST with GO for an existing block of the writer's world while not BUSY starts the quiesce of that
block and shows KIND, INDEX, BUSY and the quiesce state; a GO while BUSY or of a block that does not exist stores KIND
and INDEX and is otherwise dropped and counted, and a GO that names a block of the other world is dropped whole;
without GO a write stores KIND and INDEX. When the quiesce is done, with the block idle, it is reset with result 1;
when it times out, requests in flight are aborted, each counted as PATH_PAR and failing the work it belongs to, with
result 2. (R259, R467, R468, R480) -/
def Obligations.BlockResets : Prop :=
  (∀ (s : State) (w : World) (v : W32),
      let k := bits v.toNat 19 16
      let i := bits v.toNat 15 8
      let s1 := s.wr .rscBlkrst 0 0 (setBits (setBits (s.rd .rscBlkrst) 19 16 k) 15 8 i)
      (bit v.toNat 0 = true → canonical s = true → brBusy s = false → blockOk k i = true → blockWorldOk s w k i = true →
        exec (.blockReset w v) s = .next ((modPlat s1 fun p => { p with blk := (k, i) }).wr .rscBlkrst 0 0
          (2 ^ 31 + 2 ^ 29 + k * 2 ^ 16 + i * 2 ^ 8)))
      ∧ (bit v.toNat 0 = true → canonical s = true → (brBusy s = true ∨ blockOk k i = false) → blockWorldOk s w k i = true →
        exec (.blockReset w v) s = .next (countDropped s1 0))
      ∧ (bit v.toNat 0 = true → blockWorldOk s w k i = false → exec (.blockReset w v) s = .next (countDropped s 0))
      ∧ (bit v.toNat 0 = false → exec (.blockReset w v) s = .next s1))
    ∧ ∀ (s : State) (n : Nat), (brBusy s = true → brState s = 1 →
          exec .blockQuiesceDone s = .next (if blockIdle s (brKind s) (brIndex s) then blockEnd s 1 0 else s)
          ∧ exec (.blockQuiesceTimeout 0) s = .next (blockEnd s 2 0)
          ∧ (n ≠ 0 → exec (.blockQuiesceTimeout n) s = .next (blockEnd ((abortCtxs s (brKind s) (brIndex s)).foldl (fun s c => failCtx s c .replay none)
              (rasBump s 19 (blockDie (brKind s) (brIndex s)) n)) 2 n)))
        ∧ (brBusy s = false → exec .blockQuiesceDone s = .next s ∧ exec (.blockQuiesceTimeout n) s = .next s)

/-- A revocation by the secure world sets the slot's revoked bit unless it would leave no usable vendor slot or revoke the
slot that verified the running manifest; then it is refused and counted; by the other world it is denied. ATTEST_PEER
by the secure world while not BUSY sets BUSY and sends to the peer; its end writes RESULT and clears BUSY, a pass of
an entry not reloaded meanwhile also marks the peer attested with its identity. A read of SEC_DBG_NONCE0 renews the
nonce and returns its first word or two. The last word of a response, unless within the lockout, unlocks the named
level where it verifies, and else is counted and locks out further tries until the lockout ends. (R424, R428, R429,
R433, R434) -/
def Obligations.SecurityCommands : Prop :=
  (∀ (s : State) (k : Fin 4), exec (.revokeSlot .ns k) s = .next (countDenied s 0)
      ∧ (let s1 := s.wrf .secFuseCmd 0 0 2 1 (bits (2 * k.val + 1) 2 1)
         (revokeRefused s1 (bits (2 * k.val + 1) 2 1) = true →
           exec (.revokeSlot .s k) s = .next (countDropped (s1.wrf .secFuseCmd 0 0 30 29 1) 0))
         ∧ (revokeRefused s1 (bits (2 * k.val + 1) 2 1) = false →
           let s2 := s1.wrf .secFuseCmd 0 0 30 29 0
           exec (.revokeSlot .s k) s
             = .next (s2.wr .secBootStatus 0 0 (setBit (s1.rd .secBootStatus) (40 + bits (2 * k.val + 1) 2 1) true)))))
    ∧ (∀ (s : State) (d : DeviceId), canonical s = true → exec (.attestPeer .ns d) s = .next (countDenied s 0)
        ∧ (bit (s.rd .secAttest) 31 = true → exec (.attestPeer .s d) s
            = .next (countDropped (s.wrf .secAttest 0 0 15 0 (2 ^ 16 + d.toNat)) 0))
        ∧ (bit (s.rd .secAttest) 31 = false → 
            let s1 := ((s.wrf .secAttest 0 0 15 0 (2 ^ 16 + d.toNat)).wrf .secAttest 0 0 31 31 1).wrf .secAttest 0 0 30 28 0
            exec (.attestPeer .s d) s = .next (sendMsg (modPlat s1 fun p => { p with attPeer := d.toNat, reloaded := false })
              { peer := d.toNat, typ := 0x01, vc := 2, key := 0xFFFE, world := .ns, ctx := .other,
                payload := slice (Config.answerBytes 0x84 (natLe 2 d.toNat)) 0 64 }).1))
    ∧ (∀ (s : State) (r : AttestEnd), (bit (s.rd .secAttest) 31 = false → exec (.attestResult r) s = .next s)
        ∧ (bit (s.rd .secAttest) 31 = true →
            (r = .noAnswer → exec (.attestResult r) s = .next (attestEnd s 2))
            ∧ (r ≠ .noAnswer → s.plat.reloaded = true → exec (.attestResult r) s = .next (attestEnd s 3))
            ∧ (s.plat.reloaded = false →
                (∀ i : W64, r = .pass i → exec (.attestResult r) s = .next (attestPass (attestEnd s 1) i.toNat))
                ∧ (r = .chainFailed → exec (.attestResult r) s = .next (attestEnd s 4))
                ∧ (r = .signatureFailed → exec (.attestResult r) s = .next (attestEnd s 5))
                ∧ (r = .refused → exec (.attestResult r) s = .next (attestEnd s 6)))))
    ∧ (∀ s : State, exec (.dbgNonceRead .low) s
          = .next (let t := newNonce 8 s; emit t (.read 0xD00100 (t.rd .secDbgNonce 0)))
        ∧ exec (.dbgNonceRead .full) s
          = .next (let t := newNonce 8 s; emit t (.read 0xD00100 (t.rd .secDbgNonce 0 + 2 ^ 32 * t.rd .secDbgNonce 1)))
        ∧ exec (.dbgNonceRead .high) s = .next s)
    ∧ ∀ (s : State) (v : W32), let s1 := s.wr .secDbgResp 131 0 v.toNat
        (s.plat.dbgLock = true → exec (.dbgResponseCheck v) s = .next s1)
        ∧ (s.plat.dbgLock = false → dbgPass s1 = true → exec (.dbgResponseCheck v) s
            = .next (modPlat (s1.wrf .secBootStatus 0 0 33 32 (fld (dbgResp s1) 512 1)) fun p => { p with tdo := true }))
        ∧ (s.plat.dbgLock = false → dbgPass s1 = false → exec (.dbgResponseCheck v) s
            = .next (modPlat (countDropped s1 0) fun p => { p with dbgLock := true }))
        ∧ exec .dbgLockoutExpire s = .next (modPlat s fun p => { p with dbgLock := false })

/-- With the sideband up, or a mailbox request waiting in a running part, outside Ash mode, with the management cores at
work: each supported request is answered with its response, whose known part is nothing (GET_VERSION,
GET_CAPABILITIES, NEGOTIATE_ALGORITHMS), the digest of the certificate chain of slot 0 (GET_DIGESTS, CHALLENGE), that
chain (GET_CERTIFICATE of slot 0) or the measurements named (GET_MEASUREMENTS), followed by bytes the spec leaves to
the message (log 12); any other request, and the chain of another slot, is answered UnsupportedRequest. In Ash mode
every request is answered so. Where the management cores are stopped a sideband request is answered Busy and a mailbox
request waits. (R425, R426, R427, R434, R510) -/
def Obligations.SpdmAnswers : Prop :=
  ∀ (s : State) (t : Transport) (req : Bytes),
    (match t with | .sideband => sidebandUp s | .mailbox => running s && bit (s.rd .secSpdmCtl) 31) = true →
    let rows : List (Instr × Nat × Bytes) := [(.getVersion t req, 0x04, []), (.getCapabilities t req, 0x61, []),
      (.negotiateAlgorithms t req, 0x63, []), (.getDigests t req, 0x01, sha512 (certChain s)), (.getCertificate t 0 req, 0x02, certChain s),
      (.challenge t req, 0x03, sha512 (certChain s))]
    (inAsh s = false → shade s < 2 → s.plat.restart = none →
      (∀ q ∈ rows, exec q.1 s = .next (spdmSend s t q.2.1 (q.2.2 ++ Config.answerBytes q.2.1 (spdmReq s t req ++ q.2.2))))
      ∧ (∀ i : Byte, exec (.getMeasurements t i req) s
          = .next (spdmSend s t 0x60 (measurements s i.toNat ++ Config.answerBytes 0x60 (spdmReq s t req ++ measurements s i.toNat))))
      ∧ (∀ c : Byte, exec (.spdmUnsupportedRequest t c req) s = .next (spdmSend s t 0x7F [7]))
      ∧ ∀ k : Byte, k ≠ 0 → exec (.getCertificate t k req) s = .next (spdmSend s t 0x7F [7]))
    ∧ (inAsh s = true → ∀ q ∈ rows, exec q.1 s = .next (spdmSend s t 0x7F [7]))
    ∧ (inAsh s = false → (2 ≤ shade s ∨ s.plat.restart ≠ none) → ∀ q ∈ rows,
        exec q.1 s = .next (match t with | .sideband => spdmSend s t 0x7F [3] | .mailbox => s))

/-- While the sideband endpoint is up: Set Endpoint ID keeps the ID and answers it, Get Endpoint ID answers it, the
version, type and PLDM discovery requests are answered, GetPDRRepositoryInfo answers 101 records, GetPDR and
GetSensorReading answer the record and the value of sensor ID 1 to 101, an unsupported PLDM command is answered so,
and ENTDAA keeps the dynamic address. Bytes of an answer that the rules do not fix are free (log 12). While it is down
none of them changes anything. (R508, R509) -/
def Obligations.SidebandAnswers : Prop :=
  ∀ s : State,
    let ans := fun (s : State) (code : Nat) (known : Bytes) => emit s (.sideband code (known ++ Config.answerBytes code known))
    (sidebandUp s = true →
      (∀ e : Byte,
        exec (.setEndpointId e) s = .next (ans (modPlat s fun p => { p with eid := e.toNat }) 0x01 [e]))
      ∧ exec .getEndpointId s = .next (ans s 0x02 (natLe 1 s.plat.eid))
      ∧ exec .getMctpVersionSupport s = .next (ans s 0x04 []) ∧ exec .getMessageTypeSupport s = .next (ans s 0x05 [])
      ∧ exec .getTid s = .next (ans s 0x102 []) ∧ exec .getPldmVersion s = .next (ans s 0x103 [])
      ∧ exec .getPldmTypes s = .next (ans s 0x104 []) ∧ exec .getPldmCommands s = .next (ans s 0x105 [])
      ∧ exec .getPdrRepositoryInfo s = .next (ans s 0x350 (natLe 4 101))
      ∧ (∀ h : Nat, 1 ≤ h → h ≤ 101 → exec (.getPdr h) s = .next (ans s 0x351 (natLe 2 h)))
      ∧ (∀ h : Nat, (h = 0 ∨ 101 < h) → exec (.getPdr h) s = .next (ans s 0x351 []))
      ∧ (∀ n : BitVec 16, 1 ≤ n.toNat → n.toNat ≤ 101 →
          exec (.getSensorReading n) s = .next (ans s 0x311 (natLe 2 (s.rdf .ambSens (n.toNat - 1) 0 15 0))))
      ∧ (∀ n : BitVec 16, (n.toNat = 0 ∨ 101 < n.toNat) → exec (.getSensorReading n) s = .next (ans s 0x311 []))
      ∧ (∀ ty cm : Byte, exec (.pldmUnsupportedCmd ty cm) s = .next (emit s (.sideband (0x100 * (ty.toNat + 1) + cm.toNat) [0x05])))
      ∧ ∀ a : Fin 128, exec (.entdaa a) s = .next (modPlat s fun p => { p with i3c := some a.val }))
    ∧ (sidebandUp s = false → ∀ c ∈ [Instr.getEndpointId, .getMctpVersionSupport, .getMessageTypeSupport, .getTid, .getPldmVersion,
        .getPldmTypes, .getPldmCommands, .getPdrRepositoryInfo, .setEndpointId 0, .getPdr 1, .getSensorReading 1, .entdaa 0,
        .pldmUnsupportedCmd 0 0], exec c s = .next s)

/-- A scrub read of an ungated tile's granule that its scrubber's pass has come to, with SRAM scrubbing on (a pass that
runs goes on to its end), reads its 32 bytes (correcting and counting what it finds), goes on to the next granule and
measures a whole pass; a patrol read of an existing burst of a channel not retired, with patrol on, reads every
flipped word of the burst; with scrubbing off and no pass begun, a gated tile, a granule the pass is not at or a
retired channel, neither does anything. A refresh keeps the MR4 reading in the channel's status; a ZQ latch changes no
state. A retrain of a channel that neither retrains nor evacuates nor is retired starts it, with the running
firmware's training component, any other is dropped and counted; WCK tracking out of its window does the same, in its
window nothing; the end of a retrain returns the channel to service, counts it (saturating) and ends what MCT_RETRAIN
asked for of that channel, whose BUSY then shows whether another requested retrain runs. A write of MCT_EVAC with GO
stores SHARE and CHANNEL and clears DONE where asked; while BUSY its GO is dropped and counted. While idle, where the
memory limit leaves no room for one channel less, ERR becomes 1; where the channel is retired, eight channels are, or
eight have been evacuated already without it, ERR becomes 2; else BUSY is set, DONE and ERR cleared, and the channel
evacuates, listed if it was not. A granule of the evacuating channel is read with its check words, its bitmap bit set,
its bytes put over what its target in the relocation band held, and counted as moved; with none evacuating nothing
happens. (R271, R275, R280, R281, R290, R292, R484, R282, R284, R289) -/
def Obligations.MemoryMaintenance : Prop :=
  ((∀ (s : State) (t : Tile) (g : Fin 196608),
      (scrubOn s t (s.rdf .mctScrub 0 0 31 16) = true → tileGated s t = false → (scrubAt s t).2 = g.val →
        exec (.sramScrubRead t g) s
          = .next (scrubTime (rawRead s .other (sramAddr t (32 * g.val)) 32).1 t g (g.val == 196607) 63 32 1000000))
      ∧ ((scrubOn s t (s.rdf .mctScrub 0 0 31 16) = false ∨ tileGated s t = true ∨ (scrubAt s t).2 ≠ g.val) →
        exec (.sramScrubRead t g) s = .next s))
    ∧ (∀ (s : State) (c : ChanNo) (b : Nat), b < dataBursts + dataBursts / 16 →
        (scrubOn s (1536 + c.val) (s.rdf .mctScrub 0 0 15 8) = true → retired s c = false → (scrubAt s (1536 + c.val)).2 = b →
          exec (.dramPatrolRead c b) s
          = .next (scrubTime (eccReadAll .other (burstFlips s c b) s) (1536 + c.val) b
              (b + 1 == dataBursts + dataBursts / 16) 31 0 60000000000))
        ∧ ((scrubOn s (1536 + c.val) (s.rdf .mctScrub 0 0 15 8) = false ∨ retired s c = true ∨ (scrubAt s (1536 + c.val)).2 ≠ b) →
            exec (.dramPatrolRead c b) s = .next s))
    ∧ (∀ (s : State) (c : ChanNo) (bank : Fin 16) (m : Fin 32),
        exec (.dramRefresh c bank m) s = .next (s.wrf .mctChstat c 0 28 24 m) ∧ exec (.zqLatch c) s = .next s
        ∧ exec (.wckTracking c true) s = .next s)
    ∧ (∀ (s : State) (c : ChanNo), ∀ row ∈ [Instr.channelRetrain c, .wckTracking c false],
        (chState s c ≠ 1 → evacuating s c = false → retired s c = false → exec row s = .next (trainingTakes (s.wrf .mctChstat c 0 31 29 1) c))
        ∧ ((chState s c = 1 ∨ evacuating s c = true ∨ retired s c = true) → exec row s = .next (countDropped s (c.val / 32))))
    ∧ ∀ (s : State) (c : ChanNo), (chState s c ≠ 1 → exec (.channelRetrainDone c) s = .next s)
        ∧ (chState s c = 1 →
            let x := s.rd .mctChstat c
            let s1 := s.wr .mctChstat c 0 (setBits (setBits x 31 29 0) 15 0 (satAdd 65535 (bits x 15 0) 1))
            (c.val ∈ s.plat.retrains →
              let l := s.plat.retrains.filter (· != c.val)
              exec (.channelRetrainDone c) s
                = .next ((modPlat s1 fun p => { p with retrains := l }).wrf .mctRetrain 0 0 31 31 (b2n !l.isEmpty)))
            ∧ (c.val ∉ s.plat.retrains → exec (.channelRetrainDone c) s = .next s1)))
    ∧ ((∀ (s : State) (w : World) (v : W32), bit v.toNat 0 = true →
      let x := if bit v.toNat 30 then setBit (s.rd .mctEvac) 30 false else s.rd .mctEvac
      let s1 := s.wr .mctEvac 0 0 (setBits (setBits x 23 16 (bits v.toNat 23 16)) 14 8 (bits v.toNat 14 8))
      (bit (s.rd .mctEvac) 31 = true → exec (.evacuationStart w v) s = .next (countDropped s1 0))
      ∧ (bit (s.rd .mctEvac) 31 = false →
          let c := s1.rdf .mctEvac 0 0 14 8
          let listed := ∃ q ∈ s1.evacs, q.1 = c
          let full := retired s1 c = true ∨ 8 ≤ retiredCount s1 ∨ (¬ listed ∧ 8 ≤ s1.evacs.length)
          (limitBound (retiredCount s1 + 1) < s1.rdf .mctLimit 0 0 19 0 →
            exec (.evacuationStart w v) s = .next (s1.wr .mctEvac 0 0 (setBits (s1.rd .mctEvac) 29 27 1)))
          ∧ (s1.rdf .mctLimit 0 0 19 0 ≤ limitBound (retiredCount s1 + 1) → full →
              exec (.evacuationStart w v) s = .next (s1.wr .mctEvac 0 0 (setBits (s1.rd .mctEvac) 29 27 2)))
          ∧ (s1.rdf .mctLimit 0 0 19 0 ≤ limitBound (retiredCount s1 + 1) → ¬ full →
              let s2 := s1.wr .mctEvac 0 0 (setBits (setBit (setBit (s1.rd .mctEvac) 31 true) 30 false) 29 27 0)
              (listed → exec (.evacuationStart w v) s = .next (evacCheck (modPlat s2 fun p => { p with evac := some c }) c))
              ∧ (¬ listed → exec (.evacuationStart w v) s
                = .next (evacCheck (modPlat { s2 with evacs := s2.evacs ++ [(c, 0)] } fun p => { p with evac := some c }) c)))))
    ∧ ∀ s : State, (s.plat.evac = none → exec .evacGranuleMove s = .next s)
        ∧ ∀ c : Nat, s.plat.evac = some c →
            let i := movedOf s c
            let a := granAddr c i
            let m := 0x1E00000 + (s.evacs.findIdx fun q => q.1 == c) * 245760 + i / 8
            let s1 := eccReadAll .other (flippedIn s a 4096) s
            let s2 := { s1 with evacs := updWhere (fun q => q.1 == c) (fun q => (q.1, q.2 + 1)) s1.evacs }
            let t := granAddr (physPlace s2 a).1 (physPlace s2 a).2
            let s3 := setMem s2 m [BitVec.ofNat 8 (setBit (mapGet memD s2.mem m).toNat (i % 8) true)]
            let s4 := setMem s3 t (storedBytes s3 a 4096)
            exec .evacGranuleMove s = .next (evacCheck { s4 with flips := mapClearRange s4.flips t (t + 4096) } c))

/-- With a register job given and not run yet whose record is in order, the row of its OP reads the record and runs the
job element by element, and no other row does anything; a job that has run ends with BUSY clear, DONE set, ERR its
result and COUNT its elements (of COMPARE, those that differ); one whose record is out of order ends at once with the
record's own ERR; with no job nothing happens. (R227, R228, R229, R230) -/
def Obligations.NmuJobsRun : Prop :=
  ∀ (s : State), (∀ j : Nmu, s.nmu = some j → j.ran = false →
      let b := memBytes s j.addr 128
      let rows : List (Nat × Instr) := [(1, .nmuFill), (2, .nmuInitUniform), (3, .nmuSgdm), (4, .nmuAdamw), (5, .nmuScale), (6, .nmuCompare)]
      (jobErr s j b = 0 → ∀ q ∈ rows,
        (jobOp b = q.1 → exec q.2 s = .next (jobDo (devRead s j.world .other j.addr 128 (nmuBlock s j.addr)).1 j b))
        ∧ (jobOp b ≠ q.1 → exec q.2 s = .next s))
      ∧ (jobErr s j b ≠ 0 →
          (∀ q ∈ rows, exec q.2 s = .next s)
          ∧ ((jobErr s j b = 1 ∨ jobErr s j b = 2) → exec .nmuJobEnd s = .next (nmuEnd s (jobErr s j b)))
          ∧ ((jobErr s j b = 3 ∨ jobErr s j b = 4) →
              exec .nmuJobEnd s = .next (nmuEnd (devRead s j.world .other j.addr 128 (nmuBlock s j.addr)).1 (jobErr s j b)))))
    ∧ (∀ j : Nmu, s.nmu = some j → j.ran = true → ∃ t : State, exec .nmuJobEnd s = .next t ∧ t.nmu = none
        ∧ t = ({ s.wr .nmuJobProg 0 0 j.count with nmu := none } : State).wr .nmuJobCtl 0 0
            (setBits (setBit (setBit ((s.wr .nmuJobProg 0 0 j.count).rd .nmuJobCtl) 31 false) 30 true) 29 26 j.err))
    ∧ (s.nmu = none → exec .nmuFill s = .next s ∧ exec .nmuCompare s = .next s ∧ exec .nmuJobEnd s = .next s)

/-- For a packet of any endpoints with a header it can carry whose parity holds: it enters on NET 0, and its path is the
dimension-order path of its source and destination, or that through the waypoint of the first detour entry of its die
and bank, in the epoch that its tag names, that holds both (counted), and a scheduled packet takes the direct one.
Where every router of the path is up, its flits are counted at each router and it reaches its endpoint, on NET 1 if it
was detoured, where a WRITE is performed, or is dropped and counted at a fenced or test-fenced tile's local port;
where a router is fenced it is discarded before the first such one and counted unroutable. A packet whose header
parity fails is dropped and counted (the class is the model's choice, log 172). (R258, R294, R295, R299, R305, R306,
R307, R312) -/
def Obligations.MeshPacketsTravel : Prop :=
  ∀ (s : State) (p : MeshPacket) (a b : Nat), endpointTile p.src.toNat = some a → endpointTile p.dest.toNat = some b →
    meshPacketOk p = true →
    let r := if bit p.ctl.toNat 5 then (meshPath a b, false) else routePath s (b2n (bit p.ctl.toNat 1)) (bits p.ctl.toNat 3 2) a b
    let s1 := if r.2 then cntAdd s .mshCnt (tileDie a) 5 1 else s
    let q := meshOn false p
    let ctx := meshCtx s p.src.toNat
    let way := fun (l : List Nat) => passRouters ctx (if bit q.ctl.toNat 5 then 1 else 0) (meshFlits q) l s1
    (meshParity p = true → (∀ x ∈ r.1, routerDown s1 x = false) →
      ((p.dest.toNat < 1536 → tileOut s1 p.dest.toNat = false) →
        (p.typ = 0x01 → exec (.meshPacketRoute p) s = .next (devWrite (way r.1) (worldOf (bit (meshOn r.2 q).ctl.toNat 0)) ctx p.addr.toNat p.payload))
        ∧ (p.typ ≠ 0x01 → p.typ ≠ 0x04 → p.typ ≠ 0x05 →
            exec (.meshPacketRoute p) s = .next (emit (way r.1) (.mesh p.dest.toNat (meshOn r.2 q)))))
      ∧ (p.dest.toNat < 1536 → tileOut s1 p.dest.toNat = true →
          exec (.meshPacketRoute p) s = .next (meshDiscard (way r.1) ctx 32 4 (stopRouter s1 r.1) q)))
    ∧ (meshParity p = true → (∃ x ∈ r.1, routerDown s1 x = true) →
        exec (.meshPacketRoute p) s = .next (meshDiscard (way (clearPath s1 r.1)) ctx 33 3 (stopRouter s1 r.1) q))
    ∧ (meshParity p = false → exec (.meshPacketRoute p) s = .next (tileEvent s ctx 19 a 1))

/-- A multicast over a rectangle of the grid whose header parity holds, with no other of its number out, goes out to its
unfenced targets where no hold buffer on its tree is full, or it is scheduled. A branch that has not accepted within
the hold limit of its router is pruned: its targets are missing, and it is counted; any other prune does nothing. At
its end the remaining targets hold the payload and the initiator gets the marks; with nothing missing it is over, with
targets missing and tries left it is resent with the missing mask (counted), and with none left the loss is counted
and captured, and an operation outside a step completes TIMEOUT. (R297, R300, R301, R302, R305, R310) -/
def Obligations.MulticastsComplete : Prop :=
  (∀ (s : State) (p : MeshPacket) (a : Nat), endpointTile p.src.toNat = some a → p.typ = 0x06 →
      rectOk p.x0.toNat p.y0.toNat p.w.toNat p.h.toNat = true → p.payload.length ≤ 1152 → meshParity p = true →
      let ts := (mcTiles p).filter fun t => !tileOut s t
      ((∀ m ∈ s.mcs, m.id ≠ p.key.toNat) → (bit p.ctl.toNat 5 = true ∨ mcFull s a ts = false) →
        exec (.mcWrite p) s = .next (mcStart s a
          { id := p.key.toNat, pkt := meshOn false p, ctx := meshCtx s p.src.toNat, left := ts }))
      ∧ (((∃ m ∈ s.mcs, m.id = p.key.toNat) ∨ (bit p.ctl.toNat 5 = false ∧ mcFull s a ts = true)) → exec (.mcWrite p) s = .next s))
    ∧ (∀ (s : State) (id : Nat) (r q : Tile) (m : Multicast), s.mcs.find? (fun m => m.id == id) = some m →
        ((r.val, q.val) ∈ m.held → m.since + mcHoldLimit s r ≤ s.time → exec (.mcBranchPrune id ⟨r, q⟩) s = .next (
            cntAdd { s with mcs := updWhere (fun x => x.id == id) (mcPrune (r.val, q.val)) s.mcs } .mshCnt (tileDie r.val) 3 1))
        ∧ (((r.val, q.val) ∉ m.held ∨ s.time < m.since + mcHoldLimit s r) → exec (.mcBranchPrune id ⟨r, q⟩) s = .next s))
    ∧ ∀ (s : State) (id : Nat) (m : Multicast) (rest : List Multicast),
        takeFirst (fun m : Multicast => m.id == id) s.mcs = some (m, rest) →
        let s1 := emit (mcDeliver { s with mcs := rest } m m.left) (.mesh m.pkt.src.toNat (mcDonePacket m))
        let a := (endpointTile m.pkt.src.toNat).getD 0
        let tries := bits (blockVal s1 (.routers (Fin.ofNat 4 (tileDie a))) .mshCtl 0 0) 31 24
        let lost := tileEvent (meshErrSet s1 5 a m.pkt) m.ctx 34 a 1
        (m.missing = [] → exec (.mcDone id) s = .next s1)
        ∧ (m.missing ≠ [] → m.tries < tries → exec (.mcDone id) s = .next (mcResend s1 m))
        ∧ (m.missing ≠ [] → tries ≤ m.tries → (∀ iid : Nat, m.ctx ≠ .cmd iid) → exec (.mcDone id) s = .next lost)
        ∧ (∀ iid : Nat, m.missing ≠ [] → tries ≤ m.tries → m.ctx = .cmd iid →
            exec (.mcDone id) s = .next (complete lost iid stTimeout))

/-- A 64-byte flit with a right CRC and the expected sequence number is taken and the next one expected; any other is
counted (class 4) and answered with a NAK of the last good number. A NAK drops the acknowledged flits, counts a try,
and replays the rest in order unless the link trains. A link with 4 tries that does not train starts to; at the end of
training the replay goes on; in any other case neither changes anything. (R12, R303) -/
def Obligations.BridgesReplay : Prop :=
  ∀ (s : State) (b : BridgeLink),
    let k := bridgeKey b.link.val b.back
    let l := getBridge s k
    (∀ f : BridgeFlit, f.data.length = 64 →
      (bridgeFlitGood f = true → f.seq.val = l.rxSeq →
        exec (.bridgeFlitReceive b f) s = .next (setBridge s k { l with rxSeq := (l.rxSeq + 1) % 256, naked := false }))
      ∧ ((bridgeFlitGood f = false ∨ f.seq.val ≠ l.rxSeq) → exec (.bridgeFlitReceive b f) s
          = .next (emit (setBridge (rasBump s 4 (bridgeDie b.link.val b.back) 1) k { l with naked := true })
              (.bridge b.link.val b.back true ((l.rxSeq + 255) % 256) []))))
    ∧ (∀ n : Fin 256,
        let r := dropAcked n.val l.replay
        let s1 := setBridge s k { l with replay := r, tries := if r.length = l.replay.length then l.tries + 1 else 1 }
        (l.training = true → exec (.bridgeNak b n) s = .next s1)
        ∧ (l.training = false → exec (.bridgeNak b n) s = .next (bridgeReplay s1 b)))
    ∧ (4 ≤ l.tries → l.training = false → exec (.bridgeRetrain b) s = .next (setBridge s k { l with training := true }))
    ∧ ((l.tries < 4 ∨ l.training = true) → exec (.bridgeRetrain b) s = .next s)
    ∧ (l.training = true → exec (.bridgeRetrainDone b) s = .next (bridgeReplay (setBridge s k { l with training := false, tries := 0 }) b))
    ∧ (l.training = false → exec (.bridgeRetrainDone b) s = .next s)

/-- A message of the row's TYPE for this part whose segments are good and in order, from a valid peer, attested where it
is of the secure world, uses that peer's cache entry and is performed and answered: a WRITE and a MIRROR store their
bytes, a READ is answered with RESPONSE packets, a RED message of the running step and attempt contributes (an older
one is counted, a newer one answered RETRY), an anchor message is kept or, with 256 kept of its group, answered RETRY.
One that fails its packets' checks is counted and dropped. A packet for another device loses a hop and leaves by its
bank's route, or is dropped and counted. A local whole-block write into a reduction window contributes. (R357, R358,
R359, R360, R367, R370, R373, R374, R395, R399) -/
def Obligations.FabricMessagesPerformed : Prop :=
  (∀ (s : State) (p : PortNo) (x : FabPacket) (m : List FabPacket), pktsWellFormed (x :: m) = true → forUs s x.dst.toNat = true →
      let ms := x :: m
      let sp := peerSeen s x.src.toNat
      let good := segsGood 0 ms = true ∧ peerValid s x.src.toNat = true ∧ (pktWorld x = .s → peerAttested s x.src.toNat = true)
      (good → (x.typ = 0x01 → exec (.fabricWrite p ms) s = .next (performWriteMsg p ms sp x))
        ∧ (x.typ = 0x02 → exec (.fabricRead p ms) s = .next (performReadMsg p ms sp x))
        ∧ (x.typ = 0x04 → ∀ w : World, exec (.reductionContribution w false ms) s = .next (performRed ms sp x))
        ∧ (x.typ = 0x06 → exec (.anchorMessage p ms) s = .next (performAnchors ms sp x))
        ∧ (x.typ = 0x07 → exec (.mirrorMessage p ms) s = .next (performed (devWriteB (pktWorld x) .other (.qxf p)
            ((msgBytes ms).length / 65536 + 2) sp x.addr.toNat (msgBytes ms)) x)))
      ∧ (segsGood 0 ms = false →
          let bad := dieEvent (qxfErrSet s 5 p x.typ.toNat x.src.toNat x.dst.toNat) (stepCtx s) 29 (p.val / 16) 1
          (x.typ = 0x01 → exec (.fabricWrite p ms) s = .next bad) ∧ (x.typ = 0x02 → exec (.fabricRead p ms) s = .next bad)
          ∧ (x.typ = 0x06 → exec (.anchorMessage p ms) s = .next bad) ∧ (x.typ = 0x07 → exec (.mirrorMessage p ms) s = .next bad)))
    ∧ (∀ (s : State) (w : World) (x : FabPacket) (m : List FabPacket), pktsWellFormed (x :: m) = true →
        windowAt s x.addr.toNat ≠ none →
        exec (.reductionContribution w true (x :: m)) s = .next (putBlockMsg s none w x.addr.toNat 0 (msgBytes (x :: m)) (ownWho s)))
    ∧ ∀ (s : State) (p : PortNo) (x : FabPacket), x.payload.length ≤ 2048 →
        (forUs s x.dst.toNat = true → exec (.fabricTransit p x) s = .next s)
        ∧ (forUs s x.dst.toNat = false →
            let ctx : Ctx := match s.seq.train with
              | some r => if r.members.contains x.src.toNat then .plan .training else .other
              | none => .other
            let h := x.hops.toNat - 1
            let par := BitVec.ofNat 32 (Nat.xor x.hpar.toNat (Nat.xor (x.hops.toNat * 65536) (h * 65536)))
            let y : FabPacket := { x with hops := BitVec.ofNat 8 h, hpar := par }
            let lost := fun (z : FabPacket) => dieEvent
              (qxfErrSet (cntAdd s .qxfCnt 3 0 1) 1 p z.typ.toNat z.src.toNat z.dst.toNat) ctx 35 (p.val / 16) 1
            (h = 0 → exec (.fabricTransit p x) s = .next (lost x))
            ∧ (h ≠ 0 → pickPort s none y ≠ none → exec (.fabricTransit p x) s = .next (routeOut (cntAdd s .qxfCnt 2 0 1) ctx none y))
            ∧ (h ≠ 0 → pickPort s none y = none → exec (.fabricTransit p x) s = .next (lost y)))

/-- For a message of ours that is out: a RESPONSE of good segments gives its data to what asked and the work goes on; a
DONE OK ends it and the work goes on, RETRY marks it and it is resent by the next resend, DENIED ends its work with
ACCESS_DENIED. A message timeout of one not being probed counts, probes the peer, and breaks mirroring, makes a step's
message wait for the probe, or fails the work. A probe from a valid peer with nothing waiting is answered by a probe;
one from a peer that is unreachable or being probed is the answer; one from a peer with no valid entry is dropped and
counted. A probe without answer marks the peer unreachable and fails the work. Each unreachable routed peer is probed
at the interval. The cache fill of a peer that messages wait for lists it first and sends what waited. A window block
that stays incomplete beyond its limit fails the plan with TIMEOUT. With mirroring on and not broken and a twin named,
the next page of an outbound entry that is being seeded is read with its check words and sent to the twin; after its
last page the entry is MIRRORED, before it the next page follows. RESEED clears BROKEN, clears MIRRORED of every valid
outbound entry, and seeds each from its first page. With mirroring off, broken, no twin, or no seed of the entry under
way no page is sent. (R358, R364, R365, R370, R397, R396, R412) -/
def Obligations.FabricAnswersAndSeeds : Prop :=
  ((∀ (s : State) (p : PortNo) (x : FabPacket) (m : List FabPacket) (o : OutMsg), pktsWellFormed (x :: m) = true →
      forUs s x.dst.toNat = true → x.typ = 0x03 → segsGood 0 (x :: m) = true → peerValid s x.src.toNat = true →
      (pktWorld x = .s → peerAttested s x.src.toNat = true) →
      findOut (peerSeen s x.src.toNat) x.src.toNat x.msg.toNat = some o →
      exec (.fabricResponse p (x :: m)) s = .next (ctxOn
        (dropOut (takeResponse (peerSeen s x.src.toNat) o (msgBytes (x :: m))) x.src.toNat x.msg.toNat) o.ctx))
    ∧ (∀ (s : State) (d : DeviceId) (n : W32) (o : OutMsg), findOut s d.toNat n.toNat = some o →
        exec (.doneReceive d n 0) s = .next (mirOn (ctxOn (dropOut (queueDone s o true) d.toNat n.toNat) o.ctx))
        ∧ exec (.doneReceive d n 1) s = .next (mirOn (modOut (queueDone s o false) d.toNat n.toNat fun m => { m with retry := true }))
        ∧ exec (.doneReceive d n 2) s = .next (mirOn (failWork (dropOut s d.toNat n.toNat) o.ctx stAccessDenied))
        ∧ (o.retry = true → exec (.retryResend d n) s
            = .next (routeAll (modOut s d.toNat n.toNat fun m => { m with retry := false }) o.ctx o.bundle o.packets))
        ∧ (o.retry = false → exec (.retryResend d n) s = .next s)
        ∧ (o.probing = true → exec (.msgTimeoutExpire d n) s = .next s)
        ∧ (o.probing = false →
            let p := (o.packets.head?.bind fun x => pickPort s o.bundle x).getD 0
            let s1 := sendProbe (rasBump (cntAdd (qxfErrSet s 2 p ((o.packets.map fun x => x.typ.toNat).headD 0) ((ownId s).getD 0) o.peer)
              .qxfCnt 5 0 1) 73 (p / 16) 1) o.peer
            (o.mirror = true → exec (.msgTimeoutExpire d n) s = .next (mirOn (mirBreak s1)))
            ∧ (o.mirror = false → ∀ k : PlanKind, o.ctx = .plan k → exec (.msgTimeoutExpire d n) s
                = .next (dieEvent (cntAdd (modOut s1 o.peer o.msg fun m => { m with probing := true }) .qxfCnt 3 0 1) (.plan k) 36 (p / 16) 1))
            ∧ (o.mirror = false → (∀ k : PlanKind, o.ctx ≠ .plan k) → exec (.msgTimeoutExpire d n) s
                = .next (failWork (dropOut (setPeerFlag s1 o.peer 3 true) o.peer o.msg) o.ctx stPeerUnreachable))))
    ∧ (∀ (s : State) (d : DeviceId), ownId s ≠ none →
        let sp := peerSeen s d.toNat
        (peerValid s d.toNat = true →
          ((peerUnreachable sp d.toNat = true ∨ ∃ m ∈ sp.fab.out, m.peer = d.toNat ∧ m.probing = true) →
            exec (.probeReceive d) s = .next (probeAnswered sp d.toNat))
          ∧ (peerUnreachable sp d.toNat = false → (∀ m ∈ sp.fab.out, m.peer = d.toNat → m.probing = false) →
            exec (.probeReceive d) s = .next (sendProbe sp d.toNat)))
        ∧ (peerValid s d.toNat = false → exec (.probeReceive d) s = .next
            (rasBump (cntAdd (qxfErrSet sp 6 0 0x0A d.toNat ((ownId s).getD 0)) .qxfCnt 7 0 1) 72 0 1)))
    ∧ (∀ (s : State) (d : DeviceId) (o : OutMsg), s.fab.out.find? (fun m => m.peer == d.toNat && m.probing) = some o →
        let s1 := setPeerFlag s d.toNat 3 true
        exec (.probeAnswerTimeout d) s = .next (failWork
          { s1 with fab := { s1.fab with out := s1.fab.out.filter fun m => !(m.peer == d.toNat && m.probing) } } o.ctx stPeerUnreachable))
    ∧ (∀ s : State, exec .probeInterval s
        = .next (((unreachablePeers s).filter fun p => (routeBundle s 0 p).isSome).foldl sendProbe s))
    ∧ (∀ (s : State) (d : DeviceId), d.toNat ∉ s.fab.cache → (∃ m ∈ s.fab.queued, m.peer = d.toNat) →
        exec (.peerCacheFill d) s = .next (flushQueued d.toNat (s.fab.queued.length + 1)
          { s with fab := { s.fab with cache := (d.toNat :: s.fab.cache).take 4096 } }))
    ∧ ∀ (s : State) (k : PlanKind) (n : Fin 64) (blk : Nat), getPlan s k ≠ none →
        (mapGet (fun _ => {}) s.fab.windows n.val).valid = true →
        winCount s (mapGet (fun _ => {}) s.fab.windows n.val) blk ≠ (mapGet (fun _ => {}) s.fab.windows n.val).ncontrib →
        exec (.reductionWaitTimeout k n blk) s = .next (failPlan s k stTimeout))
    ∧ (∀ (s : State), (∀ n : Fin 64,
      let on := bit (s.rd .mirCtl) 31 = true ∧ bit (s.rd .mirStatus) 63 = false ∧ mirOut s n = true ∧ twinId s ≠ none
      (∀ k : Nat, on → s.mir.seeding.find? (fun p => p.1 == n.val) = some (n.val, k) →
        let a := (mirSrc s n).1 + 65536 * k
        let r := rawRead s .other a 65536
        let s1 := mirSend r.1 .other n a r.2 (some (n.val, k))
        (k + 1 < bits (mirCfg s1 n) 22 0 → exec (.mirrorSeedPage n) s
          = .next { s1 with mir := { s1.mir with seeding := mapIns s1.mir.seeding n (k + 1) } })
        ∧ (bits (mirCfg s1 n) 22 0 ≤ k + 1 → exec (.mirrorSeedPage n) s
          = .next (({ s1 with mir := { s1.mir with seeding := mapDel s1.mir.seeding n } } : State).wrf .mirRegCfg n 0 28 28 1)))
      ∧ (¬ on → exec (.mirrorSeedPage n) s = .next s)
      ∧ (s.mir.seeding.find? (fun p => p.1 == n.val) = none → exec (.mirrorSeedPage n) s = .next s))
    ∧ ∀ w : World, exec (.mirrorReseed w) s = .next (((upTo 64).filter (mirOut s)).foldl (fun s n =>
        let s := s.wrf .mirRegCfg n 0 28 28 0
        { s with mir := { s.mir with seeding := mapIns s.mir.seeding n 0 } }) (s.wrf .mirStatus 0 0 63 63 0)))

/-- An issued RUN_PLAN whose kind is free, with nothing held before it, begins: a training plan and an eval at once, a
recomputation after its log record has come and agrees (BAD_DESCRIPTOR where it does not, or no log is kept). A plan
whose header, micro-batch table, queues and phase records pass their checks, whose step number is the one its kind
takes, whose fence map agrees and with no tile test-fenced starts its first attempt; a bad header or table is
BAD_DESCRIPTOR and another fence map FENCE_MAP_MISMATCH. One whose kind is not free, or with something older held, is
held in issue order; the first held plan whose kind is free begins when its turn comes. (R235, R236, R237, R239, R308,
R409, R497, R501) -/
def Obligations.PlansStartOrWait : Prop :=
  (∀ (s : State) (iid : Nat) (c : Issued), getIssued s iid = some c → c.op = 0x0020 → c.st ≠ .running → c.iid = iid →
      (∀ h ∈ s.seq.held, h.iid ≠ iid) →
      let k := planKindOf c
      let row := if rpRecompute c.ops then Instr.runPlanRecompute iid else if k = .eval then .runPlanEval iid else .runPlan iid
      let free := kindFree s k = true ∧ s.seq.held = [] ∧ noOlderHold s iid = true
      (¬ free → exec row s = .next (holdPlan s iid k))
      ∧ (free → exec row s = .next (planGo s c)))
    ∧ (∀ (s : State) (c : Issued),
        (rpRecompute c.ops = false → planGo s c = planBegin s c)
        ∧ (rpRecompute c.ops = true →
            (logSlot (applyMoment .step s) (rpStep c.ops) = none → planGo s c = complete s c.iid stBadDescriptor)
            ∧ ∀ (a : Nat) (r : Bytes), logSlot (applyMoment .step s) (rpStep c.ops) = some a →
              hostRead s c.world (.cmd c.iid) a 4096 = (s, .ok r) →
              let agrees := fld r 8 8 = rpStep c.ops ∧ fld r 16 8 = fld c.ops 16 8 ∧ fld r 32 4 = stepAnswerId s (rpStep c.ops)
                ∧ rpStep c.ops = (s.rd .seqStep + 1) % 2 ^ 64
              (agrees → planGo s c = planBegin (modIssued s c.iid fun x => { x with fetched := putBytes x.fetched 0 r }) c)
              ∧ (¬ agrees → planGo s c = complete s c.iid stBadDescriptor)))
    ∧ (∀ (s : State) (h : HeldPlan) (c : Issued), s.seq.held.find? (fun h => kindFree s h.kind) = some h → noOlderHold s h.iid = true →
        let s1 : State := { s with seq := { s.seq with held := s.seq.held.filter fun x => x.iid != h.iid } }
        getIssued s1 h.iid = some c →
        exec (.heldPlanStart h.kind) s
          = .next (planGo (modIssued s1 h.iid fun x => { x with st := .issued }) { c with st := .issued }))
    ∧ ∀ (s : State) (c : Issued),
        let k := planKindOf c
        let a := rpPlan c.ops
        let h := devRead s c.world (.cmd c.iid) a 128
        let p := planOf c h.2
        let m := planRead h.1 c.world k (a + p.mbTab) (8 * p.nmb)
        let q := planRead m.1 c.world k (a + fld h.2 40 4) (32 * fld h.2 38 2)
        let qs := (entries q.2 0 (fld h.2 38 2) 32).map parseQueue
        let z := scanPhases k (upTo p.nphase) (q.1, { p with queues := qs }, false)
        let tables := mbTabBad z.2.1.nmb m.2 = false ∧ (∀ x ∈ qs, queueBad z.1 qs x = false) ∧ qidsOk z.1 qs = true ∧ z.2.2 = false
          ∧ (k = .training → z.2.1.streams.length ≤ 160)
        planAddrStatus s a 128 = stOk →
        (headerBad h.1 c h.2 = true → planBegin s c = complete h.1 c.iid stBadDescriptor)
        ∧ (headerBad h.1 c h.2 = false → planAddrStatus h.1 a p.total = stOk →
            (¬ tables → planBegin s c = complete z.1 c.iid stBadDescriptor)
            ∧ (tables → worst [planAddrStatus s a 128, stepStatus s k (rpStep c.ops)] = stOk →
                (z.2.1.fence ≠ 0 → z.2.1.fence ≠ fenceHash z.1 → planBegin s c = complete z.1 c.iid stFenceMismatch)
                ∧ ((z.2.1.fence = 0 ∨ z.2.1.fence = fenceHash z.1) → allTiles.any (testFenced z.1) = false →
                    planBegin s c = runStart (modIssued z.1 c.iid fun x => { x with st := .running }) k z.2.1)))

/-- A STEP_ANSWER whose record has come and passes its checks waits for its step; where the running step waits for one it
is taken up at once, its answer in force and its blocks open; where its step is over it is TIMEOUT; a misaligned or
malformed record is BAD_DESCRIPTOR; one of a non-secure ring that names a secure context is ACCESS_DENIED. A step that
waits for its answer beyond the limit goes on with the answer in force, marked reused. A CANCEL_BATCH with the current
epoch and no commit begun raises the epoch, discards the plans' unsent frames, tells every device of the table, ends
the running plans CANCELLED and completes OK with cancelled and the new epoch; with another epoch or a commit begun it
cancels nothing and completes OK saying so. (R178, R195, R196, R197, R416, R495) -/
def Obligations.AnswersAndCancels : Prop :=
  (∀ (s : State) (iid : Nat) (c : Issued), getIssued s iid = some c → c.op = 0x0021 → (∀ a ∈ s.tkr.waiting, a.iid ≠ iid) →
      (fld c.ops 0 8 % 64 ≠ 0 → exec (.stepAnswer iid) s = .next (complete s iid stBadDescriptor))
      ∧ (∀ bs : Bytes, fld c.ops 0 8 % 64 = 0 → hostRead s c.world (.cmd iid) (fld c.ops 0 8) (fld c.ops 8 4) = (s, .ok bs) →
          (parseAnswer s iid bs = none → exec (.stepAnswer iid) s = .next (complete s iid stBadDescriptor))
          ∧ (∀ a : Answer, parseAnswer s iid bs = some a →
              let foreign := c.world = .ns ∧ ∃ x ∈ a.sections, (getCtx s x.ctx).world = .s
              let past := (∃ p : PlanRun, s.seq.train = some p ∧ ((a.step = p.step ∧ p.took = true) ∨ a.step < p.step))
                ∨ (s.seq.train = none ∧ s.rd .seqStep ≠ 2 ^ 64 - 1 ∧ a.step ≤ s.rd .seqStep)
              let s1 := setTkr (clearAns s (.cmd iid)) fun t => { t with waiting := t.waiting ++ [a] }
              (foreign → exec (.stepAnswer iid) s = .next (complete s iid stAccessDenied))
              ∧ (¬ foreign → past → exec (.stepAnswer iid) s = .next (complete s iid stTimeout))
              ∧ (¬ foreign → ¬ past → (∀ p : PlanRun, s.seq.train = some p → p.ansWait = false) →
                  exec (.stepAnswer iid) s = .next s1)
              ∧ (¬ foreign → ¬ past → ∀ p : PlanRun, s.seq.train = some p → p.ansWait = true →
                  exec (.stepAnswer iid) s = .next (takeUp s1 .training)
                  ∧ (a.step = p.step → (applyAnswers s1 p.step).1.tkr.answer = some a
                      ∧ takeUp s1 .training = openArrivals (modPlan (applyAnswers s1 p.step).1 .training
                          fun p => { p with took := true, ansWait := false }) .training)))))
    ∧ (∀ (s : State) (p : PlanRun), s.seq.train = some p →
        (p.ansWait = true → exec .answerTimeout s = .next (openArrivals
          (modPlan s .training fun p => { p with took := true, ansWait := false, reused := true }) .training))
        ∧ (p.ansWait = false → exec .answerTimeout s = .next s))
    ∧ ∀ (s : State) (iid : Nat) (c : Issued), getIssued s iid = some c → c.op = 0x0022 →
        ((fld c.ops 0 4 ≠ tkrEpoch s ∨ ∃ p : PlanRun, s.seq.train = some p ∧ committing p = true) →
          exec (.cancelBatch iid) s = .next (completeInfo s iid stOk ([1, 0, 0, 0] ++ natLe 4 (tkrEpoch s))))
        ∧ (fld c.ops 0 4 = tkrEpoch s → (∀ p : PlanRun, s.seq.train = some p → committing p = false) →
            let e := (tkrEpoch s + 1) % 2 ^ 32
            exec (.cancelBatch iid) s = .next (completeInfo
              (cancelPlan (cancelPlan (sendEpochs (dropUnsent (s.wr .tkrEpoch 0 0 e)) c.world) .training) .eval)
              iid stOk ([0, 0, 0, 0] ++ natLe 4 e)))

/-- With no phase at work and no reset or gate waiting, a plan between phases that has executions left and whose turn it
is loads its next phase; a record that fails ends the plan with its status; one that a ring copy stops waits; else one
that starts no update boundary is entered, and one that does first has the step checked. When the pins of a region
whose FREE write waits are gone it stops waiting, and the phase goes on once none waits; a wait beyond STALL_LIMIT
ends the plan VERSION_PINNED. A phase whose passes are done and whose lists are closed launches what its gatherers
still hold; then a die that holds nothing of it leaves it; with the last die the phase's copies run and it ends; an
at-once failure ends it first. The first true branch record selects the next phase, else NEXT does; one whose entry is
not final is waited for. A plan that has used its executions ends with TIMEOUT. (R19, R152, R216, R235, R245, R247,
R248, R249, R262) -/
def Obligations.PhasesRun : Prop :=
  (∀ (s0 : State) (k : PlanKind) (p : PlanRun), phaseFree s0 = true →
      let s := atBoundary s0
      phaseFree s = true → getPlan s k = some p →
      p.st = .between → (s.seq.lastKind = k → otherReady s k = false) → p.executed < phaseLimit s →
      let r := loadPhase s k p p.nextPhase
      (r.2.2 = none → exec (.phaseStart k) s0 = .next (failPlan r.1 k r.2.1))
      ∧ (∀ f : PhaseRun, r.2.2 = some f → copiesStop r.1 f = true → exec (.phaseStart k) s0 = .next s)
      ∧ (∀ f : PhaseRun, r.2.2 = some f → copiesStop r.1 f = false →
          ((p.boundary ≠ none ∨ f.free = [] ∨ p.cleared = true) → exec (.phaseStart k) s0 = .next (phaseEnter r.1 k f))
          ∧ (p.boundary = none → f.free ≠ [] → p.cleared = false →
              exec (.phaseStart k) s0 = .next (if planOut s k then s else beginCheck s k true))))
    ∧ (∀ (s : State) (p : PlanRun) (f : PhaseRun) (r : Fin 256), s.seq.train = some p → p.phase = some f → r.val ∈ f.waits →
        exec (.versionStallExpire r) s = .next (failPlan s .training stVersionPinned)
        ∧ (freePins (getRegion s r) = 0 →
            let s1 := modPhase (freeUnstall s r) .training fun f => { f with waits := f.waits.filter (· != r.val) }
            (f.waits.filter (· != r.val) = [] → exec (.freeWriteUnblock r) s = .next (phaseGo s1 .training))
            ∧ (f.waits.filter (· != r.val) ≠ [] → exec (.freeWriteUnblock r) s = .next s1)))
    ∧ (∀ (s : State) (k : PlanKind) (d : Die) (c : Cur), curOf s k = some c → c.p.atOnce = true →
        exec (.phaseEnd k d) s = .next (failAtOnce s k))
    ∧ (∀ (s : State) (k : PlanKind) (d : Die) (c : Cur), curOf s k = some c → c.p.atOnce = false → d.val ∈ c.f.left →
        c.f.passes.all (passDone s c) = true → listsClosed s c = true →
        let left := c.f.left.filter (· != d.val)
        let idle := dieQuar s d = true ∨ dieIdle s c d = true
        (gathOpen c.f = true → exec (.phaseEnd k d) s = .next (gathClose s c))
        ∧ (gathOpen c.f = false → idle → left ≠ [] → exec (.phaseEnd k d) s = .next (modPhase s k fun f => { f with left := left }))
        ∧ (gathOpen c.f = false → idle → left = [] → phaseIdle s c = true → (upTo 4).all (dieIdle s c) = true → ∀ p : PlanRun, getPlan (runCopies s c) k = some p →
            (p.atOnce = false → exec (.phaseEnd k d) s = .next (phaseDone (runCopies s c) k c.f))
            ∧ (p.atOnce = true → exec (.phaseEnd k d) s = .next (failAtOnce (runCopies s c) k))))
    ∧ (∀ (s : State) (k : PlanKind) (p : PlanRun), getPlan s k = some p → p.st = .branch →
        (∀ (pre : List Branch) (b : Branch) (post : List Branch), p.branches = pre ++ b :: post →
          (∀ x ∈ pre, (getMail p x.entry).final = true ∧ branchTrue (getMail p x.entry) x = false) →
          ((getMail p b.entry).final = false → exec (.branchDecide k) s = .next s)
          ∧ ((getMail p b.entry).final = true → branchTrue (getMail p b.entry) b = true →
              exec (.branchDecide k) s = .next (setPlan s k (some { p with
                nextPhase := b.target, branches := [], st := if b.target = 0xFFFF then .commit else .between }))))
        ∧ ((∀ x ∈ p.branches, (getMail p x.entry).final = true ∧ branchTrue (getMail p x.entry) x = false) →
            exec (.branchDecide k) s = .next (setPlan s k (some { p with
              branches := [], st := if p.nextPhase = 0xFFFF then .commit else .between }))))
    ∧ ∀ (s : State) (k : PlanKind) (p : PlanRun), getPlan s k = some p → p.st = .between →
        (phaseLimit s ≤ p.executed → exec (.phaseLimitExceeded k) s = .next (failPlan s k stTimeout))
        ∧ (p.executed < phaseLimit s → exec (.phaseLimitExceeded k) s = .next s)

/-- A plan whose compute has ended, with no message of it out, sends its check result to its group and begins its checks
(a recomputation that disagrees with its log record first counts). A member's result is kept with the plan, and the
last one decides: all passed commits, an at-once failure or no replay left ends the plan, else it replays from the
boundary or the start. A drained commit goes on once no mirrored write is out. A replay with no READ out and no
granule to repair begins the next attempt with the counters of its class as at the start, PINNED anchors that
overflowed raised; an update retry does so from the boundary, with the counts of the windows of its world at 0 and the
anchors its peers sent before of no use. (R54, R224, R250, R370, R390, R391, R392, R393, R395) -/
def Obligations.ChecksCommitAndReplay : Prop :=
  (∀ (s : State) (k : PlanKind) (p : PlanRun), getPlan s k = some p → p.st = .commit → planOut s k = false →
      ((p.recompute = false ∨ recomputeOk s p = true) → exec (.stepCommit k) s = .next (beginCheck s k false))
      ∧ (p.recompute = true → recomputeOk s p = false →
          exec (.stepCommit k) s = .next (beginCheck (dieEvent s (.plan k) 40 0 1) k false)))
    ∧ (∀ (s : State) (k : PlanKind) (p : PlanRun) (bound : Bool), getPlan s k = some p →
        (p.atOnce = true → beginCheck s k bound = failAtOnce s k)
        ∧ (p.atOnce = false →
            let ms := planMembers s p
            let r := sendResults k p (ownPass p) false ms s
            let q : PlanRun := { p with members := ms, atBound := bound, st := .members }
            (r.2 = false → beginCheck s k bound = failPlan r.1 k stPeerUnreachable)
            ∧ (r.2 = true → getPlan r.1 k = some p →
                (resultsIn q = true → beginCheck s k bound = decideChecks (setPlan r.1 k (some q)) k)
                ∧ (resultsIn q = false → beginCheck s k bound = setPlan r.1 k (some q)))))
    ∧ (∀ (s : State) (k : PlanKind) (p : PlanRun), getPlan s k = some p →
        let t := takeResults p.members p.results
        let once := p.atOnce || t.1.any fun r => r.2.2
        let pass := ownPass p && t.1.all fun r => r.2.1
        let s1 := setPlan s k (some { p with results := t.2 })
        (once = true → decideChecks s k = failPlan (setLastDelta s1 p.tileEv) k stCheckFailed)
        ∧ (once = false → pass = true → p.atBound = false → decideChecks s k = commitGo s1 k)
        ∧ (once = false → pass = false →
            let s2 := setLastDelta s1 p.tileEv
            (p.retries < s2.rdf .rasCtl 0 0 2 0 → decideChecks s k
              = modPlan s2 k fun p => { p with st := if p.boundary.isSome then .retry else .replay, atBound := false })
            ∧ (s2.rdf .rasCtl 0 0 2 0 ≤ p.retries → decideChecks s k
              = failPlan s2 k (if p.ovf then stAnchorOverflow else stCheckFailed))))
    ∧ (∀ (s : State) (p : PlanRun), s.seq.train = some p → p.st = .drain →
        ((mirrorOut s = false ∨ bit (s.rd .mirStatus) 63 = true) → exec .mirrorDrainDone s = .next (commitEnd s p))
        ∧ (mirrorOut s = true → bit (s.rd .mirStatus) 63 = false → exec .mirrorDrainDone s = .next s))
    ∧ (∀ (s : State) (d : DeviceId) (pass once : Bool) (k : PlanKind) (p : PlanRun), resultPlan s d.toNat = some k → getPlan s k = some p →
        let q : PlanRun := { p with results := p.results ++ [(d.toNat, pass, once)] }
        ((p.st ≠ .members ∨ resultsIn q = false) → exec (.checkResultMessage d pass once) s = .next (setPlan s k (some q)))
        ∧ (p.st = .members → resultsIn q = true →
            exec (.checkResultMessage d pass once) s = .next (decideChecks (setPlan s k (some q)) k)))
    ∧ (∀ (s : State) (k : PlanKind) (p : PlanRun), getPlan s k = some p → p.st = .replay → readsOut s k = false →
        ((∃ g ∈ p.badGran, mirEntry s (4096 * g) ≠ none) → exec (.replayStart k) s = .next (repairGranules s k p))
        ∧ ((∀ g ∈ p.badGran, mirEntry s (4096 * g) = none) →
            exec (.replayStart k) s = .next (startAttempt (modPlan
              (ctrRestore (attemptPins (dropEngines s k) k p) (k == .eval) p.ctr0) k
              fun q => { q with attempt := q.attempt + 1, retries := q.retries + 1, raises := raiseAnchors s p }) k)))
    ∧ ∀ (s : State) (p : PlanRun), s.seq.train = some p → p.st = .retry → readsOut s .training = false →
        ((∃ g ∈ p.badGran, mirEntry s (4096 * g) ≠ none) → exec .updateRetryStart s = .next (repairGranules s .training p))
        ∧ ((∀ g ∈ p.badGran, mirEntry s (4096 * g) = none) →
            exec .updateRetryStart s = .next (anchorsOld (modPlan
              (ctrRestore (clearWindows (attemptPins (dropEngines s .training) .training p) p.world) false p.ctrB) .training fun p =>
                { p with
                  st := .between, nextPhase := p.boundary.getD 0, phase := none, executed := 0, atOnce := false, replay := false
                  ovf := false, tileEv := [], ovfOps := [], attempt := p.attempt + 1, retries := p.retries + 1
                  raises := raiseAnchors s p, digest := [0, 0, 0, 0, 0, 0, 0, 0], queues := p.queuesB
                  mail := p.mail.filter fun q => !p.postEnts.contains q.1, badGran := [] }) .training))

/-- A QSEND whose turn it is and whose tensor is ready stores its entry at the receiving end on this device where there is
room, or sends it to the peer, once (it is done when the peer answers OK); otherwise it stalls. A QRECV whose entry is
in its ring copies it to its tensor, frees the slot and refills the ring; otherwise it stalls. An entry that comes for
a running plan uses the cache entry of its peer; from a peer that is not valid it is dropped and counted, and one of
the secure world from a peer not attested is refused. Else one of its step and attempt is stored where there is room
and answered OK, answered RETRY where there is none, and dropped and counted where it has come before; one of an older
attempt is stale, one of a newer answered RETRY. A stalled operation beyond QUEUE_LIMIT ends the plan with TIMEOUT.
(R252, R253, R254, R264, R358, R359, R363, R364) -/
def Obligations.QueueEntriesFlow : Prop :=
  (∀ (s : State) (k : PlanKind) (q : Fin 16) (c : Cur) (o : QOp) (u : Queue), queueAt s k q = some (c, o, u) →
      (o.send = true → o.sent = true → exec (.qsend k q) s = .next s)
      ∧ (o.send = true → o.sent = false → (u.next ≠ o.seq ∨ tdReady s c.f (tdOf c.f o.td) = false) → exec (.qsend k q) s = .next (qStall s k o.q))
      ∧ (o.send = true → o.sent = false → u.next = o.seq → tdReady s c.f (tdOf c.f o.td) = true → some u.peer = ownId s →
          ∀ (n : Nat) (v : Queue), localEnd c.p u = some (n, v) →
          let e := entryBytes s c.k (tdOf c.f o.td) u.size
          (roomFor v o.seq = .none → exec (.qsend k q) s = .next (qStall s c.k o.q))
          ∧ (roomFor v o.seq ≠ .none → exec (.qsend k q) s
              = .next (qopDone (modQueue (placeEntry e.1 c.k c.p.world n v o.seq e.2) c.k o.q
                  fun u => { u with next := u.next + 1, stall := false }) c.k q)))
      ∧ (o.send = true → o.sent = false → u.next = o.seq → tdReady s c.f (tdOf c.f o.td) = true → some u.peer ≠ ownId s →
          let e := entryBytes s c.k (tdOf c.f o.td) u.size
          let r := sendMsg e.1 { peer := u.peer, typ := 0x08, vc := 2, key := u.qid, addr := o.seq, world := c.p.world, ctx := .plan c.k,
                                 payload := e.2 }
          (r.2 = .ok → exec (.qsend k q) s = .next (qopSent r.1 c.k q))
          ∧ (r.2 = .unreachable → exec (.qsend k q) s = .next (failPlan r.1 c.k stPeerUnreachable))
          ∧ (r.2 = .denied → exec (.qsend k q) s = .next (failPlan r.1 c.k stAccessDenied)))
      ∧ (o.send = false → (u.next ≠ o.seq ∨ o.seq ∉ u.inRing) → exec (.qrecv k q) s = .next (qStall s k o.q))
      ∧ (o.send = false → u.next = o.seq → o.seq ∈ u.inRing → exec (.qrecv k q) s = .next (takeEntry s c q o u))
      ∧ (u.stall = true → exec (.queueLimitExpire k q) s = .next (failPlan s k stTimeout))
      ∧ (u.stall = false → exec (.queueLimitExpire k q) s = .next s))
    ∧ ∀ (s : State) (qid : Fin 256) (step : W64) (att : Fin 8) (seq msg : W32) (data : Bytes) (k : PlanKind) (p : PlanRun) (n : Nat) (u : Queue),
        data.length ≤ 2 ^ 21 → planOfStep s step.toNat = some (k, p) → recvEntry p qid = some (n, u) →
        let row := Instr.queueEntryReceive qid step att seq msg data
        (ownId s = none → exec row s = .next s)
        ∧ ∀ own : Nat, ownId s = some own →
          let s1 := peerSeen s u.peer
          let bad := fun (why cls : Nat) => rasBump (cntAdd (qxfErrSet s1 why 0 0x08 u.peer own) .qxfCnt 7 0 1) cls 0 1
          (peerValid s1 u.peer = false → exec row s = .next (bad 6 72))
          ∧ (peerValid s1 u.peer = true → p.world = .s → peerAttested s1 u.peer = false →
              exec row s = .next (sendDone (bad 3 71) u.peer .ns msg.toNat doneDenied))
          ∧ (peerValid s1 u.peer = true → (p.world = .ns ∨ peerAttested s1 u.peer = true) →
              let retry := sendDone (cntAdd s1 .qxfCnt 6 0 1) u.peer p.world msg.toNat doneRetry
              (att.val < p.attempt → exec row s = .next (staleEntry s1))
              ∧ (p.attempt < att.val → exec row s = .next retry)
              ∧ (att.val = p.attempt →
                  let old := seq.toNat < u.next ∨ seq.toNat ∈ u.inRing ∨ seq.toNat ∈ u.inSpill
                  (old → exec row s = .next (staleEntry s1))
                  ∧ (¬ old → roomFor u seq.toNat = .none → exec row s = .next retry)
                  ∧ (¬ old → roomFor u seq.toNat ≠ .none → exec row s
                      = .next (sendDone (cntAdd (placeEntry s1 k p.world n u seq.toNat (slice data 0 u.size)) .qxfCnt 1 0 1)
                          u.peer p.world msg.toNat doneOk))))

/-- A SNAPSHOT with good operands, none running and none older held, whose region list has come and passes its checks,
waits for its capture; while one runs it is held. At a step boundary or on a quiet part it is captured. A write to a
tracked page of a captured snapshot is made (its old content having been copied). The copier sends a buffered page
first, else the next tracked page, else what ends the image. With automatic snapshots on, due, and no snapshot
running, the template is fetched; otherwise nothing happens. A RESTORE on a quiet part with a good image whose bytes
have come writes the pages, versions, streams and step back; it completes once none of its mirrored writes is out, OK
where the digest agrees, CHECK_FAILED where not. (R401, R402, R403, R404, R405, R406) -/
def Obligations.SnapshotsRunAndRestore : Prop :=
  (∀ (s : State) (iid : Nat) (c : Issued), getIssued s iid = some c → c.op = 0x0030 → (∀ n : Snap, s.snp.cur = some n → n.iid ≠ some iid) →
      (snapOperandsOk c.ops = false → exec (.snapshot iid) s = .next (complete s iid stBadDescriptor))
      ∧ (snapOperandsOk c.ops = true → (s.snp.cur ≠ none ∨ olderHeld s iid [0x0030, 0x0031] = true) →
          exec (.snapshot iid) s = .next (holdCmd s iid))
      ∧ (snapOperandsOk c.ops = true → s.snp.cur = none → olderHeld s iid [0x0030, 0x0031] = false →
          let s1 := unholdCmd s iid
          ∀ bs : Bytes, hostRead s1 c.world (.cmd iid) (snList c.ops) (16 * snNlist c.ops) = (s1, .ok bs) →
          let l := (entries bs 0 (snNlist c.ops) 16).map (snapEntry s1 false)
          (snapStatus s1 c.world c.ops l ≠ stOk → exec (.snapshot iid) s = .next (complete s1 iid (snapStatus s1 c.world c.ops l)))
          ∧ (snapStatus s1 c.world c.ops l = stOk →
              let s2 := snapBegin s1 (some iid) c.world c.ops (l.map Prod.fst)
              exec (.snapshot iid) s
                = .next { s2 with snp := { s2.snp with cur := s2.snp.cur.map fun n => { n with ras0 := c.ras0 } } })))
    ∧ (∀ (s : State) (n : Snap), s.snp.cur = some n →
        (n.captured = false → (captureDue s = true ∨ quiet s = true) → exec .snapshotCapture s = .next (capture s n))
        ∧ (n.captured = true → exec .snapshotCapture s = .next s)
        ∧ (n.captured = false → exec .snapshotPageSend s = .next s)
        ∧ (n.captured = true → n.buffered ≠ [] → exec .snapshotPageSend s = .next (snapSendBuffered s))
        ∧ (n.captured = true → n.buffered = [] → nextPage s n = none → exec .snapshotPageSend s = .next (snapFinish s n))
        ∧ (∀ p : Nat, n.captured = true → n.buffered = [] → nextPage s n = some p → exec .snapshotPageSend s
            = .next (snapSendPage (setTracked (rawRead s .snap (p * 65536) 65536).1 p false) p (rawRead s .snap (p * 65536) 65536).2))
        ∧ (∀ (w : World) (a : DevAddr) (d : Bytes), d.length ≤ 65536 → n.captured = true → tracked s (a.toNat / 65536) = true →
            exec (.cowCopy w a d) s = .next (devWriteL w .other (d.length / 65536 + 2) s a.toNat d)))
    ∧ (∀ s : State, (bit (s.rd .snpAuto) 63 = false ∨ s.snp.since < autoInterval s ∨ s.snp.cur ≠ none) → exec .snapshotAuto s = .next s)
    ∧ (∀ (s : State) (d : Bytes), bit (s.rd .snpAuto) 63 = true → autoInterval s ≤ s.snp.since → s.snp.cur = none →
        let w := ringWorld s (s.rdf .snpAuto 0 0 13 0)
        hostRead s w .template (s.rd .snpAutoTpl / 64 * 64) 64 = (s, .ok d) → exec .snapshotAuto s = .next (autoStart s w d))
    ∧ (∀ (s : State) (iid : Nat) (c : Issued), getIssued s iid = some c → c.op = 0x0031 → c.stage = 3 →
        (cmdOut s iid = true → exec (.restore iid) s = .next s)
        ∧ (cmdOut s iid = false → exec (.restore iid) s
            = .next (complete s iid (if c.failed then stCheckFailed else stOk))))
    ∧ ∀ (s : State) (iid : Nat) (c : Issued), getIssued s iid = some c → c.op = 0x0031 → imageOk c.ops = true → c.stage = 0 →
        snKind c.ops = 0 →
        ((restoreRow.quietBut s iid = false ∨ s.snp.cur ≠ none ∨ olderHeld s iid [0x0030, 0x0031] = true) →
          exec (.restore iid) s = .next (holdCmd s iid))
        ∧ (restoreRow.quietBut s iid = true → s.snp.cur = none → olderHeld s iid [0x0030, 0x0031] = false →
            let s1 := holdCmd s iid
            ∀ h bs : Bytes, hostRead s1 c.world (.cmd c.iid) (snDest c.ops + 0) 0x20000 = (s1, .ok h) →
            let l := (entries h 0x1000 (fld h 6 2 % 257) 16).map (snapEntry s1 true)
            let es := l.map Prod.fst
            hostRead s1 c.world (.cmd c.iid) (snDest c.ops + 0x20000) (65536 * (es.map fun e => e.pages).sum) = (s1, .ok bs) →
            (restoreStatus s1 c.world h l ≠ stOk → exec (.restore iid) s = .next (complete s1 iid (restoreStatus s1 c.world h l)))
            ∧ (restoreStatus s1 c.world h l = stOk → exec (.restore iid) s = .next (restoreDo s1 c h es bs)))

/-- In a running phase a working tile first does what its arrays can do. Then it takes the next record for it: a bad one
is discarded and counted, a good one starts on a free array or is reserved for one with none reserved. The oldest
folded block of an array is finished, or as a part sends its row pieces to the owner, and its slot is released. The
owner takes the pieces up to a CLOSE and finishes what is complete. A forwarded sheet block is compared with the slot
it is expected in, a mismatch being captured, and the tile works on with it. Rows of one block row that come to the
operation's gatherer are gathered while both staging block-rows are not held, and launch at the fill count or the
flush time. A complete packed superblock is written whole. A partial block is merged into its block. A group anchor
that does not come ends the plan with TIMEOUT. (R82, R83, R90, R91, R99, R100, R101, R103, R104, R105, R367) -/
def Obligations.DenseWorkRuns : Prop :=
  (∀ (s : State) (t : Tile) (c d : Cur) (x : Task), curPhase s = some c → tileWorks s c t = true →
      let s1 := daResume s c t
      curOf s1 c.k = some d → denseTask s1 d.f t = some x →
      (denseBad d x = true → exec (.denseTaskTake t) s = .next (discardTask s1 d t .dense x))
      ∧ (denseBad d x = false → takeArray s1 t x = none → exec (.denseTaskTake t) s = .next s1)
      ∧ (∀ a : Nat, denseBad d x = false → takeArray s1 t x = some (a, true) →
          exec (.denseTaskTake t) s = .next (daResume (daStart (popTask s1 d.k .dense x) d t a x) d t))
      ∧ (∀ a : Nat, denseBad d x = false → takeArray s1 t x = some (a, false) →
          exec (.denseTaskTake t) s = .next (daResume (daReserve (popTask s1 d.k .dense x) d t a x) d t)))
    ∧ (∀ (s : State) (t : Tile) (a : Fin 4) (c : Cur) (n : Nat) (d : Da), curPhase s = some c →
        let s1 := daResume s c t
        let release := fun (s : State) => daResume (dropDa (accClear s t n) t n) c t
        let l := accRead s1 (.plan c.k) t n
        daOldest s1 t a = some (n, d) →
        (dtPart d.task.bytes = 1 → exec (.outputBlockFinish t a) s = .next (release (finishLps l.1 c t d.task l.2))
          ∧ exec (.splitkPartDone t a) s = .next s1)
        ∧ (dtPart d.task.bytes ≠ 1 → exec (.splitkPartDone t a) s
            = .next (release (sendFly l.1 c.k t (partPieces (denseOwner c.f t (dtSpot d.task.bytes)) (dtSpot d.task.bytes)
                l.2 (taskKbs c.f d.task.bytes).length (dtPart d.task.bytes))))
          ∧ exec (.outputBlockFinish t a) s = .next s1))
    ∧ (∀ (s : State) (t : Tile) (c : Cur), curPhase s = some c →
        exec (.splitkClose t) s = .next (splitFinish (takePieces c t 33 s) c t)
        ∧ (∀ (north : Bool) (slot : BitVec 16), c.f.sheet = true → tileWorks s c t = true →
            let want := expectedSlot c.f t north (sheetKb c.f)
            let take := fun (s : State) => daResume (modPhase s c.k fun f => sheetTaken f t north) c t
            (want = slot.toNat → exec (.sheetBlockArrive t north slot) s = .next (take s))
            ∧ (want ≠ slot.toNat → exec (.sheetBlockArrive t north slot) s = .next (take (slotErr s c t north want slot.toNat))))
        ∧ (∀ x : PackedBlk, c.f.packed.find? (fun x => x.tile == t.val && opEnded s c.f x.sel) = some x →
            exec (.packedSuperblockWrite t) s = .next (packedWrite s c x)))
    ∧ (∀ (s : State) (d : Die) (g : Fin 16) (p : Posting) (c : Cur), postingOk p = true → curPhase s = some c →
        gathOpen c.f = true → d.val ∈ c.f.dies → gathOk c.f d g = true → heldLaunches s c d < 2 →
        (tileFenced s c.f.dense.gtile = true → exec (.gatherPosting d g p) s = .next (fencedDrop s c.k (0xB00 + d.val) c.f.dense.gtile 1))
        ∧ (tileFenced s c.f.dense.gtile = false → (getGath s d g).rows.length + p.rows.length ≤ 32 →
            ∀ c1 : Cur, curOf s c.k = some c1 → heldLaunches s c1 d < 2 →
            let x := getGath s d g
            let y : Gatherer := { rows := x.rows ++ p.rows, since := if x.rows.isEmpty then s.time else x.since }
            let s1 := modPhase (setGath s d g y) c1.k fun f => { f with gathOf := mapIns f.gathOf d g }
            (y.rows.length < c1.f.dense.gfill → exec (.gatherPosting d g p) s = .next s1)
            ∧ (c1.f.dense.gfill ≤ y.rows.length → exec (.gatherPosting d g p) s = .next (gathLaunch s1 c1 d g)))
        ∧ (tileFenced s c.f.dense.gtile = false → 32 < (getGath s d g).rows.length + p.rows.length →
            let s1 := gathLaunch s c d g
            ∀ c1 : Cur, curOf s1 c.k = some c1 → exec (.gatherPosting d g p) s = .next (gathAdd s1 c1 d g p.rows)))
    ∧ (∀ (s : State) (d : Die) (g : Fin 16) (c : Cur), curPhase s = some c → c.f.dense.gflush ≠ 0 → (getGath s d g).rows ≠ [] →
        ((getGath s d g).since + 1000 * c.f.dense.gflush ≤ s.time → exec (.gatherFlushExpire d g) s = .next (gathLaunch s c d g))
        ∧ (s.time < (getGath s d g).since + 1000 * c.f.dense.gflush → exec (.gatherFlushExpire d g) s = .next s))
    ∧ (∀ (s : State) (w : World) (td : Bytes) (a b c d e : Nat) (els : List (Fin 1024 × BitVec 152)), td.length = 64 →
        tdOk (parseTd td) true false = true → (parseTd td).packed = false → (parseTd td).linear = false →
        exec (.blockMerge w td [a, b, c, d, e] els) s
          = .next (mergeBlock s { w := w, ctx := phaseCtx s } (parseTd td) ⟨a, b, c, d, e⟩ (els.map fun e => (e.1.val, e.2.toNat))))
    ∧ ∀ (s : State) (k : PlanKind) (g : Fin 64) (c : Cur), curOf s k = some c →
        (roundLate s c g = true → exec (.anchorRoundTimeout k g) s = .next (failPlan s k stTimeout))
        ∧ (roundLate s c g = false → exec (.anchorRoundTimeout k g) s = .next s)

/-- In a running phase the GME of a working tile whose next task has the row's operation code takes it: a bad one is
discarded with its error captured, one whose formats are not allowed ends the plan BAD_DESCRIPTOR, one whose tensors
can be read runs, and one that waits for a tensor is held; a row of another operation code does nothing. The oldest
contribution on its way to an owner is taken by it. When every producer has closed the anchor pass the data pass of
each held producer runs; when every part of a partitioned product has come its segments run at the cuts; when all have
closed, an owner that is not fenced finishes each of its blocks. (R113, R118, R119, R120, R121, R123, R124, R125,
R126, R131, R132) -/
def Obligations.GmeWorkRuns : Prop :=
  (∀ (s : State) (t : Tile) (c0 : Cur) (x : Task), curPhase s = some c0 → tileWorks s { c0 with sel := .gme } t = true →
      headTask s c0.f .gme t = some x →
      (∀ h ∈ c0.f.gmeHeld, h.tile = t.val → h.waits = false ∧ (gtOp h.task.bytes = 0x01 → gtPart h.task.bytes = true)) →
      let c : Cur := { c0 with sel := .gme }
      let rows : List (Nat × Instr × (State → Cur → Task → State)) := [(0x01, .gmeSpprod t, gmeSpRun t), (0x02, .gmeGather t, gmeGatherRun t),
        (0x03, .gmeScatter t, gmeScatterRun t), (0x04, .gmeScatterAcc t, gmeAccRun t), (0x05, .gmeSegsum t, gmeAccRun t),
        (0x06, .gmeRaggedCat t, gmeRaggedRun t), (0x07, .gmeSortKey t, gmeSortRun t), (0x08, .gmeMergeKey t, gmeMergeRun t),
        (0x09, .gmeTopk t, gmeTopkRun t)]
      ∀ q ∈ rows,
        (gtOp x.bytes ≠ q.1 → exec q.2.1 s = .next s)
        ∧ (gtOp x.bytes = q.1 →
            (gmeBad c x = true → exec q.2.1 s = .next (gmeFail (popTask s c.k .gme x) c.k t 3 x.bytes))
            ∧ (gmeBad c x = false → gmeDescOk c.f x.bytes = false → exec q.2.1 s = .next (failPlan s c.k stBadDescriptor))
            ∧ (gmeBad c x = false → gmeDescOk c.f x.bytes = true → gmeReady s c x.bytes = true →
                ∀ d : Cur, curOf (popTask s c.k .gme x) c.k = some d →
                exec q.2.1 s = .next (q.2.2 (popTask s c.k .gme x) { d with sel := .gme } x))
            ∧ (gmeBad c x = false → gmeDescOk c.f x.bytes = true → gmeReady s c x.bytes = false →
                exec q.2.1 s = .next (modPhase (popTask s c.k .gme x) c.k fun g =>
                  { g with gmeHeld := g.gmeHeld ++ [{ tile := t, task := x, waits := true }] }))))
    ∧ (∀ (s : State) (t : Tile) (c : Cur), curPhase s = some c →
        (∀ x : Contrib, nextFor c.f .gme t = some x → exec (.ownerContribution t) s = .next (ownerTake s { c with sel := .gme } t x))
        ∧ (gmeClosed c.f = false → exec (.ownerFinish t) s = .next s)
        ∧ (gmeClosed c.f = true → tileFenced s t = false → exec (.ownerFinish t) s
            = .next ((ownSpots c.f t).foldl (fun s x => match curOf s c.k with
                | some d => if d.f.fin.contains x.2 then s else ownerFinishBlock s d t x.1 x.2
                | none => s) s))
        ∧ (gmeClosed c.f = true → tileFenced s t = true → c.p.atOnce = false → ownSpots c.f t ≠ [] →
            exec (.ownerFinish t) s = .next (fencedDrop s c.k (0xB00 + tileDie t) t 1)))
    ∧ (∀ (s : State) (k : PlanKind) (c : Cur), curOf s k = some c → c.f.gmeHeld.filter heldAcc ≠ [] → c.f.gmeQ = [] →
        (∀ h ∈ c.f.gmeHeld, h.waits = false) → (∀ x ∈ c.f.fly, x.sel ≠ .gme) →
        exec (.anchorPassClose k) s = .next (accSecond (c.f.gmeHeld.filter heldAcc) { c with sel := .gme }
          (modPhase s k fun f => { f with pass2 := true, gmeHeld := f.gmeHeld.filter fun h => !heldAcc h })))
    ∧ ∀ (s : State) (k : PlanKind) (c0 : Cur) (h : GmeHeld), curOf s k = some c0 →
        (c0.f.gmeHeld.filter heldPart).head? = some h →
        let c : Cur := { c0 with sel := .gme }
        let hs := c.f.gmeHeld.filter heldPart
        (∀ p : Nat, p < gtHi h.task.bytes → ∃ q ∈ hs, gtLo q.task.bytes = p) →
        let sc := scanAll c (gViewA c.f h.task.bytes) (gtHi h.task.bytes) hs s
        let n := (sc.2.map fun p => p.2.2).sum
        exec (.partCutsReady k) s = .next (modPhase (hs.foldl (fun s q => segRun s c (withOrdinals sc.2 0) n q) sc.1) k
          fun f => { f with gmeHeld := f.gmeHeld.filter fun q => !heldPart q })

/-- For a VE that holds a task of the running phase, does not wait in XCH and has the instruction's word at its place in
the kernel, a word with a PREC and RND the table has, and operands of shapes the instruction takes: ADD, SUB, MUL,
FMA, MAX, MIN, ABS, NEG, CVT, CMPLT, CMPEQ and SEL write the destination with the named function of the source values,
each rounded once to PREC under RND; EXP, LOG, RSQRT, TANH and RCP with that of the FP32 function (its value within
R144's bounds is free, log 10); PERM, SHUF, PACK, UNPACK and TRB move the elements that they name, each with its kind;
MOV copies words or a P register. The destination's mask is where every V source is in bounds, substituted values are
counted, and the instruction retires. A word that is not at the VE's place in the kernel does nothing. Operands of
another shape are refused as ill-formed. (R137, R138, R139, R140, R141, R142, R143, R144) -/
def Obligations.VeElementsCompute : Prop :=
  ∀ (s : State) (t : Tile) (x : VeWord) (y : Task) (c0 : Cur), x.prec.val ≠ 7 → x.rnd.val ≠ 3 →
    (getVe s t).task = some y → curOf s (getVe s t).k = some c0 → (getVe s t).xch = none →
    let a : VeAt := { c := { c0 with sel := .ve }, v := getVe s t, x := y, t := t }
    let d := x.dst.val
    let turn := fun (opc : Nat) (row : Instr) (ok : Bool) (done : State) =>
      ((vtCode c0.f y.bytes).words[(getVe s t).ip]? = some (vwWord opc x) → ok = true → exec row s = .next done)
      ∧ ((vtCode c0.f y.bytes).words[(getVe s t).ip]? ≠ some (vwWord opc x) → ok = true → exec row s = .next s)
      ∧ (ok = false → exec row s = .refused .illFormed)
    let one := fun (opc : Nat) (row : Instr) (srcs : List Nat) (word : Nat → Nat × Bool) (add : State → State) =>
      let rs := (upTo (dstCount d)).map word
      turn opc row (shapeOk x srcs) (veRetire (add (countSubst s (tileDie t) (rs.filter Prod.snd).length)) a
        (putDst a.v d (precInts x.prec.val d) (maskAnd a srcs) (rs.map Prod.fst)))
    let draw := fun i => veDraw s a.c a.v a.x.bytes x.rnd.val d i
    let elem := fun (opc : Nat) (row : Instr) (srcs : List Nat) (f : List Val → Val) =>
      one opc row srcs (fun i => roundPrec x.prec.val x.rnd.val (draw i) (f (srcs.map fun q => srcVal a.v x q (dstElem d i))))
        (fun s => cntAdd s .tilVeCnt t 2 (dstCount d))
    let trans := fun (opc : Nat) (row : Instr) (f : Nat → Nat) =>
      one opc row [x.src1.val] (fun i => roundWord x.prec.val x.rnd.val (draw i) (f (srcFp32 a.v x x.src1 (dstElem d i))))
        (fun s => cntAdd s .tilVeCnt t 3 (dstCount d))
    let lanes := fun (opc : Nat) (row : Instr) (srcs : List Nat) (f : Nat → Nat × Nat) =>
      turn opc row (isV d && srcs.all isV) (veRetire s a (putDst a.v d ((upTo 1024).map fun n => regInt a.v (f n).1 (f n).2)
        ((upTo 1024).map fun n => (vMask a.v (f n).1).getD (f n).2 true) ((upTo 1024).map fun n => (vReg a.v (f n).1).getD (f n).2 0)))
    let s1 := x.src1.val
    let s2 := x.src2.val
    let s3 := x.src3.val
    let im := x.imm.toNat
    elem 0x10 (.add t x) [s1, s2] (fun l => valAdd (nth l 0) (nth l 1))
    ∧ elem 0x11 (.sub t x) [s1, s2] (fun l => valAdd (nth l 0) (valNeg (nth l 1)))
    ∧ elem 0x12 (.mul t x) [s1, s2] (fun l => valMulS (nth l 0) (nth l 1))
    ∧ elem 0x13 (.fma t x) [s1, s2, s3] (fun l => valAdd (valMulS (nth l 0) (nth l 1)) (nth l 2))
    ∧ elem 0x14 (.max t x) [s1, s2] (fun l => valMax (nth l 0) (nth l 1))
    ∧ elem 0x15 (.min t x) [s1, s2] (fun l => valMin (nth l 0) (nth l 1))
    ∧ elem 0x16 (.abs t x) [s1] (fun l => valAbs (nth l 0)) ∧ elem 0x17 (.neg t x) [s1] (fun l => valNeg (nth l 0))
    ∧ elem 0x18 (.cvt t x) [s1] (fun l => nth l 0)
    ∧ elem 0x19 (.cmplt t x) [s1, s2] (fun l => .fin (if !isNan (nth l 0) && !isNan (nth l 1) && valLt (nth l 0) (nth l 1) then 1 else 0) 0)
    ∧ elem 0x1A (.cmpeq t x) [s1, s2] (fun l => .fin (if !isNan (nth l 0) && !isNan (nth l 1) && !valLt (nth l 0) (nth l 1)
        && !valLt (nth l 1) (nth l 0) then 1 else 0) 0)
    ∧ elem 0x1B (.sel t x) [s1, s2, s3] (fun l => if valZero (nth l 0) then nth l 2 else nth l 1)
    ∧ trans 0x20 (.exp t x) expWord ∧ trans 0x21 (.log t x) logWord ∧ trans 0x22 (.rsqrt t x) rsqrtWord
    ∧ trans 0x23 (.tanh t x) tanhWord ∧ trans 0x24 (.rcp t x) rcpWord
    ∧ lanes 0x30 (.perm t x) [s1] (fun n => (s1, n / 64 * 64 + ((vtCode a.c.f y.bytes).perms.getD (im % 16) []).getD (n % 64) 0))
    ∧ lanes 0x31 (.shuf t x) [s1] (fun n => (s1, n / 64 * 64 + (if bit im 6 then (n % 64 + im % 64) % 64 else Nat.xor (n % 64) (im % 64))))
    ∧ lanes 0x32 (.pack t x) [s1, s2] (fun n => if n % 64 < 32 then (s1, n / 64 * 64 + 2 * (n % 64) + im % 2)
        else (s2, n / 64 * 64 + 2 * (n % 64 - 32) + im % 2))
    ∧ lanes 0x33 (.unpack t x) [s1, s2] (fun n => (if n % 2 = 0 then s1 else s2, n / 64 * 64 + n % 64 / 2 + 32 * (im % 2)))
    ∧ lanes 0x34 (.trb t x) [s1] (fun n => (s1, 32 * (n % 32) + n / 32))
    ∧ (let int := (upTo (dstCount d)).map fun i => selInt a.v x.prec.val s1 (dstElem d i)
       turn 0x03 (.mov t x) (shapeOk x [s1]) (veRetire s a (if isP d && isP s1 then copyP a.v d s1 int (pReg a.v s1)
         else putDst a.v d int (maskAnd a [s1]) ((upTo (dstCount d)).map fun i => srcWord a.v im s1 (dstElem d i)))))

/-- A working tile's VE that holds no task takes the next one of its list whose rows can be read, runs its row pre-pass
and enters its first pass (what V and S registers then hold is free, log 148); a bad one is discarded and its error
captured. For a VE at work that has the instruction's word at its place in the kernel: LDB loads a block of a named
input that can be read; STB finishes the named output's block with the source's values (0 or the contents where the
source's mask is clear), each rounded once, and counts a block outside the bounds; ROWMAX, ROWMIN and ROWCNT fold the
in-bounds elements of each row into the P register; ROWSUM and ROWDOT fold exact contributions on the row's anchor,
COLSUM on the column's; DIVN divides each entry by IMM or the row length; ROWTOPK keeps the first K of each row; SUMM
adds to its mailbox entry; XCH of one part copies and of several waits for the group, and with the last member present
the combined register goes to every member, an anchor mismatch being counted and captured; TKEMIT hands the buffer to
its routing entry. Each but a waiting one retires. (R79, R141, R143, R145, R146, R147, R150, R151, R155, R156, R177) -/
def Obligations.VeTasksReduceAndEmit : Prop :=
  (∀ (s : State) (t : Tile) (c0 : Cur) (y : Task), curPhase s = some c0 → tileWorks s { c0 with sel := .ve } t = true →
      (getVe s t).task = none → headTask s c0.f .ve t = some y →
      let c : Cur := { c0 with sel := .ve }
      let b := y.bytes
      (veBad c y = true → exec (.veTaskTake t) s = .next (taskBad (veErr (popTask s c.k .ve y) t 2 0 (fld b 24 4)) c.k t))
      ∧ (veBad c y = false → (∀ i : Nat, i < 4 → vtIn b i ≠ 0xFF → veRowReady s c.f (veView c.f b i) (vtBrow b) = true) →
          let r := vePre c t b (upTo 4) (popTask s c.k .ve y) []
          exec (.veTaskTake t) s = .next (veSet r.1 t
            (enterPass (vtCode c.f b) b 5 0 { k := c.k, task := some y, start := veTaskKey c y, rmax := r.2 }))))
    ∧ (∀ (s : State) (t : Tile) (x : VeWord) (y : Task) (c0 : Cur), x.prec.val ≠ 7 → x.rnd.val ≠ 3 →
        (getVe s t).task = some y → curOf s (getVe s t).k = some c0 → (getVe s t).xch = none →
        let c : Cur := { c0 with sel := .ve }
        let v := getVe s t
        let a : VeAt := { c := c, v := v, x := y, t := t }
        let b := y.bytes
        let here := fun (opc : Nat) => (vtCode c0.f b).words[v.ip]? = some (vwWord opc x)
        let d := x.dst.val
        let q := x.src1.val
        let im := x.imm.toNat
        let m := maskAnd a [q]
        let mine := fun (r : Nat) => ((upTo 32).map (32 * r + ·)).filter fun n => m.getD n true
        let used := ((upTo 1024).filter fun n => m.getD n true).length
        (isV d = true → vtIn b (im % 4) ≠ 0xFF → let w := veView c.f b (im % 4)
          veBlkReady s c.f w (vtBrow b) v.col = true →
          let o := readOper s (vEng c w.td t) w (vtBrow b) v.col
          let row := fun n => if bit im 2 then 0 else n / 32
          let inb := fun n => viewIn w (vtBrow b) v.col (row n) (n % 32)
          here 0x01 → exec (.ldb t x) s = .next (veRetire o.1 a (putDst v d (List.replicate 1024 (fmtInt w.td)) ((upTo 1024).map inb)
            ((upTo 1024).map fun n => if inb n then elemWord o.2.blk (viewN w (row n) (n % 32)) else fillWord w.td))))
        ∧ (isP d = true → q ≠ 31 →
            let ext := fun (opc : Nat) (row : Instr) (lim : Val) (f : Val → Val → Val) (kind : Nat) =>
              let rs := (upTo 32).map fun r =>
                let old := match pEnt v d r with
                  | .fresh => lim
                  | .word w => wordVal (regInt v d r) w
                  | .lp l => lpVal l
                (if (mine r).isEmpty then regInt v d r else (mine r).all fun n => selInt v x.prec.val q n,
                  (mine r).foldl (fun z n => f z (srcVal v x q n)) old)
              here opc → exec row s = .next (veRetire (cntAdd s .tilVeCnt t 4 used) a (putP v d kind (rs.map Prod.fst)
                (rs.map fun z => .word (if z.1 then (intEncode 32 .rne 0 z.2).1 else toFp32 z.2))))
            ext 0x42 (.rowmax t x) (.inf true) valMax 1 ∧ ext 0x43 (.rowmin t x) (.inf false) valMin 2
            ∧ (here 0x44 → exec (.rowcnt t x) s = .next (veRetire (cntAdd s .tilVeCnt t 4 used) a
                (putP v d 3 (List.replicate 32 true) ((upTo 32).map fun r =>
                  let old := match pEnt v d r with | .fresh => (0 : Int) | e => toSigned 32 (pWord e)
                  let n := (((upTo 32).map (32 * r + ·)).filter fun n => m.getD n true && !valZero (srcVal v x q n)).length
                  .word (intEncode 32 .rne 0 (.fin (old + (n : Int)) 0)).1))))
            ∧ (let sum := fun (opc : Nat) (row : Instr) (mk : List Bool) (f : Nat → Val × Sp) =>
                let rs := (upTo 32).map fun r =>
                  let e := rowE a im r
                  let eOut := e + (clog2 (rowPieces a) : Int)
                  rowFold e eOut (entLp (regInt v d r) eOut (pEnt v d r))
                    ((((upTo 32).map (32 * r + ·)).filter fun n => mk.getD n true).map f)
                let o := (rs.filter Prod.snd).length
                let s1 := if o = 0 then s else veErr s t 1 v.ip (fld b 24 4)
                here opc → exec row s = .next (veRetire (overflowed (cntAdd s1 .tilVeCnt t 4 (mk.filter id).length) v.k .ve t o) a
                  (putP v d 0 [] (rs.map fun r => .lp r.1)))
               sum 0x40 (.rowsum t x) m (fun n => (srcVal v x q n, spOf (srcVal v x q n)))
               ∧ (x.src2.val ≠ 31 → sum 0x41 (.rowdot t x) (maskAnd a [q, x.src2.val])
                   (fun n => (valMul (srcVal v x q n) (srcVal v x x.src2.val n), spMul (srcVal v x q n) (srcVal v x x.src2.val n))))))
        ∧ (isP d = true → isP q = true →
            (here 0x47 → vtParts b ≤ 1 →
              exec (.xch t x) s = .next (veRetire s a (copyP v d q ((upTo 32).map (regInt v q)) (pReg v q))))
            ∧ (here 0x47 → 1 < vtParts b → exec (.xch t x) s = .next (setVe s t { v with xch := some (32 * q + d) }))
            ∧ (let rs := (upTo 32).map fun r => roundPrec x.prec.val x.rnd.val (veDraw s c v b x.rnd.val d r)
                  (match (match pEnt v q r with
                      | .lp l => lpVal l
                      | .fresh => Val.fin 0 0
                      | .word w => wordVal (regInt v q r) w) with
                    | .fin m e => quotVal m e (if im = 0 then viewCols (veView c.f b 0) else im)
                    | z => z)
               here 0x46 → exec (.divn t x) s = .next (veRetire
                 (cntAdd (countSubst s (tileDie t) (rs.filter Prod.snd).length) .tilVeCnt t 2 32) a
                 (putDst v d (precInts x.prec.val d) [] (rs.map Prod.fst)))))
        ∧ (q ≠ 31 → 8 ≤ im % 16 → im % 16 ≤ 12 →
            let n := im % 16
            let e := c.f.ve.getD {}
            let z := if e.anchor = 2 then pinnedAnchor s c .ve e.anc t ⟨v.col % 32, 0, vtIdx2 b, 0, 0⟩
              else (s, toSigned 16 (Config.colAnchor c.f.index n (v.col % 32) (vtIdx2 b)))
            let rd := accRead z.1 (.plan v.k) t n
            let slot := rd.2
            let rs := (upTo 32).map fun j =>
              let vs := (((upTo 32).map fun r => 32 * r + j).filter fun n => m.getD n true).map fun n => srcVal v x q n
              let l := accLp slot (32 * (v.col % 32) + j)
              let an := if l.live then l.anchor else z.2
              lpFold l an ((vs.map fun v => onGrid (an - 96) v).sum) (an - 96) (vs.foldl (fun q v => spAdd q (spOf v)) Sp.none)
            let new := rs.zipIdx.foldl (fun l q => lpSet l (32 * (v.col % 32) + q.2) q.1.1) slot
            here 0x45 → exec (.colsum t x) s = .next (veRetire
              (cntAdd (overflowed (accSet rd.1 t n new) v.k .ve t (rs.filter Prod.snd).length) .tilVeCnt t 4 used) a v))
        ∧ (q ≠ 31 → 1 ≤ im % 32 → im % 32 ≤ 16 → here 0x48 → ∃ rows : List (List (Nat × Nat)), rows.length = 32
            ∧ (∀ r ∈ rows, r.length ≤ Nat.max (im % 32) ((v.topk.map List.length).foldl Nat.max 0))
            ∧ exec (.rowtopk t x) s = .next (veRetire s a { v with topk := rows }))
        ∧ (here 0x50 → exec (.summ t x) s = .next (veRetire (cntAdd (modPlan s v.k fun p =>
            { p with mail := mapIns p.mail (im % 64) ((summVals a x).foldl mailAdd (getMail p (im % 64))) })
            .tilVeCnt t 5 (summVals a x).length) a v))
        ∧ (vtOut b (im % 2) ≠ 0xFF → here 0x02 →
            let td := tdOf c.f (vtOut b (im % 2))
            let p : BlkPos := ⟨v.col, vtBrow b, vtIdx2 b, 0, 0⟩
            let spot : Spot := { td := vtOut b (im % 2), bc := p.bc, br := p.br, o2 := p.o2 }
            let e := c.f.ve.getD {}
            let draw := fun n => if x.rnd.val = 2 then srDraw (s.rd .rngKey e.stream) (drawStep c.k c.p) (e.salt + v.ip) n else 0
            let whole := ∀ n ∈ upTo 1024, blkIn td p n = true → (stbAt a x td n).isKeep = false
            (blkIn td p 0 = false → exec (.stb t x) s = .next (veRetire (rasBump s 64 (tileDie t) 1024) a v))
            ∧ (blkIn td p 0 = true → whole →
                let r := encodeElts td (rndOf x.rnd.val) (fun n => draw (linIndex td (elemIdx p n))) (zeroBlk td) (blkIn td p) (stbAt a x td)
                exec (.stb t x) s
                  = .next (veRetire (finishBlock (countSubst s (tileDie t) r.2) c .ve t (veWriter c.f t spot) spot r.1) a v))
            ∧ (blkIn td p 0 = true → ¬ whole →
                (td.packed = true → exec (.stb t x) s = .next (failPlan s c.k stBadDescriptor))
                ∧ (td.packed = false → exec (.stb t x) s = .next (veRetire
                    (setReady (writeElts s (vEng c td t) .dev td (rndOf x.rnd.val) draw p (stbAt a x td)) c.k (hdrAddr td p)) a v))))
        ∧ (here 0x49 →
            let r := if im % 4 < c.f.passes.length then im % 4 else 0
            (c.f.passes[r]? = none → exec (.tkemit t x) s = .next (veRetire s a { v with topk := [] }))
            ∧ ∀ p : Pass, c.f.passes[r]? = some p →
                (p.next + 64 ≤ vtBrow b → exec (.tkemit t x) s = .next s)
                ∧ (vtBrow b < p.next + 64 →
                    let add := fun (m : NMap (List (Nat × Nat))) (i : Nat) => mapIns m (32 * vtBrow b + i)
                      (mapGet (fun _ => []) m (32 * vtBrow b + i) ++ ((v.topk.getD i []).map fun q => (q.1, q.2)))
                    exec (.tkemit t x) s = .next (veRetire (modPass s v.k p.ctx fun p =>
                      { p with cands := (upTo 32).foldl add p.cands, rows := p.rows ++ [vtBrow b] }) a { v with topk := [] }))))
    ∧ ∀ (s : State) (brow : BitVec 24) (i : BitVec 16) (c : Cur) (m : Nat × Ve × Bytes) (ms : List (Nat × Ve × Bytes)),
        curPhase s = some c → xchMembers s c.k brow.toNat i.toNat = m :: ms →
        (ms.length + 1 ≠ vtParts m.2.2 → exec (.xchCombine brow i) s = .next s)
        ∧ (ms.length + 1 = vtParts m.2.2 →
            let src := m.2.1.xch.getD 0 / 32
            let r := xchAll (mapGet (fun _ => 0) m.2.1.redk src) (regInt m.2.1 src)
              ((m :: ms).map fun q => pReg q.2.1 (q.2.1.xch.getD 0 / 32))
            let s1 := if r.2.1 = 0 then s else (m :: ms).foldl (fun s q => veErr s q.1 3 q.2.1.ip (fld q.2.2 24 4)) s
            exec (.xchCombine brow i) s = .next ((m :: ms).foldl (fun s q => xchLeave s c r.1 q)
              (overflowed (tileEvent s1 (.plan c.k) 22 m.1 r.2.1) c.k .ve m.1 r.2.2)))

/-- A pass that has its answer accepts its next block row once its candidate lists are here; each token keeps at most K
choices, each within the quota of its expert. A frame that fails parity or residue is counted and fails the checks;
one from another device counts where its directory entry passes the checks, and does nothing else where not; one of an
older epoch or attempt is stale, one under another answer is a mismatch; an accepted DISPATCH frame lands its rows, a
CLOSE frame applies its entries, a newer EPOCH drops what older rows its source sent. A block waiting FLUSH µs
launches what has arrived. A return is sent once its rows are ready, and one whose ticket is of an older epoch or
attempt is counted and releases it, one that matches its ticket is combined and releases it, one whose ticket is free
is counted as unknown. A stalled slice beyond its limit fails the step: its result goes to the replay group as at any
failed check, or TIMEOUT after the last replay. (R182, R185, R186, R189, R190, R191, R193, R194, R197, R203) -/
def Obligations.RouterRuns : Prop :=
  (∀ (s : State) (k : PlanKind) (ctx : Fin 256) (c : Cur) (p : Pass), getPass s k ctx = some (c, p) → p.took = true →
      p.next < passRows c p → (rowListed s c p p.next = true → exec (.acceptBlockRow k ctx) s = .next (gathEnds (acceptStage s c p)))
      ∧ (rowListed s c p p.next = false → exec (.acceptBlockRow k ctx) s = .next s))
    ∧ (∀ (cx : TkCtx) (xs : Nat → Expert) (used : NMap Nat) (st : QStat) (cs : List (Nat × Nat)),
        (acceptToken cx xs used st cs).kept.length ≤ cx.k
        ∧ ∀ q ∈ (acceptToken cx xs used st cs).kept, q.e < cx.nexp ∧ (xs q.e).dev ≠ 0xFFFF
            ∧ (xs q.e).qbase ≤ q.slot ∧ q.slot < (xs q.e).qbase + (xs q.e).quota)
    ∧ (∀ (s : State) (f : Frame), frameFormed f = true →
        (∀ row ∈ [(Instr.dispatchFrame f, 0x01), (.closeFrame f, 0x03)],
          (frameAt s row.2 f = .bad → exec row.1 s = .next (frameBad s f))
          ∧ (frameAt s row.2 f = .wait → exec row.1 s = .next s)
          ∧ (∀ s1 : State, fromPeer s f = (s1, false) → frameAt s row.2 f ≠ .bad → frameAt s row.2 f ≠ .wait → exec row.1 s = .next s1)
          ∧ (∀ s1 : State, fromPeer s f = (s1, true) →
              (frameAt s row.2 f = .stale → exec row.1 s = .next (frameStale s1 f))
              ∧ (∀ k : PlanKind, frameAt s row.2 f = .mismatch k → exec row.1 s = .next (answerMismatch s1 k f))))
        ∧ (ownId s = none → fromPeer s f = (s, false)) ∧ (ownId s = some f.src.toNat → fromPeer s f = (s, true))
        ∧ (∀ (s1 : State) (v : Verdict2), ownId s ≠ none → ownId s ≠ some f.src.toNat →
            peerCheck s 0 0x05 f.src.toNat f.dst.toNat (frameWorld s f) = (s1, v) →
            fromPeer s f = if v = .perform then (cntAdd s1 .qxfCnt 1 0 1, true) else (s1, false))
        ∧ ∀ s1 : State, fromPeer s f = (s1, true) →
        (∀ (c : Cur) (p : Pass), frameAt s 0x01 f = .ok c p →
            let cx := getCtx s1 p.ctx
            let td := passTd c p 3
            let e := expertOf s1 p.ctx f.expert.toNat
            f.format.toNat = td.fmt → f.h.toNat = cx.h → 1 ≤ f.count.toNat → f.count.toNat ≤ 32 →
            f.payload.length = f.count.toNat * rowLen td cx.h → some e.dev = ownId s1 → e.loc = f.loc.toNat →
            f.firstSlot.toNat + f.count.toNat ≤ e.cap → e.cap ≤ cx.slots → exec (.dispatchFrame f) s = .next (gathEnds (landFrame s1 c p f)))
        ∧ (∀ (c : Cur) (p : Pass), frameAt s 0x03 f = .ok c p → f.payload.length = 16 * f.count.toNat →
            exec (.closeFrame f) s = .next (gathEnds (((upTo f.count.toNat).map fun i =>
              parseClose f.src.toNat f.epoch.toNat (slice f.payload (0 + 16 * i) 16)).foldl
              (takeClose c.k p.ctx f) (joinDevice s1 c.k f.src.toNat))))
        ∧ (frameGood f = true → f.typ = 0x04 →
            (f.epoch.toNat ≤ epochOf s1 f.src.toNat → exec (.epochFrame f) s = .next s1)
            ∧ (epochOf s1 f.src.toNat < f.epoch.toNat → exec (.epochFrame f) s = .next (modPhase (modPhase
                (setTkr s1 fun t => { t with epochs := mapIns t.epochs f.src.toNat f.epoch.toNat }) .training
                fun g => { g with passes := g.passes.map (dropSource f.src.toNat f.epoch.toNat) }) .eval
                fun g => { g with passes := g.passes.map (dropSource f.src.toNat f.epoch.toNat) })))
        ∧ (frameGood f = true → f.typ = 0x02 → (∀ q ∈ s1.tkr.tickets, q.1 ≠ f.ticket.toNat % 2 ^ 17) →
            exec (.returnFrame f) s = .next (dieEvent (tkrErrSet s1 2 f.ctx.toNat (f.ticket.toNat % 2 ^ 17) f.src.toNat f.expert.toNat)
              (if s1.seq.train.isSome then .plan .training else if s1.seq.eval.isSome then .plan .eval else .other)
              31 (sliceOf f.ctx.toNat / 4) 1))
        ∧ (∀ (tk : Ticket) (c : Cur) (p : Pass), frameGood f = true → f.typ = 0x02 →
            let n := f.ticket.toNat % 2 ^ 17
            s1.tkr.tickets.find? (fun q => q.1 == n) = some (n, tk) →
            ((tk.epoch ≠ tkrEpoch s1 ∨ curAttempt s1 tk.k ≠ some (tk.attempt % 8)) →
              exec (.returnFrame f) s = .next (releaseTicket (frameStale s1 f) n))
            ∧ (tk.epoch = tkrEpoch s1 → curAttempt s1 tk.k = some (tk.attempt % 8) → ticketMatches tk f = true → getPass s1 tk.k tk.ctx = some (c, p) →
            f.payload.length = f.count.toNat * rowLen (passTd c p 5) f.h.toNat →
            exec (.returnFrame f) s = .next (finishComb (cntAdd (releaseTicket (combineFrame s1 c p tk n f) n) .tkrCnt (sliceOf tk.ctx) 2 1)
              tk.k tk.ctx))))
    ∧ (∀ (s : State) (ctx : Fin 256) (loc : BitVec 16) (blk : Nat) (c : Cur) (p : Pass) (e : Expert) (q : Nat × Nat),
        (getPass s .training ctx).or (getPass s .eval ctx) = some (c, p) → localExpert s ctx loc.toNat = some e →
        (getArr p loc.toNat).since.find? (fun q => q.1 == blk) = some q →
        (s.time < q.2 + 1000 * (getCtx s ctx).flush → exec (.arrivalFlush ctx loc blk) s = .next s)
        ∧ (q.2 + 1000 * (getCtx s ctx).flush ≤ s.time → unlaunched (getArr p loc.toNat) blk ≠ [] → exec (.arrivalFlush ctx loc blk) s
            = .next (gathEnds (launchBlock (modStat (cntAdd s .tkrCnt (sliceOf ctx) 7 1) c.k ctx fun q => { q with flush := q.flush + 1 }) c p loc.toNat blk))))
    ∧ (∀ (s : State) (k : PlanKind) (src : DeviceId) (n : Fin 131072) (c : Cur) (p : Pass) (f : Frame),
        let mine := fun (p : Pass) => p.due.find? fun f => f.src == src && f.ticket.toNat % 2 ^ 17 == n.val
        curOf s k = some c → c.f.passes.findSome? (fun p => (mine p).map fun f => (p, f)) = some (p, f) →
        (k = .eval → ∀ d : Cur, curOf s .training = some d → ∀ p ∈ d.f.passes, mine p = none) →
        let c1 : Cur := { c with sel := .route }
        (returnReady c1 p f = false → exec (.returnSend src n) s = .next s)
        ∧ (returnReady c1 p f = true →
            let td := passTd c1 p 5
            let h := (getCtx s p.ctx).h
            let b := readRowsBytes (rEng c1 td) td h f.loc.toNat ((upTo f.count.toNat).map (f.firstSlot.toNat + ·)) s []
            let s1 := modPass b.1 c1.k p.ctx fun p => { p with due := p.due.erase f }
            let r := mkFrame s1 c1 0x02 p.ctx td.fmt f.src.toNat f.expert.toNat f.loc.toNat f.firstSlot.toNat f.count.toNat h n b.2
            exec (.returnSend src n) s = .next (sendStepFrame c1.k c1.p.world s1
              { r with epoch := f.epoch, hpar := BitVec.ofNat 32 (xorWords 15 (frameHead { r with epoch := f.epoch })) })))
    ∧ (∀ (s : State) (k : PlanKind) (ctx : Fin 256) (c : Cur) (p : Pass), getPass s k ctx = some (c, p) →
        (k = .eval → getPass s .training ctx = none) →
        (p.stall = none → exec (.ticketStallLimit ctx) s = .next s)
        ∧ (p.stall ≠ none → exec (.ticketStallLimit ctx) s = .next (abortAttempt
            (dieEvent (tkrErrSet s 3 p.ctx 0 0 0) (.plan c.k) 39 (sliceOf p.ctx / 4) 1) k stTimeout)))
    ∧ ∀ (s : State) (k : PlanKind) (p : PlanRun) (st : Nat), getPlan s k = some p → p.atOnce = false →
        (s.rdf .rasCtl 0 0 2 0 ≤ p.retries → abortAttempt s k st = failPlan s k st)
        ∧ (p.retries < s.rdf .rasCtl 0 0 2 0 →
            abortAttempt s k st = beginCheck (modPlan (dropEngines s k) k fun p => { p with phase := none }) k false)

/-- If one of the named commands (register reads and writes of the capture registers, events, rings' control, link and
bridge rows, sideband and SPDM rows, channel and power rows, the VE's register instructions) answers a next state,
every address of device memory reads as before and the accumulation slots and the dense arrays are unchanged; if it is
a VE instruction, the vector engine of every other tile and the parts' flash are unchanged too. (R7, R141, R143, R303,
R426, R458, R508, 11_memory.md) -/
def Obligations.CommandsThatStoreNothing : Prop :=
  ∀ (c : Instr) (s t : State), exec c s = .next t →
    (storesNothing c = true → (∀ a : Nat, mapGet memD t.mem a = mapGet memD s.mem a) ∧ t.acc = s.acc ∧ t.das = s.das)
    ∧ (∀ u : Tile, veRegisterRow c = some u → keysRise s.ves = true →
        (∀ a : Nat, mapGet memD t.mem a = mapGet memD s.mem a) ∧ t.acc = s.acc ∧ t.das = s.das ∧ t.plat.flash = s.plat.flash
        ∧ ∀ n : Nat, n ≠ u.val → getVe t n = getVe s n)

/-- For a message of at most 64 KiB over one of the four virtual channels, while the device's route bank is one of the
four: the packets that its segmentation makes carry right parity and residue, rising segment numbers from 0, full
segments but the last, and the LAST mark on the last alone, so a receiver finds every segment good and in order; and
their payloads joined are the message. Every router frame it makes with a payload below 4 GiB carries right parity,
residue and length. (R188, R357, R358) -/
def Obligations.SentPacketsPassChecks : Prop :=
  (∀ (s : State) (q : MsgReq) (own no : Nat), q.vc < 4 → ownBank s < 4 → q.payload.length ≤ 65536 →
      segsGood 0 (numberSegs (mkPacket s q own no) 0 (segments q.payload)) = true
      ∧ msgBytes (numberSegs (mkPacket s q own no) 0 (segments q.payload)) = q.payload)
    ∧ ∀ (s : State) (c : Cur) (typ ctx fmt dst expert loc first count h ticket : Nat) (pay : Bytes), pay.length < 2 ^ 32 →
        frameGood (mkFrame s c typ ctx fmt dst expert loc first count h ticket pay) = true
        ∧ frameFormed (mkFrame s c typ ctx fmt dst expert loc first count h ticket pay) = true

/-- For every state, block that checks, tile, SRAM offset and access of one byte or of a range inside the tile's SRAM,
read or write: the tile's own world is permitted; the secure world is permitted on a non-secure tile; the non-secure
world is denied on a secure tile. (R418) -/
def Obligations.SramWorlds : Prop :=
  ∀ (s : State) (b : EpochBlock) (w : World) (wr : Bool) (t : Tile) (off n : Nat), 0 < n → off + n ≤ 0x600000 →
    let one := permitted s b w wr (sramAddr t off)
    let all := rangePermitted s w wr (sramAddr t off) n b
    (tileWorld s t = w → one = true ∧ all = true)
    ∧ (w = .s → tileWorld s t = .ns → one = true ∧ all = true)
    ∧ (w = .ns → tileWorld s t = .s → one = false ∧ all = false)

/-- For every state and committed plan whose command is issued: after steps 4 to 6 of the commit sequence, each region
that the step wrote through FREE role has its free copy committed with the step's number as version and the copy that
was committed free, with its version unchanged; a region the step did not write keeps which copy is committed and both
versions; no region's copies move. (R217) -/
def Obligations.RegionsSwitch : Prop :=
  ∀ (s : State) (p : PlanRun) (c : Issued), getIssued s p.iid = some c → p.written.Nodup → keysRise s.seq.regions = true →
    let t := commitEnd s p
    (∀ n ∈ p.written,
      ((getRegion s n).comm = 0 → (getRegion t n).comm = 1 ∧ (getRegion t n).v1 = some p.step ∧ (getRegion t n).v0 = (getRegion s n).v0)
      ∧ ((getRegion s n).comm = 1 → (getRegion t n).comm = 0 ∧ (getRegion t n).v0 = some p.step
          ∧ (getRegion t n).v1 = (getRegion s n).v1))
    ∧ (∀ n : Nat, n ∉ p.written → (getRegion t n).comm = (getRegion s n).comm ∧ (getRegion t n).v0 = (getRegion s n).v0
        ∧ (getRegion t n).v1 = (getRegion s n).v1)
    ∧ ∀ n : Nat, (getRegion t n).base0 = (getRegion s n).base0 ∧ (getRegion t n).base1 = (getRegion s n).base1
        ∧ (getRegion t n).size = (getRegion s n).size

/-- For every issued RUN_PLAN whose plan lies in LPDDR5X and whose header, as it is read, carries a member code other than
GBL_ID.MEMBER: when the plan is begun (by its own row, as a held plan, or after a recomputation has its log record)
the command completes BAD_DESCRIPTOR, and which plans and phases run is unchanged. (R3) -/
def Obligations.PlanOfAnotherMemberRefused : Prop :=
  ∀ (s : State) (c : Issued), planAddrStatus s (rpPlan c.ops) 128 = stOk →
    let h := devRead s c.world (.cmd c.iid) (rpPlan c.ops) 128
    let t := complete h.1 c.iid stBadDescriptor
    fld h.2 4 2 ≠ h.1.rdf .gblId 0 0 15 0 →
    planBegin s c = t ∧ t.seq.train = s.seq.train ∧ t.seq.eval = s.seq.eval
    ∧ (getIssued s c.iid = some c → c.op = 0x0020 → c.st ≠ .running → rpRecompute c.ops = false → s.seq.held = [] → s.seq.heldCmds = [] →
        kindFree s (planKindOf c) = true →
        (planKindOf c = .training → exec (.runPlan c.iid) s = .next t)
        ∧ (planKindOf c = .eval → exec (.runPlanEval c.iid) s = .next t))
end

