-- ==== Sys2Proof/Laws/Bits.lean ====
section
/-! SUPPORT. Laws of bit fields and of byte strings. -/

namespace Sys2Proof.Machine

theorem bit_eq_testBit (x i : Nat) : bit x i = x.testBit i := by
  simp [bit, Nat.testBit_eq_decide_div_mod_eq, beq_eq_decide]

theorem bits_testBit (x hi lo i : Nat) : (bits x hi lo).testBit i = (decide (i < hi + 1 - lo) && x.testBit (lo + i)) := by
  rw [bits, Nat.testBit_mod_two_pow, Nat.testBit_div_two_pow, Nat.add_comm i lo]

theorem setBits_testBit {hi lo : Nat} (h : lo ≤ hi) (x v i : Nat) :
    (setBits x hi lo v).testBit i
      = if i < lo then x.testBit i else if i ≤ hi then v.testBit (i - lo) else x.testBit i := by
  have e : setBits x hi lo v = 2 ^ lo * (2 ^ (hi + 1 - lo) * (x / 2 ^ (hi + 1)) + v % 2 ^ (hi + 1 - lo)) + x % 2 ^ lo := by
    have : 2 ^ (hi + 1) = 2 ^ lo * 2 ^ (hi + 1 - lo) := by rw [← pow_add]; congr 1; omega
    simp only [setBits]; rw [this]; ring
  rw [e, Nat.testBit_two_pow_mul_add _ (Nat.mod_lt _ (by positivity)), Nat.testBit_mod_two_pow]
  split
  · simp [*]
  · rw [Nat.testBit_two_pow_mul_add _ (Nat.mod_lt _ (by positivity)), Nat.testBit_mod_two_pow, Nat.testBit_div_two_pow]
    by_cases hi' : i ≤ hi
    · have : i - lo < hi + 1 - lo := by omega
      simp [this, hi']
    · have h1 : ¬ i - lo < hi + 1 - lo := by omega
      have h2 : i - lo - (hi + 1 - lo) + (hi + 1) = i := by omega
      simp [h1, hi', h2]

/-- A field that is set reads back. -/
theorem bits_setBits_self {hi lo : Nat} (h : lo ≤ hi) (x v : Nat) : bits (setBits x hi lo v) hi lo = v % 2 ^ (hi + 1 - lo) := by
  apply Nat.eq_of_testBit_eq; intro i
  rw [bits_testBit, setBits_testBit h, Nat.testBit_mod_two_pow]
  by_cases hi' : i < hi + 1 - lo
  · have h1 : ¬ lo + i < lo := by omega
    have h2 : lo + i ≤ hi := by omega
    simp [hi', h2]
  · simp [hi']

/-- A field that lies elsewhere is unchanged. -/
theorem bits_setBits_ne {hi lo h' l' : Nat} (h : lo ≤ hi) (hd : h' < lo ∨ hi < l') (x v : Nat) :
    bits (setBits x hi lo v) h' l' = bits x h' l' := by
  apply Nat.eq_of_testBit_eq; intro i
  rw [bits_testBit, bits_testBit, setBits_testBit h]
  by_cases hi' : i < h' + 1 - l'
  · rcases hd with hd | hd
    · have h1 : l' + i < lo := by omega
      simp [h1]
    · have h1 : ¬ l' + i < lo := by omega
      have h2 : ¬ l' + i ≤ hi := by omega
      simp [h1, h2]
  · simp [hi']

theorem bit_setBits_ne {hi lo i : Nat} (h : lo ≤ hi) (hd : i < lo ∨ hi < i) (x v : Nat) :
    bit (setBits x hi lo v) i = bit x i := by
  rw [bit_eq_testBit, bit_eq_testBit, setBits_testBit h]
  rcases hd with hd | hd
  · simp [hd]
  · have h1 : ¬ i < lo := by omega
    have h2 : ¬ i ≤ hi := by omega
    simp [h1, h2]

@[simp] theorem bit_setBit_self (x i : Nat) (b : Bool) : bit (setBit x i b) i = b := by
  rw [bit_eq_testBit, setBit, setBits_testBit (Nat.le_refl i)]
  cases b <;> simp

theorem bit_setBit_ne {i j : Nat} (h : j ≠ i) (x : Nat) (b : Bool) : bit (setBit x i b) j = bit x j :=
  bit_setBits_ne (Nat.le_refl i) (by omega) x _

theorem bits_setBit_ne {i hi lo : Nat} (h : hi < i ∨ i < lo) (x : Nat) (b : Bool) :
    bits (setBit x i b) hi lo = bits x hi lo := bits_setBits_ne (Nat.le_refl i) h x _

theorem bit_land (x m i : Nat) : bit (Nat.land x m) i = (bit x i && bit m i) := by
  rw [bit_eq_testBit, bit_eq_testBit, bit_eq_testBit]; exact Nat.testBit_and x m i

theorem bits_lt (x hi lo : Nat) : bits x hi lo < 2 ^ (hi + 1 - lo) := Nat.mod_lt _ (by positivity)

/-- The whole of a 64-bit value is its own field. -/
theorem bits_63_0 {x : Nat} (h : x < 2 ^ 64) : bits x 63 0 = x := by
  simpa [bits] using Nat.mod_eq_of_lt h

theorem setBits_63_0 {x v : Nat} (hx : x < 2 ^ 64) (hv : v < 2 ^ 64) : setBits x 63 0 v = v := by
  have h1 : x / 18446744073709551616 = 0 := Nat.div_eq_of_lt hx
  have h2 : v % 18446744073709551616 = v := Nat.mod_eq_of_lt hv
  simp [setBits, h1, h2, Nat.mod_one]

theorem rd_lt (s : State) (n : RegName) (i j : Nat) : s.rd n i j < 2 ^ 64 := BitVec.isLt _

/-! ### Byte strings -/

@[simp] theorem natLe_length (n x : Nat) : (natLe n x).length = n := by
  induction n generalizing x with
  | zero => rfl
  | succ n ih => simp [natLe, ih]

theorem leNat_natLe (n x : Nat) : leNat (natLe n x) = x % 256 ^ n := by
  induction n generalizing x with
  | zero => simp [natLe, leNat, Nat.mod_one]
  | succ n ih =>
    simp only [natLe, leNat, ih]
    rw [BitVec.toNat_ofNat, show 256 ^ (n + 1) = 256 * 256 ^ n from pow_succ' 256 n, Nat.mod_mul]

theorem leNat_lt (bs : Bytes) : leNat bs < 256 ^ bs.length := by
  induction bs with
  | nil => simp [leNat]
  | cons b bs ih =>
    have := b.isLt
    simp only [leNat, List.length_cons, pow_succ]; omega

theorem natLe_leNat (bs : Bytes) : natLe bs.length (leNat bs) = bs := by
  induction bs with
  | nil => rfl
  | cons b bs ih =>
    have hb := b.isLt
    have h1 : (b.toNat + 256 * leNat bs) / 256 = leNat bs := by omega
    simp only [List.length_cons, natLe, leNat, h1, ih]
    congr 1
    apply BitVec.eq_of_toNat_eq
    rw [BitVec.toNat_ofNat]; omega

@[simp] theorem slice_length (bs : Bytes) (o n : Nat) : (slice bs o n).length = n := by
  simp [slice]

theorem slice_eq {bs : Bytes} {o n : Nat} (h : o + n ≤ bs.length) : slice bs o n = (bs.drop o).take n := by
  have : ((bs.drop o).take n).length = n := by simp; omega
  simp only [slice]; rw [this]; simp

end Sys2Proof.Machine
end

