-- ==== Sys2Proof/Laws/Map.lean ====
section
/-! SUPPORT. Laws of the sparse tables: a read after a write, and the canonical form. -/

namespace Sys2Proof.Machine

variable {α : Type}

/-! ### Reads after writes -/

@[simp] theorem mapGet_nil (d : Nat → α) (k : Nat) : mapGet d [] k = d k := rfl

@[simp] theorem mapGet_mapIns_self (d : Nat → α) (m : NMap α) (k : Nat) (v : α) : mapGet d (mapIns m k v) k = v := by
  induction m with
  | nil => simp [mapIns, mapGet]
  | cons p m ih =>
    obtain ⟨j, w⟩ := p
    rcases Nat.lt_trichotomy k j with h | h | h
    · simp [mapIns, mapGet, h]
    · subst h; simp [mapIns, mapGet]
    · simp [mapIns, mapGet, ih, Nat.not_lt.2 h.le, h.ne']

theorem mapGet_mapIns_ne (d : Nat → α) (m : NMap α) {k x : Nat} (v : α) (h : x ≠ k) :
    mapGet d (mapIns m k v) x = mapGet d m x := by
  induction m with
  | nil => simp [mapIns, mapGet, h]
  | cons p m ih =>
    obtain ⟨j, w⟩ := p
    rcases Nat.lt_trichotomy k j with hk | hk | hk
    · simp only [mapIns, hk, if_true, mapGet, h, if_false]
      by_cases hx : x < k
      · simp [hx, hx.trans hk]
      · simp [hx]
    · subst hk; simp [mapIns, mapGet, h]
    · simp [mapIns, mapGet, ih, Nat.not_lt.2 hk.le, hk.ne']

/-! ### Rising keys -/

theorem keysFrom_mono {b c : Nat} {m : NMap α} (h : b ≤ c) (hm : keysFrom c m = true) : keysFrom b m = true := by
  cases m with
  | nil => rfl
  | cons p m => simp only [keysFrom, Bool.and_eq_true, decide_eq_true_eq] at hm ⊢; exact ⟨h.trans hm.1, hm.2⟩

/-- Below the first key a table holds the default. -/
theorem mapGet_below (d : Nat → α) {m : NMap α} {b x : Nat} (hm : keysFrom b m = true) (hx : x < b) : mapGet d m x = d x := by
  cases m with
  | nil => rfl
  | cons p m =>
    simp only [keysFrom, Bool.and_eq_true, decide_eq_true_eq] at hm
    simp [mapGet, Nat.lt_of_lt_of_le hx hm.1]

theorem mapGet_mapDel_self_from (d : Nat → α) {m : NMap α} {b : Nat} (hm : keysFrom b m = true) (k : Nat) :
    mapGet d (mapDel m k) k = d k := by
  induction m generalizing b with
  | nil => rfl
  | cons p m ih =>
    obtain ⟨j, w⟩ := p
    simp only [keysFrom, Bool.and_eq_true, decide_eq_true_eq] at hm
    rcases Nat.lt_trichotomy k j with h | h | h
    · simp [mapDel, mapGet, h]
    · subst h; simpa [mapDel] using mapGet_below d hm.2 (Nat.lt_succ_self k)
    · simpa [mapDel, mapGet, Nat.not_lt.2 h.le, h.ne'] using ih hm.2

theorem mapGet_mapDel_ne_from (d : Nat → α) {m : NMap α} {b k x : Nat} (hm : keysFrom b m = true) (h : x ≠ k) :
    mapGet d (mapDel m k) x = mapGet d m x := by
  induction m generalizing b with
  | nil => rfl
  | cons p m ih =>
    obtain ⟨j, w⟩ := p
    simp only [keysFrom, Bool.and_eq_true, decide_eq_true_eq] at hm
    rcases Nat.lt_trichotomy k j with hk | hk | hk
    · simp [mapDel, hk]
    · subst hk
      by_cases hx : x < k
      · simpa [mapDel, mapGet, hx] using mapGet_below d hm.2 (hx.trans (Nat.lt_succ_self k))
      · simp [mapDel, mapGet, hx, h]
    · simp [mapDel, mapGet, Nat.not_lt.2 hk.le, hk.ne', ih hm.2]

theorem keysFrom_mapIns {m : NMap α} {b k : Nat} (v : α) (hb : b ≤ k) (hm : keysFrom b m = true) :
    keysFrom b (mapIns m k v) = true := by
  induction m generalizing b with
  | nil => simp [mapIns, keysFrom, hb]
  | cons p m ih =>
    obtain ⟨j, w⟩ := p
    simp only [keysFrom, Bool.and_eq_true, decide_eq_true_eq] at hm
    rcases Nat.lt_trichotomy k j with h | h | h
    · simp [mapIns, keysFrom, h, hb, hm.2, Nat.succ_le_iff.2 h]
    · subst h; simp [mapIns, keysFrom, hb, hm.2]
    · simp [mapIns, keysFrom, Nat.not_lt.2 h.le, h.ne', hm.1, ih (Nat.succ_le_iff.2 h) hm.2]

theorem keysFrom_mapDel {m : NMap α} {b : Nat} (k : Nat) (hm : keysFrom b m = true) : keysFrom b (mapDel m k) = true := by
  induction m generalizing b with
  | nil => rfl
  | cons p m ih =>
    obtain ⟨j, w⟩ := p
    simp only [keysFrom, Bool.and_eq_true, decide_eq_true_eq] at hm
    rcases Nat.lt_trichotomy k j with h | h | h
    · simp [mapDel, keysFrom, h, hm]
    · subst h; simpa [mapDel] using keysFrom_mono (hm.1.trans (Nat.le_succ k)) hm.2
    · simp [mapDel, keysFrom, Nat.not_lt.2 h.le, h.ne', hm.1, ih hm.2]

theorem keysFrom_filter {m : NMap α} {b : Nat} (f : Nat × α → Bool) (hm : keysFrom b m = true) :
    keysFrom b (m.filter f) = true := by
  induction m generalizing b with
  | nil => rfl
  | cons p m ih =>
    obtain ⟨j, w⟩ := p
    simp only [keysFrom, Bool.and_eq_true, decide_eq_true_eq] at hm
    by_cases h : f (j, w) = true
    · simp [h, keysFrom, hm.1, ih hm.2]
    · simpa [h] using keysFrom_mono (hm.1.trans (Nat.le_succ j)) (ih hm.2)

theorem keysRise_mapIns {m : NMap α} (k : Nat) (v : α) (hm : keysRise m = true) : keysRise (mapIns m k v) = true :=
  keysFrom_mapIns v (Nat.zero_le k) hm

theorem keysRise_mapDel {m : NMap α} (k : Nat) (hm : keysRise m = true) : keysRise (mapDel m k) = true := keysFrom_mapDel k hm

theorem keysRise_filter {m : NMap α} (f : Nat × α → Bool) (hm : keysRise m = true) : keysRise (m.filter f) = true :=
  keysFrom_filter f hm

theorem keysRise_mapSet [DecidableEq α] (d : Nat → α) {m : NMap α} (k : Nat) (v : α) (hm : keysRise m = true) :
    keysRise (mapSet d m k v) = true := by
  unfold mapSet; split
  · exact keysRise_mapDel k hm
  · exact keysRise_mapIns k v hm

/-- A stored value reads back. -/
theorem mapGet_mapSet_self [DecidableEq α] (d : Nat → α) {m : NMap α} (k : Nat) (v : α) (hm : keysRise m = true) :
    mapGet d (mapSet d m k v) k = v := by
  unfold mapSet; split
  · rename_i h; rw [mapGet_mapDel_self_from d hm, h]
  · exact mapGet_mapIns_self d m k v

/-- A store leaves every other key as it was; the reader's default may be its own. -/
theorem mapGet_mapSet_ne [DecidableEq α] (d e : Nat → α) {m : NMap α} {k x : Nat} (v : α) (hm : keysRise m = true)
    (h : x ≠ k) : mapGet e (mapSet d m k v) x = mapGet e m x := by
  unfold mapSet; split
  · exact mapGet_mapDel_ne_from e hm h
  · exact mapGet_mapIns_ne e m v h

/-! ### The canonical form -/

section Wf
variable [DecidableEq α] (d : Nat → α)

theorem mapWfFrom_mono {b c : Nat} {m : NMap α} (h : b ≤ c) (hm : mapWfFrom d c m = true) : mapWfFrom d b m = true := by
  cases m with
  | nil => rfl
  | cons p m =>
    simp only [mapWfFrom, Bool.and_eq_true, decide_eq_true_eq] at hm ⊢
    exact ⟨⟨h.trans hm.1.1, hm.1.2⟩, hm.2⟩

theorem mapWfFrom_keys {b : Nat} {m : NMap α} (hm : mapWfFrom d b m = true) : keysFrom b m = true := by
  induction m generalizing b with
  | nil => rfl
  | cons p m ih =>
    simp only [mapWfFrom, Bool.and_eq_true, decide_eq_true_eq] at hm
    simp [keysFrom, hm.1.1, ih hm.2]

theorem mapWf_keys {m : NMap α} (hm : mapWf d m = true) : keysRise m = true := mapWfFrom_keys d hm

theorem mapWfFrom_mapIns {m : NMap α} {b k : Nat} {v : α} (hv : v ≠ d k) (hb : b ≤ k) (hm : mapWfFrom d b m = true) :
    mapWfFrom d b (mapIns m k v) = true := by
  induction m generalizing b with
  | nil => simp [mapIns, mapWfFrom, hb, hv]
  | cons p m ih =>
    obtain ⟨j, w⟩ := p
    simp only [mapWfFrom, Bool.and_eq_true, decide_eq_true_eq] at hm
    rcases Nat.lt_trichotomy k j with h | h | h
    · simp [mapIns, mapWfFrom, h, hb, hv, hm.1.2, hm.2, Nat.succ_le_iff.2 h]
    · subst h; simp [mapIns, mapWfFrom, hb, hv, hm.2]
    · simp [mapIns, mapWfFrom, Nat.not_lt.2 h.le, h.ne', hm.1.1, hm.1.2, ih (Nat.succ_le_iff.2 h) hm.2]

theorem mapWfFrom_mapDel {m : NMap α} {b : Nat} (k : Nat) (hm : mapWfFrom d b m = true) :
    mapWfFrom d b (mapDel m k) = true := by
  induction m generalizing b with
  | nil => rfl
  | cons p m ih =>
    obtain ⟨j, w⟩ := p
    simp only [mapWfFrom, Bool.and_eq_true, decide_eq_true_eq] at hm
    rcases Nat.lt_trichotomy k j with h | h | h
    · simp [mapDel, mapWfFrom, h, hm]
    · subst h; simpa [mapDel] using mapWfFrom_mono d (hm.1.1.trans (Nat.le_succ k)) hm.2
    · simp [mapDel, mapWfFrom, Nat.not_lt.2 h.le, h.ne', hm.1.1, hm.1.2, ih hm.2]

theorem mapWfFrom_filter {m : NMap α} {b : Nat} (f : Nat × α → Bool) (hm : mapWfFrom d b m = true) :
    mapWfFrom d b (m.filter f) = true := by
  induction m generalizing b with
  | nil => rfl
  | cons p m ih =>
    obtain ⟨j, w⟩ := p
    simp only [mapWfFrom, Bool.and_eq_true, decide_eq_true_eq] at hm
    by_cases h : f (j, w) = true
    · simp [h, mapWfFrom, hm.1.1, hm.1.2, ih hm.2]
    · simpa [h] using mapWfFrom_mono d (hm.1.1.trans (Nat.le_succ j)) (ih hm.2)

theorem mapWf_mapSet {m : NMap α} (k : Nat) (v : α) (hm : mapWf d m = true) : mapWf d (mapSet d m k v) = true := by
  unfold mapSet; split
  · exact mapWfFrom_mapDel d k hm
  · rename_i h; exact mapWfFrom_mapIns d h (Nat.zero_le k) hm

theorem mapWf_filter {m : NMap α} (f : Nat × α → Bool) (hm : mapWf d m = true) : mapWf d (m.filter f) = true :=
  mapWfFrom_filter d f hm

theorem mapWf_mapClearRange {m : NMap α} (lo hi : Nat) (hm : mapWf d m = true) : mapWf d (mapClearRange m lo hi) = true :=
  mapWf_filter d _ hm

theorem mapWf_mapKeep {m : NMap α} (f : Nat → Bool) (hm : mapWf d m = true) : mapWf d (mapKeep f m) = true :=
  mapWf_filter d _ hm

theorem mapWf_mapSetList (vs : List α) {m : NMap α} (k : Nat) (hm : mapWf d m = true) :
    mapWf d (mapSetList d m k vs) = true := by
  induction vs generalizing m k with
  | nil => exact hm
  | cons v vs ih => exact ih (k + 1) (mapWf_mapSet d k v hm)

/-- Outside the keys it sets, setting a list leaves a table as it was. -/
theorem mapGet_mapSetList_out (vs : List α) {m : NMap α} {k x : Nat} (hm : mapWf d m = true)
    (hx : x < k ∨ k + vs.length ≤ x) : mapGet d (mapSetList d m k vs) x = mapGet d m x := by
  induction vs generalizing m k with
  | nil => rfl
  | cons v vs ih =>
    simp only [List.length_cons] at hx
    simp only [mapSetList]
    rw [ih (mapWf_mapSet d k v hm) (by omega), mapGet_mapSet_ne d d v (mapWf_keys d hm) (by omega)]

/-- A list of values reads back where it was set. -/
theorem mapGetList_mapSetList (vs : List α) {m : NMap α} (k : Nat) (hm : mapWf d m = true) :
    mapGetList d (mapSetList d m k vs) k vs.length = vs := by
  induction vs generalizing m k with
  | nil => rfl
  | cons v vs ih =>
    have hw := mapWf_mapSet d k v hm
    simp only [mapSetList, mapGetList, List.length_cons]
    rw [ih (k + 1) hw, mapGet_mapSetList_out d vs hw (.inl (Nat.lt_succ_self k)), mapGet_mapSet_self d k v (mapWf_keys d hm)]

end Wf

/-! ### Filtered tables -/

theorem mapGet_filter_from (d : Nat → α) {m : NMap α} {b : Nat} (f : Nat → Bool) (hm : keysFrom b m = true) (x : Nat) :
    mapGet d (m.filter fun p => f p.1) x = if f x then mapGet d m x else d x := by
  induction m generalizing b with
  | nil => simp
  | cons p m ih =>
    obtain ⟨j, w⟩ := p
    simp only [keysFrom, Bool.and_eq_true, decide_eq_true_eq] at hm
    by_cases h : f j = true
    · simp only [List.filter_cons, h, if_true, mapGet]
      rcases Nat.lt_trichotomy x j with hx | hx | hx
      · simp [hx]
      · subst hx; simp [h]
      · simp [Nat.not_lt.2 hx.le, hx.ne', ih hm.2]
    · simp only [List.filter_cons, h, mapGet]
      rw [if_neg (by simp), ih hm.2]
      rcases Nat.lt_trichotomy x j with hx | hx | hx
      · simp [hx, mapGet_below d hm.2 (hx.trans (Nat.lt_succ_self j))]
      · subst hx; simp [h]
      · simp [Nat.not_lt.2 hx.le, hx.ne']

/-- Keeping keys: the kept ones read as before, the others their default. -/
theorem mapGet_mapKeep (d : Nat → α) {m : NMap α} (f : Nat → Bool) (hm : keysRise m = true) (x : Nat) :
    mapGet d (mapKeep f m) x = if f x then mapGet d m x else d x := mapGet_filter_from d f hm x

/-- Clearing a range of keys. -/
theorem mapGet_mapClearRange (d : Nat → α) {m : NMap α} (lo hi : Nat) (hm : keysRise m = true) (x : Nat) :
    mapGet d (mapClearRange m lo hi) x = if lo ≤ x ∧ x < hi then d x else mapGet d m x := by
  rw [mapClearRange, mapGet_filter_from d (fun k => !(decide (lo ≤ k) && decide (k < hi))) hm x]
  by_cases h : lo ≤ x ∧ x < hi
  · simp [h]
  · by_cases h1 : lo ≤ x <;> by_cases h2 : x < hi <;> simp_all

end Sys2Proof.Machine
end

