-- ==== Sys2Proof/Laws/State.lean ====
section
/-! SUPPORT. What each named update of State changes, field by field. -/

namespace Sys2Proof.Machine

variable (s : State)

/-! ### State.wr: a register's active value -/

@[simp] theorem State.wr_regs (n : RegName) (i j v : Nat) : (s.wr n i j v).regs = mapSet (regD n i j) s.regs (regOff n i j) (BitVec.ofNat 64 v) := rfl
@[simp] theorem State.wr_waiting (n : RegName) (i j v : Nat) : (s.wr n i j v).waiting = s.waiting := rfl
@[simp] theorem State.wr_shadNs (n : RegName) (i j v : Nat) : (s.wr n i j v).shadNs = s.shadNs := rfl
@[simp] theorem State.wr_shadS (n : RegName) (i j v : Nat) : (s.wr n i j v).shadS = s.shadS := rfl
@[simp] theorem State.wr_time (n : RegName) (i j v : Nat) : (s.wr n i j v).time = s.time := rfl
@[simp] theorem State.wr_mem (n : RegName) (i j v : Nat) : (s.wr n i j v).mem = s.mem := rfl
@[simp] theorem State.wr_flips (n : RegName) (i j v : Nat) : (s.wr n i j v).flips = s.flips := rfl
@[simp] theorem State.wr_evacs (n : RegName) (i j v : Nat) : (s.wr n i j v).evacs = s.evacs := rfl
@[simp] theorem State.wr_scrubs (n : RegName) (i j v : Nat) : (s.wr n i j v).scrubs = s.scrubs := rfl
@[simp] theorem State.wr_acc (n : RegName) (i j v : Nat) : (s.wr n i j v).acc = s.acc := rfl
@[simp] theorem State.wr_host (n : RegName) (i j v : Nat) : (s.wr n i j v).host = s.host := rfl
@[simp] theorem State.wr_hostReqs (n : RegName) (i j v : Nat) : (s.wr n i j v).hostReqs = s.hostReqs := rfl
@[simp] theorem State.wr_hostAns (n : RegName) (i j v : Nat) : (s.wr n i j v).hostAns = s.hostAns := rfl
@[simp] theorem State.wr_hqe (n : RegName) (i j v : Nat) : (s.wr n i j v).hqe = s.hqe := rfl
@[simp] theorem State.wr_seq (n : RegName) (i j v : Nat) : (s.wr n i j v).seq = s.seq := rfl
@[simp] theorem State.wr_lhl (n : RegName) (i j v : Nat) : (s.wr n i j v).lhl = s.lhl := rfl
@[simp] theorem State.wr_ports (n : RegName) (i j v : Nat) : (s.wr n i j v).ports = s.ports := rfl
@[simp] theorem State.wr_bridges (n : RegName) (i j v : Nat) : (s.wr n i j v).bridges = s.bridges := rfl
@[simp] theorem State.wr_mcs (n : RegName) (i j v : Nat) : (s.wr n i j v).mcs = s.mcs := rfl
@[simp] theorem State.wr_fab (n : RegName) (i j v : Nat) : (s.wr n i j v).fab = s.fab := rfl
@[simp] theorem State.wr_mir (n : RegName) (i j v : Nat) : (s.wr n i j v).mir = s.mir := rfl
@[simp] theorem State.wr_das (n : RegName) (i j v : Nat) : (s.wr n i j v).das = s.das := rfl
@[simp] theorem State.wr_daAlt (n : RegName) (i j v : Nat) : (s.wr n i j v).daAlt = s.daAlt := rfl
@[simp] theorem State.wr_ves (n : RegName) (i j v : Nat) : (s.wr n i j v).ves = s.ves := rfl
@[simp] theorem State.wr_gath (n : RegName) (i j v : Nat) : (s.wr n i j v).gath = s.gath := rfl
@[simp] theorem State.wr_tkr (n : RegName) (i j v : Nat) : (s.wr n i j v).tkr = s.tkr := rfl
@[simp] theorem State.wr_mails (n : RegName) (i j v : Nat) : (s.wr n i j v).mails = s.mails := rfl
@[simp] theorem State.wr_snp (n : RegName) (i j v : Nat) : (s.wr n i j v).snp = s.snp := rfl
@[simp] theorem State.wr_nmu (n : RegName) (i j v : Nat) : (s.wr n i j v).nmu = s.nmu := rfl
@[simp] theorem State.wr_plat (n : RegName) (i j v : Nat) : (s.wr n i j v).plat = s.plat := rfl
@[simp] theorem State.wr_hostLine (n : RegName) (i j v : Nat) : (s.wr n i j v).hostLine = s.hostLine := rfl
@[simp] theorem State.wr_fij (n : RegName) (i j v : Nat) : (s.wr n i j v).fij = s.fij := rfl
@[simp] theorem State.wr_rasSum (n : RegName) (i j v : Nat) : (s.wr n i j v).rasSum = s.rasSum := rfl
@[simp] theorem State.wr_out (n : RegName) (i j v : Nat) : (s.wr n i j v).out = s.out := rfl
@[simp] theorem State.wr_freeCtr (n : RegName) (i j v : Nat) : (s.wr n i j v).freeCtr = s.freeCtr := rfl
@[simp] theorem State.wr_pending (n : RegName) (i j v : Nat) : (s.wr n i j v).pending = s.pending := rfl

/-! ### setWaiting: a value that waits for its moment -/

@[simp] theorem setWaiting_regs (n : RegName) (i j v : Nat) : (setWaiting s n i j v).regs = s.regs := rfl
@[simp] theorem setWaiting_waiting (n : RegName) (i j v : Nat) : (setWaiting s n i j v).waiting = mapSet (fun _ => none) s.waiting (regOff n i j) (some (BitVec.ofNat 64 v)) := rfl
@[simp] theorem setWaiting_shadNs (n : RegName) (i j v : Nat) : (setWaiting s n i j v).shadNs = s.shadNs := rfl
@[simp] theorem setWaiting_shadS (n : RegName) (i j v : Nat) : (setWaiting s n i j v).shadS = s.shadS := rfl
@[simp] theorem setWaiting_time (n : RegName) (i j v : Nat) : (setWaiting s n i j v).time = s.time := rfl
@[simp] theorem setWaiting_mem (n : RegName) (i j v : Nat) : (setWaiting s n i j v).mem = s.mem := rfl
@[simp] theorem setWaiting_flips (n : RegName) (i j v : Nat) : (setWaiting s n i j v).flips = s.flips := rfl
@[simp] theorem setWaiting_evacs (n : RegName) (i j v : Nat) : (setWaiting s n i j v).evacs = s.evacs := rfl
@[simp] theorem setWaiting_scrubs (n : RegName) (i j v : Nat) : (setWaiting s n i j v).scrubs = s.scrubs := rfl
@[simp] theorem setWaiting_acc (n : RegName) (i j v : Nat) : (setWaiting s n i j v).acc = s.acc := rfl
@[simp] theorem setWaiting_host (n : RegName) (i j v : Nat) : (setWaiting s n i j v).host = s.host := rfl
@[simp] theorem setWaiting_hostReqs (n : RegName) (i j v : Nat) : (setWaiting s n i j v).hostReqs = s.hostReqs := rfl
@[simp] theorem setWaiting_hostAns (n : RegName) (i j v : Nat) : (setWaiting s n i j v).hostAns = s.hostAns := rfl
@[simp] theorem setWaiting_hqe (n : RegName) (i j v : Nat) : (setWaiting s n i j v).hqe = s.hqe := rfl
@[simp] theorem setWaiting_seq (n : RegName) (i j v : Nat) : (setWaiting s n i j v).seq = s.seq := rfl
@[simp] theorem setWaiting_lhl (n : RegName) (i j v : Nat) : (setWaiting s n i j v).lhl = s.lhl := rfl
@[simp] theorem setWaiting_ports (n : RegName) (i j v : Nat) : (setWaiting s n i j v).ports = s.ports := rfl
@[simp] theorem setWaiting_bridges (n : RegName) (i j v : Nat) : (setWaiting s n i j v).bridges = s.bridges := rfl
@[simp] theorem setWaiting_mcs (n : RegName) (i j v : Nat) : (setWaiting s n i j v).mcs = s.mcs := rfl
@[simp] theorem setWaiting_fab (n : RegName) (i j v : Nat) : (setWaiting s n i j v).fab = s.fab := rfl
@[simp] theorem setWaiting_mir (n : RegName) (i j v : Nat) : (setWaiting s n i j v).mir = s.mir := rfl
@[simp] theorem setWaiting_das (n : RegName) (i j v : Nat) : (setWaiting s n i j v).das = s.das := rfl
@[simp] theorem setWaiting_daAlt (n : RegName) (i j v : Nat) : (setWaiting s n i j v).daAlt = s.daAlt := rfl
@[simp] theorem setWaiting_ves (n : RegName) (i j v : Nat) : (setWaiting s n i j v).ves = s.ves := rfl
@[simp] theorem setWaiting_gath (n : RegName) (i j v : Nat) : (setWaiting s n i j v).gath = s.gath := rfl
@[simp] theorem setWaiting_tkr (n : RegName) (i j v : Nat) : (setWaiting s n i j v).tkr = s.tkr := rfl
@[simp] theorem setWaiting_mails (n : RegName) (i j v : Nat) : (setWaiting s n i j v).mails = s.mails := rfl
@[simp] theorem setWaiting_snp (n : RegName) (i j v : Nat) : (setWaiting s n i j v).snp = s.snp := rfl
@[simp] theorem setWaiting_nmu (n : RegName) (i j v : Nat) : (setWaiting s n i j v).nmu = s.nmu := rfl
@[simp] theorem setWaiting_plat (n : RegName) (i j v : Nat) : (setWaiting s n i j v).plat = s.plat := rfl
@[simp] theorem setWaiting_hostLine (n : RegName) (i j v : Nat) : (setWaiting s n i j v).hostLine = s.hostLine := rfl
@[simp] theorem setWaiting_fij (n : RegName) (i j v : Nat) : (setWaiting s n i j v).fij = s.fij := rfl
@[simp] theorem setWaiting_rasSum (n : RegName) (i j v : Nat) : (setWaiting s n i j v).rasSum = s.rasSum := rfl
@[simp] theorem setWaiting_out (n : RegName) (i j v : Nat) : (setWaiting s n i j v).out = s.out := rfl
@[simp] theorem setWaiting_freeCtr (n : RegName) (i j v : Nat) : (setWaiting s n i j v).freeCtr = s.freeCtr := rfl
@[simp] theorem setWaiting_pending (n : RegName) (i j v : Nat) : (setWaiting s n i j v).pending = s.pending := rfl

/-! ### clearWaiting: nothing waits for a register -/

@[simp] theorem clearWaiting_regs (n : RegName) (i j : Nat) : (clearWaiting s n i j).regs = s.regs := rfl
@[simp] theorem clearWaiting_waiting (n : RegName) (i j : Nat) : (clearWaiting s n i j).waiting = mapDel s.waiting (regOff n i j) := rfl
@[simp] theorem clearWaiting_shadNs (n : RegName) (i j : Nat) : (clearWaiting s n i j).shadNs = s.shadNs := rfl
@[simp] theorem clearWaiting_shadS (n : RegName) (i j : Nat) : (clearWaiting s n i j).shadS = s.shadS := rfl
@[simp] theorem clearWaiting_time (n : RegName) (i j : Nat) : (clearWaiting s n i j).time = s.time := rfl
@[simp] theorem clearWaiting_mem (n : RegName) (i j : Nat) : (clearWaiting s n i j).mem = s.mem := rfl
@[simp] theorem clearWaiting_flips (n : RegName) (i j : Nat) : (clearWaiting s n i j).flips = s.flips := rfl
@[simp] theorem clearWaiting_evacs (n : RegName) (i j : Nat) : (clearWaiting s n i j).evacs = s.evacs := rfl
@[simp] theorem clearWaiting_scrubs (n : RegName) (i j : Nat) : (clearWaiting s n i j).scrubs = s.scrubs := rfl
@[simp] theorem clearWaiting_acc (n : RegName) (i j : Nat) : (clearWaiting s n i j).acc = s.acc := rfl
@[simp] theorem clearWaiting_host (n : RegName) (i j : Nat) : (clearWaiting s n i j).host = s.host := rfl
@[simp] theorem clearWaiting_hostReqs (n : RegName) (i j : Nat) : (clearWaiting s n i j).hostReqs = s.hostReqs := rfl
@[simp] theorem clearWaiting_hostAns (n : RegName) (i j : Nat) : (clearWaiting s n i j).hostAns = s.hostAns := rfl
@[simp] theorem clearWaiting_hqe (n : RegName) (i j : Nat) : (clearWaiting s n i j).hqe = s.hqe := rfl
@[simp] theorem clearWaiting_seq (n : RegName) (i j : Nat) : (clearWaiting s n i j).seq = s.seq := rfl
@[simp] theorem clearWaiting_lhl (n : RegName) (i j : Nat) : (clearWaiting s n i j).lhl = s.lhl := rfl
@[simp] theorem clearWaiting_ports (n : RegName) (i j : Nat) : (clearWaiting s n i j).ports = s.ports := rfl
@[simp] theorem clearWaiting_bridges (n : RegName) (i j : Nat) : (clearWaiting s n i j).bridges = s.bridges := rfl
@[simp] theorem clearWaiting_mcs (n : RegName) (i j : Nat) : (clearWaiting s n i j).mcs = s.mcs := rfl
@[simp] theorem clearWaiting_fab (n : RegName) (i j : Nat) : (clearWaiting s n i j).fab = s.fab := rfl
@[simp] theorem clearWaiting_mir (n : RegName) (i j : Nat) : (clearWaiting s n i j).mir = s.mir := rfl
@[simp] theorem clearWaiting_das (n : RegName) (i j : Nat) : (clearWaiting s n i j).das = s.das := rfl
@[simp] theorem clearWaiting_daAlt (n : RegName) (i j : Nat) : (clearWaiting s n i j).daAlt = s.daAlt := rfl
@[simp] theorem clearWaiting_ves (n : RegName) (i j : Nat) : (clearWaiting s n i j).ves = s.ves := rfl
@[simp] theorem clearWaiting_gath (n : RegName) (i j : Nat) : (clearWaiting s n i j).gath = s.gath := rfl
@[simp] theorem clearWaiting_tkr (n : RegName) (i j : Nat) : (clearWaiting s n i j).tkr = s.tkr := rfl
@[simp] theorem clearWaiting_mails (n : RegName) (i j : Nat) : (clearWaiting s n i j).mails = s.mails := rfl
@[simp] theorem clearWaiting_snp (n : RegName) (i j : Nat) : (clearWaiting s n i j).snp = s.snp := rfl
@[simp] theorem clearWaiting_nmu (n : RegName) (i j : Nat) : (clearWaiting s n i j).nmu = s.nmu := rfl
@[simp] theorem clearWaiting_plat (n : RegName) (i j : Nat) : (clearWaiting s n i j).plat = s.plat := rfl
@[simp] theorem clearWaiting_hostLine (n : RegName) (i j : Nat) : (clearWaiting s n i j).hostLine = s.hostLine := rfl
@[simp] theorem clearWaiting_fij (n : RegName) (i j : Nat) : (clearWaiting s n i j).fij = s.fij := rfl
@[simp] theorem clearWaiting_rasSum (n : RegName) (i j : Nat) : (clearWaiting s n i j).rasSum = s.rasSum := rfl
@[simp] theorem clearWaiting_out (n : RegName) (i j : Nat) : (clearWaiting s n i j).out = s.out := rfl
@[simp] theorem clearWaiting_freeCtr (n : RegName) (i j : Nat) : (clearWaiting s n i j).freeCtr = s.freeCtr := rfl
@[simp] theorem clearWaiting_pending (n : RegName) (i j : Nat) : (clearWaiting s n i j).pending = s.pending := rfl

/-! ### setShadow: a shadow copy -/

@[simp] theorem setShadow_regs (w : World) (n : RegName) (i j v : Nat) : (setShadow s w n i j v).regs = s.regs := by cases w <;> rfl
@[simp] theorem setShadow_waiting (w : World) (n : RegName) (i j v : Nat) : (setShadow s w n i j v).waiting = s.waiting := by cases w <;> rfl
@[simp] theorem setShadow_time (w : World) (n : RegName) (i j v : Nat) : (setShadow s w n i j v).time = s.time := by cases w <;> rfl
@[simp] theorem setShadow_mem (w : World) (n : RegName) (i j v : Nat) : (setShadow s w n i j v).mem = s.mem := by cases w <;> rfl
@[simp] theorem setShadow_flips (w : World) (n : RegName) (i j v : Nat) : (setShadow s w n i j v).flips = s.flips := by cases w <;> rfl
@[simp] theorem setShadow_evacs (w : World) (n : RegName) (i j v : Nat) : (setShadow s w n i j v).evacs = s.evacs := by cases w <;> rfl
@[simp] theorem setShadow_scrubs (w : World) (n : RegName) (i j v : Nat) : (setShadow s w n i j v).scrubs = s.scrubs := by cases w <;> rfl
@[simp] theorem setShadow_acc (w : World) (n : RegName) (i j v : Nat) : (setShadow s w n i j v).acc = s.acc := by cases w <;> rfl
@[simp] theorem setShadow_host (w : World) (n : RegName) (i j v : Nat) : (setShadow s w n i j v).host = s.host := by cases w <;> rfl
@[simp] theorem setShadow_hostReqs (w : World) (n : RegName) (i j v : Nat) : (setShadow s w n i j v).hostReqs = s.hostReqs := by cases w <;> rfl
@[simp] theorem setShadow_hostAns (w : World) (n : RegName) (i j v : Nat) : (setShadow s w n i j v).hostAns = s.hostAns := by cases w <;> rfl
@[simp] theorem setShadow_hqe (w : World) (n : RegName) (i j v : Nat) : (setShadow s w n i j v).hqe = s.hqe := by cases w <;> rfl
@[simp] theorem setShadow_seq (w : World) (n : RegName) (i j v : Nat) : (setShadow s w n i j v).seq = s.seq := by cases w <;> rfl
@[simp] theorem setShadow_lhl (w : World) (n : RegName) (i j v : Nat) : (setShadow s w n i j v).lhl = s.lhl := by cases w <;> rfl
@[simp] theorem setShadow_ports (w : World) (n : RegName) (i j v : Nat) : (setShadow s w n i j v).ports = s.ports := by cases w <;> rfl
@[simp] theorem setShadow_bridges (w : World) (n : RegName) (i j v : Nat) : (setShadow s w n i j v).bridges = s.bridges := by cases w <;> rfl
@[simp] theorem setShadow_mcs (w : World) (n : RegName) (i j v : Nat) : (setShadow s w n i j v).mcs = s.mcs := by cases w <;> rfl
@[simp] theorem setShadow_fab (w : World) (n : RegName) (i j v : Nat) : (setShadow s w n i j v).fab = s.fab := by cases w <;> rfl
@[simp] theorem setShadow_mir (w : World) (n : RegName) (i j v : Nat) : (setShadow s w n i j v).mir = s.mir := by cases w <;> rfl
@[simp] theorem setShadow_das (w : World) (n : RegName) (i j v : Nat) : (setShadow s w n i j v).das = s.das := by cases w <;> rfl
@[simp] theorem setShadow_daAlt (w : World) (n : RegName) (i j v : Nat) : (setShadow s w n i j v).daAlt = s.daAlt := by cases w <;> rfl
@[simp] theorem setShadow_ves (w : World) (n : RegName) (i j v : Nat) : (setShadow s w n i j v).ves = s.ves := by cases w <;> rfl
@[simp] theorem setShadow_gath (w : World) (n : RegName) (i j v : Nat) : (setShadow s w n i j v).gath = s.gath := by cases w <;> rfl
@[simp] theorem setShadow_tkr (w : World) (n : RegName) (i j v : Nat) : (setShadow s w n i j v).tkr = s.tkr := by cases w <;> rfl
@[simp] theorem setShadow_mails (w : World) (n : RegName) (i j v : Nat) : (setShadow s w n i j v).mails = s.mails := by cases w <;> rfl
@[simp] theorem setShadow_snp (w : World) (n : RegName) (i j v : Nat) : (setShadow s w n i j v).snp = s.snp := by cases w <;> rfl
@[simp] theorem setShadow_nmu (w : World) (n : RegName) (i j v : Nat) : (setShadow s w n i j v).nmu = s.nmu := by cases w <;> rfl
@[simp] theorem setShadow_plat (w : World) (n : RegName) (i j v : Nat) : (setShadow s w n i j v).plat = s.plat := by cases w <;> rfl
@[simp] theorem setShadow_hostLine (w : World) (n : RegName) (i j v : Nat) : (setShadow s w n i j v).hostLine = s.hostLine := by cases w <;> rfl
@[simp] theorem setShadow_fij (w : World) (n : RegName) (i j v : Nat) : (setShadow s w n i j v).fij = s.fij := by cases w <;> rfl
@[simp] theorem setShadow_rasSum (w : World) (n : RegName) (i j v : Nat) : (setShadow s w n i j v).rasSum = s.rasSum := by cases w <;> rfl
@[simp] theorem setShadow_out (w : World) (n : RegName) (i j v : Nat) : (setShadow s w n i j v).out = s.out := by cases w <;> rfl
@[simp] theorem setShadow_freeCtr (w : World) (n : RegName) (i j v : Nat) : (setShadow s w n i j v).freeCtr = s.freeCtr := by cases w <;> rfl
@[simp] theorem setShadow_pending (w : World) (n : RegName) (i j v : Nat) : (setShadow s w n i j v).pending = s.pending := by cases w <;> rfl

/-! ### setRegion: a versioned region -/

@[simp] theorem setRegion_regs (n : Nat) (r : Region) : (setRegion s n r).regs = s.regs := rfl
@[simp] theorem setRegion_waiting (n : Nat) (r : Region) : (setRegion s n r).waiting = s.waiting := rfl
@[simp] theorem setRegion_shadNs (n : Nat) (r : Region) : (setRegion s n r).shadNs = s.shadNs := rfl
@[simp] theorem setRegion_shadS (n : Nat) (r : Region) : (setRegion s n r).shadS = s.shadS := rfl
@[simp] theorem setRegion_time (n : Nat) (r : Region) : (setRegion s n r).time = s.time := rfl
@[simp] theorem setRegion_mem (n : Nat) (r : Region) : (setRegion s n r).mem = s.mem := rfl
@[simp] theorem setRegion_flips (n : Nat) (r : Region) : (setRegion s n r).flips = s.flips := rfl
@[simp] theorem setRegion_evacs (n : Nat) (r : Region) : (setRegion s n r).evacs = s.evacs := rfl
@[simp] theorem setRegion_scrubs (n : Nat) (r : Region) : (setRegion s n r).scrubs = s.scrubs := rfl
@[simp] theorem setRegion_acc (n : Nat) (r : Region) : (setRegion s n r).acc = s.acc := rfl
@[simp] theorem setRegion_host (n : Nat) (r : Region) : (setRegion s n r).host = s.host := rfl
@[simp] theorem setRegion_hostReqs (n : Nat) (r : Region) : (setRegion s n r).hostReqs = s.hostReqs := rfl
@[simp] theorem setRegion_hostAns (n : Nat) (r : Region) : (setRegion s n r).hostAns = s.hostAns := rfl
@[simp] theorem setRegion_hqe (n : Nat) (r : Region) : (setRegion s n r).hqe = s.hqe := rfl
@[simp] theorem setRegion_seq (n : Nat) (r : Region) : (setRegion s n r).seq = { s.seq with regions := mapSet (fun _ => {}) s.seq.regions n r } := rfl
@[simp] theorem setRegion_lhl (n : Nat) (r : Region) : (setRegion s n r).lhl = s.lhl := rfl
@[simp] theorem setRegion_ports (n : Nat) (r : Region) : (setRegion s n r).ports = s.ports := rfl
@[simp] theorem setRegion_bridges (n : Nat) (r : Region) : (setRegion s n r).bridges = s.bridges := rfl
@[simp] theorem setRegion_mcs (n : Nat) (r : Region) : (setRegion s n r).mcs = s.mcs := rfl
@[simp] theorem setRegion_fab (n : Nat) (r : Region) : (setRegion s n r).fab = s.fab := rfl
@[simp] theorem setRegion_mir (n : Nat) (r : Region) : (setRegion s n r).mir = s.mir := rfl
@[simp] theorem setRegion_das (n : Nat) (r : Region) : (setRegion s n r).das = s.das := rfl
@[simp] theorem setRegion_daAlt (n : Nat) (r : Region) : (setRegion s n r).daAlt = s.daAlt := rfl
@[simp] theorem setRegion_ves (n : Nat) (r : Region) : (setRegion s n r).ves = s.ves := rfl
@[simp] theorem setRegion_gath (n : Nat) (r : Region) : (setRegion s n r).gath = s.gath := rfl
@[simp] theorem setRegion_tkr (n : Nat) (r : Region) : (setRegion s n r).tkr = s.tkr := rfl
@[simp] theorem setRegion_mails (n : Nat) (r : Region) : (setRegion s n r).mails = s.mails := rfl
@[simp] theorem setRegion_snp (n : Nat) (r : Region) : (setRegion s n r).snp = s.snp := rfl
@[simp] theorem setRegion_nmu (n : Nat) (r : Region) : (setRegion s n r).nmu = s.nmu := rfl
@[simp] theorem setRegion_plat (n : Nat) (r : Region) : (setRegion s n r).plat = s.plat := rfl
@[simp] theorem setRegion_hostLine (n : Nat) (r : Region) : (setRegion s n r).hostLine = s.hostLine := rfl
@[simp] theorem setRegion_fij (n : Nat) (r : Region) : (setRegion s n r).fij = s.fij := rfl
@[simp] theorem setRegion_rasSum (n : Nat) (r : Region) : (setRegion s n r).rasSum = s.rasSum := rfl
@[simp] theorem setRegion_out (n : Nat) (r : Region) : (setRegion s n r).out = s.out := rfl
@[simp] theorem setRegion_freeCtr (n : Nat) (r : Region) : (setRegion s n r).freeCtr = s.freeCtr := rfl
@[simp] theorem setRegion_pending (n : Nat) (r : Region) : (setRegion s n r).pending = s.pending := rfl

/-! ### emit: an output -/

@[simp] theorem emit_regs (o : Output) : (emit s o).regs = s.regs := rfl
@[simp] theorem emit_waiting (o : Output) : (emit s o).waiting = s.waiting := rfl
@[simp] theorem emit_shadNs (o : Output) : (emit s o).shadNs = s.shadNs := rfl
@[simp] theorem emit_shadS (o : Output) : (emit s o).shadS = s.shadS := rfl
@[simp] theorem emit_time (o : Output) : (emit s o).time = s.time := rfl
@[simp] theorem emit_mem (o : Output) : (emit s o).mem = s.mem := rfl
@[simp] theorem emit_flips (o : Output) : (emit s o).flips = s.flips := rfl
@[simp] theorem emit_evacs (o : Output) : (emit s o).evacs = s.evacs := rfl
@[simp] theorem emit_scrubs (o : Output) : (emit s o).scrubs = s.scrubs := rfl
@[simp] theorem emit_acc (o : Output) : (emit s o).acc = s.acc := rfl
@[simp] theorem emit_host (o : Output) : (emit s o).host = s.host := rfl
@[simp] theorem emit_hostReqs (o : Output) : (emit s o).hostReqs = s.hostReqs := rfl
@[simp] theorem emit_hostAns (o : Output) : (emit s o).hostAns = s.hostAns := rfl
@[simp] theorem emit_hqe (o : Output) : (emit s o).hqe = s.hqe := rfl
@[simp] theorem emit_seq (o : Output) : (emit s o).seq = s.seq := rfl
@[simp] theorem emit_lhl (o : Output) : (emit s o).lhl = s.lhl := rfl
@[simp] theorem emit_ports (o : Output) : (emit s o).ports = s.ports := rfl
@[simp] theorem emit_bridges (o : Output) : (emit s o).bridges = s.bridges := rfl
@[simp] theorem emit_mcs (o : Output) : (emit s o).mcs = s.mcs := rfl
@[simp] theorem emit_fab (o : Output) : (emit s o).fab = s.fab := rfl
@[simp] theorem emit_mir (o : Output) : (emit s o).mir = s.mir := rfl
@[simp] theorem emit_das (o : Output) : (emit s o).das = s.das := rfl
@[simp] theorem emit_daAlt (o : Output) : (emit s o).daAlt = s.daAlt := rfl
@[simp] theorem emit_ves (o : Output) : (emit s o).ves = s.ves := rfl
@[simp] theorem emit_gath (o : Output) : (emit s o).gath = s.gath := rfl
@[simp] theorem emit_tkr (o : Output) : (emit s o).tkr = s.tkr := rfl
@[simp] theorem emit_mails (o : Output) : (emit s o).mails = s.mails := rfl
@[simp] theorem emit_snp (o : Output) : (emit s o).snp = s.snp := rfl
@[simp] theorem emit_nmu (o : Output) : (emit s o).nmu = s.nmu := rfl
@[simp] theorem emit_plat (o : Output) : (emit s o).plat = s.plat := rfl
@[simp] theorem emit_hostLine (o : Output) : (emit s o).hostLine = s.hostLine := rfl
@[simp] theorem emit_fij (o : Output) : (emit s o).fij = s.fij := rfl
@[simp] theorem emit_rasSum (o : Output) : (emit s o).rasSum = s.rasSum := rfl
@[simp] theorem emit_out (o : Output) : (emit s o).out = s.out ++ [o] := rfl
@[simp] theorem emit_freeCtr (o : Output) : (emit s o).freeCtr = s.freeCtr := rfl
@[simp] theorem emit_pending (o : Output) : (emit s o).pending = s.pending := rfl

/-! ### setMem: bytes of device memory -/

@[simp] theorem setMem_regs (a : Nat) (bs : Bytes) : (setMem s a bs).regs = s.regs := rfl
@[simp] theorem setMem_waiting (a : Nat) (bs : Bytes) : (setMem s a bs).waiting = s.waiting := rfl
@[simp] theorem setMem_shadNs (a : Nat) (bs : Bytes) : (setMem s a bs).shadNs = s.shadNs := rfl
@[simp] theorem setMem_shadS (a : Nat) (bs : Bytes) : (setMem s a bs).shadS = s.shadS := rfl
@[simp] theorem setMem_time (a : Nat) (bs : Bytes) : (setMem s a bs).time = s.time := rfl
@[simp] theorem setMem_mem (a : Nat) (bs : Bytes) : (setMem s a bs).mem = mapSetList memD s.mem a bs := rfl
@[simp] theorem setMem_flips (a : Nat) (bs : Bytes) : (setMem s a bs).flips = s.flips := rfl
@[simp] theorem setMem_evacs (a : Nat) (bs : Bytes) : (setMem s a bs).evacs = s.evacs := rfl
@[simp] theorem setMem_scrubs (a : Nat) (bs : Bytes) : (setMem s a bs).scrubs = s.scrubs := rfl
@[simp] theorem setMem_acc (a : Nat) (bs : Bytes) : (setMem s a bs).acc = s.acc := rfl
@[simp] theorem setMem_host (a : Nat) (bs : Bytes) : (setMem s a bs).host = s.host := rfl
@[simp] theorem setMem_hostReqs (a : Nat) (bs : Bytes) : (setMem s a bs).hostReqs = s.hostReqs := rfl
@[simp] theorem setMem_hostAns (a : Nat) (bs : Bytes) : (setMem s a bs).hostAns = s.hostAns := rfl
@[simp] theorem setMem_hqe (a : Nat) (bs : Bytes) : (setMem s a bs).hqe = s.hqe := rfl
@[simp] theorem setMem_seq (a : Nat) (bs : Bytes) : (setMem s a bs).seq = s.seq := rfl
@[simp] theorem setMem_lhl (a : Nat) (bs : Bytes) : (setMem s a bs).lhl = s.lhl := rfl
@[simp] theorem setMem_ports (a : Nat) (bs : Bytes) : (setMem s a bs).ports = s.ports := rfl
@[simp] theorem setMem_bridges (a : Nat) (bs : Bytes) : (setMem s a bs).bridges = s.bridges := rfl
@[simp] theorem setMem_mcs (a : Nat) (bs : Bytes) : (setMem s a bs).mcs = s.mcs := rfl
@[simp] theorem setMem_fab (a : Nat) (bs : Bytes) : (setMem s a bs).fab = s.fab := rfl
@[simp] theorem setMem_mir (a : Nat) (bs : Bytes) : (setMem s a bs).mir = s.mir := rfl
@[simp] theorem setMem_das (a : Nat) (bs : Bytes) : (setMem s a bs).das = s.das := rfl
@[simp] theorem setMem_daAlt (a : Nat) (bs : Bytes) : (setMem s a bs).daAlt = s.daAlt := rfl
@[simp] theorem setMem_ves (a : Nat) (bs : Bytes) : (setMem s a bs).ves = s.ves := rfl
@[simp] theorem setMem_gath (a : Nat) (bs : Bytes) : (setMem s a bs).gath = s.gath := rfl
@[simp] theorem setMem_tkr (a : Nat) (bs : Bytes) : (setMem s a bs).tkr = s.tkr := rfl
@[simp] theorem setMem_mails (a : Nat) (bs : Bytes) : (setMem s a bs).mails = s.mails := rfl
@[simp] theorem setMem_snp (a : Nat) (bs : Bytes) : (setMem s a bs).snp = s.snp := rfl
@[simp] theorem setMem_nmu (a : Nat) (bs : Bytes) : (setMem s a bs).nmu = s.nmu := rfl
@[simp] theorem setMem_plat (a : Nat) (bs : Bytes) : (setMem s a bs).plat = s.plat := rfl
@[simp] theorem setMem_hostLine (a : Nat) (bs : Bytes) : (setMem s a bs).hostLine = s.hostLine := rfl
@[simp] theorem setMem_fij (a : Nat) (bs : Bytes) : (setMem s a bs).fij = s.fij := rfl
@[simp] theorem setMem_rasSum (a : Nat) (bs : Bytes) : (setMem s a bs).rasSum = s.rasSum := rfl
@[simp] theorem setMem_out (a : Nat) (bs : Bytes) : (setMem s a bs).out = s.out := rfl
@[simp] theorem setMem_freeCtr (a : Nat) (bs : Bytes) : (setMem s a bs).freeCtr = s.freeCtr := rfl
@[simp] theorem setMem_pending (a : Nat) (bs : Bytes) : (setMem s a bs).pending = s.pending := rfl

/-! ### setHost: bytes of host memory -/

@[simp] theorem setHost_regs (a : Nat) (bs : Bytes) : (setHost s a bs).regs = s.regs := rfl
@[simp] theorem setHost_waiting (a : Nat) (bs : Bytes) : (setHost s a bs).waiting = s.waiting := rfl
@[simp] theorem setHost_shadNs (a : Nat) (bs : Bytes) : (setHost s a bs).shadNs = s.shadNs := rfl
@[simp] theorem setHost_shadS (a : Nat) (bs : Bytes) : (setHost s a bs).shadS = s.shadS := rfl
@[simp] theorem setHost_time (a : Nat) (bs : Bytes) : (setHost s a bs).time = s.time := rfl
@[simp] theorem setHost_mem (a : Nat) (bs : Bytes) : (setHost s a bs).mem = s.mem := rfl
@[simp] theorem setHost_flips (a : Nat) (bs : Bytes) : (setHost s a bs).flips = s.flips := rfl
@[simp] theorem setHost_evacs (a : Nat) (bs : Bytes) : (setHost s a bs).evacs = s.evacs := rfl
@[simp] theorem setHost_scrubs (a : Nat) (bs : Bytes) : (setHost s a bs).scrubs = s.scrubs := rfl
@[simp] theorem setHost_acc (a : Nat) (bs : Bytes) : (setHost s a bs).acc = s.acc := rfl
@[simp] theorem setHost_host (a : Nat) (bs : Bytes) : (setHost s a bs).host = mapSetList memD s.host a bs := rfl
@[simp] theorem setHost_hostReqs (a : Nat) (bs : Bytes) : (setHost s a bs).hostReqs = s.hostReqs := rfl
@[simp] theorem setHost_hostAns (a : Nat) (bs : Bytes) : (setHost s a bs).hostAns = s.hostAns := rfl
@[simp] theorem setHost_hqe (a : Nat) (bs : Bytes) : (setHost s a bs).hqe = s.hqe := rfl
@[simp] theorem setHost_seq (a : Nat) (bs : Bytes) : (setHost s a bs).seq = s.seq := rfl
@[simp] theorem setHost_lhl (a : Nat) (bs : Bytes) : (setHost s a bs).lhl = s.lhl := rfl
@[simp] theorem setHost_ports (a : Nat) (bs : Bytes) : (setHost s a bs).ports = s.ports := rfl
@[simp] theorem setHost_bridges (a : Nat) (bs : Bytes) : (setHost s a bs).bridges = s.bridges := rfl
@[simp] theorem setHost_mcs (a : Nat) (bs : Bytes) : (setHost s a bs).mcs = s.mcs := rfl
@[simp] theorem setHost_fab (a : Nat) (bs : Bytes) : (setHost s a bs).fab = s.fab := rfl
@[simp] theorem setHost_mir (a : Nat) (bs : Bytes) : (setHost s a bs).mir = s.mir := rfl
@[simp] theorem setHost_das (a : Nat) (bs : Bytes) : (setHost s a bs).das = s.das := rfl
@[simp] theorem setHost_daAlt (a : Nat) (bs : Bytes) : (setHost s a bs).daAlt = s.daAlt := rfl
@[simp] theorem setHost_ves (a : Nat) (bs : Bytes) : (setHost s a bs).ves = s.ves := rfl
@[simp] theorem setHost_gath (a : Nat) (bs : Bytes) : (setHost s a bs).gath = s.gath := rfl
@[simp] theorem setHost_tkr (a : Nat) (bs : Bytes) : (setHost s a bs).tkr = s.tkr := rfl
@[simp] theorem setHost_mails (a : Nat) (bs : Bytes) : (setHost s a bs).mails = s.mails := rfl
@[simp] theorem setHost_snp (a : Nat) (bs : Bytes) : (setHost s a bs).snp = s.snp := rfl
@[simp] theorem setHost_nmu (a : Nat) (bs : Bytes) : (setHost s a bs).nmu = s.nmu := rfl
@[simp] theorem setHost_plat (a : Nat) (bs : Bytes) : (setHost s a bs).plat = s.plat := rfl
@[simp] theorem setHost_hostLine (a : Nat) (bs : Bytes) : (setHost s a bs).hostLine = s.hostLine := rfl
@[simp] theorem setHost_fij (a : Nat) (bs : Bytes) : (setHost s a bs).fij = s.fij := rfl
@[simp] theorem setHost_rasSum (a : Nat) (bs : Bytes) : (setHost s a bs).rasSum = s.rasSum := rfl
@[simp] theorem setHost_out (a : Nat) (bs : Bytes) : (setHost s a bs).out = s.out := rfl
@[simp] theorem setHost_freeCtr (a : Nat) (bs : Bytes) : (setHost s a bs).freeCtr = s.freeCtr := rfl
@[simp] theorem setHost_pending (a : Nat) (bs : Bytes) : (setHost s a bs).pending = s.pending := rfl

/-! ### accSet: an accumulation slot -/

@[simp] theorem accSet_regs (t n : Nat) (l : List Lp) : (accSet s t n l).regs = s.regs := rfl
@[simp] theorem accSet_waiting (t n : Nat) (l : List Lp) : (accSet s t n l).waiting = s.waiting := rfl
@[simp] theorem accSet_shadNs (t n : Nat) (l : List Lp) : (accSet s t n l).shadNs = s.shadNs := rfl
@[simp] theorem accSet_shadS (t n : Nat) (l : List Lp) : (accSet s t n l).shadS = s.shadS := rfl
@[simp] theorem accSet_time (t n : Nat) (l : List Lp) : (accSet s t n l).time = s.time := rfl
@[simp] theorem accSet_mem (t n : Nat) (l : List Lp) : (accSet s t n l).mem = s.mem := rfl
@[simp] theorem accSet_flips (t n : Nat) (l : List Lp) : (accSet s t n l).flips = mapClearRange s.flips (accAddr t n) (accAddr t n + 0x4A00) := rfl
@[simp] theorem accSet_evacs (t n : Nat) (l : List Lp) : (accSet s t n l).evacs = s.evacs := rfl
@[simp] theorem accSet_scrubs (t n : Nat) (l : List Lp) : (accSet s t n l).scrubs = s.scrubs := rfl
@[simp] theorem accSet_acc (t n : Nat) (l : List Lp) : (accSet s t n l).acc = mapSet accD s.acc (13 * t + n) l := rfl
@[simp] theorem accSet_host (t n : Nat) (l : List Lp) : (accSet s t n l).host = s.host := rfl
@[simp] theorem accSet_hostReqs (t n : Nat) (l : List Lp) : (accSet s t n l).hostReqs = s.hostReqs := rfl
@[simp] theorem accSet_hostAns (t n : Nat) (l : List Lp) : (accSet s t n l).hostAns = s.hostAns := rfl
@[simp] theorem accSet_hqe (t n : Nat) (l : List Lp) : (accSet s t n l).hqe = s.hqe := rfl
@[simp] theorem accSet_seq (t n : Nat) (l : List Lp) : (accSet s t n l).seq = s.seq := rfl
@[simp] theorem accSet_lhl (t n : Nat) (l : List Lp) : (accSet s t n l).lhl = s.lhl := rfl
@[simp] theorem accSet_ports (t n : Nat) (l : List Lp) : (accSet s t n l).ports = s.ports := rfl
@[simp] theorem accSet_bridges (t n : Nat) (l : List Lp) : (accSet s t n l).bridges = s.bridges := rfl
@[simp] theorem accSet_mcs (t n : Nat) (l : List Lp) : (accSet s t n l).mcs = s.mcs := rfl
@[simp] theorem accSet_fab (t n : Nat) (l : List Lp) : (accSet s t n l).fab = s.fab := rfl
@[simp] theorem accSet_mir (t n : Nat) (l : List Lp) : (accSet s t n l).mir = s.mir := rfl
@[simp] theorem accSet_das (t n : Nat) (l : List Lp) : (accSet s t n l).das = s.das := rfl
@[simp] theorem accSet_daAlt (t n : Nat) (l : List Lp) : (accSet s t n l).daAlt = s.daAlt := rfl
@[simp] theorem accSet_ves (t n : Nat) (l : List Lp) : (accSet s t n l).ves = s.ves := rfl
@[simp] theorem accSet_gath (t n : Nat) (l : List Lp) : (accSet s t n l).gath = s.gath := rfl
@[simp] theorem accSet_tkr (t n : Nat) (l : List Lp) : (accSet s t n l).tkr = s.tkr := rfl
@[simp] theorem accSet_mails (t n : Nat) (l : List Lp) : (accSet s t n l).mails = s.mails := rfl
@[simp] theorem accSet_snp (t n : Nat) (l : List Lp) : (accSet s t n l).snp = s.snp := rfl
@[simp] theorem accSet_nmu (t n : Nat) (l : List Lp) : (accSet s t n l).nmu = s.nmu := rfl
@[simp] theorem accSet_plat (t n : Nat) (l : List Lp) : (accSet s t n l).plat = s.plat := rfl
@[simp] theorem accSet_hostLine (t n : Nat) (l : List Lp) : (accSet s t n l).hostLine = s.hostLine := rfl
@[simp] theorem accSet_fij (t n : Nat) (l : List Lp) : (accSet s t n l).fij = s.fij := rfl
@[simp] theorem accSet_rasSum (t n : Nat) (l : List Lp) : (accSet s t n l).rasSum = s.rasSum := rfl
@[simp] theorem accSet_out (t n : Nat) (l : List Lp) : (accSet s t n l).out = s.out := rfl
@[simp] theorem accSet_freeCtr (t n : Nat) (l : List Lp) : (accSet s t n l).freeCtr = s.freeCtr := rfl
@[simp] theorem accSet_pending (t n : Nat) (l : List Lp) : (accSet s t n l).pending = s.pending := rfl

/-! ### setPlan: the running plan of a kind -/

@[simp] theorem setPlan_regs (k : PlanKind) (p : Option PlanRun) : (setPlan s k p).regs = s.regs := by cases k <;> rfl
@[simp] theorem setPlan_waiting (k : PlanKind) (p : Option PlanRun) : (setPlan s k p).waiting = s.waiting := by cases k <;> rfl
@[simp] theorem setPlan_shadNs (k : PlanKind) (p : Option PlanRun) : (setPlan s k p).shadNs = s.shadNs := by cases k <;> rfl
@[simp] theorem setPlan_shadS (k : PlanKind) (p : Option PlanRun) : (setPlan s k p).shadS = s.shadS := by cases k <;> rfl
@[simp] theorem setPlan_time (k : PlanKind) (p : Option PlanRun) : (setPlan s k p).time = s.time := by cases k <;> rfl
@[simp] theorem setPlan_mem (k : PlanKind) (p : Option PlanRun) : (setPlan s k p).mem = s.mem := by cases k <;> rfl
@[simp] theorem setPlan_flips (k : PlanKind) (p : Option PlanRun) : (setPlan s k p).flips = s.flips := by cases k <;> rfl
@[simp] theorem setPlan_evacs (k : PlanKind) (p : Option PlanRun) : (setPlan s k p).evacs = s.evacs := by cases k <;> rfl
@[simp] theorem setPlan_scrubs (k : PlanKind) (p : Option PlanRun) : (setPlan s k p).scrubs = s.scrubs := by cases k <;> rfl
@[simp] theorem setPlan_acc (k : PlanKind) (p : Option PlanRun) : (setPlan s k p).acc = s.acc := by cases k <;> rfl
@[simp] theorem setPlan_host (k : PlanKind) (p : Option PlanRun) : (setPlan s k p).host = s.host := by cases k <;> rfl
@[simp] theorem setPlan_hostReqs (k : PlanKind) (p : Option PlanRun) : (setPlan s k p).hostReqs = s.hostReqs := by cases k <;> rfl
@[simp] theorem setPlan_hostAns (k : PlanKind) (p : Option PlanRun) : (setPlan s k p).hostAns = s.hostAns := by cases k <;> rfl
@[simp] theorem setPlan_hqe (k : PlanKind) (p : Option PlanRun) : (setPlan s k p).hqe = s.hqe := by cases k <;> rfl
@[simp] theorem setPlan_lhl (k : PlanKind) (p : Option PlanRun) : (setPlan s k p).lhl = s.lhl := by cases k <;> rfl
@[simp] theorem setPlan_ports (k : PlanKind) (p : Option PlanRun) : (setPlan s k p).ports = s.ports := by cases k <;> rfl
@[simp] theorem setPlan_bridges (k : PlanKind) (p : Option PlanRun) : (setPlan s k p).bridges = s.bridges := by cases k <;> rfl
@[simp] theorem setPlan_mcs (k : PlanKind) (p : Option PlanRun) : (setPlan s k p).mcs = s.mcs := by cases k <;> rfl
@[simp] theorem setPlan_fab (k : PlanKind) (p : Option PlanRun) : (setPlan s k p).fab = s.fab := by cases k <;> rfl
@[simp] theorem setPlan_mir (k : PlanKind) (p : Option PlanRun) : (setPlan s k p).mir = s.mir := by cases k <;> rfl
@[simp] theorem setPlan_das (k : PlanKind) (p : Option PlanRun) : (setPlan s k p).das = s.das := by cases k <;> rfl
@[simp] theorem setPlan_daAlt (k : PlanKind) (p : Option PlanRun) : (setPlan s k p).daAlt = s.daAlt := by cases k <;> rfl
@[simp] theorem setPlan_ves (k : PlanKind) (p : Option PlanRun) : (setPlan s k p).ves = s.ves := by cases k <;> rfl
@[simp] theorem setPlan_gath (k : PlanKind) (p : Option PlanRun) : (setPlan s k p).gath = s.gath := by cases k <;> rfl
@[simp] theorem setPlan_tkr (k : PlanKind) (p : Option PlanRun) : (setPlan s k p).tkr = s.tkr := by cases k <;> rfl
@[simp] theorem setPlan_mails (k : PlanKind) (p : Option PlanRun) : (setPlan s k p).mails = s.mails := by cases k <;> rfl
@[simp] theorem setPlan_snp (k : PlanKind) (p : Option PlanRun) : (setPlan s k p).snp = s.snp := by cases k <;> rfl
@[simp] theorem setPlan_nmu (k : PlanKind) (p : Option PlanRun) : (setPlan s k p).nmu = s.nmu := by cases k <;> rfl
@[simp] theorem setPlan_plat (k : PlanKind) (p : Option PlanRun) : (setPlan s k p).plat = s.plat := by cases k <;> rfl
@[simp] theorem setPlan_hostLine (k : PlanKind) (p : Option PlanRun) : (setPlan s k p).hostLine = s.hostLine := by cases k <;> rfl
@[simp] theorem setPlan_fij (k : PlanKind) (p : Option PlanRun) : (setPlan s k p).fij = s.fij := by cases k <;> rfl
@[simp] theorem setPlan_rasSum (k : PlanKind) (p : Option PlanRun) : (setPlan s k p).rasSum = s.rasSum := by cases k <;> rfl
@[simp] theorem setPlan_out (k : PlanKind) (p : Option PlanRun) : (setPlan s k p).out = s.out := by cases k <;> rfl
@[simp] theorem setPlan_freeCtr (k : PlanKind) (p : Option PlanRun) : (setPlan s k p).freeCtr = s.freeCtr := by cases k <;> rfl
@[simp] theorem setPlan_pending (k : PlanKind) (p : Option PlanRun) : (setPlan s k p).pending = s.pending := by cases k <;> rfl

/-! ### modPlan: a change of the running plan -/

@[simp] theorem modPlan_regs (k : PlanKind) (f : PlanRun → PlanRun) : (modPlan s k f).regs = s.regs := by cases k <;> rfl
@[simp] theorem modPlan_waiting (k : PlanKind) (f : PlanRun → PlanRun) : (modPlan s k f).waiting = s.waiting := by cases k <;> rfl
@[simp] theorem modPlan_shadNs (k : PlanKind) (f : PlanRun → PlanRun) : (modPlan s k f).shadNs = s.shadNs := by cases k <;> rfl
@[simp] theorem modPlan_shadS (k : PlanKind) (f : PlanRun → PlanRun) : (modPlan s k f).shadS = s.shadS := by cases k <;> rfl
@[simp] theorem modPlan_time (k : PlanKind) (f : PlanRun → PlanRun) : (modPlan s k f).time = s.time := by cases k <;> rfl
@[simp] theorem modPlan_mem (k : PlanKind) (f : PlanRun → PlanRun) : (modPlan s k f).mem = s.mem := by cases k <;> rfl
@[simp] theorem modPlan_flips (k : PlanKind) (f : PlanRun → PlanRun) : (modPlan s k f).flips = s.flips := by cases k <;> rfl
@[simp] theorem modPlan_evacs (k : PlanKind) (f : PlanRun → PlanRun) : (modPlan s k f).evacs = s.evacs := by cases k <;> rfl
@[simp] theorem modPlan_scrubs (k : PlanKind) (f : PlanRun → PlanRun) : (modPlan s k f).scrubs = s.scrubs := by cases k <;> rfl
@[simp] theorem modPlan_acc (k : PlanKind) (f : PlanRun → PlanRun) : (modPlan s k f).acc = s.acc := by cases k <;> rfl
@[simp] theorem modPlan_host (k : PlanKind) (f : PlanRun → PlanRun) : (modPlan s k f).host = s.host := by cases k <;> rfl
@[simp] theorem modPlan_hostReqs (k : PlanKind) (f : PlanRun → PlanRun) : (modPlan s k f).hostReqs = s.hostReqs := by cases k <;> rfl
@[simp] theorem modPlan_hostAns (k : PlanKind) (f : PlanRun → PlanRun) : (modPlan s k f).hostAns = s.hostAns := by cases k <;> rfl
@[simp] theorem modPlan_hqe (k : PlanKind) (f : PlanRun → PlanRun) : (modPlan s k f).hqe = s.hqe := by cases k <;> rfl
@[simp] theorem modPlan_lhl (k : PlanKind) (f : PlanRun → PlanRun) : (modPlan s k f).lhl = s.lhl := by cases k <;> rfl
@[simp] theorem modPlan_ports (k : PlanKind) (f : PlanRun → PlanRun) : (modPlan s k f).ports = s.ports := by cases k <;> rfl
@[simp] theorem modPlan_bridges (k : PlanKind) (f : PlanRun → PlanRun) : (modPlan s k f).bridges = s.bridges := by cases k <;> rfl
@[simp] theorem modPlan_mcs (k : PlanKind) (f : PlanRun → PlanRun) : (modPlan s k f).mcs = s.mcs := by cases k <;> rfl
@[simp] theorem modPlan_fab (k : PlanKind) (f : PlanRun → PlanRun) : (modPlan s k f).fab = s.fab := by cases k <;> rfl
@[simp] theorem modPlan_mir (k : PlanKind) (f : PlanRun → PlanRun) : (modPlan s k f).mir = s.mir := by cases k <;> rfl
@[simp] theorem modPlan_das (k : PlanKind) (f : PlanRun → PlanRun) : (modPlan s k f).das = s.das := by cases k <;> rfl
@[simp] theorem modPlan_daAlt (k : PlanKind) (f : PlanRun → PlanRun) : (modPlan s k f).daAlt = s.daAlt := by cases k <;> rfl
@[simp] theorem modPlan_ves (k : PlanKind) (f : PlanRun → PlanRun) : (modPlan s k f).ves = s.ves := by cases k <;> rfl
@[simp] theorem modPlan_gath (k : PlanKind) (f : PlanRun → PlanRun) : (modPlan s k f).gath = s.gath := by cases k <;> rfl
@[simp] theorem modPlan_tkr (k : PlanKind) (f : PlanRun → PlanRun) : (modPlan s k f).tkr = s.tkr := by cases k <;> rfl
@[simp] theorem modPlan_mails (k : PlanKind) (f : PlanRun → PlanRun) : (modPlan s k f).mails = s.mails := by cases k <;> rfl
@[simp] theorem modPlan_snp (k : PlanKind) (f : PlanRun → PlanRun) : (modPlan s k f).snp = s.snp := by cases k <;> rfl
@[simp] theorem modPlan_nmu (k : PlanKind) (f : PlanRun → PlanRun) : (modPlan s k f).nmu = s.nmu := by cases k <;> rfl
@[simp] theorem modPlan_plat (k : PlanKind) (f : PlanRun → PlanRun) : (modPlan s k f).plat = s.plat := by cases k <;> rfl
@[simp] theorem modPlan_hostLine (k : PlanKind) (f : PlanRun → PlanRun) : (modPlan s k f).hostLine = s.hostLine := by cases k <;> rfl
@[simp] theorem modPlan_fij (k : PlanKind) (f : PlanRun → PlanRun) : (modPlan s k f).fij = s.fij := by cases k <;> rfl
@[simp] theorem modPlan_rasSum (k : PlanKind) (f : PlanRun → PlanRun) : (modPlan s k f).rasSum = s.rasSum := by cases k <;> rfl
@[simp] theorem modPlan_out (k : PlanKind) (f : PlanRun → PlanRun) : (modPlan s k f).out = s.out := by cases k <;> rfl
@[simp] theorem modPlan_freeCtr (k : PlanKind) (f : PlanRun → PlanRun) : (modPlan s k f).freeCtr = s.freeCtr := by cases k <;> rfl
@[simp] theorem modPlan_pending (k : PlanKind) (f : PlanRun → PlanRun) : (modPlan s k f).pending = s.pending := by cases k <;> rfl

/-! ### modPhase: a change of the running phase -/

@[simp] theorem modPhase_regs (k : PlanKind) (f : PhaseRun → PhaseRun) : (modPhase s k f).regs = s.regs := by cases k <;> rfl
@[simp] theorem modPhase_waiting (k : PlanKind) (f : PhaseRun → PhaseRun) : (modPhase s k f).waiting = s.waiting := by cases k <;> rfl
@[simp] theorem modPhase_shadNs (k : PlanKind) (f : PhaseRun → PhaseRun) : (modPhase s k f).shadNs = s.shadNs := by cases k <;> rfl
@[simp] theorem modPhase_shadS (k : PlanKind) (f : PhaseRun → PhaseRun) : (modPhase s k f).shadS = s.shadS := by cases k <;> rfl
@[simp] theorem modPhase_time (k : PlanKind) (f : PhaseRun → PhaseRun) : (modPhase s k f).time = s.time := by cases k <;> rfl
@[simp] theorem modPhase_mem (k : PlanKind) (f : PhaseRun → PhaseRun) : (modPhase s k f).mem = s.mem := by cases k <;> rfl
@[simp] theorem modPhase_flips (k : PlanKind) (f : PhaseRun → PhaseRun) : (modPhase s k f).flips = s.flips := by cases k <;> rfl
@[simp] theorem modPhase_evacs (k : PlanKind) (f : PhaseRun → PhaseRun) : (modPhase s k f).evacs = s.evacs := by cases k <;> rfl
@[simp] theorem modPhase_scrubs (k : PlanKind) (f : PhaseRun → PhaseRun) : (modPhase s k f).scrubs = s.scrubs := by cases k <;> rfl
@[simp] theorem modPhase_acc (k : PlanKind) (f : PhaseRun → PhaseRun) : (modPhase s k f).acc = s.acc := by cases k <;> rfl
@[simp] theorem modPhase_host (k : PlanKind) (f : PhaseRun → PhaseRun) : (modPhase s k f).host = s.host := by cases k <;> rfl
@[simp] theorem modPhase_hostReqs (k : PlanKind) (f : PhaseRun → PhaseRun) : (modPhase s k f).hostReqs = s.hostReqs := by cases k <;> rfl
@[simp] theorem modPhase_hostAns (k : PlanKind) (f : PhaseRun → PhaseRun) : (modPhase s k f).hostAns = s.hostAns := by cases k <;> rfl
@[simp] theorem modPhase_hqe (k : PlanKind) (f : PhaseRun → PhaseRun) : (modPhase s k f).hqe = s.hqe := by cases k <;> rfl
@[simp] theorem modPhase_lhl (k : PlanKind) (f : PhaseRun → PhaseRun) : (modPhase s k f).lhl = s.lhl := by cases k <;> rfl
@[simp] theorem modPhase_ports (k : PlanKind) (f : PhaseRun → PhaseRun) : (modPhase s k f).ports = s.ports := by cases k <;> rfl
@[simp] theorem modPhase_bridges (k : PlanKind) (f : PhaseRun → PhaseRun) : (modPhase s k f).bridges = s.bridges := by cases k <;> rfl
@[simp] theorem modPhase_mcs (k : PlanKind) (f : PhaseRun → PhaseRun) : (modPhase s k f).mcs = s.mcs := by cases k <;> rfl
@[simp] theorem modPhase_fab (k : PlanKind) (f : PhaseRun → PhaseRun) : (modPhase s k f).fab = s.fab := by cases k <;> rfl
@[simp] theorem modPhase_mir (k : PlanKind) (f : PhaseRun → PhaseRun) : (modPhase s k f).mir = s.mir := by cases k <;> rfl
@[simp] theorem modPhase_das (k : PlanKind) (f : PhaseRun → PhaseRun) : (modPhase s k f).das = s.das := by cases k <;> rfl
@[simp] theorem modPhase_daAlt (k : PlanKind) (f : PhaseRun → PhaseRun) : (modPhase s k f).daAlt = s.daAlt := by cases k <;> rfl
@[simp] theorem modPhase_ves (k : PlanKind) (f : PhaseRun → PhaseRun) : (modPhase s k f).ves = s.ves := by cases k <;> rfl
@[simp] theorem modPhase_gath (k : PlanKind) (f : PhaseRun → PhaseRun) : (modPhase s k f).gath = s.gath := by cases k <;> rfl
@[simp] theorem modPhase_tkr (k : PlanKind) (f : PhaseRun → PhaseRun) : (modPhase s k f).tkr = s.tkr := by cases k <;> rfl
@[simp] theorem modPhase_mails (k : PlanKind) (f : PhaseRun → PhaseRun) : (modPhase s k f).mails = s.mails := by cases k <;> rfl
@[simp] theorem modPhase_snp (k : PlanKind) (f : PhaseRun → PhaseRun) : (modPhase s k f).snp = s.snp := by cases k <;> rfl
@[simp] theorem modPhase_nmu (k : PlanKind) (f : PhaseRun → PhaseRun) : (modPhase s k f).nmu = s.nmu := by cases k <;> rfl
@[simp] theorem modPhase_plat (k : PlanKind) (f : PhaseRun → PhaseRun) : (modPhase s k f).plat = s.plat := by cases k <;> rfl
@[simp] theorem modPhase_hostLine (k : PlanKind) (f : PhaseRun → PhaseRun) : (modPhase s k f).hostLine = s.hostLine := by cases k <;> rfl
@[simp] theorem modPhase_fij (k : PlanKind) (f : PhaseRun → PhaseRun) : (modPhase s k f).fij = s.fij := by cases k <;> rfl
@[simp] theorem modPhase_rasSum (k : PlanKind) (f : PhaseRun → PhaseRun) : (modPhase s k f).rasSum = s.rasSum := by cases k <;> rfl
@[simp] theorem modPhase_out (k : PlanKind) (f : PhaseRun → PhaseRun) : (modPhase s k f).out = s.out := by cases k <;> rfl
@[simp] theorem modPhase_freeCtr (k : PlanKind) (f : PhaseRun → PhaseRun) : (modPhase s k f).freeCtr = s.freeCtr := by cases k <;> rfl
@[simp] theorem modPhase_pending (k : PlanKind) (f : PhaseRun → PhaseRun) : (modPhase s k f).pending = s.pending := by cases k <;> rfl

/-! ### modIssued: a change of an issued command -/

@[simp] theorem modIssued_regs (i : Nat) (f : Issued → Issued) : (modIssued s i f).regs = s.regs := rfl
@[simp] theorem modIssued_waiting (i : Nat) (f : Issued → Issued) : (modIssued s i f).waiting = s.waiting := rfl
@[simp] theorem modIssued_shadNs (i : Nat) (f : Issued → Issued) : (modIssued s i f).shadNs = s.shadNs := rfl
@[simp] theorem modIssued_shadS (i : Nat) (f : Issued → Issued) : (modIssued s i f).shadS = s.shadS := rfl
@[simp] theorem modIssued_time (i : Nat) (f : Issued → Issued) : (modIssued s i f).time = s.time := rfl
@[simp] theorem modIssued_mem (i : Nat) (f : Issued → Issued) : (modIssued s i f).mem = s.mem := rfl
@[simp] theorem modIssued_flips (i : Nat) (f : Issued → Issued) : (modIssued s i f).flips = s.flips := rfl
@[simp] theorem modIssued_evacs (i : Nat) (f : Issued → Issued) : (modIssued s i f).evacs = s.evacs := rfl
@[simp] theorem modIssued_scrubs (i : Nat) (f : Issued → Issued) : (modIssued s i f).scrubs = s.scrubs := rfl
@[simp] theorem modIssued_acc (i : Nat) (f : Issued → Issued) : (modIssued s i f).acc = s.acc := rfl
@[simp] theorem modIssued_host (i : Nat) (f : Issued → Issued) : (modIssued s i f).host = s.host := rfl
@[simp] theorem modIssued_hostReqs (i : Nat) (f : Issued → Issued) : (modIssued s i f).hostReqs = s.hostReqs := rfl
@[simp] theorem modIssued_hostAns (i : Nat) (f : Issued → Issued) : (modIssued s i f).hostAns = s.hostAns := rfl
@[simp] theorem modIssued_hqe (i : Nat) (f : Issued → Issued) : (modIssued s i f).hqe = { s.hqe with issued := updWhere (fun c => c.iid == i) f s.hqe.issued } := rfl
@[simp] theorem modIssued_seq (i : Nat) (f : Issued → Issued) : (modIssued s i f).seq = s.seq := rfl
@[simp] theorem modIssued_lhl (i : Nat) (f : Issued → Issued) : (modIssued s i f).lhl = s.lhl := rfl
@[simp] theorem modIssued_ports (i : Nat) (f : Issued → Issued) : (modIssued s i f).ports = s.ports := rfl
@[simp] theorem modIssued_bridges (i : Nat) (f : Issued → Issued) : (modIssued s i f).bridges = s.bridges := rfl
@[simp] theorem modIssued_mcs (i : Nat) (f : Issued → Issued) : (modIssued s i f).mcs = s.mcs := rfl
@[simp] theorem modIssued_fab (i : Nat) (f : Issued → Issued) : (modIssued s i f).fab = s.fab := rfl
@[simp] theorem modIssued_mir (i : Nat) (f : Issued → Issued) : (modIssued s i f).mir = s.mir := rfl
@[simp] theorem modIssued_das (i : Nat) (f : Issued → Issued) : (modIssued s i f).das = s.das := rfl
@[simp] theorem modIssued_daAlt (i : Nat) (f : Issued → Issued) : (modIssued s i f).daAlt = s.daAlt := rfl
@[simp] theorem modIssued_ves (i : Nat) (f : Issued → Issued) : (modIssued s i f).ves = s.ves := rfl
@[simp] theorem modIssued_gath (i : Nat) (f : Issued → Issued) : (modIssued s i f).gath = s.gath := rfl
@[simp] theorem modIssued_tkr (i : Nat) (f : Issued → Issued) : (modIssued s i f).tkr = s.tkr := rfl
@[simp] theorem modIssued_mails (i : Nat) (f : Issued → Issued) : (modIssued s i f).mails = s.mails := rfl
@[simp] theorem modIssued_snp (i : Nat) (f : Issued → Issued) : (modIssued s i f).snp = s.snp := rfl
@[simp] theorem modIssued_nmu (i : Nat) (f : Issued → Issued) : (modIssued s i f).nmu = s.nmu := rfl
@[simp] theorem modIssued_plat (i : Nat) (f : Issued → Issued) : (modIssued s i f).plat = s.plat := rfl
@[simp] theorem modIssued_hostLine (i : Nat) (f : Issued → Issued) : (modIssued s i f).hostLine = s.hostLine := rfl
@[simp] theorem modIssued_fij (i : Nat) (f : Issued → Issued) : (modIssued s i f).fij = s.fij := rfl
@[simp] theorem modIssued_rasSum (i : Nat) (f : Issued → Issued) : (modIssued s i f).rasSum = s.rasSum := rfl
@[simp] theorem modIssued_out (i : Nat) (f : Issued → Issued) : (modIssued s i f).out = s.out := rfl
@[simp] theorem modIssued_freeCtr (i : Nat) (f : Issued → Issued) : (modIssued s i f).freeCtr = s.freeCtr := rfl
@[simp] theorem modIssued_pending (i : Nat) (f : Issued → Issued) : (modIssued s i f).pending = s.pending := rfl

/-! ### setRing: a ring's context -/

@[simp] theorem setRing_regs (n : Nat) (r : Ring) : (setRing s n r).regs = s.regs := rfl
@[simp] theorem setRing_waiting (n : Nat) (r : Ring) : (setRing s n r).waiting = s.waiting := rfl
@[simp] theorem setRing_shadNs (n : Nat) (r : Ring) : (setRing s n r).shadNs = s.shadNs := rfl
@[simp] theorem setRing_shadS (n : Nat) (r : Ring) : (setRing s n r).shadS = s.shadS := rfl
@[simp] theorem setRing_time (n : Nat) (r : Ring) : (setRing s n r).time = s.time := rfl
@[simp] theorem setRing_mem (n : Nat) (r : Ring) : (setRing s n r).mem = s.mem := rfl
@[simp] theorem setRing_flips (n : Nat) (r : Ring) : (setRing s n r).flips = s.flips := rfl
@[simp] theorem setRing_evacs (n : Nat) (r : Ring) : (setRing s n r).evacs = s.evacs := rfl
@[simp] theorem setRing_scrubs (n : Nat) (r : Ring) : (setRing s n r).scrubs = s.scrubs := rfl
@[simp] theorem setRing_acc (n : Nat) (r : Ring) : (setRing s n r).acc = s.acc := rfl
@[simp] theorem setRing_host (n : Nat) (r : Ring) : (setRing s n r).host = s.host := rfl
@[simp] theorem setRing_hostReqs (n : Nat) (r : Ring) : (setRing s n r).hostReqs = s.hostReqs := rfl
@[simp] theorem setRing_hostAns (n : Nat) (r : Ring) : (setRing s n r).hostAns = s.hostAns := rfl
@[simp] theorem setRing_hqe (n : Nat) (r : Ring) : (setRing s n r).hqe = { s.hqe with rings := mapSet (fun _ => {}) s.hqe.rings n r } := rfl
@[simp] theorem setRing_seq (n : Nat) (r : Ring) : (setRing s n r).seq = s.seq := rfl
@[simp] theorem setRing_lhl (n : Nat) (r : Ring) : (setRing s n r).lhl = s.lhl := rfl
@[simp] theorem setRing_ports (n : Nat) (r : Ring) : (setRing s n r).ports = s.ports := rfl
@[simp] theorem setRing_bridges (n : Nat) (r : Ring) : (setRing s n r).bridges = s.bridges := rfl
@[simp] theorem setRing_mcs (n : Nat) (r : Ring) : (setRing s n r).mcs = s.mcs := rfl
@[simp] theorem setRing_fab (n : Nat) (r : Ring) : (setRing s n r).fab = s.fab := rfl
@[simp] theorem setRing_mir (n : Nat) (r : Ring) : (setRing s n r).mir = s.mir := rfl
@[simp] theorem setRing_das (n : Nat) (r : Ring) : (setRing s n r).das = s.das := rfl
@[simp] theorem setRing_daAlt (n : Nat) (r : Ring) : (setRing s n r).daAlt = s.daAlt := rfl
@[simp] theorem setRing_ves (n : Nat) (r : Ring) : (setRing s n r).ves = s.ves := rfl
@[simp] theorem setRing_gath (n : Nat) (r : Ring) : (setRing s n r).gath = s.gath := rfl
@[simp] theorem setRing_tkr (n : Nat) (r : Ring) : (setRing s n r).tkr = s.tkr := rfl
@[simp] theorem setRing_mails (n : Nat) (r : Ring) : (setRing s n r).mails = s.mails := rfl
@[simp] theorem setRing_snp (n : Nat) (r : Ring) : (setRing s n r).snp = s.snp := rfl
@[simp] theorem setRing_nmu (n : Nat) (r : Ring) : (setRing s n r).nmu = s.nmu := rfl
@[simp] theorem setRing_plat (n : Nat) (r : Ring) : (setRing s n r).plat = s.plat := rfl
@[simp] theorem setRing_hostLine (n : Nat) (r : Ring) : (setRing s n r).hostLine = s.hostLine := rfl
@[simp] theorem setRing_fij (n : Nat) (r : Ring) : (setRing s n r).fij = s.fij := rfl
@[simp] theorem setRing_rasSum (n : Nat) (r : Ring) : (setRing s n r).rasSum = s.rasSum := rfl
@[simp] theorem setRing_out (n : Nat) (r : Ring) : (setRing s n r).out = s.out := rfl
@[simp] theorem setRing_freeCtr (n : Nat) (r : Ring) : (setRing s n r).freeCtr = s.freeCtr := rfl
@[simp] theorem setRing_pending (n : Nat) (r : Ring) : (setRing s n r).pending = s.pending := rfl

/-! ### setLink: a link -/

@[simp] theorem setLink_regs (i : LinkId) (l : Link) : (setLink s i l).regs = s.regs := by cases i <;> rfl
@[simp] theorem setLink_waiting (i : LinkId) (l : Link) : (setLink s i l).waiting = s.waiting := by cases i <;> rfl
@[simp] theorem setLink_shadNs (i : LinkId) (l : Link) : (setLink s i l).shadNs = s.shadNs := by cases i <;> rfl
@[simp] theorem setLink_shadS (i : LinkId) (l : Link) : (setLink s i l).shadS = s.shadS := by cases i <;> rfl
@[simp] theorem setLink_time (i : LinkId) (l : Link) : (setLink s i l).time = s.time := by cases i <;> rfl
@[simp] theorem setLink_mem (i : LinkId) (l : Link) : (setLink s i l).mem = s.mem := by cases i <;> rfl
@[simp] theorem setLink_flips (i : LinkId) (l : Link) : (setLink s i l).flips = s.flips := by cases i <;> rfl
@[simp] theorem setLink_evacs (i : LinkId) (l : Link) : (setLink s i l).evacs = s.evacs := by cases i <;> rfl
@[simp] theorem setLink_scrubs (i : LinkId) (l : Link) : (setLink s i l).scrubs = s.scrubs := by cases i <;> rfl
@[simp] theorem setLink_acc (i : LinkId) (l : Link) : (setLink s i l).acc = s.acc := by cases i <;> rfl
@[simp] theorem setLink_host (i : LinkId) (l : Link) : (setLink s i l).host = s.host := by cases i <;> rfl
@[simp] theorem setLink_hostReqs (i : LinkId) (l : Link) : (setLink s i l).hostReqs = s.hostReqs := by cases i <;> rfl
@[simp] theorem setLink_hostAns (i : LinkId) (l : Link) : (setLink s i l).hostAns = s.hostAns := by cases i <;> rfl
@[simp] theorem setLink_hqe (i : LinkId) (l : Link) : (setLink s i l).hqe = s.hqe := by cases i <;> rfl
@[simp] theorem setLink_seq (i : LinkId) (l : Link) : (setLink s i l).seq = s.seq := by cases i <;> rfl
@[simp] theorem setLink_bridges (i : LinkId) (l : Link) : (setLink s i l).bridges = s.bridges := by cases i <;> rfl
@[simp] theorem setLink_mcs (i : LinkId) (l : Link) : (setLink s i l).mcs = s.mcs := by cases i <;> rfl
@[simp] theorem setLink_fab (i : LinkId) (l : Link) : (setLink s i l).fab = s.fab := by cases i <;> rfl
@[simp] theorem setLink_mir (i : LinkId) (l : Link) : (setLink s i l).mir = s.mir := by cases i <;> rfl
@[simp] theorem setLink_das (i : LinkId) (l : Link) : (setLink s i l).das = s.das := by cases i <;> rfl
@[simp] theorem setLink_daAlt (i : LinkId) (l : Link) : (setLink s i l).daAlt = s.daAlt := by cases i <;> rfl
@[simp] theorem setLink_ves (i : LinkId) (l : Link) : (setLink s i l).ves = s.ves := by cases i <;> rfl
@[simp] theorem setLink_gath (i : LinkId) (l : Link) : (setLink s i l).gath = s.gath := by cases i <;> rfl
@[simp] theorem setLink_tkr (i : LinkId) (l : Link) : (setLink s i l).tkr = s.tkr := by cases i <;> rfl
@[simp] theorem setLink_mails (i : LinkId) (l : Link) : (setLink s i l).mails = s.mails := by cases i <;> rfl
@[simp] theorem setLink_snp (i : LinkId) (l : Link) : (setLink s i l).snp = s.snp := by cases i <;> rfl
@[simp] theorem setLink_nmu (i : LinkId) (l : Link) : (setLink s i l).nmu = s.nmu := by cases i <;> rfl
@[simp] theorem setLink_plat (i : LinkId) (l : Link) : (setLink s i l).plat = s.plat := by cases i <;> rfl
@[simp] theorem setLink_hostLine (i : LinkId) (l : Link) : (setLink s i l).hostLine = s.hostLine := by cases i <;> rfl
@[simp] theorem setLink_fij (i : LinkId) (l : Link) : (setLink s i l).fij = s.fij := by cases i <;> rfl
@[simp] theorem setLink_rasSum (i : LinkId) (l : Link) : (setLink s i l).rasSum = s.rasSum := by cases i <;> rfl
@[simp] theorem setLink_out (i : LinkId) (l : Link) : (setLink s i l).out = s.out := by cases i <;> rfl
@[simp] theorem setLink_freeCtr (i : LinkId) (l : Link) : (setLink s i l).freeCtr = s.freeCtr := by cases i <;> rfl
@[simp] theorem setLink_pending (i : LinkId) (l : Link) : (setLink s i l).pending = s.pending := by cases i <;> rfl

/-! ### setBridge: a die bridge -/

@[simp] theorem setBridge_regs (k : Nat) (b : Bridge) : (setBridge s k b).regs = s.regs := rfl
@[simp] theorem setBridge_waiting (k : Nat) (b : Bridge) : (setBridge s k b).waiting = s.waiting := rfl
@[simp] theorem setBridge_shadNs (k : Nat) (b : Bridge) : (setBridge s k b).shadNs = s.shadNs := rfl
@[simp] theorem setBridge_shadS (k : Nat) (b : Bridge) : (setBridge s k b).shadS = s.shadS := rfl
@[simp] theorem setBridge_time (k : Nat) (b : Bridge) : (setBridge s k b).time = s.time := rfl
@[simp] theorem setBridge_mem (k : Nat) (b : Bridge) : (setBridge s k b).mem = s.mem := rfl
@[simp] theorem setBridge_flips (k : Nat) (b : Bridge) : (setBridge s k b).flips = s.flips := rfl
@[simp] theorem setBridge_evacs (k : Nat) (b : Bridge) : (setBridge s k b).evacs = s.evacs := rfl
@[simp] theorem setBridge_scrubs (k : Nat) (b : Bridge) : (setBridge s k b).scrubs = s.scrubs := rfl
@[simp] theorem setBridge_acc (k : Nat) (b : Bridge) : (setBridge s k b).acc = s.acc := rfl
@[simp] theorem setBridge_host (k : Nat) (b : Bridge) : (setBridge s k b).host = s.host := rfl
@[simp] theorem setBridge_hostReqs (k : Nat) (b : Bridge) : (setBridge s k b).hostReqs = s.hostReqs := rfl
@[simp] theorem setBridge_hostAns (k : Nat) (b : Bridge) : (setBridge s k b).hostAns = s.hostAns := rfl
@[simp] theorem setBridge_hqe (k : Nat) (b : Bridge) : (setBridge s k b).hqe = s.hqe := rfl
@[simp] theorem setBridge_seq (k : Nat) (b : Bridge) : (setBridge s k b).seq = s.seq := rfl
@[simp] theorem setBridge_lhl (k : Nat) (b : Bridge) : (setBridge s k b).lhl = s.lhl := rfl
@[simp] theorem setBridge_ports (k : Nat) (b : Bridge) : (setBridge s k b).ports = s.ports := rfl
@[simp] theorem setBridge_bridges (k : Nat) (b : Bridge) : (setBridge s k b).bridges = mapSet (fun _ => {}) s.bridges k b := rfl
@[simp] theorem setBridge_mcs (k : Nat) (b : Bridge) : (setBridge s k b).mcs = s.mcs := rfl
@[simp] theorem setBridge_fab (k : Nat) (b : Bridge) : (setBridge s k b).fab = s.fab := rfl
@[simp] theorem setBridge_mir (k : Nat) (b : Bridge) : (setBridge s k b).mir = s.mir := rfl
@[simp] theorem setBridge_das (k : Nat) (b : Bridge) : (setBridge s k b).das = s.das := rfl
@[simp] theorem setBridge_daAlt (k : Nat) (b : Bridge) : (setBridge s k b).daAlt = s.daAlt := rfl
@[simp] theorem setBridge_ves (k : Nat) (b : Bridge) : (setBridge s k b).ves = s.ves := rfl
@[simp] theorem setBridge_gath (k : Nat) (b : Bridge) : (setBridge s k b).gath = s.gath := rfl
@[simp] theorem setBridge_tkr (k : Nat) (b : Bridge) : (setBridge s k b).tkr = s.tkr := rfl
@[simp] theorem setBridge_mails (k : Nat) (b : Bridge) : (setBridge s k b).mails = s.mails := rfl
@[simp] theorem setBridge_snp (k : Nat) (b : Bridge) : (setBridge s k b).snp = s.snp := rfl
@[simp] theorem setBridge_nmu (k : Nat) (b : Bridge) : (setBridge s k b).nmu = s.nmu := rfl
@[simp] theorem setBridge_plat (k : Nat) (b : Bridge) : (setBridge s k b).plat = s.plat := rfl
@[simp] theorem setBridge_hostLine (k : Nat) (b : Bridge) : (setBridge s k b).hostLine = s.hostLine := rfl
@[simp] theorem setBridge_fij (k : Nat) (b : Bridge) : (setBridge s k b).fij = s.fij := rfl
@[simp] theorem setBridge_rasSum (k : Nat) (b : Bridge) : (setBridge s k b).rasSum = s.rasSum := rfl
@[simp] theorem setBridge_out (k : Nat) (b : Bridge) : (setBridge s k b).out = s.out := rfl
@[simp] theorem setBridge_freeCtr (k : Nat) (b : Bridge) : (setBridge s k b).freeCtr = s.freeCtr := rfl
@[simp] theorem setBridge_pending (k : Nat) (b : Bridge) : (setBridge s k b).pending = s.pending := rfl

/-! ### modPlat: the platform's own state -/

@[simp] theorem modPlat_regs (f : Plat → Plat) : (modPlat s f).regs = s.regs := rfl
@[simp] theorem modPlat_waiting (f : Plat → Plat) : (modPlat s f).waiting = s.waiting := rfl
@[simp] theorem modPlat_shadNs (f : Plat → Plat) : (modPlat s f).shadNs = s.shadNs := rfl
@[simp] theorem modPlat_shadS (f : Plat → Plat) : (modPlat s f).shadS = s.shadS := rfl
@[simp] theorem modPlat_time (f : Plat → Plat) : (modPlat s f).time = s.time := rfl
@[simp] theorem modPlat_mem (f : Plat → Plat) : (modPlat s f).mem = s.mem := rfl
@[simp] theorem modPlat_flips (f : Plat → Plat) : (modPlat s f).flips = s.flips := rfl
@[simp] theorem modPlat_evacs (f : Plat → Plat) : (modPlat s f).evacs = s.evacs := rfl
@[simp] theorem modPlat_scrubs (f : Plat → Plat) : (modPlat s f).scrubs = s.scrubs := rfl
@[simp] theorem modPlat_acc (f : Plat → Plat) : (modPlat s f).acc = s.acc := rfl
@[simp] theorem modPlat_host (f : Plat → Plat) : (modPlat s f).host = s.host := rfl
@[simp] theorem modPlat_hostReqs (f : Plat → Plat) : (modPlat s f).hostReqs = s.hostReqs := rfl
@[simp] theorem modPlat_hostAns (f : Plat → Plat) : (modPlat s f).hostAns = s.hostAns := rfl
@[simp] theorem modPlat_hqe (f : Plat → Plat) : (modPlat s f).hqe = s.hqe := rfl
@[simp] theorem modPlat_seq (f : Plat → Plat) : (modPlat s f).seq = s.seq := rfl
@[simp] theorem modPlat_lhl (f : Plat → Plat) : (modPlat s f).lhl = s.lhl := rfl
@[simp] theorem modPlat_ports (f : Plat → Plat) : (modPlat s f).ports = s.ports := rfl
@[simp] theorem modPlat_bridges (f : Plat → Plat) : (modPlat s f).bridges = s.bridges := rfl
@[simp] theorem modPlat_mcs (f : Plat → Plat) : (modPlat s f).mcs = s.mcs := rfl
@[simp] theorem modPlat_fab (f : Plat → Plat) : (modPlat s f).fab = s.fab := rfl
@[simp] theorem modPlat_mir (f : Plat → Plat) : (modPlat s f).mir = s.mir := rfl
@[simp] theorem modPlat_das (f : Plat → Plat) : (modPlat s f).das = s.das := rfl
@[simp] theorem modPlat_daAlt (f : Plat → Plat) : (modPlat s f).daAlt = s.daAlt := rfl
@[simp] theorem modPlat_ves (f : Plat → Plat) : (modPlat s f).ves = s.ves := rfl
@[simp] theorem modPlat_gath (f : Plat → Plat) : (modPlat s f).gath = s.gath := rfl
@[simp] theorem modPlat_tkr (f : Plat → Plat) : (modPlat s f).tkr = s.tkr := rfl
@[simp] theorem modPlat_mails (f : Plat → Plat) : (modPlat s f).mails = s.mails := rfl
@[simp] theorem modPlat_snp (f : Plat → Plat) : (modPlat s f).snp = s.snp := rfl
@[simp] theorem modPlat_nmu (f : Plat → Plat) : (modPlat s f).nmu = s.nmu := rfl
@[simp] theorem modPlat_plat (f : Plat → Plat) : (modPlat s f).plat = f s.plat := rfl
@[simp] theorem modPlat_hostLine (f : Plat → Plat) : (modPlat s f).hostLine = s.hostLine := rfl
@[simp] theorem modPlat_fij (f : Plat → Plat) : (modPlat s f).fij = s.fij := rfl
@[simp] theorem modPlat_rasSum (f : Plat → Plat) : (modPlat s f).rasSum = s.rasSum := rfl
@[simp] theorem modPlat_out (f : Plat → Plat) : (modPlat s f).out = s.out := rfl
@[simp] theorem modPlat_freeCtr (f : Plat → Plat) : (modPlat s f).freeCtr = s.freeCtr := rfl
@[simp] theorem modPlat_pending (f : Plat → Plat) : (modPlat s f).pending = s.pending := rfl

/-! ### setTkr: the token router -/

@[simp] theorem setTkr_regs (f : Tkr → Tkr) : (setTkr s f).regs = s.regs := rfl
@[simp] theorem setTkr_waiting (f : Tkr → Tkr) : (setTkr s f).waiting = s.waiting := rfl
@[simp] theorem setTkr_shadNs (f : Tkr → Tkr) : (setTkr s f).shadNs = s.shadNs := rfl
@[simp] theorem setTkr_shadS (f : Tkr → Tkr) : (setTkr s f).shadS = s.shadS := rfl
@[simp] theorem setTkr_time (f : Tkr → Tkr) : (setTkr s f).time = s.time := rfl
@[simp] theorem setTkr_mem (f : Tkr → Tkr) : (setTkr s f).mem = s.mem := rfl
@[simp] theorem setTkr_flips (f : Tkr → Tkr) : (setTkr s f).flips = s.flips := rfl
@[simp] theorem setTkr_evacs (f : Tkr → Tkr) : (setTkr s f).evacs = s.evacs := rfl
@[simp] theorem setTkr_scrubs (f : Tkr → Tkr) : (setTkr s f).scrubs = s.scrubs := rfl
@[simp] theorem setTkr_acc (f : Tkr → Tkr) : (setTkr s f).acc = s.acc := rfl
@[simp] theorem setTkr_host (f : Tkr → Tkr) : (setTkr s f).host = s.host := rfl
@[simp] theorem setTkr_hostReqs (f : Tkr → Tkr) : (setTkr s f).hostReqs = s.hostReqs := rfl
@[simp] theorem setTkr_hostAns (f : Tkr → Tkr) : (setTkr s f).hostAns = s.hostAns := rfl
@[simp] theorem setTkr_hqe (f : Tkr → Tkr) : (setTkr s f).hqe = s.hqe := rfl
@[simp] theorem setTkr_seq (f : Tkr → Tkr) : (setTkr s f).seq = s.seq := rfl
@[simp] theorem setTkr_lhl (f : Tkr → Tkr) : (setTkr s f).lhl = s.lhl := rfl
@[simp] theorem setTkr_ports (f : Tkr → Tkr) : (setTkr s f).ports = s.ports := rfl
@[simp] theorem setTkr_bridges (f : Tkr → Tkr) : (setTkr s f).bridges = s.bridges := rfl
@[simp] theorem setTkr_mcs (f : Tkr → Tkr) : (setTkr s f).mcs = s.mcs := rfl
@[simp] theorem setTkr_fab (f : Tkr → Tkr) : (setTkr s f).fab = s.fab := rfl
@[simp] theorem setTkr_mir (f : Tkr → Tkr) : (setTkr s f).mir = s.mir := rfl
@[simp] theorem setTkr_das (f : Tkr → Tkr) : (setTkr s f).das = s.das := rfl
@[simp] theorem setTkr_daAlt (f : Tkr → Tkr) : (setTkr s f).daAlt = s.daAlt := rfl
@[simp] theorem setTkr_ves (f : Tkr → Tkr) : (setTkr s f).ves = s.ves := rfl
@[simp] theorem setTkr_gath (f : Tkr → Tkr) : (setTkr s f).gath = s.gath := rfl
@[simp] theorem setTkr_tkr (f : Tkr → Tkr) : (setTkr s f).tkr = f s.tkr := rfl
@[simp] theorem setTkr_mails (f : Tkr → Tkr) : (setTkr s f).mails = s.mails := rfl
@[simp] theorem setTkr_snp (f : Tkr → Tkr) : (setTkr s f).snp = s.snp := rfl
@[simp] theorem setTkr_nmu (f : Tkr → Tkr) : (setTkr s f).nmu = s.nmu := rfl
@[simp] theorem setTkr_plat (f : Tkr → Tkr) : (setTkr s f).plat = s.plat := rfl
@[simp] theorem setTkr_hostLine (f : Tkr → Tkr) : (setTkr s f).hostLine = s.hostLine := rfl
@[simp] theorem setTkr_fij (f : Tkr → Tkr) : (setTkr s f).fij = s.fij := rfl
@[simp] theorem setTkr_rasSum (f : Tkr → Tkr) : (setTkr s f).rasSum = s.rasSum := rfl
@[simp] theorem setTkr_out (f : Tkr → Tkr) : (setTkr s f).out = s.out := rfl
@[simp] theorem setTkr_freeCtr (f : Tkr → Tkr) : (setTkr s f).freeCtr = s.freeCtr := rfl
@[simp] theorem setTkr_pending (f : Tkr → Tkr) : (setTkr s f).pending = s.pending := rfl

/-! ### setVe: a vector engine -/

@[simp] theorem setVe_regs (t : Nat) (v : Ve) : (setVe s t v).regs = s.regs := rfl
@[simp] theorem setVe_waiting (t : Nat) (v : Ve) : (setVe s t v).waiting = s.waiting := rfl
@[simp] theorem setVe_shadNs (t : Nat) (v : Ve) : (setVe s t v).shadNs = s.shadNs := rfl
@[simp] theorem setVe_shadS (t : Nat) (v : Ve) : (setVe s t v).shadS = s.shadS := rfl
@[simp] theorem setVe_time (t : Nat) (v : Ve) : (setVe s t v).time = s.time := rfl
@[simp] theorem setVe_mem (t : Nat) (v : Ve) : (setVe s t v).mem = s.mem := rfl
@[simp] theorem setVe_flips (t : Nat) (v : Ve) : (setVe s t v).flips = s.flips := rfl
@[simp] theorem setVe_evacs (t : Nat) (v : Ve) : (setVe s t v).evacs = s.evacs := rfl
@[simp] theorem setVe_scrubs (t : Nat) (v : Ve) : (setVe s t v).scrubs = s.scrubs := rfl
@[simp] theorem setVe_acc (t : Nat) (v : Ve) : (setVe s t v).acc = s.acc := rfl
@[simp] theorem setVe_host (t : Nat) (v : Ve) : (setVe s t v).host = s.host := rfl
@[simp] theorem setVe_hostReqs (t : Nat) (v : Ve) : (setVe s t v).hostReqs = s.hostReqs := rfl
@[simp] theorem setVe_hostAns (t : Nat) (v : Ve) : (setVe s t v).hostAns = s.hostAns := rfl
@[simp] theorem setVe_hqe (t : Nat) (v : Ve) : (setVe s t v).hqe = s.hqe := rfl
@[simp] theorem setVe_seq (t : Nat) (v : Ve) : (setVe s t v).seq = s.seq := rfl
@[simp] theorem setVe_lhl (t : Nat) (v : Ve) : (setVe s t v).lhl = s.lhl := rfl
@[simp] theorem setVe_ports (t : Nat) (v : Ve) : (setVe s t v).ports = s.ports := rfl
@[simp] theorem setVe_bridges (t : Nat) (v : Ve) : (setVe s t v).bridges = s.bridges := rfl
@[simp] theorem setVe_mcs (t : Nat) (v : Ve) : (setVe s t v).mcs = s.mcs := rfl
@[simp] theorem setVe_fab (t : Nat) (v : Ve) : (setVe s t v).fab = s.fab := rfl
@[simp] theorem setVe_mir (t : Nat) (v : Ve) : (setVe s t v).mir = s.mir := rfl
@[simp] theorem setVe_das (t : Nat) (v : Ve) : (setVe s t v).das = s.das := rfl
@[simp] theorem setVe_daAlt (t : Nat) (v : Ve) : (setVe s t v).daAlt = s.daAlt := rfl
@[simp] theorem setVe_ves (t : Nat) (v : Ve) : (setVe s t v).ves = mapSet (fun _ => {}) s.ves t v := rfl
@[simp] theorem setVe_gath (t : Nat) (v : Ve) : (setVe s t v).gath = s.gath := rfl
@[simp] theorem setVe_tkr (t : Nat) (v : Ve) : (setVe s t v).tkr = s.tkr := rfl
@[simp] theorem setVe_mails (t : Nat) (v : Ve) : (setVe s t v).mails = s.mails := rfl
@[simp] theorem setVe_snp (t : Nat) (v : Ve) : (setVe s t v).snp = s.snp := rfl
@[simp] theorem setVe_nmu (t : Nat) (v : Ve) : (setVe s t v).nmu = s.nmu := rfl
@[simp] theorem setVe_plat (t : Nat) (v : Ve) : (setVe s t v).plat = s.plat := rfl
@[simp] theorem setVe_hostLine (t : Nat) (v : Ve) : (setVe s t v).hostLine = s.hostLine := rfl
@[simp] theorem setVe_fij (t : Nat) (v : Ve) : (setVe s t v).fij = s.fij := rfl
@[simp] theorem setVe_rasSum (t : Nat) (v : Ve) : (setVe s t v).rasSum = s.rasSum := rfl
@[simp] theorem setVe_out (t : Nat) (v : Ve) : (setVe s t v).out = s.out := rfl
@[simp] theorem setVe_freeCtr (t : Nat) (v : Ve) : (setVe s t v).freeCtr = s.freeCtr := rfl
@[simp] theorem setVe_pending (t : Nat) (v : Ve) : (setVe s t v).pending = s.pending := rfl

/-! ### setDa: a dense array -/

@[simp] theorem setDa_regs (t a : Nat) (d : Da) : (setDa s t a d).regs = s.regs := rfl
@[simp] theorem setDa_waiting (t a : Nat) (d : Da) : (setDa s t a d).waiting = s.waiting := rfl
@[simp] theorem setDa_shadNs (t a : Nat) (d : Da) : (setDa s t a d).shadNs = s.shadNs := rfl
@[simp] theorem setDa_shadS (t a : Nat) (d : Da) : (setDa s t a d).shadS = s.shadS := rfl
@[simp] theorem setDa_time (t a : Nat) (d : Da) : (setDa s t a d).time = s.time := rfl
@[simp] theorem setDa_mem (t a : Nat) (d : Da) : (setDa s t a d).mem = s.mem := rfl
@[simp] theorem setDa_flips (t a : Nat) (d : Da) : (setDa s t a d).flips = s.flips := rfl
@[simp] theorem setDa_evacs (t a : Nat) (d : Da) : (setDa s t a d).evacs = s.evacs := rfl
@[simp] theorem setDa_scrubs (t a : Nat) (d : Da) : (setDa s t a d).scrubs = s.scrubs := rfl
@[simp] theorem setDa_acc (t a : Nat) (d : Da) : (setDa s t a d).acc = s.acc := rfl
@[simp] theorem setDa_host (t a : Nat) (d : Da) : (setDa s t a d).host = s.host := rfl
@[simp] theorem setDa_hostReqs (t a : Nat) (d : Da) : (setDa s t a d).hostReqs = s.hostReqs := rfl
@[simp] theorem setDa_hostAns (t a : Nat) (d : Da) : (setDa s t a d).hostAns = s.hostAns := rfl
@[simp] theorem setDa_hqe (t a : Nat) (d : Da) : (setDa s t a d).hqe = s.hqe := rfl
@[simp] theorem setDa_seq (t a : Nat) (d : Da) : (setDa s t a d).seq = s.seq := rfl
@[simp] theorem setDa_lhl (t a : Nat) (d : Da) : (setDa s t a d).lhl = s.lhl := rfl
@[simp] theorem setDa_ports (t a : Nat) (d : Da) : (setDa s t a d).ports = s.ports := rfl
@[simp] theorem setDa_bridges (t a : Nat) (d : Da) : (setDa s t a d).bridges = s.bridges := rfl
@[simp] theorem setDa_mcs (t a : Nat) (d : Da) : (setDa s t a d).mcs = s.mcs := rfl
@[simp] theorem setDa_fab (t a : Nat) (d : Da) : (setDa s t a d).fab = s.fab := rfl
@[simp] theorem setDa_mir (t a : Nat) (d : Da) : (setDa s t a d).mir = s.mir := rfl
@[simp] theorem setDa_das (t a : Nat) (d : Da) : (setDa s t a d).das = mapIns s.das (daKey t a) d := rfl
@[simp] theorem setDa_daAlt (t a : Nat) (d : Da) : (setDa s t a d).daAlt = s.daAlt := rfl
@[simp] theorem setDa_ves (t a : Nat) (d : Da) : (setDa s t a d).ves = s.ves := rfl
@[simp] theorem setDa_gath (t a : Nat) (d : Da) : (setDa s t a d).gath = s.gath := rfl
@[simp] theorem setDa_tkr (t a : Nat) (d : Da) : (setDa s t a d).tkr = s.tkr := rfl
@[simp] theorem setDa_mails (t a : Nat) (d : Da) : (setDa s t a d).mails = s.mails := rfl
@[simp] theorem setDa_snp (t a : Nat) (d : Da) : (setDa s t a d).snp = s.snp := rfl
@[simp] theorem setDa_nmu (t a : Nat) (d : Da) : (setDa s t a d).nmu = s.nmu := rfl
@[simp] theorem setDa_plat (t a : Nat) (d : Da) : (setDa s t a d).plat = s.plat := rfl
@[simp] theorem setDa_hostLine (t a : Nat) (d : Da) : (setDa s t a d).hostLine = s.hostLine := rfl
@[simp] theorem setDa_fij (t a : Nat) (d : Da) : (setDa s t a d).fij = s.fij := rfl
@[simp] theorem setDa_rasSum (t a : Nat) (d : Da) : (setDa s t a d).rasSum = s.rasSum := rfl
@[simp] theorem setDa_out (t a : Nat) (d : Da) : (setDa s t a d).out = s.out := rfl
@[simp] theorem setDa_freeCtr (t a : Nat) (d : Da) : (setDa s t a d).freeCtr = s.freeCtr := rfl
@[simp] theorem setDa_pending (t a : Nat) (d : Da) : (setDa s t a d).pending = s.pending := rfl

/-! ### dropDa: a dense array that holds no task -/

@[simp] theorem dropDa_regs (t a : Nat) : (dropDa s t a).regs = s.regs := rfl
@[simp] theorem dropDa_waiting (t a : Nat) : (dropDa s t a).waiting = s.waiting := rfl
@[simp] theorem dropDa_shadNs (t a : Nat) : (dropDa s t a).shadNs = s.shadNs := rfl
@[simp] theorem dropDa_shadS (t a : Nat) : (dropDa s t a).shadS = s.shadS := rfl
@[simp] theorem dropDa_time (t a : Nat) : (dropDa s t a).time = s.time := rfl
@[simp] theorem dropDa_mem (t a : Nat) : (dropDa s t a).mem = s.mem := rfl
@[simp] theorem dropDa_flips (t a : Nat) : (dropDa s t a).flips = s.flips := rfl
@[simp] theorem dropDa_evacs (t a : Nat) : (dropDa s t a).evacs = s.evacs := rfl
@[simp] theorem dropDa_scrubs (t a : Nat) : (dropDa s t a).scrubs = s.scrubs := rfl
@[simp] theorem dropDa_acc (t a : Nat) : (dropDa s t a).acc = s.acc := rfl
@[simp] theorem dropDa_host (t a : Nat) : (dropDa s t a).host = s.host := rfl
@[simp] theorem dropDa_hostReqs (t a : Nat) : (dropDa s t a).hostReqs = s.hostReqs := rfl
@[simp] theorem dropDa_hostAns (t a : Nat) : (dropDa s t a).hostAns = s.hostAns := rfl
@[simp] theorem dropDa_hqe (t a : Nat) : (dropDa s t a).hqe = s.hqe := rfl
@[simp] theorem dropDa_seq (t a : Nat) : (dropDa s t a).seq = s.seq := rfl
@[simp] theorem dropDa_lhl (t a : Nat) : (dropDa s t a).lhl = s.lhl := rfl
@[simp] theorem dropDa_ports (t a : Nat) : (dropDa s t a).ports = s.ports := rfl
@[simp] theorem dropDa_bridges (t a : Nat) : (dropDa s t a).bridges = s.bridges := rfl
@[simp] theorem dropDa_mcs (t a : Nat) : (dropDa s t a).mcs = s.mcs := rfl
@[simp] theorem dropDa_fab (t a : Nat) : (dropDa s t a).fab = s.fab := rfl
@[simp] theorem dropDa_mir (t a : Nat) : (dropDa s t a).mir = s.mir := rfl
@[simp] theorem dropDa_das (t a : Nat) : (dropDa s t a).das = mapDel s.das (daKey t a) := rfl
@[simp] theorem dropDa_daAlt (t a : Nat) : (dropDa s t a).daAlt = s.daAlt := rfl
@[simp] theorem dropDa_ves (t a : Nat) : (dropDa s t a).ves = s.ves := rfl
@[simp] theorem dropDa_gath (t a : Nat) : (dropDa s t a).gath = s.gath := rfl
@[simp] theorem dropDa_tkr (t a : Nat) : (dropDa s t a).tkr = s.tkr := rfl
@[simp] theorem dropDa_mails (t a : Nat) : (dropDa s t a).mails = s.mails := rfl
@[simp] theorem dropDa_snp (t a : Nat) : (dropDa s t a).snp = s.snp := rfl
@[simp] theorem dropDa_nmu (t a : Nat) : (dropDa s t a).nmu = s.nmu := rfl
@[simp] theorem dropDa_plat (t a : Nat) : (dropDa s t a).plat = s.plat := rfl
@[simp] theorem dropDa_hostLine (t a : Nat) : (dropDa s t a).hostLine = s.hostLine := rfl
@[simp] theorem dropDa_fij (t a : Nat) : (dropDa s t a).fij = s.fij := rfl
@[simp] theorem dropDa_rasSum (t a : Nat) : (dropDa s t a).rasSum = s.rasSum := rfl
@[simp] theorem dropDa_out (t a : Nat) : (dropDa s t a).out = s.out := rfl
@[simp] theorem dropDa_freeCtr (t a : Nat) : (dropDa s t a).freeCtr = s.freeCtr := rfl
@[simp] theorem dropDa_pending (t a : Nat) : (dropDa s t a).pending = s.pending := rfl

/-! ### setGath: a row gatherer -/

@[simp] theorem setGath_regs (d g : Nat) (x : Gatherer) : (setGath s d g x).regs = s.regs := rfl
@[simp] theorem setGath_waiting (d g : Nat) (x : Gatherer) : (setGath s d g x).waiting = s.waiting := rfl
@[simp] theorem setGath_shadNs (d g : Nat) (x : Gatherer) : (setGath s d g x).shadNs = s.shadNs := rfl
@[simp] theorem setGath_shadS (d g : Nat) (x : Gatherer) : (setGath s d g x).shadS = s.shadS := rfl
@[simp] theorem setGath_time (d g : Nat) (x : Gatherer) : (setGath s d g x).time = s.time := rfl
@[simp] theorem setGath_mem (d g : Nat) (x : Gatherer) : (setGath s d g x).mem = s.mem := rfl
@[simp] theorem setGath_flips (d g : Nat) (x : Gatherer) : (setGath s d g x).flips = s.flips := rfl
@[simp] theorem setGath_evacs (d g : Nat) (x : Gatherer) : (setGath s d g x).evacs = s.evacs := rfl
@[simp] theorem setGath_scrubs (d g : Nat) (x : Gatherer) : (setGath s d g x).scrubs = s.scrubs := rfl
@[simp] theorem setGath_acc (d g : Nat) (x : Gatherer) : (setGath s d g x).acc = s.acc := rfl
@[simp] theorem setGath_host (d g : Nat) (x : Gatherer) : (setGath s d g x).host = s.host := rfl
@[simp] theorem setGath_hostReqs (d g : Nat) (x : Gatherer) : (setGath s d g x).hostReqs = s.hostReqs := rfl
@[simp] theorem setGath_hostAns (d g : Nat) (x : Gatherer) : (setGath s d g x).hostAns = s.hostAns := rfl
@[simp] theorem setGath_hqe (d g : Nat) (x : Gatherer) : (setGath s d g x).hqe = s.hqe := rfl
@[simp] theorem setGath_seq (d g : Nat) (x : Gatherer) : (setGath s d g x).seq = s.seq := rfl
@[simp] theorem setGath_lhl (d g : Nat) (x : Gatherer) : (setGath s d g x).lhl = s.lhl := rfl
@[simp] theorem setGath_ports (d g : Nat) (x : Gatherer) : (setGath s d g x).ports = s.ports := rfl
@[simp] theorem setGath_bridges (d g : Nat) (x : Gatherer) : (setGath s d g x).bridges = s.bridges := rfl
@[simp] theorem setGath_mcs (d g : Nat) (x : Gatherer) : (setGath s d g x).mcs = s.mcs := rfl
@[simp] theorem setGath_fab (d g : Nat) (x : Gatherer) : (setGath s d g x).fab = s.fab := rfl
@[simp] theorem setGath_mir (d g : Nat) (x : Gatherer) : (setGath s d g x).mir = s.mir := rfl
@[simp] theorem setGath_das (d g : Nat) (x : Gatherer) : (setGath s d g x).das = s.das := rfl
@[simp] theorem setGath_daAlt (d g : Nat) (x : Gatherer) : (setGath s d g x).daAlt = s.daAlt := rfl
@[simp] theorem setGath_ves (d g : Nat) (x : Gatherer) : (setGath s d g x).ves = s.ves := rfl
@[simp] theorem setGath_gath (d g : Nat) (x : Gatherer) : (setGath s d g x).gath = mapSet (fun _ => {}) s.gath (16 * d + g) x := rfl
@[simp] theorem setGath_tkr (d g : Nat) (x : Gatherer) : (setGath s d g x).tkr = s.tkr := rfl
@[simp] theorem setGath_mails (d g : Nat) (x : Gatherer) : (setGath s d g x).mails = s.mails := rfl
@[simp] theorem setGath_snp (d g : Nat) (x : Gatherer) : (setGath s d g x).snp = s.snp := rfl
@[simp] theorem setGath_nmu (d g : Nat) (x : Gatherer) : (setGath s d g x).nmu = s.nmu := rfl
@[simp] theorem setGath_plat (d g : Nat) (x : Gatherer) : (setGath s d g x).plat = s.plat := rfl
@[simp] theorem setGath_hostLine (d g : Nat) (x : Gatherer) : (setGath s d g x).hostLine = s.hostLine := rfl
@[simp] theorem setGath_fij (d g : Nat) (x : Gatherer) : (setGath s d g x).fij = s.fij := rfl
@[simp] theorem setGath_rasSum (d g : Nat) (x : Gatherer) : (setGath s d g x).rasSum = s.rasSum := rfl
@[simp] theorem setGath_out (d g : Nat) (x : Gatherer) : (setGath s d g x).out = s.out := rfl
@[simp] theorem setGath_freeCtr (d g : Nat) (x : Gatherer) : (setGath s d g x).freeCtr = s.freeCtr := rfl
@[simp] theorem setGath_pending (d g : Nat) (x : Gatherer) : (setGath s d g x).pending = s.pending := rfl

/-! ### modCopy: a ring copy of the table -/

@[simp] theorem modCopy_regs (i : Nat) (f : CopyRun → CopyRun) : (modCopy s i f).regs = s.regs := rfl
@[simp] theorem modCopy_waiting (i : Nat) (f : CopyRun → CopyRun) : (modCopy s i f).waiting = s.waiting := rfl
@[simp] theorem modCopy_shadNs (i : Nat) (f : CopyRun → CopyRun) : (modCopy s i f).shadNs = s.shadNs := rfl
@[simp] theorem modCopy_shadS (i : Nat) (f : CopyRun → CopyRun) : (modCopy s i f).shadS = s.shadS := rfl
@[simp] theorem modCopy_time (i : Nat) (f : CopyRun → CopyRun) : (modCopy s i f).time = s.time := rfl
@[simp] theorem modCopy_mem (i : Nat) (f : CopyRun → CopyRun) : (modCopy s i f).mem = s.mem := rfl
@[simp] theorem modCopy_flips (i : Nat) (f : CopyRun → CopyRun) : (modCopy s i f).flips = s.flips := rfl
@[simp] theorem modCopy_evacs (i : Nat) (f : CopyRun → CopyRun) : (modCopy s i f).evacs = s.evacs := rfl
@[simp] theorem modCopy_scrubs (i : Nat) (f : CopyRun → CopyRun) : (modCopy s i f).scrubs = s.scrubs := rfl
@[simp] theorem modCopy_acc (i : Nat) (f : CopyRun → CopyRun) : (modCopy s i f).acc = s.acc := rfl
@[simp] theorem modCopy_host (i : Nat) (f : CopyRun → CopyRun) : (modCopy s i f).host = s.host := rfl
@[simp] theorem modCopy_hostReqs (i : Nat) (f : CopyRun → CopyRun) : (modCopy s i f).hostReqs = s.hostReqs := rfl
@[simp] theorem modCopy_hostAns (i : Nat) (f : CopyRun → CopyRun) : (modCopy s i f).hostAns = s.hostAns := rfl
@[simp] theorem modCopy_hqe (i : Nat) (f : CopyRun → CopyRun) : (modCopy s i f).hqe = s.hqe := rfl
@[simp] theorem modCopy_seq (i : Nat) (f : CopyRun → CopyRun) : (modCopy s i f).seq = { s.seq with copies := updWhere (fun c => c.iid == i) f s.seq.copies } := rfl
@[simp] theorem modCopy_lhl (i : Nat) (f : CopyRun → CopyRun) : (modCopy s i f).lhl = s.lhl := rfl
@[simp] theorem modCopy_ports (i : Nat) (f : CopyRun → CopyRun) : (modCopy s i f).ports = s.ports := rfl
@[simp] theorem modCopy_bridges (i : Nat) (f : CopyRun → CopyRun) : (modCopy s i f).bridges = s.bridges := rfl
@[simp] theorem modCopy_mcs (i : Nat) (f : CopyRun → CopyRun) : (modCopy s i f).mcs = s.mcs := rfl
@[simp] theorem modCopy_fab (i : Nat) (f : CopyRun → CopyRun) : (modCopy s i f).fab = s.fab := rfl
@[simp] theorem modCopy_mir (i : Nat) (f : CopyRun → CopyRun) : (modCopy s i f).mir = s.mir := rfl
@[simp] theorem modCopy_das (i : Nat) (f : CopyRun → CopyRun) : (modCopy s i f).das = s.das := rfl
@[simp] theorem modCopy_daAlt (i : Nat) (f : CopyRun → CopyRun) : (modCopy s i f).daAlt = s.daAlt := rfl
@[simp] theorem modCopy_ves (i : Nat) (f : CopyRun → CopyRun) : (modCopy s i f).ves = s.ves := rfl
@[simp] theorem modCopy_gath (i : Nat) (f : CopyRun → CopyRun) : (modCopy s i f).gath = s.gath := rfl
@[simp] theorem modCopy_tkr (i : Nat) (f : CopyRun → CopyRun) : (modCopy s i f).tkr = s.tkr := rfl
@[simp] theorem modCopy_mails (i : Nat) (f : CopyRun → CopyRun) : (modCopy s i f).mails = s.mails := rfl
@[simp] theorem modCopy_snp (i : Nat) (f : CopyRun → CopyRun) : (modCopy s i f).snp = s.snp := rfl
@[simp] theorem modCopy_nmu (i : Nat) (f : CopyRun → CopyRun) : (modCopy s i f).nmu = s.nmu := rfl
@[simp] theorem modCopy_plat (i : Nat) (f : CopyRun → CopyRun) : (modCopy s i f).plat = s.plat := rfl
@[simp] theorem modCopy_hostLine (i : Nat) (f : CopyRun → CopyRun) : (modCopy s i f).hostLine = s.hostLine := rfl
@[simp] theorem modCopy_fij (i : Nat) (f : CopyRun → CopyRun) : (modCopy s i f).fij = s.fij := rfl
@[simp] theorem modCopy_rasSum (i : Nat) (f : CopyRun → CopyRun) : (modCopy s i f).rasSum = s.rasSum := rfl
@[simp] theorem modCopy_out (i : Nat) (f : CopyRun → CopyRun) : (modCopy s i f).out = s.out := rfl
@[simp] theorem modCopy_freeCtr (i : Nat) (f : CopyRun → CopyRun) : (modCopy s i f).freeCtr = s.freeCtr := rfl
@[simp] theorem modCopy_pending (i : Nat) (f : CopyRun → CopyRun) : (modCopy s i f).pending = s.pending := rfl

/-! ### zeroTile: a cleared tile -/

@[simp] theorem zeroTile_regs (t : Nat) : (zeroTile s t).regs = s.regs := rfl
@[simp] theorem zeroTile_waiting (t : Nat) : (zeroTile s t).waiting = s.waiting := rfl
@[simp] theorem zeroTile_shadNs (t : Nat) : (zeroTile s t).shadNs = s.shadNs := rfl
@[simp] theorem zeroTile_shadS (t : Nat) : (zeroTile s t).shadS = s.shadS := rfl
@[simp] theorem zeroTile_time (t : Nat) : (zeroTile s t).time = s.time := rfl
@[simp] theorem zeroTile_mem (t : Nat) : (zeroTile s t).mem = mapClearRange s.mem (sramAddr t 0) (sramAddr t 0x600000) := rfl
@[simp] theorem zeroTile_flips (t : Nat) : (zeroTile s t).flips = mapClearRange (mapClearRange s.flips (sramAddr t 0) (sramAddr t 0x600000)) (accAddr t 0) (accAddr t 13) := rfl
@[simp] theorem zeroTile_evacs (t : Nat) : (zeroTile s t).evacs = s.evacs := rfl
@[simp] theorem zeroTile_scrubs (t : Nat) : (zeroTile s t).scrubs = s.scrubs := rfl
@[simp] theorem zeroTile_acc (t : Nat) : (zeroTile s t).acc = mapClearRange s.acc (13 * t) (13 * t + 13) := rfl
@[simp] theorem zeroTile_host (t : Nat) : (zeroTile s t).host = s.host := rfl
@[simp] theorem zeroTile_hostReqs (t : Nat) : (zeroTile s t).hostReqs = s.hostReqs := rfl
@[simp] theorem zeroTile_hostAns (t : Nat) : (zeroTile s t).hostAns = s.hostAns := rfl
@[simp] theorem zeroTile_hqe (t : Nat) : (zeroTile s t).hqe = s.hqe := rfl
@[simp] theorem zeroTile_seq (t : Nat) : (zeroTile s t).seq = s.seq := rfl
@[simp] theorem zeroTile_lhl (t : Nat) : (zeroTile s t).lhl = s.lhl := rfl
@[simp] theorem zeroTile_ports (t : Nat) : (zeroTile s t).ports = s.ports := rfl
@[simp] theorem zeroTile_bridges (t : Nat) : (zeroTile s t).bridges = s.bridges := rfl
@[simp] theorem zeroTile_mcs (t : Nat) : (zeroTile s t).mcs = s.mcs := rfl
@[simp] theorem zeroTile_fab (t : Nat) : (zeroTile s t).fab = s.fab := rfl
@[simp] theorem zeroTile_mir (t : Nat) : (zeroTile s t).mir = s.mir := rfl
@[simp] theorem zeroTile_das (t : Nat) : (zeroTile s t).das = s.das := rfl
@[simp] theorem zeroTile_daAlt (t : Nat) : (zeroTile s t).daAlt = s.daAlt := rfl
@[simp] theorem zeroTile_ves (t : Nat) : (zeroTile s t).ves = s.ves := rfl
@[simp] theorem zeroTile_gath (t : Nat) : (zeroTile s t).gath = s.gath := rfl
@[simp] theorem zeroTile_tkr (t : Nat) : (zeroTile s t).tkr = s.tkr := rfl
@[simp] theorem zeroTile_mails (t : Nat) : (zeroTile s t).mails = s.mails := rfl
@[simp] theorem zeroTile_snp (t : Nat) : (zeroTile s t).snp = s.snp := rfl
@[simp] theorem zeroTile_nmu (t : Nat) : (zeroTile s t).nmu = s.nmu := rfl
@[simp] theorem zeroTile_plat (t : Nat) : (zeroTile s t).plat = s.plat := rfl
@[simp] theorem zeroTile_hostLine (t : Nat) : (zeroTile s t).hostLine = s.hostLine := rfl
@[simp] theorem zeroTile_fij (t : Nat) : (zeroTile s t).fij = s.fij := rfl
@[simp] theorem zeroTile_rasSum (t : Nat) : (zeroTile s t).rasSum = s.rasSum := rfl
@[simp] theorem zeroTile_out (t : Nat) : (zeroTile s t).out = s.out := rfl
@[simp] theorem zeroTile_freeCtr (t : Nat) : (zeroTile s t).freeCtr = s.freeCtr := rfl
@[simp] theorem zeroTile_pending (t : Nat) : (zeroTile s t).pending = s.pending := rfl

/-! ### zeroSram: a cleared SRAM -/

@[simp] theorem zeroSram_regs (t : Nat) : (zeroSram s t).regs = s.regs := rfl
@[simp] theorem zeroSram_waiting (t : Nat) : (zeroSram s t).waiting = s.waiting := rfl
@[simp] theorem zeroSram_shadNs (t : Nat) : (zeroSram s t).shadNs = s.shadNs := rfl
@[simp] theorem zeroSram_shadS (t : Nat) : (zeroSram s t).shadS = s.shadS := rfl
@[simp] theorem zeroSram_time (t : Nat) : (zeroSram s t).time = s.time := rfl
@[simp] theorem zeroSram_mem (t : Nat) : (zeroSram s t).mem = mapClearRange s.mem (sramAddr t 0) (sramAddr t 0x600000) := rfl
@[simp] theorem zeroSram_flips (t : Nat) : (zeroSram s t).flips = mapClearRange s.flips (sramAddr t 0) (sramAddr t 0x600000) := rfl
@[simp] theorem zeroSram_evacs (t : Nat) : (zeroSram s t).evacs = s.evacs := rfl
@[simp] theorem zeroSram_scrubs (t : Nat) : (zeroSram s t).scrubs = s.scrubs := rfl
@[simp] theorem zeroSram_acc (t : Nat) : (zeroSram s t).acc = s.acc := rfl
@[simp] theorem zeroSram_host (t : Nat) : (zeroSram s t).host = s.host := rfl
@[simp] theorem zeroSram_hostReqs (t : Nat) : (zeroSram s t).hostReqs = s.hostReqs := rfl
@[simp] theorem zeroSram_hostAns (t : Nat) : (zeroSram s t).hostAns = s.hostAns := rfl
@[simp] theorem zeroSram_hqe (t : Nat) : (zeroSram s t).hqe = s.hqe := rfl
@[simp] theorem zeroSram_seq (t : Nat) : (zeroSram s t).seq = s.seq := rfl
@[simp] theorem zeroSram_lhl (t : Nat) : (zeroSram s t).lhl = s.lhl := rfl
@[simp] theorem zeroSram_ports (t : Nat) : (zeroSram s t).ports = s.ports := rfl
@[simp] theorem zeroSram_bridges (t : Nat) : (zeroSram s t).bridges = s.bridges := rfl
@[simp] theorem zeroSram_mcs (t : Nat) : (zeroSram s t).mcs = s.mcs := rfl
@[simp] theorem zeroSram_fab (t : Nat) : (zeroSram s t).fab = s.fab := rfl
@[simp] theorem zeroSram_mir (t : Nat) : (zeroSram s t).mir = s.mir := rfl
@[simp] theorem zeroSram_das (t : Nat) : (zeroSram s t).das = s.das := rfl
@[simp] theorem zeroSram_daAlt (t : Nat) : (zeroSram s t).daAlt = s.daAlt := rfl
@[simp] theorem zeroSram_ves (t : Nat) : (zeroSram s t).ves = s.ves := rfl
@[simp] theorem zeroSram_gath (t : Nat) : (zeroSram s t).gath = s.gath := rfl
@[simp] theorem zeroSram_tkr (t : Nat) : (zeroSram s t).tkr = s.tkr := rfl
@[simp] theorem zeroSram_mails (t : Nat) : (zeroSram s t).mails = s.mails := rfl
@[simp] theorem zeroSram_snp (t : Nat) : (zeroSram s t).snp = s.snp := rfl
@[simp] theorem zeroSram_nmu (t : Nat) : (zeroSram s t).nmu = s.nmu := rfl
@[simp] theorem zeroSram_plat (t : Nat) : (zeroSram s t).plat = s.plat := rfl
@[simp] theorem zeroSram_hostLine (t : Nat) : (zeroSram s t).hostLine = s.hostLine := rfl
@[simp] theorem zeroSram_fij (t : Nat) : (zeroSram s t).fij = s.fij := rfl
@[simp] theorem zeroSram_rasSum (t : Nat) : (zeroSram s t).rasSum = s.rasSum := rfl
@[simp] theorem zeroSram_out (t : Nat) : (zeroSram s t).out = s.out := rfl
@[simp] theorem zeroSram_freeCtr (t : Nat) : (zeroSram s t).freeCtr = s.freeCtr := rfl
@[simp] theorem zeroSram_pending (t : Nat) : (zeroSram s t).pending = s.pending := rfl

/-! ### What is read back -/

@[simp] theorem getPlan_setPlan_self (k : PlanKind) (p : Option PlanRun) : getPlan (setPlan s k p) k = p := by cases k <;> rfl
@[simp] theorem getPlan_modPlan_self (k : PlanKind) (f : PlanRun → PlanRun) :
    getPlan (modPlan s k f) k = (getPlan s k).map f := by cases k <;> rfl
theorem getPlan_setPlan_ne {k l : PlanKind} (p : Option PlanRun) (h : k ≠ l) : getPlan (setPlan s k p) l = getPlan s l := by
  cases k <;> cases l <;> first | rfl | exact absurd rfl h
@[simp] theorem getPlan_wr (n : RegName) (i j v : Nat) (k : PlanKind) : getPlan (s.wr n i j v) k = getPlan s k := by
  cases k <;> rfl
@[simp] theorem drawFree_pending : (drawFree s).1.pending = s.pending := rfl
@[simp] theorem drawFree_mem : (drawFree s).1.mem = s.mem := rfl
@[simp] theorem drawFree_regs : (drawFree s).1.regs = s.regs := rfl
@[simp] theorem drawFree_freeCtr : (drawFree s).1.freeCtr = s.freeCtr + 1 := rfl

end Sys2Proof.Machine
end

