-- ==== Sys2Proof/Laws/Ops.lean ====
section
/-! SUPPORT. Laws of the named operations over registers and memory: reads after writes, and the canonical form that
every one of them keeps. -/

namespace Sys2Proof.Machine

variable {s : State}

/-! ### The canonical form (log 4, log 6) -/

theorem canonical_iff : canonical s = true ↔ memWf s.mem = true ∧ memWf s.host = true ∧ keysRise s.regs = true := by
  simp [canonical, and_assoc]

theorem canonical_regs (h : canonical s = true) : keysRise s.regs = true := (canonical_iff.1 h).2.2
theorem canonical_mem (h : canonical s = true) : memWf s.mem = true := (canonical_iff.1 h).1
theorem canonical_host (h : canonical s = true) : memWf s.host = true := (canonical_iff.1 h).2.1

theorem wr_canonical (n : RegName) (i j v : Nat) (h : canonical s = true) : canonical (s.wr n i j v) = true :=
  let c := canonical_iff.1 h
  canonical_iff.2 ⟨c.1, c.2.1, keysRise_mapSet _ _ _ (c.2.2)⟩

theorem setMem_canonical (a : Nat) (bs : Bytes) (h : canonical s = true) : canonical (setMem s a bs) = true :=
  let c := canonical_iff.1 h
  canonical_iff.2 ⟨mapWf_mapSetList memD bs a (c.1), c.2.1, c.2.2⟩

theorem setHost_canonical (a : Nat) (bs : Bytes) (h : canonical s = true) : canonical (setHost s a bs) = true :=
  let c := canonical_iff.1 h
  canonical_iff.2 ⟨c.1, mapWf_mapSetList memD bs a (c.2.1), c.2.2⟩

theorem zeroTile_canonical (t : Nat) (h : canonical s = true) : canonical (zeroTile s t) = true :=
  let c := canonical_iff.1 h
  canonical_iff.2 ⟨mapWf_mapClearRange memD _ _ (c.1), c.2.1, c.2.2⟩

theorem zeroSram_canonical (t : Nat) (h : canonical s = true) : canonical (zeroSram s t) = true :=
  let c := canonical_iff.1 h
  canonical_iff.2 ⟨mapWf_mapClearRange memD _ _ (c.1), c.2.1, c.2.2⟩

/-! ### Registers -/

@[simp] theorem rd_reset (n : RegName) (i j : Nat) : State.reset.rd n i j = regReset n i j % 2 ^ 64 := by
  simp [State.rd, State.reset, regD]

/-- A stored register reads back. -/
theorem rd_wr_self (n : RegName) (i j v : Nat) (h : keysRise s.regs = true) : (s.wr n i j v).rd n i j = v % 2 ^ 64 := by
  simp only [State.rd, State.wr]
  rw [mapGet_mapSet_self (regD n i j) (regOff n i j) _ h, BitVec.toNat_ofNat]

/-- A register at another offset is unchanged. -/
theorem rd_wr_ne {n m : RegName} {i j k l : Nat} (v : Nat) (h : keysRise s.regs = true)
    (hne : regOff m k l ≠ regOff n i j) : (s.wr n i j v).rd m k l = s.rd m k l := by
  simp only [State.rd, State.wr]
  rw [mapGet_mapSet_ne (regD n i j) (regD m k l) _ h hne]

theorem wrf_eq (n : RegName) (i j hi lo v : Nat) : s.wrf n i j hi lo v = s.wr n i j (setBits (s.rd n i j) hi lo v) := rfl

/-! ### Memory -/

/-- Stored bytes read back. -/
theorem memBytes_setMem (a : Nat) (bs : Bytes) (h : memWf s.mem = true) : memBytes (setMem s a bs) a bs.length = bs :=
  mapGetList_mapSetList memD bs a h

/-- A byte outside a store is unchanged. -/
theorem mem_setMem_out {a x : Nat} {bs : Bytes} (h : memWf s.mem = true) (hx : x < a ∨ a + bs.length ≤ x) :
    mapGet memD (setMem s a bs).mem x = mapGet memD s.mem x := mapGet_mapSetList_out memD bs h hx

theorem hostBytes_setHost (a : Nat) (bs : Bytes) (h : memWf s.host = true) :
    hostBytes (setHost s a bs) a bs.length = bs := mapGetList_mapSetList memD bs a h

theorem host_setHost_out {a x : Nat} {bs : Bytes} (h : memWf s.host = true) (hx : x < a ∨ a + bs.length ≤ x) :
    mapGet memD (setHost s a bs).host x = mapGet memD s.host x := mapGet_mapSetList_out memD bs h hx

/-- A tile's SRAM reads 0 after it is cleared, and every other byte is unchanged. -/
theorem mem_zeroSram (t x : Nat) (h : memWf s.mem = true) :
    mapGet memD (zeroSram s t).mem x = if sramAddr t 0 ≤ x ∧ x < sramAddr t 0x600000 then 0 else mapGet memD s.mem x :=
  mapGet_mapClearRange memD _ _ (mapWf_keys memD h) x

/-! ### Per-unit tables -/

theorem getRegion_setRegion_self (n : Nat) (r : Region) (h : keysRise s.seq.regions = true) :
    getRegion (setRegion s n r) n = r := mapGet_mapSet_self _ n r h

theorem getRegion_setRegion_ne {n m : Nat} (r : Region) (h : keysRise s.seq.regions = true) (hne : m ≠ n) :
    getRegion (setRegion s n r) m = getRegion s m :=
  mapGet_mapSet_ne (fun _ => ({} : Region)) (fun _ => {}) r h hne

theorem getRing_setRing_self (n : Nat) (r : Ring) (h : keysRise s.hqe.rings = true) : getRing (setRing s n r) n = r :=
  mapGet_mapSet_self _ n r h

theorem getRing_setRing_ne {n m : Nat} (r : Ring) (h : keysRise s.hqe.rings = true) (hne : m ≠ n) :
    getRing (setRing s n r) m = getRing s m :=
  mapGet_mapSet_ne (fun _ => ({} : Ring)) (fun _ => {}) r h hne

theorem getLink_setLink_self (i : LinkId) (l : Link) (h : keysRise s.ports = true) : getLink (setLink s i l) i = l := by
  cases i with
  | lhl => rfl
  | port p => exact mapGet_mapSet_self _ p l h

theorem getVe_setVe_self (t : Nat) (v : Ve) (h : keysRise s.ves = true) : getVe (setVe s t v) t = v :=
  mapGet_mapSet_self _ t v h

theorem getVe_setVe_ne {t u : Nat} (v : Ve) (h : keysRise s.ves = true) (hne : u ≠ t) : getVe (setVe s t v) u = getVe s u :=
  mapGet_mapSet_ne (fun _ => ({} : Ve)) (fun _ => {}) v h hne

theorem accGet_accSet_self (t n : Nat) (l : List Lp) (h : keysRise s.acc = true) : accGet (accSet s t n l) t n = l :=
  mapGet_mapSet_self accD (13 * t + n) l h

end Sys2Proof.Machine
end

