-- ==== Sys2Proof/Laws/Keeps.lean ====
section
/-! SUPPORT. Every shared operation keeps the queue of commands waiting, and keeps device memory, the view of host
memory and the register table in canonical form. Each lemma takes a state t that keeps these of a state s, and says
that the operation's result keeps them too: a meaning is followed operation by operation, from the inside out. -/

namespace Sys2Proof.Machine

/-- t has the commands of s waiting, and is in canonical form where s is. -/
structure Keeps (s t : State) : Prop where
  pending : t.pending = s.pending
  canonical : canonical s = true → canonical t = true

theorem Keeps.refl (s : State) : Keeps s s := ⟨rfl, id⟩

/-- From what an operation does to the three tables. -/
theorem Keeps.parts {s t u : State} (h : Keeps s t) (hp : u.pending = t.pending) (hm : memWf t.mem = true → memWf u.mem = true)
    (hh : memWf t.host = true → memWf u.host = true) (hr : keysRise t.regs = true → keysRise u.regs = true) : Keeps s u :=
  ⟨hp.trans h.pending, fun c => let d := canonical_iff.1 (h.canonical c); canonical_iff.2 ⟨hm d.1, hh d.2.1, hr d.2.2⟩⟩

theorem Keeps.foldl {s t : State} {α : Type} {f : State → α → State} (hf : ∀ (t : State) (x : α), Keeps s t → Keeps s (f t x)) (l : List α)
    (h : Keeps s t) : Keeps s (l.foldl f t) := by
  induction l generalizing t with
  | nil => exact h
  | cons x l ih => exact ih (hf t x h)

theorem Keeps.foldl1 {s : State} {α β : Type} {f : State × β → α → State × β} (hf : ∀ (t : State × β) (x : α), Keeps s t.1 → Keeps s (f t x).1)
    (l : List α) {t : State × β} (h : Keeps s t.1) : Keeps s (l.foldl f t).1 := by
  induction l generalizing t with
  | nil => exact h
  | cons x l ih => exact ih (hf t x h)

theorem Keeps.pair {s : State} {β : Type} {p : State × β} {a : State} {b : β} (e : p = (a, b)) (h : Keeps s p.1) : Keeps s a := by
  subst e; exact h

theorem Keeps.ite {s t u : State} {c : Prop} [Decidable c] (h : Keeps s t) (k : Keeps s u) : Keeps s (if c then t else u) := by
  split <;> assumption

theorem Keeps.ite1 {s : State} {c : Prop} [Decidable c] {β : Type} {a b : State × β} (h : Keeps s a.1) (k : Keeps s b.1) :
    Keeps s (if c then a else b).1 := by
  split <;> assumption

/-- A record update of other fields keeps them. -/
theorem keeps_mk {s t : State} {x_waiting x_shadNs x_shadS x_time x_flips x_evacs x_scrubs x_acc x_hostReqs x_hostAns
    x_hqe x_seq x_lhl x_ports x_bridges x_mcs x_fab x_mir x_das x_daAlt x_ves x_gath x_tkr x_mails x_snp x_nmu x_plat
    x_hostLine x_fij x_rasSum x_out x_freeCtr} : Keeps s (State.mk t.regs x_waiting x_shadNs x_shadS x_time t.mem
    x_flips x_evacs x_scrubs x_acc t.host x_hostReqs x_hostAns x_hqe x_seq x_lhl x_ports x_bridges x_mcs x_fab x_mir
    x_das x_daAlt x_ves x_gath x_tkr x_mails x_snp x_nmu x_plat x_hostLine x_fij x_rasSum x_out x_freeCtr t.pending) ↔
    Keeps s t :=
  ⟨fun h => ⟨h.pending, fun c => canonical_iff.2 (canonical_iff.1 (h.canonical c))⟩,
   fun h => ⟨h.pending, fun c => canonical_iff.2 (canonical_iff.1 (h.canonical c))⟩⟩

theorem keeps_setLink {s t : State} (h : Keeps s t) (a) (b) : Keeps s (setLink t a b) := by
  unfold setLink
  repeat' first
    | (with_reducible first | exact h | assumption | apply Keeps.ite | apply Keeps.ite1 | intro _)
    | simp -zeta -beta -eta -iota -proj only [↓keeps_mk] | extract_lets | split

theorem keeps_wr {s t : State} (h : Keeps s t) (a) (b) (c) (d) : Keeps s (State.wr t a b c d) := by
  exact h.parts rfl id id (keysRise_mapSet _ _ _)

theorem keeps_clearWaiting {s t : State} (h : Keeps s t) (a) (b) (c) : Keeps s (clearWaiting t a b c) := by
  unfold clearWaiting
  repeat' first
    | (with_reducible first | exact h | assumption | apply Keeps.ite | apply Keeps.ite1 | intro _)
    | simp -zeta -beta -eta -iota -proj only [↓keeps_mk]

theorem keeps_evcTakeWaiting {s t : State} (h : Keeps s t) (a) : Keeps s (evcTakeWaiting t a) := by
  unfold evcTakeWaiting
  repeat' first
    | (with_reducible first | exact h | assumption | apply keeps_clearWaiting | apply keeps_wr)
    | (with_reducible first | apply Keeps.ite | apply Keeps.ite1 | intro _)
    | simp -zeta -beta -eta -iota -proj only [↓keeps_mk] | extract_lets | split

theorem keeps_wrf {s t : State} (h : Keeps s t) (a) (b) (c) (d) (e) (f) : Keeps s (State.wrf t a b c d e f) := by
  unfold State.wrf
  repeat' first
    | (with_reducible first | exact h | assumption | apply keeps_wr)

theorem keeps_wakeWhite {s t : State} (h : Keeps s t) : Keeps s (wakeWhite t) := by
  unfold wakeWhite
  repeat' first
    | (with_reducible first | exact h | assumption | apply keeps_wrf | apply Keeps.ite | apply Keeps.ite1 | intro _)
    | simp -zeta -beta -eta -iota -proj only [↓keeps_mk]

theorem keeps_wakeWatched {s t : State} (h : Keeps s t) (a) : Keeps s (wakeWatched t a) := by
  unfold wakeWatched
  repeat' first
    | (with_reducible first | exact h | assumption | apply keeps_wakeWhite | apply keeps_wr)

theorem keeps_evcFire {s t : State} (h : Keeps s t) (a) (b) : Keeps s (evcFire t a b) := by
  unfold evcFire
  repeat' first
    | (with_reducible first | exact h | assumption | apply keeps_wr | apply keeps_evcTakeWaiting)
    | (with_reducible first | apply keeps_wakeWhite | apply keeps_wakeWatched | apply Keeps.ite)

theorem keeps_rasWatch {s t : State} (h : Keeps s t) (a) (b) : Keeps s (rasWatch t a b) := by
  unfold rasWatch
  repeat' first
    | (with_reducible first | exact h | assumption | apply keeps_evcFire | apply keeps_wr | apply Keeps.ite)
    | (with_reducible first | apply Keeps.ite1 | intro _)
    | simp -zeta -beta -eta -iota -proj only [↓keeps_mk]

theorem keeps_rasBump {s t : State} (h : Keeps s t) (a) (b) (c) : Keeps s (rasBump t a b c) := by
  unfold rasBump
  repeat' first
    | (with_reducible first | exact h | assumption | apply keeps_rasWatch | apply keeps_wr | apply Keeps.ite)

theorem keeps_cntAdd {s t : State} (h : Keeps s t) (a) (b) (c) (d) : Keeps s (cntAdd t a b c d) := by
  unfold cntAdd
  repeat' first
    | (with_reducible first | exact h | assumption | apply keeps_wr)

theorem keeps_injStep {s t : State} (h : Keeps s t) (a) (b) : Keeps s (injStep t a b).1 := by
  unfold injStep
  repeat' first
    | (with_reducible first | exact h | assumption | apply keeps_rasBump | apply keeps_cntAdd | apply Keeps.ite)
    | (with_reducible first | apply Keeps.ite1 | intro _)
    | simp -zeta -beta -eta -iota -proj only [↓keeps_mk] | extract_lets | split | dsimp +zetaDelta only

theorem keeps_injected {s t : State} (h : Keeps s t) (a) (b) (c) (d) (e) (f) : Keeps s (injected t a b c d e f).1 :=
    by
  unfold injected
  repeat' first
    | (with_reducible first | exact h | assumption | apply keeps_injStep | apply Keeps.ite | apply Keeps.ite1)
    | (with_reducible first | intro _)
    | simp -zeta -beta -eta -iota -proj only [↓keeps_mk] | extract_lets | split

theorem keeps_emit {s t : State} (h : Keeps s t) (a) : Keeps s (emit t a) := by
  unfold emit
  repeat' first
    | (with_reducible first | exact h | assumption | apply Keeps.ite | apply Keeps.ite1 | intro _)
    | simp -zeta -beta -eta -iota -proj only [↓keeps_mk]

theorem keeps_flitOut {s t : State} (h : Keeps s t) (a) (b) (c) (d) : Keeps s (flitOut t a b c d) := by
  unfold flitOut
  repeat' first
    | (with_reducible first | exact h | assumption | apply keeps_injected | apply keeps_setLink)
    | (with_reducible first | apply keeps_emit | apply Keeps.ite | apply Keeps.ite1 | intro _)
    | simp -zeta -beta -eta -iota -proj only [↓keeps_mk] | extract_lets | split

theorem keeps_linkCount {s t : State} (h : Keeps s t) (a) (b) (c) : Keeps s (linkCount t a b c) := by
  unfold linkCount
  repeat' first
    | (with_reducible first | exact h | assumption | apply keeps_cntAdd | apply Keeps.ite | apply Keeps.ite1)
    | (with_reducible first | intro _)
    | simp -zeta -beta -eta -iota -proj only [↓keeps_mk] | extract_lets | split

theorem keeps_refill {s t : State} (h : Keeps s t) (a) (b) : Keeps s (refill t a b) := by
  revert h
  fun_induction refill t a b
  all_goals intro h
  all_goals repeat' first
    | (with_reducible first | exact h | assumption | apply keeps_setLink | apply keeps_flitOut)
    | (with_reducible first | apply keeps_linkCount | apply Keeps.ite | apply Keeps.ite1 | intro _)
    | (with_reducible first | apply_assumption)

theorem keeps_setHost {s t : State} (h : Keeps s t) (a) (b) : Keeps s (setHost t a b) := by
  exact h.parts rfl id (mapWf_mapSetList memD b a) id

theorem keeps_wentOut {s t : State} (h : Keeps s t) (a) (b) : Keeps s (wentOut t a b) := by
  unfold wentOut
  repeat' first
    | (with_reducible first | exact h | assumption | apply keeps_setHost | apply keeps_emit)
    | (with_reducible first | apply keeps_cntAdd | apply Keeps.ite | apply Keeps.ite1 | intro _)
    | simp -zeta -beta -eta -iota -proj only [↓keeps_mk] | extract_lets | split

theorem keeps_pump {s t : State} (h : Keeps s t) (a) (b) : Keeps s (pump a b t) := by
  induction b generalizing t with
  | zero => exact h
  | succ n ih =>
    unfold pump
    dsimp only
    split
    · exact h
    · split
      · exact h
      · exact ih (keeps_refill (keeps_wentOut (keeps_setLink h _ _) _ _) _ _)

theorem keeps_pumpAll {s t : State} (h : Keeps s t) (a) : Keeps s (pumpAll t a) := by
  unfold pumpAll
  repeat' first
    | (with_reducible first | exact h | assumption | apply keeps_refill | apply keeps_pump)

theorem keeps_linkSend {s t : State} (h : Keeps s t) (a) (b) : Keeps s (linkSend t a b) := by
  unfold linkSend
  repeat' first
    | (with_reducible first | exact h | assumption | apply keeps_pumpAll | apply keeps_setLink)

theorem keeps_hostIssue {s t : State} (h : Keeps s t) (a) (b) (c) (d) : Keeps s (hostIssue t a b c d) := by
  unfold hostIssue
  repeat' first
    | (with_reducible first | exact h | assumption | apply keeps_linkSend | apply Keeps.ite | apply Keeps.ite1)
    | (with_reducible first | intro _)
    | simp -zeta -beta -eta -iota -proj only [↓keeps_mk]

theorem keeps_hostPut {s t : State} (h : Keeps s t) (a) (b) (c) (d) : Keeps s (hostPut t a b c d) := by
  unfold hostPut
  repeat' first
    | (with_reducible first | exact h | assumption | apply keeps_hostIssue | apply Keeps.ite | apply Keeps.ite1)
    | (with_reducible first | intro _)
    | simp -zeta -beta -eta -iota -proj only [↓keeps_mk]

theorem keeps_hostAsk {s t : State} (h : Keeps s t) (a) (b) (c) (d) : Keeps s (hostAsk t a b c d) := by
  unfold hostAsk
  repeat' first
    | (with_reducible first | exact h | assumption | apply keeps_hostPut | apply Keeps.ite)

theorem keeps_hostRead {s t : State} (h : Keeps s t) (a) (b) (c) (d) : Keeps s (hostRead t a b c d).1 := by
  unfold hostRead
  repeat' first
    | (with_reducible first | exact h | assumption | apply keeps_hostAsk | apply Keeps.ite | apply Keeps.ite1)
    | (with_reducible first | (apply Keeps.foldl; intro _ _ _))

theorem keeps_copyHostReady {s t : State} (h : Keeps s t) (a) (b) : Keeps s (copyHostReady a b t).1 := by
  revert h
  fun_induction copyHostReady a b t
  all_goals intro h
  all_goals repeat' first
    | (with_reducible first | exact h | assumption | apply keeps_hostRead | apply Keeps.ite | apply Keeps.ite1)
    | (with_reducible first | intro _ | apply_assumption)
    | simp -zeta -beta -eta -iota -proj only [↓keeps_mk] | extract_lets | split | dsimp +zetaDelta only | (refine Keeps.pair (by assumption) ?_)

theorem keeps_hostWrite {s t : State} (h : Keeps s t) (a) (b) (c) : Keeps s (hostWrite t a b c) := by
  unfold hostWrite
  repeat' first
    | (with_reducible first | exact h | assumption | apply keeps_linkSend)

theorem keeps_sendIntr {s t : State} (h : Keeps s t) (a) (b) : Keeps s (sendIntr t a b) := by
  unfold sendIntr
  repeat' first
    | (with_reducible first | exact h | assumption | apply keeps_linkSend | apply keeps_cntAdd)

theorem keeps_setRing {s t : State} (h : Keeps s t) (a) (b) : Keeps s (setRing t a b) := by
  unfold setRing
  repeat' first
    | (with_reducible first | exact h | assumption | apply Keeps.ite | apply Keeps.ite1 | intro _)
    | simp -zeta -beta -eta -iota -proj only [↓keeps_mk]

theorem keeps_signalRing {s t : State} (h : Keeps s t) (a) (b) : Keeps s (signalRing t a b) := by
  unfold signalRing
  repeat' first
    | (with_reducible first | exact h | assumption | apply keeps_sendIntr | apply keeps_setRing | apply Keeps.ite)

theorem keeps_putEntry {s t : State} (h : Keeps s t) (a) (b) (c) : Keeps s (putEntry t a b c) := by
  unfold putEntry
  repeat' first
    | (with_reducible first | exact h | assumption | apply keeps_hostWrite | apply keeps_signalRing)
    | (with_reducible first | apply keeps_setRing)

theorem keeps_putCpl {s t : State} (h : Keeps s t) (a) : Keeps s (putCpl t a) := by
  unfold putCpl
  repeat' first
    | (with_reducible first | exact h | assumption | apply keeps_cntAdd | apply keeps_putEntry)
    | (with_reducible first | apply Keeps.ite | apply Keeps.ite1 | intro _)
    | simp -zeta -beta -eta -iota -proj only [↓keeps_mk]

theorem keeps_dropIssued {s t : State} (h : Keeps s t) (a) : Keeps s (dropIssued t a) := by
  unfold dropIssued
  repeat' first
    | (with_reducible first | exact h | assumption | apply Keeps.ite | apply Keeps.ite1 | intro _)
    | simp -zeta -beta -eta -iota -proj only [↓keeps_mk]

theorem keeps_completeInfo {s t : State} (h : Keeps s t) (a) (b) (c) : Keeps s (completeInfo t a b c) := by
  unfold completeInfo
  repeat' first
    | (with_reducible first | exact h | assumption | apply keeps_putCpl | apply keeps_dropIssued)
    | (with_reducible first | apply Keeps.ite | apply Keeps.ite1 | intro _)
    | simp -zeta -beta -eta -iota -proj only [↓keeps_mk] | extract_lets | split

theorem keeps_complete {s t : State} (h : Keeps s t) (a) (b) : Keeps s (complete t a b) := by
  unfold complete
  repeat' first
    | (with_reducible first | exact h | assumption | apply keeps_completeInfo | apply Keeps.ite)
    | (with_reducible first | apply Keeps.ite1 | intro _)
    | simp -zeta -beta -eta -iota -proj only [↓keeps_mk] | extract_lets | split

theorem keeps_drawFree {s t : State} (h : Keeps s t) : Keeps s (drawFree t).1 := by
  unfold drawFree
  repeat' first
    | (with_reducible first | exact h | assumption | apply Keeps.ite | apply Keeps.ite1 | intro _)
    | simp -zeta -beta -eta -iota -proj only [↓keeps_mk] | extract_lets | split | dsimp +zetaDelta only

theorem keeps_pickTiles {s t : State} (h : Keeps s t) (a) : Keeps s (pickTiles t a).1 := by
  unfold pickTiles
  repeat' first
    | (with_reducible first | exact h | assumption | apply keeps_drawFree)

theorem keeps_modCopy {s t : State} (h : Keeps s t) (a) (b) : Keeps s (modCopy t a b) := by
  unfold modCopy
  repeat' first
    | (with_reducible first | exact h | assumption | apply Keeps.ite | apply Keeps.ite1 | intro _)
    | simp -zeta -beta -eta -iota -proj only [↓keeps_mk]

theorem keeps_ctrRestore {s t : State} (h : Keeps s t) (a) (b) : Keeps s (ctrRestore t a b) := by
  refine h.parts rfl id id fun hr => ?_
  have hk : ∀ (l : NMap W64) (m : NMap W64), keysRise m = true → keysRise (l.foldl (fun m p => mapIns m p.1 p.2) m) = true := by
    intro l
    induction l with
    | nil => exact fun _ hm => hm
    | cons p l ih => exact fun m hm => ih _ (keysRise_mapIns _ _ hm)
  exact hk b _ (keysRise_filter _ hr)

theorem keeps_setRegion {s t : State} (h : Keeps s t) (a) (b) : Keeps s (setRegion t a b) := by
  unfold setRegion
  repeat' first
    | (with_reducible first | exact h | assumption | apply Keeps.ite | apply Keeps.ite1 | intro _)
    | simp -zeta -beta -eta -iota -proj only [↓keeps_mk]

theorem keeps_pinDrop {s t : State} (h : Keeps s t) (a) (b) : Keeps s (pinDrop t a b) := by
  unfold pinDrop
  repeat' first
    | (with_reducible first | exact h | assumption | apply keeps_setRegion)

theorem keeps_pinsDrop {s t : State} (h : Keeps s t) (a) : Keeps s (pinsDrop t a) := by
  unfold pinsDrop
  repeat' first
    | (with_reducible first | exact h | assumption | apply keeps_pinDrop | apply Keeps.ite | apply Keeps.ite1)
    | (with_reducible first | (apply Keeps.foldl; intro _ _ _))

theorem keeps_accSet {s t : State} (h : Keeps s t) (a) (b) (c) : Keeps s (accSet t a b c) := by
  unfold accSet
  repeat' first
    | (with_reducible first | exact h | assumption | apply Keeps.ite | apply Keeps.ite1 | intro _)
    | simp -zeta -beta -eta -iota -proj only [↓keeps_mk]

theorem keeps_accClear {s t : State} (h : Keeps s t) (a) (b) : Keeps s (accClear t a b) := by
  unfold accClear
  repeat' first
    | (with_reducible first | exact h | assumption | apply keeps_accSet)

theorem keeps_dropEngines {s t : State} (h : Keeps s t) (a) : Keeps s (dropEngines t a) := by
  unfold dropEngines
  repeat' first
    | (with_reducible first | exact h | assumption | apply keeps_accClear | apply Keeps.ite | apply Keeps.ite1)
    | (with_reducible first | (apply Keeps.foldl; intro _ _ _) | intro _)
    | simp -zeta -beta -eta -iota -proj only [↓keeps_mk] | extract_lets | split

theorem keeps_clearStalls {s t : State} (h : Keeps s t) (a) : Keeps s (clearStalls t a) := by
  unfold clearStalls
  repeat' first
    | (with_reducible first | exact h | assumption | apply keeps_setRegion | apply Keeps.ite | apply Keeps.ite1)
    | (with_reducible first | (apply Keeps.foldl; intro _ _ _))

theorem keeps_setPlan {s t : State} (h : Keeps s t) (a) (b) : Keeps s (setPlan t a b) := by
  unfold setPlan
  repeat' first
    | (with_reducible first | exact h | assumption | apply Keeps.ite | apply Keeps.ite1 | intro _)
    | simp -zeta -beta -eta -iota -proj only [↓keeps_mk] | extract_lets | split

theorem keeps_leavePlan {s t : State} (h : Keeps s t) (a) (b) : Keeps s (leavePlan t a b) := by
  unfold leavePlan
  repeat' first
    | (with_reducible first | exact h | assumption | apply keeps_pinsDrop | apply keeps_dropEngines)
    | (with_reducible first | apply keeps_clearStalls | apply keeps_setPlan | apply Keeps.ite)
    | (with_reducible first | apply Keeps.ite1 | intro _)
    | simp -zeta -beta -eta -iota -proj only [↓keeps_mk]

theorem keeps_countAutoFail {s t : State} (h : Keeps s t) (a) (b) : Keeps s (countAutoFail t a b) := by
  unfold countAutoFail
  repeat' first
    | (with_reducible first | exact h | assumption | apply Keeps.ite | apply Keeps.ite1 | intro _)
    | simp -zeta -beta -eta -iota -proj only [↓keeps_mk]

theorem keeps_failPlan {s t : State} (h : Keeps s t) (a) (b) : Keeps s (failPlan t a b) := by
  unfold failPlan
  repeat' first
    | (with_reducible first | exact h | assumption | apply keeps_ctrRestore | apply keeps_leavePlan)
    | (with_reducible first | apply keeps_completeInfo | apply keeps_countAutoFail | apply Keeps.ite)
    | (with_reducible first | apply Keeps.ite1 | intro _)
    | simp -zeta -beta -eta -iota -proj only [↓keeps_mk] | extract_lets | split

theorem keeps_endSnap {s t : State} (h : Keeps s t) (a) : Keeps s (endSnap t a) := by
  unfold endSnap
  split
  · exact h
  · rename_i n _
    have h1 : Keeps s { t with snp := { t.snp with cur := none }, mem := mapClearRange t.mem 0x1C00000 0x1DE0000 } :=
      h.parts rfl (mapWf_mapClearRange memD _ _) id id
    extract_lets _ s1 e s2
    have h2 : Keeps s s2 := by
      simp only [s2]
      split
      · exact h1
      · split <;> exact keeps_mk.2 h1
    split
    · exact keeps_complete h2 _ _
    · exact keeps_putCpl h2 _

theorem keeps_failWork {s t : State} (h : Keeps s t) (a) (b) : Keeps s (failWork t a b) := by
  unfold failWork
  repeat' first
    | (with_reducible first | exact h | assumption | apply keeps_failPlan | apply keeps_complete)
    | (with_reducible first | apply keeps_endSnap | apply Keeps.ite | apply Keeps.ite1 | intro _)
    | simp -zeta -beta -eta -iota -proj only [↓keeps_mk] | extract_lets | split

theorem keeps_sentOr {s : State} {z : State × SendRes} (h : Keeps s z.1) (a) : Keeps s (sentOr a z) := by
  unfold sentOr
  split
  · exact h
  · exact keeps_failWork h _ _

theorem keeps_modPlan {s t : State} (h : Keeps s t) (a) (b) : Keeps s (modPlan t a b) := by
  unfold modPlan
  repeat' first
    | (with_reducible first | exact h | assumption | apply keeps_setPlan)

theorem keeps_modIssued {s t : State} (h : Keeps s t) (a) (b) : Keeps s (modIssued t a b) := by
  unfold modIssued
  repeat' first
    | (with_reducible first | exact h | assumption | apply Keeps.ite | apply Keeps.ite1 | intro _)
    | simp -zeta -beta -eta -iota -proj only [↓keeps_mk]

theorem keeps_failCtx {s t : State} (h : Keeps s t) (a) (b) (c) (d) : Keeps s (failCtx t a b c d) := by
  unfold failCtx
  repeat' first
    | (with_reducible first | exact h | assumption | apply keeps_modPlan | apply keeps_modIssued)
    | (with_reducible first | apply Keeps.ite | apply Keeps.ite1 | intro _)
    | simp -zeta -beta -eta -iota -proj only [↓keeps_mk] | extract_lets | split

theorem keeps_dieEvent {s t : State} (h : Keeps s t) (a) (b) (c) (d) : Keeps s (dieEvent t a b c d) := by
  unfold dieEvent
  repeat' first
    | (with_reducible first | exact h | assumption | apply keeps_failCtx | apply keeps_rasBump | apply Keeps.ite)

theorem keeps_qxfErrSet {s t : State} (h : Keeps s t) (a) (b) (c) (d) (e) : Keeps s (qxfErrSet t a b c d e) := by
  unfold qxfErrSet
  repeat' first
    | (with_reducible first | exact h | assumption | apply keeps_wr | apply Keeps.ite)

theorem keeps_unroutable {s t : State} (h : Keeps s t) (a) (b) (c) : Keeps s (unroutable t a b c) := by
  unfold unroutable
  repeat' first
    | (with_reducible first | exact h | assumption | apply keeps_dieEvent | apply keeps_qxfErrSet)
    | (with_reducible first | apply keeps_cntAdd)

theorem keeps_routeAll {s t : State} (h : Keeps s t) (a) (b) (c) : Keeps s (routeAll t a b c) := by
  unfold routeAll
  repeat' first
    | (with_reducible first | exact h | assumption | apply keeps_linkSend | apply keeps_unroutable)
    | (with_reducible first | apply Keeps.ite | apply Keeps.ite1 | (apply Keeps.foldl; intro _ _ _) | intro _)
    | simp -zeta -beta -eta -iota -proj only [↓keeps_mk] | extract_lets | split

theorem keeps_transmit {s t : State} (h : Keeps s t) (a) : Keeps s (transmit t a) := by
  unfold transmit
  repeat' first
    | (with_reducible first | exact h | assumption | apply keeps_cntAdd | apply keeps_routeAll)
    | (with_reducible first | apply Keeps.ite | apply Keeps.ite1 | intro _)
    | simp -zeta -beta -eta -iota -proj only [↓keeps_mk]

theorem keeps_cacheTouch {s t : State} (h : Keeps s t) (a) : Keeps s (cacheTouch t a) := by
  unfold cacheTouch
  repeat' first
    | (with_reducible first | exact h | assumption | apply Keeps.ite | apply Keeps.ite1 | intro _)
    | simp -zeta -beta -eta -iota -proj only [↓keeps_mk]

theorem keeps_sendMsg {s t : State} (h : Keeps s t) (a) : Keeps s (sendMsg t a).1 := by
  unfold sendMsg
  repeat' first
    | (with_reducible first | exact h | assumption | apply keeps_cntAdd | apply keeps_transmit)
    | (with_reducible first | apply keeps_cacheTouch | apply Keeps.ite | apply Keeps.ite1 | intro _)
    | simp -zeta -beta -eta -iota -proj only [↓keeps_mk] | extract_lets | split | dsimp +zetaDelta only

theorem keeps_sendRead {s t : State} (h : Keeps s t) (a) (b) (c) (d) (e) (f) : Keeps s (sendRead t a b c d e f).1 :=
    by
  unfold sendRead
  repeat' first
    | (with_reducible first | exact h | assumption | apply keeps_sendMsg)

theorem keeps_askRuns {s t : State} (h : Keeps s t) (a) (b) (c) (d) : Keeps s (askRuns t a b c d).1 := by
  unfold askRuns
  repeat' first
    | (with_reducible first | exact h | assumption | apply keeps_sendRead | apply Keeps.ite | apply Keeps.ite1)
    | (with_reducible first | (apply Keeps.foldl1; intro _ _ _) | intro _)
    | simp -zeta -beta -eta -iota -proj only [↓keeps_mk] | extract_lets | split

theorem keeps_copyStep {s t : State} (h : Keeps s t) (a) : Keeps s (copyStep t a).1 := by
  unfold copyStep
  repeat' first
    | (with_reducible first | exact h | assumption | apply keeps_drawFree | apply Keeps.ite | apply Keeps.ite1)

theorem keeps_copyFinish {s t : State} (h : Keeps s t) (a) : Keeps s (copyFinish t a) := by
  unfold copyFinish
  repeat' first
    | (with_reducible first | exact h | assumption | apply keeps_complete | apply Keeps.ite | apply Keeps.ite1)
    | (with_reducible first | intro _)
    | simp -zeta -beta -eta -iota -proj only [↓keeps_mk] | extract_lets | split

theorem keeps_rasTileBump {s t : State} (h : Keeps s t) (a) (b) (c) : Keeps s (rasTileBump t a b c) := by
  unfold rasTileBump
  repeat' first
    | (with_reducible first | exact h | assumption | apply keeps_wr | apply Keeps.ite)

theorem keeps_tileEvent {s t : State} (h : Keeps s t) (a) (b) (c) (d) : Keeps s (tileEvent t a b c d) := by
  unfold tileEvent
  repeat' first
    | (with_reducible first | exact h | assumption | apply keeps_failCtx | apply keeps_rasTileBump)
    | (with_reducible first | apply keeps_rasBump | apply Keeps.ite)

theorem keeps_rangeViol {s t : State} (h : Keeps s t) (a) (b) : Keeps s (rangeViol t a b) := by
  unfold rangeViol
  repeat' first
    | (with_reducible first | exact h | assumption | apply keeps_tileEvent | apply keeps_dieEvent)
    | (with_reducible first | apply Keeps.ite | apply Keeps.ite1 | intro _)
    | simp -zeta -beta -eta -iota -proj only [↓keeps_mk] | extract_lets | split

theorem keeps_meshErrAt {s t : State} (h : Keeps s t) (a) (b) (c) (d) : Keeps s (meshErrAt t a b c d) := by
  unfold meshErrAt
  repeat' first
    | (with_reducible first | exact h | assumption | apply keeps_wr | apply Keeps.ite)

theorem keeps_meshLost {s t : State} (h : Keeps s t) (a) (b) (c) (d) (e) (f) (g) : Keeps s (meshLost t a b c d e f g)
    := by
  unfold meshLost
  repeat' first
    | (with_reducible first | exact h | assumption | apply keeps_tileEvent | apply keeps_cntAdd)
    | (with_reducible first | apply keeps_meshErrAt | apply Keeps.ite)

theorem keeps_accessLost {s t u : State} {a : Ctx} {b : Nat} {c : Bool} {d : Nat} (h : Keeps s t) (k : accessLost t a
    b c d = some u) : Keeps s u := by
  unfold accessLost at k
  split at k
  · cases k
  · split at k
    · injection k with k; subst k; exact keeps_meshLost h _ _ _ _ _ _ _
    · split at k
      · injection k with k; subst k; exact keeps_meshLost h _ _ _ _ _ _ _
      · cases k

theorem keeps_rasChanBump {s t : State} (h : Keeps s t) (a) (b) : Keeps s (rasChanBump t a b) := by
  unfold rasChanBump
  repeat' first
    | (with_reducible first | exact h | assumption | apply keeps_wr | apply Keeps.ite)

theorem keeps_eccUncorrectable {s t : State} (h : Keeps s t) (a) (b) : Keeps s (eccUncorrectable t a b) := by
  unfold eccUncorrectable
  repeat' first
    | (with_reducible first | exact h | assumption | apply keeps_tileEvent | apply keeps_dieEvent)
    | (with_reducible first | apply keeps_rasChanBump | apply keeps_modPlan | apply Keeps.ite)
    | (with_reducible first | apply Keeps.ite1 | intro _)
    | simp -zeta -beta -eta -iota -proj only [↓keeps_mk] | extract_lets | split

theorem keeps_eccCorrected {s t : State} (h : Keeps s t) (a) : Keeps s (eccCorrected t a) := by
  unfold eccCorrected
  repeat' first
    | (with_reducible first | exact h | assumption | apply keeps_rasBump | apply keeps_rasChanBump)
    | (with_reducible first | apply Keeps.ite | apply Keeps.ite1 | intro _)
    | simp -zeta -beta -eta -iota -proj only [↓keeps_mk] | extract_lets | split

theorem keeps_freeBytes {s t : State} (h : Keeps s t) (a) : Keeps s (freeBytes t a).1 := by
  unfold freeBytes
  repeat' first
    | (with_reducible first | exact h | assumption | apply keeps_drawFree)

theorem keeps_setMem {s t : State} (h : Keeps s t) (a) (b) : Keeps s (setMem t a b) := by
  exact h.parts rfl (mapWf_mapSetList memD b a) id id

theorem keeps_setWord {s t : State} (h : Keeps s t) (a) (b) : Keeps s (setWord t a b) := by
  unfold setWord
  repeat' first
    | (with_reducible first | exact h | assumption | apply keeps_setMem | apply Keeps.ite | apply Keeps.ite1)
    | (with_reducible first | intro _)
    | simp -zeta -beta -eta -iota -proj only [↓keeps_mk] | extract_lets | split

theorem keeps_eccReadWord {s t : State} (h : Keeps s t) (a) (b) : Keeps s (eccReadWord t a b).1 := by
  unfold eccReadWord
  repeat' first
    | (with_reducible first | exact h | assumption | apply keeps_eccUncorrectable | apply keeps_eccCorrected)
    | (with_reducible first | apply keeps_freeBytes | apply keeps_setWord | apply Keeps.ite | apply Keeps.ite1)
    | (with_reducible first | intro _)
    | simp -zeta -beta -eta -iota -proj only [↓keeps_mk] | extract_lets

theorem keeps_eccReadAll {s t : State} (h : Keeps s t) (a) (b) : Keeps s (eccReadAll a b t) := by
  revert h
  fun_induction eccReadAll a b t
  all_goals intro h
  all_goals repeat' first
    | (with_reducible first | exact h | assumption | apply keeps_eccReadWord | apply Keeps.ite)
    | (with_reducible first | apply Keeps.ite1 | intro _ | apply_assumption)

theorem keeps_countDenied {s t : State} (h : Keeps s t) (a) : Keeps s (countDenied t a) := by
  unfold countDenied
  repeat' first
    | (with_reducible first | exact h | assumption | apply keeps_rasBump)

theorem keeps_devRead {s t : State} (h : Keeps s t) (a) (b) (c) (d) (e) : Keeps s (devRead t a b c d e).1 := by
  unfold devRead
  repeat' first
    | (with_reducible first | exact h | assumption | apply keeps_eccReadAll | apply keeps_countDenied)
    | (with_reducible first | apply Keeps.ite | apply Keeps.ite1)

theorem keeps_devReadB {s t : State} (h : Keeps s t) (a) (b) (c) (d) (e) (f) : Keeps s (devReadB a b c d t e f).1 :=
    by
  revert h
  fun_induction devReadB a b c d t e f
  all_goals intro h
  all_goals repeat' first
    | (with_reducible first | exact h | assumption | apply keeps_devRead | apply Keeps.ite | apply Keeps.ite1)
    | (with_reducible first | intro _ | apply_assumption)

theorem keeps_engRead {s t : State} (h : Keeps s t) (a) (b) (c) : Keeps s (engRead t a b c).1 := by
  unfold engRead
  refine .ite1 (keeps_rangeViol h _ _) ?_
  split
  · exact keeps_accessLost h (by assumption)
  · exact keeps_devReadB h _ _ _ _ _ _

theorem keeps_spRead {s t : State} (h : Keeps s t) (a) (b) (c) (d) : Keeps s (spRead t a b c d).1 := by
  unfold spRead
  repeat' first
    | (with_reducible first | exact h | assumption | apply keeps_engRead | apply Keeps.ite | apply Keeps.ite1)
    | (with_reducible first | intro _)
    | simp -zeta -beta -eta -iota -proj only [↓keeps_mk] | extract_lets | split

theorem keeps_layoutEvent {s t : State} (h : Keeps s t) (a) (b) (c) (d) : Keeps s (layoutEvent t a b c d) := by
  unfold layoutEvent
  repeat' first
    | (with_reducible first | exact h | assumption | apply keeps_failCtx | apply keeps_rasTileBump)
    | (with_reducible first | apply keeps_rasBump | apply Keeps.ite | apply Keeps.ite1 | intro _)
    | simp -zeta -beta -eta -iota -proj only [↓keeps_mk] | extract_lets | split

theorem keeps_layoutCapture {s t : State} (h : Keeps s t) (a) (b) (c) (d) : Keeps s (layoutCapture t a b c d) := by
  unfold layoutCapture
  repeat' first
    | (with_reducible first | exact h | assumption | apply keeps_wr | apply Keeps.ite)

theorem keeps_layoutFail {s t : State} (h : Keeps s t) (a) (b) (c) (d) : Keeps s (layoutFail t a b c d) := by
  unfold layoutFail
  repeat' first
    | (with_reducible first | exact h | assumption | apply keeps_layoutEvent | apply keeps_layoutCapture)

theorem keeps_readHeaderAt {s t : State} (h : Keeps s t) (a) (b) (c) (d) : Keeps s (readHeaderAt t a b c d).1 := by
  unfold readHeaderAt
  repeat' first
    | (with_reducible first | exact h | assumption | apply keeps_spRead | apply keeps_layoutFail)
    | (with_reducible first | apply Keeps.ite | apply Keeps.ite1)

theorem keeps_readPayload {s t : State} (h : Keeps s t) (a) (b) (c) (d) (e) (f) : Keeps s (readPayload t a b c d e
    f).1 := by
  unfold readPayload
  repeat' first
    | (with_reducible first | exact h | assumption | apply keeps_spRead | apply keeps_layoutFail)
    | (with_reducible first | apply Keeps.ite | apply Keeps.ite1)

theorem keeps_readBlock {s t : State} (h : Keeps s t) (a) (b) (c) (d) : Keeps s (readBlock t a b c d).1 := by
  unfold readBlock
  repeat' first
    | (with_reducible first | exact h | assumption | apply keeps_readHeaderAt | apply keeps_readPayload)
    | (with_reducible first | apply Keeps.ite | apply Keeps.ite1 | intro _)
    | simp -zeta -beta -eta -iota -proj only [↓keeps_mk] | extract_lets | split | dsimp +zetaDelta only | (refine Keeps.pair (by assumption) ?_)

theorem keeps_readBlocks {s t : State} (h : Keeps s t) (a) (b) (c) (d) (e) : Keeps s (readBlocks a b c d t e).1 := by
  revert h
  fun_induction readBlocks a b c d t e
  all_goals intro h
  all_goals repeat' first
    | (with_reducible first | exact h | assumption | apply keeps_readBlock | apply Keeps.ite | apply Keeps.ite1)
    | (with_reducible first | intro _ | apply_assumption)

theorem keeps_readTens {s t : State} (h : Keeps s t) (a) (b) (c) : Keeps s (readTens t a b c).1 := by
  unfold readTens
  repeat' first
    | (with_reducible first | exact h | assumption | apply keeps_spRead | apply keeps_readBlocks)
    | (with_reducible first | apply Keeps.ite | apply Keeps.ite1)

theorem keeps_copyCountIdx {s t : State} (h : Keeps s t) (a) (b) (c) (d) (e) : Keeps s (copyCountIdx t a b c d e) :=
    by
  unfold copyCountIdx
  repeat' first
    | (with_reducible first | exact h | assumption | apply keeps_rasBump | apply Keeps.ite)

theorem keeps_readTensAt {s t : State} (h : Keeps s t) (a) (b) (c) (d) : Keeps s (readTensAt t a b c d).1 := by
  unfold readTensAt
  repeat' first
    | (with_reducible first | exact h | assumption | apply keeps_readTens | apply keeps_readBlocks)
    | (with_reducible first | apply Keeps.ite | apply Keeps.ite1)

theorem keeps_rawRead {s t : State} (h : Keeps s t) (a) (b) (c) : Keeps s (rawRead t a b c).1 := by
  unfold rawRead
  repeat' first
    | (with_reducible first | exact h | assumption | apply keeps_eccReadAll)

theorem keeps_sendRun {s t : State} (h : Keeps s t) (a) (b) (c) (d) (e) : Keeps s (sendRun t a b c d e).1 := by
  revert h
  fun_induction sendRun t a b c d e
  all_goals intro h
  all_goals repeat' first
    | (with_reducible first | exact h | assumption | apply keeps_sendMsg | apply Keeps.ite | apply Keeps.ite1)
    | (with_reducible first | intro _ | apply_assumption)
    | simp -zeta -beta -eta -iota -proj only [↓keeps_mk] | extract_lets | split | dsimp +zetaDelta only | (refine Keeps.pair (by assumption) ?_)

theorem keeps_snapPut {s t : State} (h : Keeps s t) (a) (b) (c) : Keeps s (snapPut t a b c) := by
  unfold snapPut
  repeat' first
    | (with_reducible first | exact h | assumption | apply keeps_hostWrite | apply keeps_sendRun)
    | (with_reducible first | apply keeps_endSnap | apply Keeps.ite | apply Keeps.ite1 | intro _)
    | simp -zeta -beta -eta -iota -proj only [↓keeps_mk] | extract_lets | split | dsimp +zetaDelta only | (refine Keeps.pair (by assumption) ?_)

theorem keeps_snapSendPage {s t : State} (h : Keeps s t) (a) (b) : Keeps s (snapSendPage t a b) := by
  unfold snapSendPage
  repeat' first
    | (with_reducible first | exact h | assumption | apply keeps_snapPut | apply Keeps.ite | apply Keeps.ite1)
    | (with_reducible first | intro _)
    | simp -zeta -beta -eta -iota -proj only [↓keeps_mk] | extract_lets | split

theorem keeps_snapSendBuffered {s t : State} (h : Keeps s t) : Keeps s (snapSendBuffered t) := by
  unfold snapSendBuffered
  repeat' first
    | (with_reducible first | exact h | assumption | apply keeps_rawRead | apply keeps_snapSendPage)
    | (with_reducible first | apply Keeps.ite | apply Keeps.ite1 | intro _)
    | simp -zeta -beta -eta -iota -proj only [↓keeps_mk] | extract_lets | split

theorem keeps_setTracked {s t : State} (h : Keeps s t) (a) (b) : Keeps s (setTracked t a b) := by
  unfold setTracked
  repeat' first
    | (with_reducible first | exact h | assumption | apply keeps_setMem)

theorem keeps_flipsGone {s t : State} (h : Keeps s t) (a) : Keeps s (flipsGone t a) := by
  unfold flipsGone
  repeat' first
    | (with_reducible first | exact h | assumption | apply Keeps.ite | apply Keeps.ite1 | intro _)
    | simp -zeta -beta -eta -iota -proj only [↓keeps_mk]

theorem keeps_eccWriteWord {s t : State} (h : Keeps s t) (a) (b) (c) (d) : Keeps s (eccWriteWord t a b c d).1 := by
  unfold eccWriteWord
  repeat' first
    | (with_reducible first | exact h | assumption | apply keeps_flipsGone | apply keeps_eccReadWord)
    | (with_reducible first | apply keeps_setMem | apply Keeps.ite | apply Keeps.ite1 | intro _)
    | simp -zeta -beta -eta -iota -proj only [↓keeps_mk] | extract_lets | split | dsimp +zetaDelta only

theorem keeps_eccWriteAll {s t : State} (h : Keeps s t) (a) (b) (c) (d) : Keeps s (eccWriteAll a b c d t).1 := by
  revert h
  fun_induction eccWriteAll a b c d t
  all_goals intro h
  all_goals repeat' first
    | (with_reducible first | exact h | assumption | apply keeps_eccWriteWord | apply Keeps.ite)
    | (with_reducible first | apply Keeps.ite1 | intro _ | apply_assumption)

theorem keeps_rawWrite {s t : State} (h : Keeps s t) (a) (b) (c) : Keeps s (rawWrite t a b c) := by
  unfold rawWrite
  repeat' first
    | (with_reducible first | exact h | assumption | apply keeps_setMem | apply keeps_eccWriteAll | apply Keeps.ite)

theorem keeps_cowPage {s t : State} (h : Keeps s t) (a) : Keeps s (cowPage t a) := by
  unfold cowPage
  repeat' first
    | (with_reducible first | exact h | assumption | apply keeps_rasBump | apply keeps_snapSendBuffered)
    | (with_reducible first | apply keeps_setTracked | apply keeps_rawRead | apply keeps_rawWrite)
    | (with_reducible first | apply Keeps.ite | apply Keeps.ite1 | intro _)
    | simp -zeta -beta -eta -iota -proj only [↓keeps_mk] | extract_lets | split

theorem keeps_cowRange {s t : State} (h : Keeps s t) (a) (b) : Keeps s (cowRange t a b) := by
  unfold cowRange
  repeat' first
    | (with_reducible first | exact h | assumption | apply keeps_cowPage | apply Keeps.ite | apply Keeps.ite1)
    | (with_reducible first | (apply Keeps.foldl; intro _ _ _))

theorem keeps_freeBegins {s t : State} (h : Keeps s t) (a) : Keeps s (freeBegins t a) := by
  unfold freeBegins
  repeat' first
    | (with_reducible first | exact h | assumption | apply keeps_modPlan | apply keeps_setRegion)

theorem keeps_digestWrite {s t : State} (h : Keeps s t) (a) (b) (c) : Keeps s (digestWrite t a b c) := by
  unfold digestWrite
  repeat' first
    | (with_reducible first | exact h | assumption | apply keeps_freeBegins | apply keeps_modPlan)
    | (with_reducible first | apply Keeps.ite | apply Keeps.ite1 | intro _)
    | simp -zeta -beta -eta -iota -proj only [↓keeps_mk] | extract_lets | split

theorem keeps_mirSend {s t : State} (h : Keeps s t) (a) (b) (c) (d) (e) : Keeps s (mirSend t a b c d e) := by
  unfold mirSend
  repeat' first
    | (with_reducible first | exact h | assumption | apply keeps_sendMsg | apply Keeps.ite | apply Keeps.ite1)
    | (with_reducible first | intro _)
    | simp -zeta -beta -eta -iota -proj only [↓keeps_mk] | extract_lets | split

theorem keeps_mirWrite {s t : State} (h : Keeps s t) (a) (b) (c) : Keeps s (mirWrite t a b c) := by
  unfold mirWrite
  repeat' first
    | (with_reducible first | exact h | assumption | apply keeps_mirSend | apply Keeps.ite | apply Keeps.ite1)
    | (with_reducible first | intro _)
    | simp -zeta -beta -eta -iota -proj only [↓keeps_mk] | extract_lets | split

theorem keeps_performWrite {s t : State} (h : Keeps s t) (a) (b) (c) : Keeps s (performWrite t a b c) := by
  unfold performWrite
  repeat' first
    | (with_reducible first | exact h | assumption | apply keeps_cowRange | apply keeps_rawWrite)
    | (with_reducible first | apply keeps_digestWrite | apply keeps_mirWrite)

theorem keeps_devWrite {s t : State} (h : Keeps s t) (a) (b) (c) (d) (e) : Keeps s (devWrite t a b c d e) := by
  unfold devWrite
  repeat' first
    | (with_reducible first | exact h | assumption | apply keeps_performWrite | apply keeps_countDenied)
    | (with_reducible first | apply Keeps.ite)

theorem keeps_devWriteB {s t : State} (h : Keeps s t) (a) (b) (c) (d) (e) (f) : Keeps s (devWriteB a b c d t e f) :=
    by
  revert h
  fun_induction devWriteB a b c d t e f
  all_goals intro h
  all_goals repeat' first
    | (with_reducible first | exact h | assumption | apply keeps_devWrite | apply Keeps.ite | apply Keeps.ite1)
    | (with_reducible first | intro _ | apply_assumption)

theorem keeps_engWrite {s t : State} (h : Keeps s t) (a) (b) (c) : Keeps s (engWrite t a b c) := by
  unfold engWrite
  refine .ite (keeps_rangeViol h _ _) ?_
  split
  · exact keeps_accessLost h (by assumption)
  · exact keeps_devWriteB h _ _ _ _ _ _

theorem keeps_sendRuns {s t : State} (h : Keeps s t) (a) (b) (c) (d) : Keeps s (sendRuns a b c d t) := by
  induction d generalizing t with
  | nil => exact h
  | cons x l ih =>
    unfold sendRuns
    split
    · exact ih (Keeps.pair (by assumption) (keeps_sendMsg h _))
    · exact keeps_sentOr (keeps_sendMsg h _) _

theorem keeps_spWrite {s t : State} (h : Keeps s t) (a) (b) (c) (d) (e) : Keeps s (spWrite t a b c d e) := by
  unfold spWrite
  repeat' first
    | (with_reducible first | exact h | assumption | apply keeps_engWrite | apply keeps_hostWrite)
    | (with_reducible first | apply keeps_sendRuns | apply Keeps.ite | apply Keeps.ite1 | intro _)
    | simp -zeta -beta -eta -iota -proj only [↓keeps_mk] | extract_lets | split

theorem keeps_countSubst {s t : State} (h : Keeps s t) (a) (b) : Keeps s (countSubst t a b) := by
  unfold countSubst
  repeat' first
    | (with_reducible first | exact h | assumption | apply keeps_rasBump | apply Keeps.ite)

theorem keeps_capExceeded {s t : State} (h : Keeps s t) (a) (b) : Keeps s (capExceeded t a b) := by
  unfold capExceeded
  repeat' first
    | (with_reducible first | exact h | assumption | apply keeps_tileEvent | apply keeps_dieEvent)
    | (with_reducible first | apply Keeps.ite | apply Keeps.ite1 | intro _)
    | simp -zeta -beta -eta -iota -proj only [↓keeps_mk] | extract_lets | split

theorem keeps_writePacked {s t : State} (h : Keeps s t) (a) (b) (c) (d) (e) : Keeps s (writePacked t a b c d e) := by
  unfold writePacked
  repeat' first
    | (with_reducible first | exact h | assumption | apply keeps_capExceeded | apply keeps_spWrite)
    | (with_reducible first | apply keeps_rangeViol | apply keeps_countDenied | apply keeps_engWrite)
    | (with_reducible first | apply Keeps.ite | apply Keeps.ite1 | intro _)
    | simp -zeta -beta -eta -iota -proj only [↓keeps_mk] | extract_lets | split

theorem keeps_noteOvf {s t : State} (h : Keeps s t) (a) (b) (c) : Keeps s (noteOvf t a b c) := by
  unfold noteOvf
  repeat' first
    | (with_reducible first | exact h | assumption | apply keeps_modPlan)

theorem keeps_setWinCount {s t : State} (h : Keeps s t) (a) (b) (c) : Keeps s (setWinCount t a b c) := by
  unfold setWinCount
  repeat' first
    | (with_reducible first | exact h | assumption | apply keeps_setMem)

theorem keeps_peerNote {s t : State} (h : Keeps s t) (a) (b) (c) (d) : Keeps s (peerNote t a b c d) := by
  unfold peerNote
  repeat' first
    | (with_reducible first | exact h | assumption | apply keeps_modIssued | apply Keeps.ite | apply Keeps.ite1)
    | (with_reducible first | intro _)
    | simp -zeta -beta -eta -iota -proj only [↓keeps_mk] | extract_lets | split

theorem keeps_putBlock {s t : State} (h : Keeps s t) (a) (b) (c) (d) (e) : Keeps s (putBlock t a b c d e) := by
  unfold putBlock
  repeat' first
    | (with_reducible first | exact h | assumption | apply keeps_hostWrite | apply keeps_peerNote)
    | (with_reducible first | apply keeps_spWrite | apply keeps_rangeViol | apply keeps_countDenied)
    | (with_reducible first | apply keeps_engWrite | apply Keeps.ite)

theorem keeps_winForward {s t : State} (h : Keeps s t) (a) (b) (c) (d) : Keeps s (winForward t a b c d) := by
  unfold winForward
  repeat' first
    | (with_reducible first | exact h | assumption | apply keeps_sentOr | apply keeps_sendMsg | apply Keeps.ite)

theorem keeps_contribute {s t : State} (h : Keeps s t) (a) (b) (c) (d) (e) (f) : Keeps s (contribute t a b c d e f) :=
    by
  unfold contribute
  repeat' first
    | (with_reducible first | exact h | assumption | apply keeps_dieEvent | apply keeps_qxfErrSet)
    | (with_reducible first | apply keeps_readBlock | apply keeps_noteOvf | apply keeps_setWinCount)
    | (with_reducible first | apply keeps_putBlock | apply keeps_winForward | apply Keeps.ite)
    | (with_reducible first | apply Keeps.ite1 | intro _)
    | simp -zeta -beta -eta -iota -proj only [↓keeps_mk] | extract_lets | split

theorem keeps_writeBlockAt {s t : State} (h : Keeps s t) (a) (b) (c) (d) (e) : Keeps s (writeBlockAt t a b c d e) :=
    by
  unfold writeBlockAt
  repeat' first
    | (with_reducible first | exact h | assumption | apply keeps_contribute | apply keeps_putBlock)
    | (with_reducible first | apply Keeps.ite | apply Keeps.ite1 | intro _)
    | simp -zeta -beta -eta -iota -proj only [↓keeps_mk] | extract_lets | split

theorem keeps_writeElts {s t : State} (h : Keeps s t) (a) (b) (c) (d) (e) (f) (g) : Keeps s (writeElts t a b c d e f
    g) := by
  unfold writeElts
  repeat' first
    | (with_reducible first | exact h | assumption | apply keeps_readBlock | apply keeps_writeBlockAt)
    | (with_reducible first | apply keeps_countSubst | apply Keeps.ite | apply Keeps.ite1)

theorem keeps_writeTens {s t : State} (h : Keeps s t) (a) (b) (c) (d) (e) (f) : Keeps s (writeTens t a b c d e f) :=
    by
  unfold writeTens
  repeat' first
    | (with_reducible first | exact h | assumption | apply keeps_spWrite | apply keeps_countSubst)
    | (with_reducible first | apply keeps_writePacked | apply keeps_writeElts | apply Keeps.ite)
    | (with_reducible first | apply Keeps.ite1 | (apply Keeps.foldl; intro _ _ _))

theorem keeps_copyMove {s t : State} (h : Keeps s t) (a) (b) (c) (d) (e) (f) (g) {i} (hi : ∀ (t : State), Keeps s t →
    Keeps s (i t)) : Keeps s (copyMove t a b c d e f g i) := by
  unfold copyMove
  repeat' first
    | (with_reducible first | exact h | assumption | apply keeps_readTens | apply keeps_failWork)
    | (with_reducible first | apply keeps_copyCountIdx | apply keeps_readTensAt | apply keeps_writeTens)
    | (with_reducible first | apply hi | apply Keeps.ite | apply Keeps.ite1 | intro _)
    | simp -zeta -beta -eta -iota -proj only [↓keeps_mk] | extract_lets | split

theorem keeps_stageWrite {s t : State} (h : Keeps s t) (a) (b) (c) (d) : Keeps s (stageWrite t a b c d) := by
  unfold stageWrite
  repeat' first
    | (with_reducible first | exact h | assumption | apply keeps_drawFree | apply keeps_performWrite)
    | (with_reducible first | apply Keeps.ite | apply Keeps.ite1 | (apply Keeps.foldl; intro _ _ _))

theorem keeps_devWriteL {s t : State} (h : Keeps s t) (a) (b) (c) (d) (e) : Keeps s (devWriteL a b c t d e) := by
  unfold devWriteL
  repeat' first
    | (with_reducible first | exact h | assumption | apply keeps_devWriteB)

theorem keeps_ovWrite {s t : State} (h : Keeps s t) (a) (b) (c) (d) (e) (f) (g) (i) : Keeps s (ovWrite t a b c d e f g
    i) := by
  unfold ovWrite
  repeat' first
    | (with_reducible first | exact h | assumption | apply keeps_stageWrite | apply keeps_devWriteL | apply Keeps.ite)

theorem keeps_copyDo {s t : State} (h : Keeps s t) (a) : Keeps s (copyDo t a) := by
  unfold copyDo
  repeat' first
    | (with_reducible first | exact h | assumption | apply keeps_copyStep | apply keeps_modCopy)
    | (with_reducible first | apply keeps_copyFinish | apply keeps_copyMove | apply keeps_ovWrite)
    | (with_reducible first | apply Keeps.ite | apply Keeps.ite1 | intro _)

theorem keeps_copyStart {s t : State} (h : Keeps s t) (a) : Keeps s (copyStart t a) := by
  unfold copyStart
  repeat' first
    | (with_reducible first | exact h | assumption | apply keeps_copyHostReady | apply keeps_complete)
    | (with_reducible first | apply keeps_pickTiles | apply keeps_modCopy | apply keeps_sentOr)
    | (with_reducible first | apply keeps_askRuns | apply keeps_copyDo | apply Keeps.ite | apply Keeps.ite1)
    | (with_reducible first | intro _)
    | simp -zeta -beta -eta -iota -proj only [↓keeps_mk] | extract_lets | split | dsimp +zetaDelta only | (refine Keeps.pair (by assumption) ?_)

theorem keeps_copyTry {s t : State} (h : Keeps s t) (a) : Keeps s (copyTry t a) := by
  unfold copyTry
  repeat' first
    | (with_reducible first | exact h | assumption | apply keeps_copyStart | apply Keeps.ite | apply Keeps.ite1)
    | (with_reducible first | intro _)
    | simp -zeta -beta -eta -iota -proj only [↓keeps_mk] | extract_lets | split

theorem keeps_fetchTd {s t : State} (h : Keeps s t) (a) (b) : Keeps s (fetchTd t a b).1 := by
  unfold fetchTd
  repeat' first
    | (with_reducible first | exact h | assumption | apply keeps_hostRead)

theorem keeps_copyAccept {s t : State} (h : Keeps s t) (a) (b) (c) (d) (e) : Keeps s (copyAccept t a b c d e) := by
  unfold copyAccept
  repeat' first
    | (with_reducible first | exact h | assumption | apply keeps_complete | apply keeps_copyStart)
    | (with_reducible first | apply Keeps.ite | apply Keeps.ite1 | intro _)
    | simp -zeta -beta -eta -iota -proj only [↓keeps_mk] | extract_lets | split | dsimp +zetaDelta only

theorem keeps_copyRow {s t : State} (h : Keeps s t) (a) (b) : Keeps s (copyRow t a b) := by
  unfold copyRow
  repeat' first
    | (with_reducible first | exact h | assumption | apply keeps_copyTry | apply keeps_complete)
    | (with_reducible first | apply keeps_fetchTd | apply keeps_copyAccept | apply Keeps.ite | apply Keeps.ite1)
    | (with_reducible first | intro _)
    | simp -zeta -beta -eta -iota -proj only [↓keeps_mk] | extract_lets | split | dsimp +zetaDelta only | (refine Keeps.pair (by assumption) ?_)

theorem keeps_copyOn {s t : State} (h : Keeps s t) (a) (b) : Keeps s (copyOn t a b) := by
  unfold copyOn
  repeat' first
    | (with_reducible first | exact h | assumption | apply keeps_copyRow | apply keeps_copyTry)
    | (with_reducible first | apply keeps_copyFinish | apply keeps_copyDo | apply Keeps.ite | apply Keeps.ite1)
    | (with_reducible first | intro _)
    | simp -zeta -beta -eta -iota -proj only [↓keeps_mk] | extract_lets | split

theorem keeps_holdCmd {s t : State} (h : Keeps s t) (a) : Keeps s (holdCmd t a) := by
  unfold holdCmd
  repeat' first
    | (with_reducible first | exact h | assumption | apply keeps_modIssued | apply Keeps.ite | apply Keeps.ite1)
    | (with_reducible first | intro _)
    | simp -zeta -beta -eta -iota -proj only [↓keeps_mk] | extract_lets

theorem keeps_unholdCmd {s t : State} (h : Keeps s t) (a) : Keeps s (unholdCmd t a) := by
  unfold unholdCmd
  repeat' first
    | (with_reducible first | exact h | assumption | apply keeps_modIssued | apply Keeps.ite | apply Keeps.ite1)
    | (with_reducible first | intro _)
    | simp -zeta -beta -eta -iota -proj only [↓keeps_mk] | extract_lets

theorem keeps_loadRow {s t : State} (h : Keeps s t) (a) (b) (c) (d) {e} (he : ∀ (t : State) (x0) (x1), Keeps s t →
    Keeps s (e t x0 x1)) : Keeps s (loadRow t a b c d e) := by
  unfold loadRow
  repeat' first
    | (with_reducible first | exact h | assumption | apply keeps_complete | apply keeps_holdCmd)
    | (with_reducible first | apply keeps_hostRead | apply keeps_unholdCmd | apply he | apply Keeps.ite)
    | (with_reducible first | apply Keeps.ite1 | intro _)
    | simp -zeta -beta -eta -iota -proj only [↓keeps_mk] | extract_lets | split | dsimp +zetaDelta only | (refine Keeps.pair (by assumption) ?_)

theorem keeps_setTkr {s t : State} (h : Keeps s t) (a) : Keeps s (setTkr t a) := by
  unfold setTkr
  repeat' first
    | (with_reducible first | exact h | assumption | apply Keeps.ite | apply Keeps.ite1 | intro _)
    | simp -zeta -beta -eta -iota -proj only [↓keeps_mk]

theorem keeps_loadContexts {s t : State} (h : Keeps s t) (a) (b) : Keeps s (loadContexts t a b) := by
  unfold loadContexts
  repeat' first
    | (with_reducible first | exact h | assumption | apply keeps_setTkr | apply Keeps.ite | apply Keeps.ite1)
    | (with_reducible first | (apply Keeps.foldl; intro _ _ _))

theorem keeps_contextsRow {s t : State} (h : Keeps s t) (a) : Keeps s (contextsRow t a) := by
  unfold contextsRow
  repeat' first
    | (with_reducible first | exact h | assumption | apply keeps_loadRow | apply keeps_loadContexts)
    | (with_reducible first | apply Keeps.ite | apply Keeps.ite1 | intro _)

theorem keeps_bankSet {s t : State} (h : Keeps s t) (a) (b) (c) : Keeps s (bankSet t a b c) := by
  unfold bankSet
  repeat' first
    | (with_reducible first | exact h | assumption | apply keeps_wr)

theorem keeps_setWaiting {s t : State} (h : Keeps s t) (a) (b) (c) (d) : Keeps s (setWaiting t a b c d) := by
  unfold setWaiting
  repeat' first
    | (with_reducible first | exact h | assumption | apply Keeps.ite | apply Keeps.ite1 | intro _)
    | simp -zeta -beta -eta -iota -proj only [↓keeps_mk]

theorem keeps_setFrozenBit {s t : State} (h : Keeps s t) (a) (b) : Keeps s (setFrozenBit t a b) := by
  unfold setFrozenBit
  repeat' first
    | (with_reducible first | exact h | assumption | apply keeps_bankSet | apply keeps_setWaiting)
    | (with_reducible first | apply Keeps.ite | apply Keeps.ite1 | intro _)
    | simp -zeta -beta -eta -iota -proj only [↓keeps_mk] | extract_lets | split

theorem keeps_loadRegions {s t : State} (h : Keeps s t) (a) (b) : Keeps s (loadRegions t a b) := by
  unfold loadRegions
  repeat' first
    | (with_reducible first | exact h | assumption | apply keeps_setFrozenBit | apply keeps_setRegion)
    | (with_reducible first | apply Keeps.ite | apply Keeps.ite1 | (apply Keeps.foldl; intro _ _ _))

theorem keeps_regionsRow {s t : State} (h : Keeps s t) (a) : Keeps s (regionsRow t a) := by
  unfold regionsRow
  repeat' first
    | (with_reducible first | exact h | assumption | apply keeps_loadRow | apply keeps_loadRegions)
    | (with_reducible first | apply Keeps.ite | apply Keeps.ite1 | intro _)

theorem keeps_loadRoutes {s t : State} (h : Keeps s t) (a) (b) : Keeps s (loadRoutes t a b) := by
  unfold loadRoutes
  repeat' first
    | (with_reducible first | exact h | assumption | apply Keeps.ite | apply Keeps.ite1 | intro _)
    | simp -zeta -beta -eta -iota -proj only [↓keeps_mk]

theorem keeps_routesRow {s t : State} (h : Keeps s t) (a) : Keeps s (routesRow t a) := by
  unfold routesRow
  repeat' first
    | (with_reducible first | exact h | assumption | apply keeps_loadRow | apply keeps_loadRoutes)
    | (with_reducible first | apply Keeps.ite | apply Keeps.ite1 | intro _)

theorem keeps_loadPeers {s t : State} (h : Keeps s t) (a) (b) : Keeps s (loadPeers t a b) := by
  unfold loadPeers
  repeat' first
    | (with_reducible first | exact h | assumption | apply keeps_setMem | apply Keeps.ite | apply Keeps.ite1)
    | (with_reducible first | (apply Keeps.foldl; intro _ _ _) | intro _)
    | simp -zeta -beta -eta -iota -proj only [↓keeps_mk]

theorem keeps_peersRow {s t : State} (h : Keeps s t) (a) : Keeps s (peersRow t a) := by
  unfold peersRow
  repeat' first
    | (with_reducible first | exact h | assumption | apply keeps_loadRow | apply keeps_loadPeers)
    | (with_reducible first | apply Keeps.ite | apply Keeps.ite1 | intro _)

theorem keeps_loadGroups {s t : State} (h : Keeps s t) (a) (b) : Keeps s (loadGroups t a b) := by
  unfold loadGroups
  repeat' first
    | (with_reducible first | exact h | assumption | apply Keeps.ite | apply Keeps.ite1 | intro _)
    | simp -zeta -beta -eta -iota -proj only [↓keeps_mk]

theorem keeps_groupsRow {s t : State} (h : Keeps s t) (a) : Keeps s (groupsRow t a) := by
  unfold groupsRow
  repeat' first
    | (with_reducible first | exact h | assumption | apply keeps_loadRow | apply keeps_loadGroups)
    | (with_reducible first | apply Keeps.ite | apply Keeps.ite1 | intro _)

theorem keeps_loadWindows {s t : State} (h : Keeps s t) (a) (b) : Keeps s (loadWindows t a b) := by
  unfold loadWindows
  repeat' first
    | (with_reducible first | exact h | assumption | apply Keeps.ite | apply Keeps.ite1 | intro _)
    | simp -zeta -beta -eta -iota -proj only [↓keeps_mk]

theorem keeps_windowsRow {s t : State} (h : Keeps s t) (a) : Keeps s (windowsRow t a) := by
  unfold windowsRow
  repeat' first
    | (with_reducible first | exact h | assumption | apply keeps_loadRow | apply keeps_loadWindows)
    | (with_reducible first | apply Keeps.ite | apply Keeps.ite1 | intro _)

theorem keeps_loadOn {s t : State} (h : Keeps s t) (a) (b) : Keeps s (loadOn t a b) := by
  unfold loadOn
  repeat' first
    | (with_reducible first | exact h | assumption | apply keeps_contextsRow | apply keeps_regionsRow)
    | (with_reducible first | apply keeps_routesRow | apply keeps_peersRow | apply keeps_groupsRow)
    | (with_reducible first | apply keeps_windowsRow | apply Keeps.ite | apply Keeps.ite1 | intro _)
    | simp -zeta -beta -eta -iota -proj only [↓keeps_mk] | extract_lets | split

theorem keeps_devReadL {s t : State} (h : Keeps s t) (a) (b) (c) (d) (e) : Keeps s (devReadL a b c t d e).1 := by
  unfold devReadL
  repeat' first
    | (with_reducible first | exact h | assumption | apply keeps_devReadB)

theorem keeps_planRead {s t : State} (h : Keeps s t) (a) (b) (c) (d) : Keeps s (planRead t a b c d).1 := by
  unfold planRead
  repeat' first
    | (with_reducible first | exact h | assumption | apply keeps_devReadL)

theorem keeps_phaseRec {s t : State} (h : Keeps s t) (a) (b) (c) (d) : Keeps s (phaseRec t a b c d).1 := by
  unfold phaseRec
  repeat' first
    | (with_reducible first | exact h | assumption | apply keeps_planRead)

theorem keeps_readTasks {s t : State} (h : Keeps s t) (a) (b) (c) (d) : Keeps s (readTasks t a b c d).1 := by
  unfold readTasks
  repeat' first
    | (with_reducible first | exact h | assumption | apply keeps_planRead)

theorem keeps_readRecords {s t : State} (h : Keeps s t) (a) (b) (c) : Keeps s (readRecords t a b c).1 := by
  unfold readRecords
  repeat' first
    | (with_reducible first | exact h | assumption | apply keeps_readTasks | apply Keeps.ite | apply Keeps.ite1)
    | (with_reducible first | intro _)
    | simp -zeta -beta -eta -iota -proj only [↓keeps_mk] | extract_lets | split | dsimp +zetaDelta only

theorem keeps_scanPhase {s t : State} (h : Keeps s t) (a) (b) (c) : Keeps s (scanPhase t a b c).1 := by
  unfold scanPhase
  repeat' first
    | (with_reducible first | exact h | assumption | apply keeps_phaseRec | apply keeps_planRead)
    | (with_reducible first | apply keeps_readRecords | apply Keeps.ite | apply Keeps.ite1)

theorem keeps_scanPhases {s : State} {z : State × PlanRun × Bool} (h : Keeps s z.1) (a b) : Keeps s (scanPhases a b
    z).1 := by
  induction b generalizing z with
  | nil => exact h
  | cons i is ih =>
    unfold scanPhases
    apply ih
    dsimp only
    apply keeps_scanPhase h

theorem keeps_holdPlan {s t : State} (h : Keeps s t) (a) (b) : Keeps s (holdPlan t a b) := by
  unfold holdPlan
  repeat' first
    | (with_reducible first | exact h | assumption | apply keeps_modIssued | apply Keeps.ite | apply Keeps.ite1)
    | (with_reducible first | intro _)
    | simp -zeta -beta -eta -iota -proj only [↓keeps_mk] | extract_lets

theorem keeps_setFrozen {s t : State} (h : Keeps s t) : Keeps s (setFrozen t) := by
  unfold setFrozen
  repeat' first
    | (with_reducible first | exact h | assumption | apply keeps_setRegion | apply Keeps.ite | apply Keeps.ite1)
    | (with_reducible first | (apply Keeps.foldl; intro _ _ _))

theorem keeps_startSeeds {s t : State} (h : Keeps s t) (a) : Keeps s (startSeeds t a) := by
  unfold startSeeds
  repeat' first
    | (with_reducible first | exact h | assumption | apply keeps_wrf | apply Keeps.ite | apply Keeps.ite1)
    | (with_reducible first | (apply Keeps.foldl; intro _ _ _) | intro _)
    | simp -zeta -beta -eta -iota -proj only [↓keeps_mk] | extract_lets

theorem keeps_mirStart {s t : State} (h : Keeps s t) (a) : Keeps s (mirStart a t) := by
  unfold mirStart
  repeat' first
    | (with_reducible first | exact h | assumption | apply keeps_wrf | apply keeps_startSeeds | apply Keeps.ite)
    | (with_reducible first | apply Keeps.ite1 | (apply Keeps.foldl; intro _ _ _) | intro _)
    | simp -zeta -beta -eta -iota -proj only [↓keeps_mk] | extract_lets

theorem keeps_applyMomentList {s t : State} (h : Keeps s t) (a) (b) : Keeps s (applyMomentList a b t) := by
  revert h
  fun_induction applyMomentList a b t
  all_goals intro h
  all_goals repeat' first
    | (with_reducible first | exact h | assumption | apply keeps_clearWaiting | apply keeps_wr)
    | (with_reducible first | apply Keeps.ite | apply Keeps.ite1 | intro _ | apply_assumption)

theorem keeps_applyMoment {s t : State} (h : Keeps s t) (a) : Keeps s (applyMoment a t) := by
  unfold applyMoment
  repeat' first
    | (with_reducible first | exact h | assumption | apply keeps_applyMomentList)

theorem keeps_applyStreams {s t : State} (h : Keeps s t) : Keeps s (applyStreams t) := by
  unfold applyStreams
  repeat' first
    | (with_reducible first | exact h | assumption | apply keeps_applyMomentList)

theorem keeps_oldTickets {s t : State} (h : Keeps s t) (a) : Keeps s (oldTickets t a) := by
  unfold oldTickets
  repeat' first
    | (with_reducible first | exact h | assumption | apply keeps_setTkr)

theorem keeps_clearWindows {s t : State} (h : Keeps s t) (a) : Keeps s (clearWindows t a) := by
  unfold clearWindows
  repeat' first
    | (with_reducible first | exact h | assumption | apply keeps_setMem | apply Keeps.ite | apply Keeps.ite1)
    | (with_reducible first | (apply Keeps.foldl; intro _ _ _))

theorem keeps_anchorsOld {s t : State} (h : Keeps s t) (a) : Keeps s (anchorsOld t a) := by
  unfold anchorsOld
  repeat' first
    | (with_reducible first | exact h | assumption | apply Keeps.ite | apply Keeps.ite1 | intro _)
    | simp -zeta -beta -eta -iota -proj only [↓keeps_mk] | extract_lets | split

theorem keeps_startAttempt {s t : State} (h : Keeps s t) (a) : Keeps s (startAttempt t a) := by
  unfold startAttempt
  repeat' first
    | (with_reducible first | exact h | assumption | apply keeps_clearWindows | apply keeps_anchorsOld)
    | (with_reducible first | apply keeps_setPlan | apply Keeps.ite | apply Keeps.ite1 | intro _)
    | simp -zeta -beta -eta -iota -proj only [↓keeps_mk] | extract_lets | split

theorem keeps_pinAdd {s t : State} (h : Keeps s t) (a) (b) : Keeps s (pinAdd t a b) := by
  unfold pinAdd
  repeat' first
    | (with_reducible first | exact h | assumption | apply keeps_setRegion)

theorem keeps_evalPins {s t : State} (h : Keeps s t) : Keeps s (evalPins t) := by
  unfold evalPins
  repeat' first
    | (with_reducible first | exact h | assumption | apply keeps_modPlan | apply keeps_pinAdd | apply Keeps.ite)
    | (with_reducible first | apply Keeps.ite1 | (apply Keeps.foldl; intro _ _ _) | intro _)
    | simp -zeta -beta -eta -iota -proj only [↓keeps_mk] | extract_lets | split

theorem keeps_applyAnswers {s t : State} (h : Keeps s t) (a) : Keeps s (applyAnswers t a).1 := by
  unfold applyAnswers
  repeat' first
    | (with_reducible first | exact h | assumption | apply keeps_setTkr | apply keeps_complete)
    | (with_reducible first | apply Keeps.ite | apply Keeps.ite1 | (apply Keeps.foldl; intro _ _ _) | intro _)
    | simp -zeta -beta -eta -iota -proj only [↓keeps_mk] | extract_lets | split

theorem keeps_runStart {s t : State} (h : Keeps s t) (a) (b) : Keeps s (runStart t a b) := by
  unfold runStart
  repeat' first
    | (with_reducible first | exact h | assumption | apply keeps_setFrozen | apply keeps_mirStart)
    | (with_reducible first | apply keeps_applyMoment | apply keeps_applyStreams | apply keeps_oldTickets)
    | (with_reducible first | apply keeps_startAttempt | apply keeps_setPlan | apply keeps_evalPins)
    | (with_reducible first | apply keeps_applyAnswers | apply keeps_modPlan | apply Keeps.ite)
    | (with_reducible first | apply Keeps.ite1 | intro _)
    | simp -zeta -beta -eta -iota -proj only [↓keeps_mk] | extract_lets | split

theorem keeps_planBegin {s t : State} (h : Keeps s t) (a) : Keeps s (planBegin t a) := by
  unfold planBegin
  repeat' first
    | (with_reducible first | exact h | assumption | apply keeps_complete | apply keeps_devRead)
    | (with_reducible first | apply keeps_planRead | apply keeps_scanPhases | apply keeps_holdPlan)
    | (with_reducible first | apply keeps_runStart | apply keeps_modIssued | apply Keeps.ite)

theorem keeps_planGo {s t : State} (h : Keeps s t) (a) : Keeps s (planGo t a) := by
  unfold planGo
  repeat' first
    | (with_reducible first | exact h | assumption | apply keeps_planBegin | apply keeps_applyMoment)
    | (with_reducible first | apply keeps_complete | apply keeps_hostRead | apply keeps_modIssued)
    | (with_reducible first | apply Keeps.ite | apply Keeps.ite1 | intro _)
    | simp -zeta -beta -eta -iota -proj only [↓keeps_mk] | extract_lets | split | dsimp +zetaDelta only | (refine Keeps.pair (by assumption) ?_)

theorem keeps_planRow {s t : State} (h : Keeps s t) (a) (b) (c) : Keeps s (planRow t a b c) := by
  unfold planRow
  repeat' first
    | (with_reducible first | exact h | assumption | apply keeps_planGo | apply keeps_holdPlan)
    | (with_reducible first | apply Keeps.ite | apply Keeps.ite1 | intro _)
    | simp -zeta -beta -eta -iota -proj only [↓keeps_mk] | extract_lets | split

theorem keeps_clearAns {s t : State} (h : Keeps s t) (a) : Keeps s (clearAns t a) := by
  unfold clearAns
  repeat' first
    | (with_reducible first | exact h | assumption | apply Keeps.ite | apply Keeps.ite1 | intro _)
    | simp -zeta -beta -eta -iota -proj only [↓keeps_mk]

theorem keeps_modPhase {s t : State} (h : Keeps s t) (a) (b) : Keeps s (modPhase t a b) := by
  unfold modPhase
  repeat' first
    | (with_reducible first | exact h | assumption | apply keeps_modPlan)

theorem keeps_openArrivals {s t : State} (h : Keeps s t) (a) : Keeps s (openArrivals t a) := by
  unfold openArrivals
  repeat' first
    | (with_reducible first | exact h | assumption | apply keeps_failPlan | apply keeps_modPhase)
    | (with_reducible first | apply Keeps.ite | apply Keeps.ite1 | intro _)
    | simp -zeta -beta -eta -iota -proj only [↓keeps_mk] | extract_lets | split

theorem keeps_takeUp {s t : State} (h : Keeps s t) (a) : Keeps s (takeUp t a) := by
  unfold takeUp
  repeat' first
    | (with_reducible first | exact h | assumption | apply keeps_openArrivals | apply keeps_applyAnswers)
    | (with_reducible first | apply keeps_modPlan | apply Keeps.ite | apply Keeps.ite1 | intro _)
    | simp -zeta -beta -eta -iota -proj only [↓keeps_mk] | extract_lets | split

theorem keeps_stepAnswerRow {s t : State} (h : Keeps s t) (a) : Keeps s (stepAnswerRow t a) := by
  unfold stepAnswerRow
  repeat' first
    | (with_reducible first | exact h | assumption | apply keeps_complete | apply keeps_hostRead)
    | (with_reducible first | apply keeps_setTkr | apply keeps_clearAns | apply keeps_takeUp | apply Keeps.ite)
    | (with_reducible first | apply Keeps.ite1 | intro _)
    | simp -zeta -beta -eta -iota -proj only [↓keeps_mk] | extract_lets | split | dsimp +zetaDelta only | (refine Keeps.pair (by assumption) ?_)

theorem keeps_snapBegin {s t : State} (h : Keeps s t) (a) (b) (c) (d) : Keeps s (snapBegin t a b c d) := by
  unfold snapBegin
  repeat' first
    | (with_reducible first | exact h | assumption | apply Keeps.ite | apply Keeps.ite1 | intro _)
    | simp -zeta -beta -eta -iota -proj only [↓keeps_mk] | extract_lets

theorem keeps_snapRow {s t : State} (h : Keeps s t) (a) : Keeps s (snapRow t a) := by
  unfold snapRow
  repeat' first
    | (with_reducible first | exact h | assumption | apply keeps_complete | apply keeps_holdCmd)
    | (with_reducible first | apply keeps_hostRead | apply keeps_unholdCmd | apply keeps_snapBegin)
    | (with_reducible first | apply Keeps.ite | apply Keeps.ite1 | intro _)
    | simp -zeta -beta -eta -iota -proj only [↓keeps_mk] | extract_lets | split | dsimp +zetaDelta only | (refine Keeps.pair (by assumption) ?_)

theorem keeps_imageFetch {s t : State} (h : Keeps s t) (a) (b) (c) (d) : Keeps s (imageFetch t a b c d).1 := by
  unfold imageFetch
  repeat' first
    | (with_reducible first | exact h | assumption | apply keeps_hostRead | apply keeps_modIssued)
    | (with_reducible first | apply keeps_sendRead | apply Keeps.ite | apply Keeps.ite1)
    | (with_reducible first | (apply Keeps.foldl; intro _ _ _))

theorem keeps_restorePages {s t : State} (h : Keeps s t) (a) (b) (c) (d) : Keeps s (restorePages a b c d t) := by
  revert h
  fun_induction restorePages a b c d t
  all_goals intro h
  all_goals repeat' first
    | (with_reducible first | exact h | assumption | apply keeps_devWrite | apply Keeps.ite | apply Keeps.ite1)
    | (with_reducible first | intro _ | apply_assumption)

theorem keeps_restoreStreams {s t : State} (h : Keeps s t) (a) : Keeps s (restoreStreams t a) := by
  unfold restoreStreams
  repeat' first
    | (with_reducible first | exact h | assumption | apply keeps_wr | apply Keeps.ite | apply Keeps.ite1)
    | (with_reducible first | (apply Keeps.foldl; intro _ _ _))

theorem keeps_restoreVersions {s t : State} (h : Keeps s t) (a) (b) (c) : Keeps s (restoreVersions a t b c) := by
  revert h
  fun_induction restoreVersions a t b c
  all_goals intro h
  all_goals repeat' first
    | (with_reducible first | exact h | assumption | apply keeps_setRegion | apply Keeps.ite | apply Keeps.ite1)
    | (with_reducible first | intro _ | apply_assumption)
    | simp -zeta -beta -eta -iota -proj only [↓keeps_mk] | extract_lets | split | dsimp +zetaDelta only

theorem keeps_restoreDo {s t : State} (h : Keeps s t) (a) (b) (c) (d) : Keeps s (restoreDo t a b c d) := by
  unfold restoreDo
  repeat' first
    | (with_reducible first | exact h | assumption | apply keeps_restorePages | apply keeps_wr)
    | (with_reducible first | apply keeps_restoreStreams | apply keeps_restoreVersions | apply keeps_copyFinish)
    | (with_reducible first | apply keeps_modIssued)

theorem keeps_restoreRow {s t : State} (h : Keeps s t) (a) : Keeps s (restoreRow t a) := by
  unfold restoreRow
  repeat' first
    | (with_reducible first | exact h | assumption | apply keeps_copyFinish | apply keeps_complete)
    | (with_reducible first | apply keeps_holdCmd | apply keeps_imageFetch | apply keeps_restoreDo)
    | (with_reducible first | apply Keeps.ite | apply Keeps.ite1 | intro _)
    | simp -zeta -beta -eta -iota -proj only [↓keeps_mk] | extract_lets | split | dsimp +zetaDelta only | (refine Keeps.pair (by assumption) ?_)

theorem keeps_fwRow {s t : State} (h : Keeps s t) (a) (b) {c} (hc : ∀ (t : State) (x0), Keeps s t → Keeps s (c t x0))
    : Keeps s (fwRow t a b c) := by
  unfold fwRow
  repeat' first
    | (with_reducible first | exact h | assumption | apply keeps_holdCmd | apply hc | apply Keeps.ite)
    | (with_reducible first | apply Keeps.ite1 | intro _)
    | simp -zeta -beta -eta -iota -proj only [↓keeps_mk] | extract_lets | split

theorem keeps_setFwBusy {s t : State} (h : Keeps s t) (a) : Keeps s (setFwBusy t a) := by
  unfold setFwBusy
  repeat' first
    | (with_reducible first | exact h | assumption | apply keeps_wrf)

theorem keeps_setReason {s t : State} (h : Keeps s t) (a) : Keeps s (setReason t a) := by
  unfold setReason
  repeat' first
    | (with_reducible first | exact h | assumption | apply keeps_wrf)

theorem keeps_fwEnd {s t : State} (h : Keeps s t) (a) (b) : Keeps s (fwEnd t a b) := by
  unfold fwEnd
  repeat' first
    | (with_reducible first | exact h | assumption | apply keeps_complete | apply keeps_setFwBusy)
    | (with_reducible first | apply keeps_setReason)

theorem keeps_modPlat {s t : State} (h : Keeps s t) (a) : Keeps s (modPlat t a) := by
  unfold modPlat
  repeat' first
    | (with_reducible first | exact h | assumption | apply Keeps.ite | apply Keeps.ite1 | intro _)
    | simp -zeta -beta -eta -iota -proj only [↓keeps_mk]

theorem keeps_flashPut {s t : State} (h : Keeps s t) (a) (b) (c) : Keeps s (flashPut t a b c) := by
  unfold flashPut
  repeat' first
    | (with_reducible first | exact h | assumption | apply keeps_modPlat)

theorem keeps_eraseSlot {s t : State} (h : Keeps s t) (a) : Keeps s (eraseSlot t a) := by
  unfold eraseSlot
  repeat' first
    | (with_reducible first | exact h | assumption | apply keeps_flashPut)

theorem keeps_setStaged {s t : State} (h : Keeps s t) (a) (b) : Keeps s (setStaged t a b) := by
  unfold setStaged
  repeat' first
    | (with_reducible first | exact h | assumption | apply keeps_wrf)

theorem keeps_stageErase {s t : State} (h : Keeps s t) (a) : Keeps s (stageErase t a) := by
  unfold stageErase
  repeat' first
    | (with_reducible first | exact h | assumption | apply keeps_flashPut | apply keeps_eraseSlot)
    | (with_reducible first | apply keeps_setFwBusy | apply keeps_setStaged | apply keeps_modIssued)
    | (with_reducible first | apply keeps_unholdCmd)

theorem keeps_stageImage {s t : State} (h : Keeps s t) (a) (b) : Keeps s (stageImage t a b) := by
  unfold stageImage
  repeat' first
    | (with_reducible first | exact h | assumption | apply keeps_flashPut | apply keeps_fwEnd)
    | (with_reducible first | apply keeps_setStaged | apply keeps_eraseSlot | apply Keeps.ite)

theorem keeps_stageGo {s t : State} (h : Keeps s t) (a) : Keeps s (stageGo t a) := by
  unfold stageGo
  repeat' first
    | (with_reducible first | exact h | assumption | apply keeps_complete | apply keeps_fwEnd)
    | (with_reducible first | apply keeps_stageErase | apply keeps_hostRead | apply keeps_setFwBusy)
    | (with_reducible first | apply keeps_setReason | apply keeps_stageImage | apply Keeps.ite)
    | (with_reducible first | apply Keeps.ite1 | intro _)
    | simp -zeta -beta -eta -iota -proj only [↓keeps_mk] | extract_lets | split | dsimp +zetaDelta only | (refine Keeps.pair (by assumption) ?_)

theorem keeps_cmdOn {s t : State} (h : Keeps s t) (a) : Keeps s (cmdOn t a) := by
  unfold cmdOn
  repeat' first
    | (with_reducible first | exact h | assumption | apply keeps_copyOn | apply keeps_planRow)
    | (with_reducible first | apply keeps_stepAnswerRow | apply keeps_snapRow | apply keeps_restoreRow)
    | (with_reducible first | apply keeps_loadOn | apply keeps_fwRow | apply keeps_stageGo | apply Keeps.ite)
    | (with_reducible first | apply Keeps.ite1 | intro _)
    | simp -zeta -beta -eta -iota -proj only [↓keeps_mk] | extract_lets | split

theorem keeps_snapFinish {s t : State} (h : Keeps s t) (a) : Keeps s (snapFinish t a) := by
  unfold snapFinish
  repeat' first
    | (with_reducible first | exact h | assumption | apply keeps_endSnap | apply keeps_snapPut)
    | (with_reducible first | apply Keeps.ite | apply Keeps.ite1 | intro _)
    | simp -zeta -beta -eta -iota -proj only [↓keeps_mk] | extract_lets | split | dsimp +zetaDelta only

theorem keeps_ctxOn {s t : State} (h : Keeps s t) (a) : Keeps s (ctxOn t a) := by
  unfold ctxOn
  repeat' first
    | (with_reducible first | exact h | assumption | apply keeps_cmdOn | apply keeps_snapFinish)
    | (with_reducible first | apply Keeps.ite | apply Keeps.ite1 | intro _)
    | simp -zeta -beta -eta -iota -proj only [↓keeps_mk] | extract_lets | split

theorem keeps_hostNext {s t : State} (h : Keeps s t) (a) : Keeps s (hostNext a t) := by
  induction a generalizing t with
  | zero => exact h
  | succ n ih =>
    unfold hostNext
    split
    · exact h
    · exact .ite h (ih (keeps_hostIssue (keeps_mk.2 h) _ _ _ _))

theorem keeps_dropReq {s t : State} (h : Keeps s t) (a) : Keeps s (dropReq t a) := by
  unfold dropReq
  repeat' first
    | (with_reducible first | exact h | assumption | apply keeps_hostNext | apply Keeps.ite | apply Keeps.ite1)
    | (with_reducible first | intro _)
    | simp -zeta -beta -eta -iota -proj only [↓keeps_mk]

theorem keeps_autoFail {s t : State} (h : Keeps s t) (a) : Keeps s (autoFail t a) := by
  unfold autoFail
  repeat' first
    | (with_reducible first | exact h | assumption | apply keeps_clearAns | apply keeps_putCpl)
    | (with_reducible first | apply Keeps.ite | apply Keeps.ite1 | intro _)
    | simp -zeta -beta -eta -iota -proj only [↓keeps_mk]

theorem keeps_autoStart {s t : State} (h : Keeps s t) (a) (b) : Keeps s (autoStart t a b) := by
  unfold autoStart
  repeat' first
    | (with_reducible first | exact h | assumption | apply keeps_autoFail | apply keeps_hostRead)
    | (with_reducible first | apply keeps_clearAns | apply keeps_snapBegin | apply Keeps.ite | apply Keeps.ite1)
    | (with_reducible first | intro _)
    | simp -zeta -beta -eta -iota -proj only [↓keeps_mk] | extract_lets | split | dsimp +zetaDelta only | (refine Keeps.pair (by assumption) ?_)

theorem keeps_autoGo {s t : State} (h : Keeps s t) : Keeps s (autoGo t) := by
  unfold autoGo
  repeat' first
    | (with_reducible first | exact h | assumption | apply keeps_hostRead | apply keeps_autoFail)
    | (with_reducible first | apply keeps_autoStart | apply Keeps.ite | apply Keeps.ite1 | intro _)
    | simp -zeta -beta -eta -iota -proj only [↓keeps_mk] | extract_lets | split | dsimp +zetaDelta only | (refine Keeps.pair (by assumption) ?_)

theorem keeps_setInterval {s t : State} (h : Keeps s t) (a) : Keeps s (setInterval t a) := by
  unfold setInterval
  repeat' first
    | (with_reducible first | exact h | assumption | apply Keeps.ite | apply Keeps.ite1 | intro _)
    | simp -zeta -beta -eta -iota -proj only [↓keeps_mk]

theorem keeps_scanEnd {s t : State} (h : Keeps s t) : Keeps s (scanEnd t) := by
  unfold scanEnd
  repeat' first
    | (with_reducible first | exact h | assumption | apply keeps_setInterval | apply Keeps.ite)

theorem keeps_scanLineDone {s t : State} (h : Keeps s t) (a) : Keeps s (scanLineDone t a) := by
  unfold scanLineDone
  repeat' first
    | (with_reducible first | exact h | assumption | apply keeps_scanEnd | apply Keeps.ite | apply Keeps.ite1)
    | (with_reducible first | intro _)
    | simp -zeta -beta -eta -iota -proj only [↓keeps_mk]

theorem keeps_bitmapCame {s t : State} (h : Keeps s t) (a) (b) (c) : Keeps s (bitmapCame t a b c) := by
  unfold bitmapCame
  repeat' first
    | (with_reducible first | exact h | assumption | apply keeps_scanLineDone | apply keeps_hostPut)
    | (with_reducible first | apply Keeps.ite | apply Keeps.ite1 | (apply Keeps.foldl; intro _ _ _))

theorem keeps_readDoorbell {s t : State} (h : Keeps s t) (a) : Keeps s (readDoorbell t a) := by
  unfold readDoorbell
  repeat' first
    | (with_reducible first | exact h | assumption | apply keeps_hostPut | apply Keeps.ite | apply Keeps.ite1)
    | (with_reducible first | intro _)
    | simp -zeta -beta -eta -iota -proj only [↓keeps_mk] | extract_lets | split

theorem keeps_swapCame {s t : State} (h : Keeps s t) (a) (b) (c) : Keeps s (swapCame t a b c) := by
  unfold swapCame
  repeat' first
    | (with_reducible first | exact h | assumption | apply keeps_cntAdd | apply keeps_setHost)
    | (with_reducible first | apply keeps_readDoorbell | apply Keeps.ite | apply Keeps.ite1)
    | (with_reducible first | (apply Keeps.foldl; intro _ _ _))

theorem keeps_ringError {s t : State} (h : Keeps s t) (a) (b) : Keeps s (ringError t a b) := by
  unfold ringError
  repeat' first
    | (with_reducible first | exact h | assumption | apply keeps_cntAdd | apply keeps_setRing)

theorem keeps_takePi {s t : State} (h : Keeps s t) (a) (b) : Keeps s (takePi t a b) := by
  unfold takePi
  repeat' first
    | (with_reducible first | exact h | assumption | apply keeps_ringError | apply keeps_setRing | apply Keeps.ite)

theorem keeps_fetchCame {s t : State} (h : Keeps s t) (a) (b) (c) : Keeps s (fetchCame t a b c) := by
  unfold fetchCame
  repeat' first
    | (with_reducible first | exact h | assumption | apply keeps_wakeWhite | apply keeps_setRing)
    | (with_reducible first | apply keeps_cntAdd | apply keeps_hostWrite | apply Keeps.ite | apply Keeps.ite1)
    | (with_reducible first | intro _)
    | simp -zeta -beta -eta -iota -proj only [↓keeps_mk]

theorem keeps_dropFetched {s t : State} (h : Keeps s t) (a) : Keeps s (dropFetched t a) := by
  unfold dropFetched
  repeat' first
    | (with_reducible first | exact h | assumption | apply Keeps.ite | apply Keeps.ite1 | intro _)
    | simp -zeta -beta -eta -iota -proj only [↓keeps_mk]

theorem keeps_unfetch {s t : State} (h : Keeps s t) (a) : Keeps s (unfetch t a) := by
  unfold unfetch
  repeat' first
    | (with_reducible first | exact h | assumption | apply keeps_setRing | apply keeps_dropFetched)

theorem keeps_recheckCame {s t : State} (h : Keeps s t) (a) (b) : Keeps s (recheckCame t a b) := by
  unfold recheckCame
  repeat' first
    | (with_reducible first | exact h | assumption | apply keeps_setRing | apply keeps_ringError)
    | (with_reducible first | apply keeps_unfetch | apply Keeps.ite | apply Keeps.ite1 | intro _)
    | simp -zeta -beta -eta -iota -proj only [↓keeps_mk] | extract_lets | split

theorem keeps_drainBuf {s t : State} (h : Keeps s t) (a) (b) : Keeps s (drainBuf a b t) := by
  induction b generalizing t
  all_goals unfold drainBuf
  all_goals repeat' first
    | (with_reducible first | exact h | assumption | apply keeps_cntAdd | apply keeps_putEntry)
    | (with_reducible first | apply Keeps.ite | apply Keeps.ite1 | intro _ | apply_assumption)
    | simp -zeta -beta -eta -iota -proj only [↓keeps_mk] | extract_lets | split

theorem keeps_spaceCame {s t : State} (h : Keeps s t) (a) (b) : Keeps s (spaceCame t a b) := by
  unfold spaceCame
  repeat' first
    | (with_reducible first | exact h | assumption | apply keeps_drainBuf | apply keeps_setRing)

theorem keeps_hqeCame {s t : State} (h : Keeps s t) (a) : Keeps s (hqeCame t a) := by
  unfold hqeCame
  repeat' first
    | (with_reducible first | exact h | assumption | apply keeps_bitmapCame | apply keeps_swapCame)
    | (with_reducible first | apply keeps_takePi | apply keeps_fetchCame | apply keeps_recheckCame)
    | (with_reducible first | apply keeps_spaceCame | apply Keeps.ite | apply Keeps.ite1 | intro _)
    | simp -zeta -beta -eta -iota -proj only [↓keeps_mk] | extract_lets | split

theorem keeps_hqeFailed {s t : State} (h : Keeps s t) (a) : Keeps s (hqeFailed t a) := by
  unfold hqeFailed
  repeat' first
    | (with_reducible first | exact h | assumption | apply keeps_scanLineDone | apply keeps_cntAdd)
    | (with_reducible first | apply keeps_ringError | apply keeps_dropFetched | apply Keeps.ite)
    | (with_reducible first | apply Keeps.ite1 | intro _)
    | simp -zeta -beta -eta -iota -proj only [↓keeps_mk] | extract_lets | split

theorem keeps_hostAnswer {s t : State} (h : Keeps s t) (a) (b) : Keeps s (hostAnswer t a b) := by
  unfold hostAnswer
  repeat' first
    | (with_reducible first | exact h | assumption | apply keeps_cmdOn | apply keeps_autoGo)
    | (with_reducible first | apply keeps_hqeCame | apply keeps_hqeFailed | apply Keeps.ite | apply Keeps.ite1)
    | (with_reducible first | intro _)
    | simp -zeta -beta -eta -iota -proj only [↓keeps_mk] | extract_lets | split | dsimp +zetaDelta only

theorem keeps_hostFail {s t : State} (h : Keeps s t) (a) (b) : Keeps s (hostFail t a b) := by
  unfold hostFail
  repeat' first
    | (with_reducible first | exact h | assumption | apply keeps_hostAnswer | apply keeps_cntAdd)
    | (with_reducible first | apply keeps_dropReq)

theorem keeps_hostData {s t : State} (h : Keeps s t) (a) (b) : Keeps s (hostData t a b) := by
  unfold hostData
  repeat' first
    | (with_reducible first | exact h | assumption | apply keeps_setHost | apply keeps_hostAnswer)
    | (with_reducible first | apply keeps_dropReq | apply Keeps.ite | apply Keeps.ite1 | intro _)
    | simp -zeta -beta -eta -iota -proj only [↓keeps_mk]

theorem keeps_failReqs {s t : State} (h : Keeps s t) (a) : Keeps s (failReqs a t) := by
  revert h
  fun_induction failReqs a t
  all_goals intro h
  all_goals repeat' first
    | (with_reducible first | exact h | assumption | apply keeps_hostFail | apply Keeps.ite | apply Keeps.ite1)
    | (with_reducible first | intro _ | apply_assumption)

theorem keeps_mirOn {s t : State} (h : Keeps s t) : Keeps s (mirOn t) := by
  unfold mirOn
  repeat' first
    | (with_reducible first | exact h | assumption | apply keeps_copyFinish | apply Keeps.ite)
    | (with_reducible first | apply Keeps.ite1 | (apply Keeps.foldl; intro _ _ _))

theorem keeps_readHeader {s t : State} (h : Keeps s t) (a) (b) (c) : Keeps s (readHeader t a b c).1 := by
  unfold readHeader
  repeat' first
    | (with_reducible first | exact h | assumption | apply keeps_readHeaderAt)

theorem keeps_readOperHdr {s t : State} (h : Keeps s t) (a) (b) (c) (d) : Keeps s (readOperHdr t a b c d).1 := by
  unfold readOperHdr
  repeat' first
    | (with_reducible first | exact h | assumption | apply keeps_readHeader | apply Keeps.ite | apply Keeps.ite1)

theorem keeps_taskHeads {s t : State} (h : Keeps s t) (a) (b) (c) (d) : Keeps s (taskHeads t a b c d).1 := by
  unfold taskHeads
  repeat' first
    | (with_reducible first | exact h | assumption | apply keeps_readOperHdr | apply Keeps.ite)
    | (with_reducible first | apply Keeps.ite1 | intro _)
    | simp -zeta -beta -eta -iota -proj only [↓keeps_mk] | extract_lets | split

theorem keeps_kbHeads {s t : State} (h : Keeps s t) (a) (b) (c) (d) (e) : Keeps s (kbHeads t a b c d e).1 := by
  unfold kbHeads
  repeat' first
    | (with_reducible first | exact h | assumption | apply keeps_taskHeads | apply Keeps.ite | apply Keeps.ite1)
    | (with_reducible first | intro _)
    | simp -zeta -beta -eta -iota -proj only [↓keeps_mk] | extract_lets | split

theorem keeps_readOperAt {s t : State} (h : Keeps s t) (a) (b) (c) (d) (e) (f) : Keeps s (readOperAt t a b c d e f).1
    := by
  unfold readOperAt
  repeat' first
    | (with_reducible first | exact h | assumption | apply keeps_readPayload | apply Keeps.ite)
    | (with_reducible first | apply Keeps.ite1 | intro _)
    | simp -zeta -beta -eta -iota -proj only [↓keeps_mk] | extract_lets | split

theorem keeps_taskOperA {s t : State} (h : Keeps s t) (a) (b) (c) (d) (e) (f) : Keeps s (taskOperA t a b c d e f).1 :=
    by
  unfold taskOperA
  repeat' first
    | (with_reducible first | exact h | assumption | apply keeps_readOperAt | apply Keeps.ite)
    | (with_reducible first | apply Keeps.ite1 | intro _)
    | simp -zeta -beta -eta -iota -proj only [↓keeps_mk] | extract_lets | split

theorem keeps_taskOperB {s t : State} (h : Keeps s t) (a) (b) (c) (d) (e) (f) : Keeps s (taskOperB t a b c d e f).1 :=
    by
  unfold taskOperB
  repeat' first
    | (with_reducible first | exact h | assumption | apply keeps_readOperAt)

theorem keeps_taskOpers {s t : State} (h : Keeps s t) (a) (b) (c) (d) (e) : Keeps s (taskOpers t a b c d e).1 := by
  unfold taskOpers
  repeat' first
    | (with_reducible first | exact h | assumption | apply keeps_kbHeads | apply keeps_taskOperA)
    | (with_reducible first | apply keeps_taskOperB)

theorem keeps_prepass {s t : State} (h : Keeps s t) (a) (b) (c) (d) (e) (f) : Keeps s (prepass a b c d t e f).1 := by
  revert h
  fun_induction prepass a b c d t e f
  all_goals intro h
  all_goals repeat' first
    | (with_reducible first | exact h | assumption | apply keeps_taskHeads | apply Keeps.ite | apply Keeps.ite1)
    | (with_reducible first | intro _ | apply_assumption)

theorem keeps_headerPass {s t : State} (h : Keeps s t) (a) (b) (c) : Keeps s (headerPass t a b c).1 := by
  unfold headerPass
  repeat' first
    | (with_reducible first | exact h | assumption | apply keeps_prepass)

theorem keeps_countUse {s t : State} (h : Keeps s t) (a) (b) (c) : Keeps s (countUse t a b c) := by
  unfold countUse
  repeat' first
    | (with_reducible first | exact h | assumption | apply keeps_cntAdd | apply Keeps.ite)

theorem keeps_countProducts {s t : State} (h : Keeps s t) (a) (b) (c) (d) : Keeps s (countProducts t a b c d) := by
  unfold countProducts
  repeat' first
    | (with_reducible first | exact h | assumption | apply keeps_cntAdd | apply Keeps.ite)

theorem keeps_headOcc {s t : State} (h : Keeps s t) (a) (b) (c) (d) (e) (f) : Keeps s (headOcc t a b c d e f).1 := by
  unfold headOcc
  repeat' first
    | (with_reducible first | exact h | assumption | apply keeps_spRead | apply Keeps.ite | apply Keeps.ite1)
    | (with_reducible first | intro _)
    | simp -zeta -beta -eta -iota -proj only [↓keeps_mk] | extract_lets | split

theorem keeps_kbUse {s t : State} (h : Keeps s t) (a) (b) (c) (d) (e) : Keeps s (kbUse t a b c d e).1 := by
  unfold kbUse
  repeat' first
    | (with_reducible first | exact h | assumption | apply keeps_headOcc | apply Keeps.ite | apply Keeps.ite1)

theorem keeps_foldKbs {s t : State} (h : Keeps s t) (a) (b) (c) (d) (e) (f) (g) : Keeps s (foldKbs a b c d e f t g).1
    := by
  revert h
  fun_induction foldKbs a b c d e f t g
  all_goals intro h
  all_goals repeat' first
    | (with_reducible first | exact h | assumption | apply keeps_kbHeads | apply keeps_kbUse)
    | (with_reducible first | apply keeps_countUse | apply keeps_taskOperA | apply keeps_taskOperB)
    | (with_reducible first | apply Keeps.ite | apply Keeps.ite1 | intro _ | apply_assumption)

theorem keeps_setDa {s t : State} (h : Keeps s t) (a) (b) (c) : Keeps s (setDa t a b c) := by
  unfold setDa
  repeat' first
    | (with_reducible first | exact h | assumption | apply Keeps.ite | apply Keeps.ite1 | intro _)
    | simp -zeta -beta -eta -iota -proj only [↓keeps_mk]

theorem keeps_dropDa {s t : State} (h : Keeps s t) (a) (b) : Keeps s (dropDa t a b) := by
  unfold dropDa
  repeat' first
    | (with_reducible first | exact h | assumption | apply Keeps.ite | apply Keeps.ite1 | intro _)
    | simp -zeta -beta -eta -iota -proj only [↓keeps_mk]

theorem keeps_sendAnchors {s t : State} (h : Keeps s t) (a) (b) (c) (d) (e) (f) (g) : Keeps s (sendAnchors a b c d e f
    g t).1 := by
  revert h
  fun_induction sendAnchors a b c d e f g t
  all_goals intro h
  all_goals repeat' first
    | (with_reducible first | exact h | assumption | apply keeps_sendMsg | apply Keeps.ite | apply Keeps.ite1)
    | (with_reducible first | intro _ | apply_assumption)
    | simp -zeta -beta -eta -iota -proj only [↓keeps_mk] | extract_lets | split | dsimp +zetaDelta only | (refine Keeps.pair (by assumption) ?_)

theorem keeps_dropGroupMsgs {s t : State} (h : Keeps s t) (a) (b) (c) (d) : Keeps s (dropGroupMsgs t a b c d) := by
  unfold dropGroupMsgs
  repeat' first
    | (with_reducible first | exact h | assumption | apply Keeps.ite | apply Keeps.ite1 | intro _)
    | simp -zeta -beta -eta -iota -proj only [↓keeps_mk]

theorem keeps_openRound {s t : State} (h : Keeps s t) (a) (b) (c) : Keeps s (openRound t a b c) := by
  unfold openRound
  repeat' first
    | (with_reducible first | exact h | assumption | apply keeps_sendAnchors | apply keeps_modPhase)
    | (with_reducible first | apply keeps_failPlan | apply Keeps.ite | apply Keeps.ite1 | intro _)
    | simp -zeta -beta -eta -iota -proj only [↓keeps_mk] | extract_lets | split | dsimp +zetaDelta only | (refine Keeps.pair (by assumption) ?_)

theorem keeps_closeRound {s t : State} (h : Keeps s t) (a) (b) (c) : Keeps s (closeRound t a b c) := by
  unfold closeRound
  repeat' first
    | (with_reducible first | exact h | assumption | apply keeps_modPhase | apply keeps_dropGroupMsgs)
    | (with_reducible first | apply Keeps.ite)

theorem keeps_readCin {s t : State} (h : Keeps s t) (a) (b) (c) (d) (e) : Keeps s (readCin t a b c d e).1 := by
  unfold readCin
  repeat' first
    | (with_reducible first | exact h | assumption | apply keeps_readBlock)

theorem keeps_loadCin {s t : State} (h : Keeps s t) (a) (b) (c) (d) : Keeps s (loadCin t a b c d) := by
  unfold loadCin
  repeat' first
    | (with_reducible first | exact h | assumption | apply keeps_readCin | apply keeps_accSet | apply Keeps.ite)
    | (with_reducible first | apply Keeps.ite1 | (apply Keeps.foldl1; intro _ _ _))

theorem keeps_daPass {s t : State} (h : Keeps s t) (a) (b) (c) : Keeps s (daPass t a b c).1 := by
  unfold daPass
  repeat' first
    | (with_reducible first | exact h | assumption | apply keeps_headerPass | apply Keeps.ite | apply Keeps.ite1)

theorem keeps_observe {s t : State} (h : Keeps s t) (a) (b) (c) (d) (e) (f) : Keeps s (observe t a b c d e f) := by
  unfold observe
  repeat' first
    | (with_reducible first | exact h | assumption | apply keeps_modPhase | apply keeps_writeTens)
    | (with_reducible first | apply keeps_writeElts | apply Keeps.ite)

theorem keeps_daObserve {s t : State} (h : Keeps s t) (a) (b) (c) : Keeps s (daObserve t a b c) := by
  unfold daObserve
  repeat' first
    | (with_reducible first | exact h | assumption | apply keeps_observe | apply Keeps.ite | apply Keeps.ite1)
    | (with_reducible first | (apply Keeps.foldl; intro _ _ _))

theorem keeps_pinnedAnchor {s t : State} (h : Keeps s t) (a) (b) (c) (d) (e) (f) : Keeps s (pinnedAnchor t a b c d e
    f).1 := by
  unfold pinnedAnchor
  repeat' first
    | (with_reducible first | exact h | assumption | apply keeps_readTensAt)

theorem keeps_daPinned {s t : State} (h : Keeps s t) (a) (b) (c) : Keeps s (daPinned t a b c).1 := by
  unfold daPinned
  repeat' first
    | (with_reducible first | exact h | assumption | apply keeps_pinnedAnchor | apply Keeps.ite)
    | (with_reducible first | apply Keeps.ite1 | (apply Keeps.foldl1; intro _ _ _))

theorem keeps_overflowed {s t : State} (h : Keeps s t) (a) (b) (c) (d) (e) : Keeps s (overflowed t a b c d e) := by
  unfold overflowed
  repeat' first
    | (with_reducible first | exact h | assumption | apply keeps_noteOvf | apply keeps_tileEvent | apply Keeps.ite)

theorem keeps_daStore {s t : State} (h : Keeps s t) (a) (b) (c) (d) : Keeps s (daStore t a b c d) := by
  unfold daStore
  repeat' first
    | (with_reducible first | exact h | assumption | apply keeps_tileEvent | apply keeps_overflowed)
    | (with_reducible first | apply keeps_accSet)

theorem keeps_accRead {s t : State} (h : Keeps s t) (a) (b) (c) : Keeps s (accRead t a b c).1 := by
  unfold accRead
  repeat' first
    | (with_reducible first | exact h | assumption | apply keeps_eccReadAll | apply Keeps.ite | apply Keeps.ite1)

theorem keeps_daFold {s t : State} (h : Keeps s t) (a) (b) (c) (d) : Keeps s (daFold t a b c d) := by
  unfold daFold
  repeat' first
    | (with_reducible first | exact h | assumption | apply keeps_accRead | apply keeps_foldKbs)
    | (with_reducible first | apply keeps_setDa | apply keeps_daStore)

theorem keeps_daFix {s t : State} (h : Keeps s t) (a) (b) (c) (d) (e) : Keeps s (daFix t a b c d e) := by
  unfold daFix
  repeat' first
    | (with_reducible first | exact h | assumption | apply keeps_setDa | apply keeps_daFold | apply Keeps.ite)

theorem keeps_daBegin {s t : State} (h : Keeps s t) (a) (b) (c) (d) : Keeps s (daBegin t a b c d) := by
  unfold daBegin
  repeat' first
    | (with_reducible first | exact h | assumption | apply keeps_loadCin | apply keeps_daPass)
    | (with_reducible first | apply keeps_daObserve | apply keeps_daFix | apply keeps_daPinned)
    | (with_reducible first | apply keeps_openRound | apply keeps_setDa | apply Keeps.ite | apply Keeps.ite1)

theorem keeps_daClaim {s t : State} (h : Keeps s t) (a) (b) (c) (d) : Keeps s (daClaim t a b c d) := by
  unfold daClaim
  repeat' first
    | (with_reducible first | exact h | assumption | apply keeps_accClear | apply keeps_cntAdd)
    | (with_reducible first | apply keeps_daBegin | apply keeps_setDa | apply Keeps.ite | apply Keeps.ite1)
    | (with_reducible first | intro _)
    | simp -zeta -beta -eta -iota -proj only [↓keeps_mk]

theorem keeps_daStart {s t : State} (h : Keeps s t) (a) (b) (c) (d) : Keeps s (daStart t a b c d) := by
  unfold daStart
  repeat' first
    | (with_reducible first | exact h | assumption | apply keeps_daClaim)

theorem keeps_daReserve {s t : State} (h : Keeps s t) (a) (b) (c) (d) : Keeps s (daReserve t a b c d) := by
  unfold daReserve
  repeat' first
    | (with_reducible first | exact h | assumption | apply keeps_daPass | apply keeps_setDa | apply Keeps.ite)

theorem keeps_daNext {s t : State} (h : Keeps s t) (a) (b) (c) : Keeps s (daNext t a b c) := by
  unfold daNext
  repeat' first
    | (with_reducible first | exact h | assumption | apply keeps_daClaim | apply keeps_dropDa | apply Keeps.ite)
    | (with_reducible first | apply Keeps.ite1 | intro _)
    | simp -zeta -beta -eta -iota -proj only [↓keeps_mk] | extract_lets | split

theorem keeps_daGo {s t : State} (h : Keeps s t) (a) (b) (c) : Keeps s (daGo t a b c) := by
  unfold daGo
  repeat' first
    | (with_reducible first | exact h | assumption | apply keeps_daBegin | apply keeps_daFix)
    | (with_reducible first | apply keeps_closeRound | apply Keeps.ite | apply Keeps.ite1 | intro _)
    | simp -zeta -beta -eta -iota -proj only [↓keeps_mk] | extract_lets | split

theorem keeps_slotErr {s t : State} (h : Keeps s t) (a) (b) (c) (d) (e) : Keeps s (slotErr t a b c d e) := by
  unfold slotErr
  repeat' first
    | (with_reducible first | exact h | assumption | apply keeps_tileEvent | apply keeps_wr | apply Keeps.ite)

theorem keeps_sheetForward {s t : State} (h : Keeps s t) (a) (b) (c) (d) (e) (f) : Keeps s (sheetForward t a b c d e
    f) := by
  unfold sheetForward
  repeat' first
    | (with_reducible first | exact h | assumption | apply keeps_modPhase)

theorem keeps_sheetOwn {s t : State} (h : Keeps s t) (a) (b) (c) (d) (e) : Keeps s (sheetOwn a b c d e t).1 := by
  induction e generalizing t with
  | nil => exact h
  | cons d ds ih => exact ih (keeps_headOcc (keeps_kbHeads h _ _ _ _ _) _ _ _ _ _ _)

theorem keeps_sheetTake {s t : State} {a : State × List SheetSrc} {b : Cur} {c d : Nat} {e f : Bool} {g : List Da} (h
    : Keeps s t) (k : sheetTake t b c d e f g = some a) : Keeps s a.1 := by
  unfold sheetTake at k
  split at k
  · injection k with k
    subst k
    exact keeps_sheetOwn h _ _ _ _ _
  · dsimp only at k
    split at k
    · cases k
    · injection k with k
      subst k
      exact keeps_modPhase h _ _

theorem keeps_sheetFetch {s t : State} (h : Keeps s t) (a) (b) (c) (d) (e) (f) (g) : Keeps s (sheetFetch a b c d e f g
    t).1 := by
  induction g generalizing t with
  | nil => exact h
  | cons x xs ih =>
    unfold sheetFetch
    apply ih
    split
    · exact h
    · exact .ite1 h (keeps_readOperAt h _ _ _ _ _ _)

theorem keeps_sheetFold {s t : State} (h : Keeps s t) (a) (b) (c) (d) (e) (f) : Keeps s (sheetFold a b c t d e f) :=
    by
  unfold sheetFold
  repeat' first
    | (with_reducible first | exact h | assumption | apply keeps_accRead | apply keeps_countUse)
    | (with_reducible first | apply keeps_daStore | apply keeps_setDa | apply Keeps.ite)

theorem keeps_sheetStep {s t u : State} {a : PlanKind} {b : Nat} (h : Keeps s t) (k : sheetStep t a b = some u) :
    Keeps s u := by
  unfold sheetStep at k
  have hg := fun (w : State) (hw : Keeps s w) f => keeps_modPhase hw a f
  split at k
  · cases k
  · dsimp only at k
    split at k
    · cases k
    · split at k
      · injection k with k
        subst k
        exact hg _ h _
      · split at k
        · cases k
        · split at k
          · cases k
          · rename_i r1 e1
            have h1 := keeps_sheetTake h e1
            split at k
            · cases k
            · rename_i r2 e2
              have h2 := keeps_sheetTake h1 e2
              injection k with k
              subst k
              apply hg
              repeat' first
                | exact h2
                | (with_reducible first | apply keeps_sheetForward | apply Keeps.ite | apply keeps_sheetFetch | apply keeps_sheetFold)
                | (apply Keeps.foldl; intro _ _ _)
                | assumption

theorem keeps_sheetGo {s t : State} (h : Keeps s t) (a) (b) (c) : Keeps s (sheetGo a b c t) := by
  induction c generalizing t with
  | zero => exact h
  | succ n ih =>
    unfold sheetGo
    split
    · exact h
    · rename_i u k
      exact ih (Keeps.foldl (fun _ _ k => keeps_daNext k _ _ _) _ (keeps_sheetStep h k))

theorem keeps_daResume {s t : State} (h : Keeps s t) (a) (b) : Keeps s (daResume t a b) := by
  unfold daResume
  repeat' first
    | (with_reducible first | exact h | assumption | apply keeps_daGo | apply keeps_daNext)
    | (with_reducible first | apply keeps_sheetGo | apply Keeps.ite | apply Keeps.ite1)
    | (with_reducible first | (apply Keeps.foldl; intro _ _ _))

theorem keeps_taskBad {s t : State} (h : Keeps s t) (a) (b) : Keeps s (taskBad t a b) := by
  unfold taskBad
  repeat' first
    | (with_reducible first | exact h | assumption | apply keeps_tileEvent)

theorem keeps_spillOut {s t : State} (h : Keeps s t) (a) (b) (c) : Keeps s (spillOut t a b c) := by
  unfold spillOut
  repeat' first
    | (with_reducible first | exact h | assumption | apply keeps_modPhase | apply keeps_rawWrite)
    | (with_reducible first | apply Keeps.ite | apply Keeps.ite1 | (apply Keeps.foldl; intro _ _ _) | intro _)
    | simp -zeta -beta -eta -iota -proj only [↓keeps_mk] | extract_lets | split

theorem keeps_refillList {s t : State} (h : Keeps s t) (a) (b) (c) : Keeps s (refillList t a b c) := by
  unfold refillList
  repeat' first
    | (with_reducible first | exact h | assumption | apply keeps_rawRead | apply keeps_modPhase)
    | (with_reducible first | apply Keeps.ite | apply Keeps.ite1 | intro _)
    | simp -zeta -beta -eta -iota -proj only [↓keeps_mk] | extract_lets | split

theorem keeps_popTask {s t : State} (h : Keeps s t) (a) (b) (c) : Keeps s (popTask t a b c) := by
  unfold popTask
  repeat' first
    | (with_reducible first | exact h | assumption | apply keeps_modPhase | apply keeps_spillOut)
    | (with_reducible first | apply keeps_refillList | apply Keeps.ite)

theorem keeps_discardTask {s t : State} (h : Keeps s t) (a) (b) (c) (d) : Keeps s (discardTask t a b c d) := by
  unfold discardTask
  repeat' first
    | (with_reducible first | exact h | assumption | apply keeps_taskBad | apply keeps_popTask)

theorem keeps_denseTake {s t : State} (h : Keeps s t) (a) (b) (c) (d) : Keeps s (denseTake t a b c d) := by
  unfold denseTake
  repeat' first
    | (with_reducible first | exact h | assumption | apply keeps_popTask | apply keeps_daResume)
    | (with_reducible first | apply keeps_daStart | apply keeps_daReserve | apply Keeps.ite)

theorem keeps_writePart {s t : State} (h : Keeps s t) (a) (b) (c) (d) (e) (f) (g) (i) : Keeps s (writePart t a b c d e
    f g i) := by
  unfold writePart
  repeat' first
    | (with_reducible first | exact h | assumption | apply keeps_writeElts | apply keeps_readBlock)
    | (with_reducible first | apply keeps_modPhase | apply Keeps.ite | apply Keeps.ite1 | intro _)
    | simp -zeta -beta -eta -iota -proj only [↓keeps_mk] | extract_lets | split

theorem keeps_setReady {s t : State} (h : Keeps s t) (a) (b) : Keeps s (setReady t a b) := by
  unfold setReady
  repeat' first
    | (with_reducible first | exact h | assumption | apply keeps_modPhase)

theorem keeps_writeLaunch {s t : State} (h : Keeps s t) (a) (b) (c) (d) (e) : Keeps s (writeLaunch t a b c d e) := by
  unfold writeLaunch
  repeat' first
    | (with_reducible first | exact h | assumption | apply keeps_writePart | apply keeps_setReady)
    | (with_reducible first | apply Keeps.ite | apply Keeps.ite1 | (apply Keeps.foldl; intro _ _ _))

theorem keeps_fencedDrop {s t : State} (h : Keeps s t) (a) (b) (c) (d) : Keeps s (fencedDrop t a b c d) := by
  unfold fencedDrop
  repeat' first
    | (with_reducible first | exact h | assumption | apply keeps_meshLost)

theorem keeps_packedKeep {s t : State} (h : Keeps s t) (a) (b) (c) (d) (e) : Keeps s (packedKeep t a b c d e) := by
  unfold packedKeep
  repeat' first
    | (with_reducible first | exact h | assumption | apply keeps_engWrite | apply Keeps.ite | apply Keeps.ite1)
    | (with_reducible first | intro _)
    | simp -zeta -beta -eta -iota -proj only [↓keeps_mk] | extract_lets | split

theorem keeps_writeBlock {s t : State} (h : Keeps s t) (a) (b) (c) (d) : Keeps s (writeBlock t a b c d) := by
  unfold writeBlock
  repeat' first
    | (with_reducible first | exact h | assumption | apply keeps_writeBlockAt)

theorem keeps_finishBlock {s t : State} (h : Keeps s t) (a) (b) (c) (d) (e) (f) : Keeps s (finishBlock t a b c d e f)
    := by
  unfold finishBlock
  repeat' first
    | (with_reducible first | exact h | assumption | apply keeps_fencedDrop | apply keeps_modPhase)
    | (with_reducible first | apply keeps_packedKeep | apply keeps_setReady | apply keeps_writeBlock)
    | (with_reducible first | apply Keeps.ite)

theorem keeps_finishLps {s t : State} (h : Keeps s t) (a) (b) (c) (d) : Keeps s (finishLps t a b c d) := by
  unfold finishLps
  repeat' first
    | (with_reducible first | exact h | assumption | apply keeps_writeLaunch | apply keeps_finishBlock)
    | (with_reducible first | apply keeps_countSubst | apply Keeps.ite | apply Keeps.ite1 | intro _)
    | simp -zeta -beta -eta -iota -proj only [↓keeps_mk] | extract_lets | split

theorem keeps_daRelease {s t : State} (h : Keeps s t) (a) (b) (c) : Keeps s (daRelease t a b c) := by
  unfold daRelease
  repeat' first
    | (with_reducible first | exact h | assumption | apply keeps_daResume | apply keeps_dropDa | apply keeps_accClear)

theorem keeps_scratchWrite {s t : State} (h : Keeps s t) (a) (b) (c) (d) : Keeps s (scratchWrite t a b c d) := by
  unfold scratchWrite
  repeat' first
    | (with_reducible first | exact h | assumption | apply keeps_writeBlock | apply Keeps.ite)
    | (with_reducible first | apply Keeps.ite1 | intro _)
    | simp -zeta -beta -eta -iota -proj only [↓keeps_mk] | extract_lets | split

theorem keeps_evict {s t : State} (h : Keeps s t) (a) (b) : Keeps s (evict t a b) := by
  unfold evict
  repeat' first
    | (with_reducible first | exact h | assumption | apply keeps_accRead | apply keeps_scratchWrite)
    | (with_reducible first | apply keeps_accClear | apply keeps_modPhase | apply Keeps.ite | apply Keeps.ite1)
    | (with_reducible first | intro _)
    | simp -zeta -beta -eta -iota -proj only [↓keeps_mk] | extract_lets | split

theorem keeps_bringIn {s t : State} (h : Keeps s t) (a) (b) : Keeps s (bringIn t a b) := by
  unfold bringIn
  repeat' first
    | (with_reducible first | exact h | assumption | apply keeps_modPhase | apply keeps_evict)
    | (with_reducible first | apply keeps_accSet | apply Keeps.ite | apply Keeps.ite1 | intro _)
    | simp -zeta -beta -eta -iota -proj only [↓keeps_mk] | extract_lets | split | dsimp +zetaDelta only

theorem keeps_ownBlock {s t : State} (h : Keeps s t) (a) (b) (c) (d) (e) : Keeps s (ownBlock t a b c d e) := by
  unfold ownBlock
  repeat' first
    | (with_reducible first | exact h | assumption | apply keeps_readCin | apply keeps_modPhase)
    | (with_reducible first | apply keeps_bringIn | apply Keeps.ite | apply Keeps.ite1 | intro _)
    | simp -zeta -beta -eta -iota -proj only [↓keeps_mk] | extract_lets | split | dsimp +zetaDelta only

theorem keeps_ownedLps {s t : State} (h : Keeps s t) (a) (b) : Keeps s (ownedLps t a b).1 := by
  unfold ownedLps
  repeat' first
    | (with_reducible first | exact h | assumption | apply keeps_accRead | apply Keeps.ite | apply Keeps.ite1)
    | (with_reducible first | intro _)
    | simp -zeta -beta -eta -iota -proj only [↓keeps_mk] | extract_lets | split

theorem keeps_setOwnedLps {s t : State} (h : Keeps s t) (a) (b) (c) : Keeps s (setOwnedLps t a b c) := by
  unfold setOwnedLps
  repeat' first
    | (with_reducible first | exact h | assumption | apply keeps_accSet | apply keeps_modPhase)
    | (with_reducible first | apply keeps_scratchWrite | apply Keeps.ite | apply Keeps.ite1 | intro _)
    | simp -zeta -beta -eta -iota -proj only [↓keeps_mk] | extract_lets | split

theorem keeps_addRow {s t : State} (h : Keeps s t) (a) (b) (c) (d) : Keeps s (addRow t a b c d).1 := by
  unfold addRow
  repeat' first
    | (with_reducible first | exact h | assumption | apply keeps_ownedLps | apply keeps_setOwnedLps)

theorem keeps_dropFly {s t : State} (h : Keeps s t) (a) (b) : Keeps s (dropFly t a b) := by
  unfold dropFly
  repeat' first
    | (with_reducible first | exact h | assumption | apply keeps_modPhase)

theorem keeps_takePieces {s t : State} (h : Keeps s t) (a) (b) (c) : Keeps s (takePieces a b c t) := by
  revert h
  fun_induction takePieces a b c t
  all_goals intro h
  all_goals repeat' first
    | (with_reducible first | exact h | assumption | apply keeps_ownBlock | apply keeps_dropFly)
    | (with_reducible first | apply keeps_modPhase | apply keeps_addRow | apply keeps_tileEvent)
    | (with_reducible first | apply keeps_overflowed | apply Keeps.ite | apply Keeps.ite1 | intro _)
    | (with_reducible first | apply_assumption)

theorem keeps_dropOwned {s t : State} (h : Keeps s t) (a) (b) : Keeps s (dropOwned t a b) := by
  unfold dropOwned
  repeat' first
    | (with_reducible first | exact h | assumption | apply keeps_accClear | apply keeps_modPhase)
    | (with_reducible first | apply Keeps.ite | apply Keeps.ite1 | intro _)
    | simp -zeta -beta -eta -iota -proj only [↓keeps_mk] | extract_lets | split

theorem keeps_splitFinish {s t : State} (h : Keeps s t) (a) (b) : Keeps s (splitFinish t a b) := by
  unfold splitFinish
  repeat' first
    | (with_reducible first | exact h | assumption | apply keeps_taskBad | apply keeps_dropOwned)
    | (with_reducible first | apply keeps_ownedLps | apply keeps_finishBlock | apply keeps_countSubst)
    | (with_reducible first | apply Keeps.ite | apply Keeps.ite1 | intro _)
    | simp -zeta -beta -eta -iota -proj only [↓keeps_mk] | extract_lets | split

theorem keeps_setGath {s t : State} (h : Keeps s t) (a) (b) (c) : Keeps s (setGath t a b c) := by
  unfold setGath
  repeat' first
    | (with_reducible first | exact h | assumption | apply Keeps.ite | apply Keeps.ite1 | intro _)
    | simp -zeta -beta -eta -iota -proj only [↓keeps_mk]

theorem keeps_appendTasks {s t : State} (h : Keeps s t) (a) (b) (c) (d) : Keeps s (appendTasks t a b c d) := by
  unfold appendTasks
  repeat' first
    | (with_reducible first | exact h | assumption | apply keeps_modPhase | apply keeps_spillOut)

theorem keeps_gathLaunch {s t : State} (h : Keeps s t) (a) (b) (c) : Keeps s (gathLaunch t a b c) := by
  unfold gathLaunch
  repeat' first
    | (with_reducible first | exact h | assumption | apply keeps_setGath | apply keeps_modPhase)
    | (with_reducible first | apply keeps_appendTasks | apply Keeps.ite | apply Keeps.ite1 | intro _)
    | simp -zeta -beta -eta -iota -proj only [↓keeps_mk] | extract_lets | split

theorem keeps_gathAdd {s t : State} (h : Keeps s t) (a) (b) (c) (d) : Keeps s (gathAdd t a b c d) := by
  unfold gathAdd
  repeat' first
    | (with_reducible first | exact h | assumption | apply keeps_modPhase | apply keeps_setGath)
    | (with_reducible first | apply keeps_gathLaunch | apply Keeps.ite)

theorem keeps_gathClose {s t : State} (h : Keeps s t) (a) : Keeps s (gathClose t a) := by
  unfold gathClose
  repeat' first
    | (with_reducible first | exact h | assumption | apply keeps_modPhase | apply keeps_gathLaunch)
    | (with_reducible first | apply Keeps.ite | apply Keeps.ite1 | (apply Keeps.foldl; intro _ _ _))

theorem keeps_packedWrite {s t : State} (h : Keeps s t) (a) (b) : Keeps s (packedWrite t a b) := by
  unfold packedWrite
  repeat' first
    | (with_reducible first | exact h | assumption | apply keeps_writePacked | apply keeps_modPhase)
    | (with_reducible first | apply keeps_setReady | apply Keeps.ite | apply Keeps.ite1)
    | (with_reducible first | (apply Keeps.foldl; intro _ _ _))

theorem keeps_mergeBlock {s t : State} (h : Keeps s t) (a) (b) (c) (d) : Keeps s (mergeBlock t a b c d) := by
  unfold mergeBlock
  repeat' first
    | (with_reducible first | exact h | assumption | apply keeps_rasBump | apply keeps_writeElts | apply Keeps.ite)

theorem keeps_commitRow {s t : State} (h : Keeps s t) (a) (b) {c} (hc : ∀ (t : State) (x0), Keeps s t → Keeps s (c t
    x0)) : Keeps s (commitRow t a b c) := by
  unfold commitRow
  repeat' first
    | (with_reducible first | exact h | assumption | apply keeps_holdCmd | apply keeps_completeInfo)
    | (with_reducible first | apply keeps_unholdCmd | apply hc | apply Keeps.ite | apply Keeps.ite1 | intro _)
    | simp -zeta -beta -eta -iota -proj only [↓keeps_mk] | extract_lets | split

theorem keeps_transitionStart {s t : State} (h : Keeps s t) (a) : Keeps s (transitionStart t a) := by
  unfold transitionStart
  repeat' first
    | (with_reducible first | exact h | assumption | apply Keeps.ite | apply Keeps.ite1 | intro _)
    | simp -zeta -beta -eta -iota -proj only [↓keeps_mk] | extract_lets

theorem keeps_takeVals {s t : State} (h : Keeps s t) (a) : Keeps s (takeVals t a) := by
  unfold takeVals
  repeat' first
    | (with_reducible first | exact h | assumption | apply keeps_wr | apply Keeps.ite | apply Keeps.ite1)
    | (with_reducible first | (apply Keeps.foldl; intro _ _ _) | intro _)
    | simp -zeta -beta -eta -iota -proj only [↓keeps_mk] | extract_lets | split

theorem keeps_transitionEnd {s t : State} (h : Keeps s t) (a) : Keeps s (transitionEnd t a) := by
  unfold transitionEnd
  repeat' first
    | (with_reducible first | exact h | assumption | apply keeps_takeVals | apply keeps_completeInfo)
    | (with_reducible first | apply Keeps.ite | apply Keeps.ite1 | intro _)
    | simp -zeta -beta -eta -iota -proj only [↓keeps_mk] | extract_lets | split

theorem keeps_countBadAccess {s t : State} (h : Keeps s t) : Keeps s (countBadAccess t) := by
  unfold countBadAccess
  repeat' first
    | (with_reducible first | exact h | assumption | apply keeps_rasBump)

theorem keeps_doorbellWrite {s t : State} (h : Keeps s t) (a) (b) : Keeps s (doorbellWrite t a b) := by
  unfold doorbellWrite
  repeat' first
    | (with_reducible first | exact h | assumption | apply keeps_countDenied | apply keeps_countBadAccess)
    | (with_reducible first | apply keeps_evcFire | apply Keeps.ite)

theorem keeps_takeSource {s t : State} (h : Keeps s t) (a) : Keeps s (takeSource t a) := by
  unfold takeSource
  repeat' first
    | (with_reducible first | exact h | assumption | apply keeps_wr)

theorem keeps_claim {s t : State} (h : Keeps s t) (a) : Keeps s (claim t a).1 := by
  unfold claim
  repeat' first
    | (with_reducible first | exact h | assumption | apply keeps_takeSource | apply Keeps.ite)
    | (with_reducible first | apply Keeps.ite1 | intro _)
    | simp -zeta -beta -eta -iota -proj only [↓keeps_mk] | extract_lets | split

theorem keeps_endService {s t : State} (h : Keeps s t) (a) : Keeps s (endService t a) := by
  unfold endService
  repeat' first
    | (with_reducible first | exact h | assumption | apply keeps_wr | apply keeps_evcTakeWaiting | apply Keeps.ite)

theorem keeps_countDropped {s t : State} (h : Keeps s t) (a) : Keeps s (countDropped t a) := by
  unfold countDropped
  repeat' first
    | (with_reducible first | exact h | assumption | apply keeps_rasBump)

theorem keeps_eoi {s t : State} (h : Keeps s t) (a) (b) : Keeps s (eoi t a b) := by
  unfold eoi
  repeat' first
    | (with_reducible first | exact h | assumption | apply keeps_endService | apply keeps_countDropped)
    | (with_reducible first | apply Keeps.ite)

theorem keeps_setPeerFlag {s t : State} (h : Keeps s t) (a) (b) (c) : Keeps s (setPeerFlag t a b c) := by
  unfold setPeerFlag
  repeat' first
    | (with_reducible first | exact h | assumption | apply keeps_setMem)

theorem keeps_routeOut {s t : State} (h : Keeps s t) (a) (b) (c) : Keeps s (routeOut t a b c) := by
  unfold routeOut
  repeat' first
    | (with_reducible first | exact h | assumption | apply keeps_routeAll)

theorem keeps_spreadHold {s t : State} (h : Keeps s t) (a) : Keeps s (spreadHold t a) := by
  unfold spreadHold
  repeat' first
    | (with_reducible first | exact h | assumption | apply keeps_setLink | apply keeps_routeAll)
    | (with_reducible first | apply Keeps.ite | apply Keeps.ite1 | (apply Keeps.foldl; intro _ _ _))

theorem keeps_flushQueued {s t : State} (h : Keeps s t) (a) (b) : Keeps s (flushQueued a b t) := by
  induction b generalizing t
  all_goals unfold flushQueued
  all_goals repeat' first
    | (with_reducible first | exact h | assumption | apply keeps_transmit | apply keeps_cacheTouch)
    | (with_reducible first | apply Keeps.ite | apply Keeps.ite1 | intro _ | apply_assumption)
    | simp -zeta -beta -eta -iota -proj only [↓keeps_mk] | extract_lets | split

theorem keeps_cacheFill {s t : State} (h : Keeps s t) (a) : Keeps s (cacheFill t a) := by
  unfold cacheFill
  repeat' first
    | (with_reducible first | exact h | assumption | apply keeps_flushQueued | apply Keeps.ite)
    | (with_reducible first | apply Keeps.ite1 | intro _)
    | simp -zeta -beta -eta -iota -proj only [↓keeps_mk]

theorem keeps_peerSeen {s t : State} (h : Keeps s t) (a) : Keeps s (peerSeen t a) := by
  unfold peerSeen
  repeat' first
    | (with_reducible first | exact h | assumption | apply keeps_cacheTouch | apply keeps_cacheFill)
    | (with_reducible first | apply keeps_cntAdd | apply Keeps.ite)

theorem keeps_peerCheck {s t : State} (h : Keeps s t) (a) (b) (c) (d) (e) : Keeps s (peerCheck t a b c d e).1 := by
  unfold peerCheck
  repeat' first
    | (with_reducible first | exact h | assumption | apply keeps_peerSeen | apply keeps_rasBump)
    | (with_reducible first | apply keeps_cntAdd | apply keeps_qxfErrSet | apply Keeps.ite | apply Keeps.ite1)

theorem keeps_sendDone {s t : State} (h : Keeps s t) (a) (b) (c) (d) : Keeps s (sendDone t a b c d) := by
  unfold sendDone
  repeat' first
    | (with_reducible first | exact h | assumption | apply keeps_sendMsg)

theorem keeps_sendProbe {s t : State} (h : Keeps s t) (a) : Keeps s (sendProbe t a) := by
  unfold sendProbe
  repeat' first
    | (with_reducible first | exact h | assumption | apply keeps_routeOut | apply Keeps.ite | apply Keeps.ite1)
    | (with_reducible first | intro _)
    | simp -zeta -beta -eta -iota -proj only [↓keeps_mk] | extract_lets | split

theorem keeps_msgCheck {s t : State} (h : Keeps s t) (a) (b) (c) : Keeps s (msgCheck t a b c).1 := by
  unfold msgCheck
  repeat' first
    | (with_reducible first | exact h | assumption | apply keeps_dieEvent | apply keeps_qxfErrSet)
    | (with_reducible first | apply keeps_peerCheck | apply Keeps.ite | apply Keeps.ite1)

theorem keeps_performed {s t : State} (h : Keeps s t) (a) : Keeps s (performed t a) := by
  unfold performed
  repeat' first
    | (with_reducible first | exact h | assumption | apply keeps_sendDone | apply keeps_cntAdd)

theorem keeps_deliver {s t : State} (h : Keeps s t) (a) (b) (c) {d} (hd : ∀ (t : State) (x0), Keeps s t → Keeps s (d t
    x0)) : Keeps s (deliver t a b c d) := by
  unfold deliver
  repeat' first
    | (with_reducible first | exact h | assumption | apply keeps_msgCheck | apply keeps_sendDone | apply hd)
    | (with_reducible first | apply Keeps.ite | apply Keeps.ite1 | intro _)
    | simp -zeta -beta -eta -iota -proj only [↓keeps_mk] | extract_lets | split | dsimp +zetaDelta only | (refine Keeps.pair (by assumption) ?_)

theorem keeps_putBlockMsg {s t : State} (h : Keeps s t) (a) (b) (c) (d) (e) (f) : Keeps s (putBlockMsg t a b c d e f)
    := by
  unfold putBlockMsg
  repeat' first
    | (with_reducible first | exact h | assumption | apply keeps_countDenied | apply keeps_contribute)
    | (with_reducible first | apply keeps_layoutFail | apply keeps_engWrite | apply Keeps.ite)
    | (with_reducible first | apply Keeps.ite1 | intro _)
    | simp -zeta -beta -eta -iota -proj only [↓keeps_mk] | extract_lets | split

theorem keeps_performWriteMsg {s t : State} (h : Keeps s t) (a) (b) (c) : Keeps s (performWriteMsg a b t c) := by
  unfold performWriteMsg
  repeat' first
    | (with_reducible first | exact h | assumption | apply keeps_performed | apply keeps_sendDone)
    | (with_reducible first | apply keeps_putBlockMsg | apply keeps_engWrite | apply Keeps.ite)
    | (with_reducible first | apply Keeps.ite1 | intro _)
    | simp -zeta -beta -eta -iota -proj only [↓keeps_mk] | extract_lets | split

theorem keeps_performReadMsg {s t : State} (h : Keeps s t) (a) (b) (c) : Keeps s (performReadMsg a b t c) := by
  unfold performReadMsg
  repeat' first
    | (with_reducible first | exact h | assumption | apply keeps_sendDone | apply keeps_engRead)
    | (with_reducible first | apply keeps_sendMsg | apply keeps_cntAdd | apply Keeps.ite | apply Keeps.ite1)
    | (with_reducible first | intro _)
    | simp -zeta -beta -eta -iota -proj only [↓keeps_mk] | extract_lets | split

theorem keeps_modOut {s t : State} (h : Keeps s t) (a) (b) (c) : Keeps s (modOut t a b c) := by
  unfold modOut
  repeat' first
    | (with_reducible first | exact h | assumption | apply Keeps.ite | apply Keeps.ite1 | intro _)
    | simp -zeta -beta -eta -iota -proj only [↓keeps_mk]

theorem keeps_dropOut {s t : State} (h : Keeps s t) (a) (b) : Keeps s (dropOut t a b) := by
  unfold dropOut
  repeat' first
    | (with_reducible first | exact h | assumption | apply keeps_flushQueued | apply Keeps.ite)
    | (with_reducible first | apply Keeps.ite1 | intro _)
    | simp -zeta -beta -eta -iota -proj only [↓keeps_mk]

theorem keeps_takeResponse {s t : State} (h : Keeps s t) (a) (b) : Keeps s (takeResponse t a b) := by
  unfold takeResponse
  repeat' first
    | (with_reducible first | exact h | assumption | apply keeps_modIssued | apply keeps_rasBump)
    | (with_reducible first | apply keeps_performWrite | apply Keeps.ite | apply Keeps.ite1 | intro _)
    | simp -zeta -beta -eta -iota -proj only [↓keeps_mk] | extract_lets | split

theorem keeps_responseTake {s t : State} (h : Keeps s t) (a) (b) : Keeps s (responseTake t a b).1 := by
  unfold responseTake
  repeat' first
    | (with_reducible first | exact h | assumption | apply keeps_msgCheck | apply keeps_dropOut)
    | (with_reducible first | apply keeps_takeResponse | apply Keeps.ite | apply Keeps.ite1 | intro _)
    | simp -zeta -beta -eta -iota -proj only [↓keeps_mk] | extract_lets | split | dsimp +zetaDelta only | (refine Keeps.pair (by assumption) ?_)

theorem keeps_performRed {s t : State} (h : Keeps s t) (a) (b) : Keeps s (performRed a t b) := by
  unfold performRed
  repeat' first
    | (with_reducible first | exact h | assumption | apply keeps_rasBump | apply keeps_cntAdd)
    | (with_reducible first | apply keeps_sendDone | apply keeps_performed | apply keeps_putBlockMsg)
    | (with_reducible first | apply Keeps.ite | apply Keeps.ite1 | intro _)
    | simp -zeta -beta -eta -iota -proj only [↓keeps_mk] | extract_lets | split

theorem keeps_performAnchors {s t : State} (h : Keeps s t) (a) (b) : Keeps s (performAnchors a t b) := by
  unfold performAnchors
  repeat' first
    | (with_reducible first | exact h | assumption | apply keeps_sendDone | apply keeps_cntAdd)
    | (with_reducible first | apply keeps_performed | apply Keeps.ite | apply Keeps.ite1 | intro _)
    | simp -zeta -beta -eta -iota -proj only [↓keeps_mk]

theorem keeps_seedPage {s t : State} (h : Keeps s t) (a) (b) : Keeps s (seedPage t a b) := by
  unfold seedPage
  repeat' first
    | (with_reducible first | exact h | assumption | apply keeps_rawRead | apply keeps_mirSend)
    | (with_reducible first | apply keeps_wrf | apply Keeps.ite | apply Keeps.ite1 | intro _)
    | simp -zeta -beta -eta -iota -proj only [↓keeps_mk]

theorem keeps_mirReseedAll {s t : State} (h : Keeps s t) : Keeps s (mirReseedAll t) := by
  unfold mirReseedAll
  repeat' first
    | (with_reducible first | exact h | assumption | apply keeps_startSeeds | apply keeps_wrf)

theorem keeps_mirBreak {s t : State} (h : Keeps s t) : Keeps s (mirBreak t) := by
  unfold mirBreak
  repeat' first
    | (with_reducible first | exact h | assumption | apply keeps_wrf | apply Keeps.ite | apply Keeps.ite1)
    | (with_reducible first | (apply Keeps.foldl; intro _ _ _) | intro _)
    | simp -zeta -beta -eta -iota -proj only [↓keeps_mk] | extract_lets

theorem keeps_queueDone {s t : State} (h : Keeps s t) (a) (b) : Keeps s (queueDone t a b) := by
  unfold queueDone
  repeat' first
    | (with_reducible first | exact h | assumption | apply keeps_modPlan | apply Keeps.ite | apply Keeps.ite1)
    | (with_reducible first | intro _)
    | simp -zeta -beta -eta -iota -proj only [↓keeps_mk] | extract_lets | split

theorem keeps_doneTake {s t : State} (h : Keeps s t) (a) (b) (c) : Keeps s (doneTake t a b c).1 := by
  unfold doneTake
  repeat' first
    | (with_reducible first | exact h | assumption | apply keeps_modOut | apply keeps_queueDone)
    | (with_reducible first | apply keeps_failWork | apply keeps_dropOut | apply Keeps.ite | apply Keeps.ite1)
    | (with_reducible first | intro _)
    | simp -zeta -beta -eta -iota -proj only [↓keeps_mk] | extract_lets | split

theorem keeps_probeAnswered {s t : State} (h : Keeps s t) (a) : Keeps s (probeAnswered t a) := by
  unfold probeAnswered
  repeat' first
    | (with_reducible first | exact h | assumption | apply keeps_setPeerFlag | apply Keeps.ite)
    | (with_reducible first | apply Keeps.ite1 | intro _)
    | simp -zeta -beta -eta -iota -proj only [↓keeps_mk] | extract_lets

theorem keeps_msgTimeout {s t : State} (h : Keeps s t) (a) : Keeps s (msgTimeout t a) := by
  unfold msgTimeout
  repeat' first
    | (with_reducible first | exact h | assumption | apply keeps_rasBump | apply keeps_cntAdd)
    | (with_reducible first | apply keeps_qxfErrSet | apply keeps_sendProbe | apply keeps_mirOn)
    | (with_reducible first | apply keeps_mirBreak | apply keeps_modOut | apply keeps_dieEvent)
    | (with_reducible first | apply keeps_failWork | apply keeps_dropOut | apply keeps_setPeerFlag)
    | (with_reducible first | apply Keeps.ite | apply Keeps.ite1 | intro _)
    | simp -zeta -beta -eta -iota -proj only [↓keeps_mk] | extract_lets | split

theorem keeps_resultTimeout {s t : State} (h : Keeps s t) (a) (b) (c) : Keeps s (resultTimeout t a b c) := by
  unfold resultTimeout
  repeat' first
    | (with_reducible first | exact h | assumption | apply keeps_msgTimeout | apply Keeps.ite)
    | (with_reducible first | apply Keeps.ite1 | intro _)
    | simp -zeta -beta -eta -iota -proj only [↓keeps_mk]

theorem keeps_setFences {s t : State} (h : Keeps s t) (a) (b) (c) : Keeps s (setFences t a b c) := by
  unfold setFences
  repeat' first
    | (with_reducible first | exact h | assumption | apply keeps_bankSet | apply Keeps.ite | apply Keeps.ite1)
    | (with_reducible first | (apply Keeps.foldl; intro _ _ _))

theorem keeps_copiesEnd {s t : State} (h : Keeps s t) (a) : Keeps s (copiesEnd t a) := by
  unfold copiesEnd
  repeat' first
    | (with_reducible first | exact h | assumption | apply keeps_complete | apply Keeps.ite | apply Keeps.ite1)
    | (with_reducible first | (apply Keeps.foldl; intro _ _ _))

theorem keeps_tileReset {s t : State} (h : Keeps s t) (a) : Keeps s (tileReset t a) := by
  unfold tileReset
  have k := keeps_copiesEnd h a
  exact k.parts rfl id id (keysRise_filter _)

theorem keeps_resetCause {s t : State} (h : Keeps s t) (a) (b) (c) : Keeps s (resetCause t a b c) := by
  unfold resetCause
  repeat' first
    | (with_reducible first | exact h | assumption | apply keeps_wr)

theorem keeps_fenceNow {s t : State} (h : Keeps s t) (a) : Keeps s (fenceNow t a) := by
  unfold fenceNow
  repeat' first
    | (with_reducible first | exact h | assumption | apply keeps_setFences | apply keeps_tileReset)
    | (with_reducible first | apply keeps_resetCause | apply Keeps.ite | apply Keeps.ite1)
    | (with_reducible first | (apply Keeps.foldl; intro _ _ _))

theorem keeps_zeroTile {s t : State} (h : Keeps s t) (a) : Keeps s (zeroTile t a) := by
  exact h.parts rfl (mapWf_mapClearRange memD _ _) id id

theorem keeps_tileRelease {s t : State} (h : Keeps s t) (a) : Keeps s (tileRelease t a) := by
  unfold tileRelease
  repeat' first
    | (with_reducible first | exact h | assumption | apply keeps_zeroTile | apply keeps_tileReset)
    | (with_reducible first | apply keeps_bankSet | apply Keeps.ite | apply Keeps.ite1 | intro _)
    | simp -zeta -beta -eta -iota -proj only [↓keeps_mk]

theorem keeps_unfenceNow {s t : State} (h : Keeps s t) (a) : Keeps s (unfenceNow t a) := by
  unfold unfenceNow
  repeat' first
    | (with_reducible first | exact h | assumption | apply keeps_setFences | apply keeps_tileRelease)
    | (with_reducible first | apply keeps_resetCause | apply Keeps.ite | apply Keeps.ite1)
    | (with_reducible first | (apply Keeps.foldl; intro _ _ _))

theorem keeps_quiesceStart {s t : State} (h : Keeps s t) (a) : Keeps s (quiesceStart t a) := by
  unfold quiesceStart
  repeat' first
    | (with_reducible first | exact h | assumption | apply keeps_modIssued | apply keeps_unholdCmd)

theorem keeps_fenceRow {s t : State} (h : Keeps s t) (a) (b) (c) (d) {e} (he : ∀ (t : State) (x0), Keeps s t → Keeps s
    (e t x0)) : Keeps s (fenceRow t a b c d e) := by
  unfold fenceRow
  repeat' first
    | (with_reducible first | exact h | assumption | apply keeps_complete | apply keeps_holdCmd)
    | (with_reducible first | apply keeps_quiesceStart | apply keeps_unholdCmd | apply he | apply Keeps.ite)
    | (with_reducible first | apply Keeps.ite1 | intro _)
    | simp -zeta -beta -eta -iota -proj only [↓keeps_mk] | extract_lets | split

theorem keeps_zeroSram {s t : State} (h : Keeps s t) (a) : Keeps s (zeroSram t a) := by
  exact h.parts rfl (mapWf_mapClearRange memD _ _) id id

theorem keeps_ungateTile {s t : State} (h : Keeps s t) (a) : Keeps s (ungateTile t a) := by
  unfold ungateTile
  repeat' first
    | (with_reducible first | exact h | assumption | apply keeps_zeroSram | apply keeps_bankSet)
    | (with_reducible first | apply Keeps.ite | apply Keeps.ite1 | intro _)
    | simp -zeta -beta -eta -iota -proj only [↓keeps_mk]

theorem keeps_testFence {s t : State} (h : Keeps s t) (a) : Keeps s (testFence t a) := by
  unfold testFence
  repeat' first
    | (with_reducible first | exact h | assumption | apply keeps_wr | apply keeps_ungateTile | apply keeps_tileReset)

theorem keeps_testAccept {s t : State} (h : Keeps s t) (a) : Keeps s (testAccept t a) := by
  unfold testAccept
  repeat' first
    | (with_reducible first | exact h | assumption | apply keeps_testFence | apply keeps_wr | apply Keeps.ite)
    | (with_reducible first | apply Keeps.ite1 | (apply Keeps.foldl; intro _ _ _))

theorem keeps_testResult {s t : State} (h : Keeps s t) (a) (b) (c) (d) (e) (f) (g) : Keeps s (testResult t a b c d e f
    g) := by
  unfold testResult
  repeat' first
    | (with_reducible first | exact h | assumption | apply keeps_tileRelease | apply keeps_wr)
    | (with_reducible first | apply keeps_bankSet | apply keeps_modIssued | apply Keeps.ite)

theorem keeps_activateGo {s t : State} (h : Keeps s t) (a) (b) : Keeps s (activateGo a t b) := by
  unfold activateGo
  repeat' first
    | (with_reducible first | exact h | assumption | apply keeps_fwEnd | apply keeps_setFwBusy)
    | (with_reducible first | apply keeps_holdCmd | apply keeps_modIssued | apply Keeps.ite | apply Keeps.ite1)
    | (with_reducible first | intro _)
    | simp -zeta -beta -eta -iota -proj only [↓keeps_mk] | extract_lets | split

theorem keeps_showRecord {s t : State} (h : Keeps s t) : Keeps s (showRecord t) := by
  unfold showRecord
  repeat' first
    | (with_reducible first | exact h | assumption | apply keeps_wrf | apply Keeps.ite | apply Keeps.ite1 | intro _)
    | simp -zeta -beta -eta -iota -proj only [↓keeps_mk] | extract_lets | split

theorem keeps_recWrite {s t : State} (h : Keeps s t) (a) (b) (c) (d) : Keeps s (recWrite t a b c d) := by
  unfold recWrite
  repeat' first
    | (with_reducible first | exact h | assumption | apply keeps_flashPut)

theorem keeps_activationRecord {s t : State} (h : Keeps s t) : Keeps s (activationRecord t) := by
  unfold activationRecord
  repeat' first
    | (with_reducible first | exact h | assumption | apply keeps_showRecord | apply keeps_recWrite)

theorem keeps_drainAll {s t : State} (h : Keeps s t) : Keeps s (drainAll t) := by
  unfold drainAll
  repeat' first
    | (with_reducible first | exact h | assumption | apply keeps_drainBuf | apply Keeps.ite | apply Keeps.ite1)
    | (with_reducible first | (apply Keeps.foldl; intro _ _ _))

theorem keeps_obWrite {s t : State} (h : Keeps s t) (a) (b) : Keeps s (obWrite t a b) := by
  unfold obWrite
  repeat' first
    | (with_reducible first | exact h | assumption | apply keeps_flashPut)

theorem keeps_confirmNow {s t : State} (h : Keeps s t) (a) (b) : Keeps s (confirmNow t a b) := by
  unfold confirmNow
  repeat' first
    | (with_reducible first | exact h | assumption | apply keeps_wrf | apply keeps_obWrite)
    | (with_reducible first | apply keeps_modPlat | apply keeps_fwEnd | apply keeps_showRecord)
    | (with_reducible first | apply keeps_recWrite)

theorem keeps_confirmGo {s t : State} (h : Keeps s t) (a) : Keeps s (confirmGo t a) := by
  unfold confirmGo
  repeat' first
    | (with_reducible first | exact h | assumption | apply keeps_fwEnd | apply keeps_confirmNow)
    | (with_reducible first | apply Keeps.ite | apply Keeps.ite1 | intro _)
    | simp -zeta -beta -eta -iota -proj only [↓keeps_mk] | extract_lets | split

theorem keeps_ashAnswer {s t : State} (h : Keeps s t) (a) : Keeps s (ashAnswer t a) := by
  unfold ashAnswer
  repeat' first
    | (with_reducible first | exact h | assumption | apply keeps_emit | apply keeps_setReason)

theorem keeps_wireWake {s t : State} (h : Keeps s t) (a) : Keeps s (wireWake t a) := by
  unfold wireWake
  repeat' first
    | (with_reducible first | exact h | assumption | apply keeps_wr | apply keeps_wakeWhite | apply Keeps.ite)
    | (with_reducible first | apply Keeps.ite1 | intro _)
    | simp -zeta -beta -eta -iota -proj only [↓keeps_mk]

theorem keeps_romChoice {s t : State} (h : Keeps s t) : Keeps s (romChoice t).1 := by
  unfold romChoice
  repeat' first
    | (with_reducible first | exact h | assumption | apply keeps_recWrite | apply Keeps.ite | apply Keeps.ite1)
    | (with_reducible first | intro _)
    | simp -zeta -beta -eta -iota -proj only [↓keeps_mk] | extract_lets | split

theorem keeps_bootChoice {s t : State} (h : Keeps s t) : Keeps s (bootChoice t).1 := by
  unfold bootChoice
  repeat' first
    | (with_reducible first | exact h | assumption | apply keeps_romChoice | apply Keeps.ite | apply Keeps.ite1)

theorem keeps_settingsWrite {s t : State} (h : Keeps s t) (a) (b) (c) : Keeps s (settingsWrite t a b c) := by
  unfold settingsWrite
  repeat' first
    | (with_reducible first | exact h | assumption | apply keeps_flashPut)

theorem keeps_settingsFree {s t : State} (h : Keeps s t) (a) (b) : Keeps s (settingsFree t a b) := by
  unfold settingsFree
  repeat' first
    | (with_reducible first | exact h | assumption | apply keeps_drawFree | apply keeps_settingsWrite)

theorem keeps_settleSettings {s t : State} (h : Keeps s t) (a) (b) : Keeps s (settleSettings t a b) := by
  unfold settleSettings
  repeat' first
    | (with_reducible first | exact h | assumption | apply keeps_settingsFree | apply keeps_settingsWrite)
    | (with_reducible first | apply Keeps.ite | apply Keeps.ite1 | intro _)
    | simp -zeta -beta -eta -iota -proj only [↓keeps_mk] | extract_lets | split

theorem keeps_runFirmware {s t : State} (h : Keeps s t) (a) (b) (c) : Keeps s (runFirmware t a b c) := by
  unfold runFirmware
  repeat' first
    | (with_reducible first | exact h | assumption | apply keeps_wrf | apply keeps_setStaged)
    | (with_reducible first | apply keeps_showRecord | apply keeps_modPlat | apply keeps_settleSettings)
    | (with_reducible first | apply keeps_wr | apply Keeps.ite)

theorem keeps_gmeErr {s t : State} (h : Keeps s t) (a) (b) (c) (d) : Keeps s (gmeErr t a b c d) := by
  unfold gmeErr
  repeat' first
    | (with_reducible first | exact h | assumption | apply keeps_wr | apply Keeps.ite)

theorem keeps_gmeFail {s t : State} (h : Keeps s t) (a) (b) (c) (d) : Keeps s (gmeFail t a b c d) := by
  unfold gmeFail
  repeat' first
    | (with_reducible first | exact h | assumption | apply keeps_taskBad | apply keeps_gmeErr)

theorem keeps_gmeIdxRange {s t : State} (h : Keeps s t) (a) (b) (c) : Keeps s (gmeIdxRange t a b c) := by
  unfold gmeIdxRange
  repeat' first
    | (with_reducible first | exact h | assumption | apply keeps_rasBump | apply keeps_cntAdd)
    | (with_reducible first | apply keeps_gmeErr | apply Keeps.ite)

theorem keeps_gmeTake {s t : State} (h : Keeps s t) (a) (b) {c} (hc : ∀ (t : State) (x0) (x1), Keeps s t → Keeps s (c
    t x0 x1)) : Keeps s (gmeTake t a b c) := by
  unfold gmeTake
  repeat' first
    | (with_reducible first | exact h | assumption | apply keeps_modPhase | apply keeps_gmeFail)
    | (with_reducible first | apply keeps_popTask | apply keeps_failPlan | apply hc | apply Keeps.ite)
    | (with_reducible first | apply Keeps.ite1 | intro _)
    | simp -zeta -beta -eta -iota -proj only [↓keeps_mk] | extract_lets | split

theorem keeps_gmeList {s t : State} (h : Keeps s t) (a) (b) (c) : Keeps s (gmeList t a b c).1 := by
  unfold gmeList
  repeat' first
    | (with_reducible first | exact h | assumption | apply keeps_readTens | apply Keeps.ite | apply Keeps.ite1)

theorem keeps_readRows {s t : State} (h : Keeps s t) (a) (b) (c) (d) : Keeps s (readRows t a b c d).1 := by
  unfold readRows
  repeat' first
    | (with_reducible first | exact h | assumption | apply keeps_readTensAt)

theorem keeps_gmeWrite {s t : State} (h : Keeps s t) (a) (b) (c) (d) (e) (f) : Keeps s (gmeWrite t a b c d e f) := by
  unfold gmeWrite
  repeat' first
    | (with_reducible first | exact h | assumption | apply keeps_failPlan | apply keeps_finishBlock)
    | (with_reducible first | apply keeps_countSubst | apply keeps_modPhase | apply keeps_writePart)
    | (with_reducible first | apply Keeps.ite | apply Keeps.ite1 | (apply Keeps.foldl; intro _ _ _))

theorem keeps_gmeGatherRun {s t : State} (h : Keeps s t) (a) (b) (c) : Keeps s (gmeGatherRun a t b c) := by
  unfold gmeGatherRun
  repeat' first
    | (with_reducible first | exact h | assumption | apply keeps_gmeList | apply keeps_gmeIdxRange)
    | (with_reducible first | apply keeps_readRows | apply keeps_cntAdd | apply keeps_gmeWrite)

theorem keeps_ownTask {s t : State} (h : Keeps s t) (a) (b) : Keeps s (ownTask t a b) := by
  unfold ownTask
  repeat' first
    | (with_reducible first | exact h | assumption | apply keeps_modPhase)

theorem keeps_scatterPairs {s t : State} (h : Keeps s t) (a) (b) (c) : Keeps s (scatterPairs t a b c).1 := by
  unfold scatterPairs
  repeat' first
    | (with_reducible first | exact h | assumption | apply keeps_gmeList | apply Keeps.ite | apply Keeps.ite1)

theorem keeps_sendFly {s t : State} (h : Keeps s t) (a) (b) (c) : Keeps s (sendFly t a b c) := by
  unfold sendFly
  repeat' first
    | (with_reducible first | exact h | assumption | apply keeps_fencedDrop | apply keeps_meshLost)
    | (with_reducible first | apply keeps_modPhase | apply Keeps.ite | apply Keeps.ite1)
    | (with_reducible first | (apply Keeps.foldl; intro _ _ _) | intro _)
    | simp -zeta -beta -eta -iota -proj only [↓keeps_mk] | extract_lets | split

theorem keeps_gmeScatterRun {s t : State} (h : Keeps s t) (a) (b) (c) : Keeps s (gmeScatterRun a t b c) := by
  unfold gmeScatterRun
  repeat' first
    | (with_reducible first | exact h | assumption | apply keeps_scatterPairs | apply keeps_gmeFail)
    | (with_reducible first | apply keeps_gmeIdxRange | apply keeps_readRows | apply keeps_ownTask)
    | (with_reducible first | apply keeps_sendFly | apply keeps_cntAdd | apply Keeps.ite | apply Keeps.ite1)
    | (with_reducible first | intro _)
    | simp -zeta -beta -eta -iota -proj only [↓keeps_mk] | extract_lets | split

theorem keeps_pieceMax {s t : State} (h : Keeps s t) (a) (b) (c) (d) (e) : Keeps s (pieceMax t a b c d e).1 := by
  unfold pieceMax
  repeat' first
    | (with_reducible first | exact h | assumption | apply keeps_readOperHdr)

theorem keeps_readWeights {s t : State} (h : Keeps s t) (a) (b) (c) : Keeps s (readWeights t a b c).1 := by
  unfold readWeights
  repeat' first
    | (with_reducible first | exact h | assumption | apply keeps_readTens | apply Keeps.ite | apply Keeps.ite1)

theorem keeps_accPieces {s t : State} (h : Keeps s t) (a) (b) (c) (d) (e) (f) (g) : Keeps s (accPieces a b c d e f t
    g).1 := by
  revert h
  fun_induction accPieces a b c d e f t g
  all_goals intro h
  all_goals repeat' first
    | (with_reducible first | exact h | assumption | apply keeps_pieceMax | apply Keeps.ite | apply Keeps.ite1)
    | (with_reducible first | (apply Keeps.foldl1; intro _ _ _) | intro _ | apply_assumption)

theorem keeps_accData {s t : State} (h : Keeps s t) (a) (b) (c) : Keeps s (accData t a b c) := by
  unfold accData
  repeat' first
    | (with_reducible first | exact h | assumption | apply keeps_scatterPairs | apply keeps_readWeights)
    | (with_reducible first | apply keeps_accPieces | apply keeps_readRows | apply keeps_tileEvent)
    | (with_reducible first | apply keeps_cntAdd | apply keeps_sendFly | apply Keeps.ite | apply Keeps.ite1)
    | (with_reducible first | intro _)
    | simp -zeta -beta -eta -iota -proj only [↓keeps_mk] | extract_lets | split

theorem keeps_gmeAccRun {s t : State} (h : Keeps s t) (a) (b) (c) : Keeps s (gmeAccRun a t b c) := by
  unfold gmeAccRun
  repeat' first
    | (with_reducible first | exact h | assumption | apply keeps_scatterPairs | apply keeps_gmeFail)
    | (with_reducible first | apply keeps_gmeIdxRange | apply keeps_ownTask | apply keeps_accData)
    | (with_reducible first | apply keeps_readWeights | apply keeps_accPieces | apply keeps_modPhase)
    | (with_reducible first | apply keeps_sendFly | apply Keeps.ite | apply Keeps.ite1 | intro _)
    | simp -zeta -beta -eta -iota -proj only [↓keeps_mk] | extract_lets | split

theorem keeps_accSecond {s t : State} (h : Keeps s t) (a) (b) : Keeps s (accSecond a b t) := by
  revert h
  fun_induction accSecond a b t
  all_goals intro h
  all_goals repeat' first
    | (with_reducible first | exact h | assumption | apply keeps_accData | apply Keeps.ite | apply Keeps.ite1)
    | (with_reducible first | intro _ | apply_assumption)

theorem keeps_putOwned {s t : State} (h : Keeps s t) (a) (b) (c) : Keeps s (putOwned t a b c) := by
  unfold putOwned
  repeat' first
    | (with_reducible first | exact h | assumption | apply keeps_modPhase)

theorem keeps_countFolds {s t : State} (h : Keeps s t) (a) (b) (c) : Keeps s (countFolds t a b c) := by
  unfold countFolds
  repeat' first
    | (with_reducible first | exact h | assumption | apply keeps_cntAdd)

theorem keeps_foldRow {s t : State} (h : Keeps s t) (a) (b) (c) (d) (e) : Keeps s (foldRow t a b c d e) := by
  unfold foldRow
  repeat' first
    | (with_reducible first | exact h | assumption | apply keeps_ownedLps | apply keeps_setOwnedLps)
    | (with_reducible first | apply keeps_overflowed | apply keeps_countFolds)

theorem keeps_scatterPut {s t : State} (h : Keeps s t) (a) (b) (c) (d) (e) : Keeps s (scatterWrite.scatterPut t a b c
    d e) := by
  unfold scatterWrite.scatterPut
  repeat' first
    | (with_reducible first | exact h | assumption | apply keeps_putOwned | apply keeps_writePart)

theorem keeps_scatterWrite {s t : State} (h : Keeps s t) (a) (b) (c) (d) (e) : Keeps s (scatterWrite t a b c d e) :=
    by
  unfold scatterWrite
  split
  · exact .ite h (keeps_scatterPut h _ _ _ _ _)
  · exact keeps_scatterPut h _ _ _ _ _

theorem keeps_ownerTake {s t : State} (h : Keeps s t) (a) (b) (c) : Keeps s (ownerTake t a b c) := by
  unfold ownerTake
  repeat' first
    | (with_reducible first | exact h | assumption | apply keeps_dropFly | apply keeps_modPhase)
    | (with_reducible first | apply keeps_ownBlock | apply keeps_putOwned | apply keeps_scatterWrite)
    | (with_reducible first | apply keeps_pinnedAnchor | apply keeps_foldRow | apply keeps_addRow)
    | (with_reducible first | apply keeps_countFolds | apply keeps_gmeErr | apply keeps_tileEvent)
    | (with_reducible first | apply keeps_overflowed | apply Keeps.ite | apply Keeps.ite1 | intro _)
    | simp -zeta -beta -eta -iota -proj only [↓keeps_mk] | extract_lets | split

theorem keeps_spAnchors {s t : State} (h : Keeps s t) (a) (b) (c) (d) (e) : Keeps s (spAnchors t a b c d e).1 := by
  unfold spAnchors
  repeat' first
    | (with_reducible first | exact h | assumption | apply keeps_pinnedAnchor | apply keeps_headerPass)
    | (with_reducible first | apply keeps_observe | apply Keeps.ite | apply Keeps.ite1)

theorem keeps_spFold {s t : State} (h : Keeps s t) (a) (b) (c) (d) (e) (f) (g) : Keeps s (spFold a b c d e f t g).1 :=
    by
  revert h
  fun_induction spFold a b c d e f t g
  all_goals intro h
  all_goals repeat' first
    | (with_reducible first | exact h | assumption | apply keeps_taskOpers | apply keeps_countProducts)
    | (with_reducible first | apply Keeps.ite | apply Keeps.ite1 | intro _ | apply_assumption)

theorem keeps_spBlock {s t : State} (h : Keeps s t) (a) (b) (c) (d) (e) (f) (g) : Keeps s (spBlock t a b c d e f g) :=
    by
  unfold spBlock
  repeat' first
    | (with_reducible first | exact h | assumption | apply keeps_readCin | apply keeps_spFold)
    | (with_reducible first | apply keeps_overflowed | apply keeps_tileEvent | apply keeps_finishBlock)
    | (with_reducible first | apply keeps_countSubst | apply Keeps.ite | apply Keeps.ite1)

theorem keeps_spRunAll {s t : State} (h : Keeps s t) (a) (b) (c) (d) : Keeps s (spRunAll a b c d t) := by
  revert h
  fun_induction spRunAll a b c d t
  all_goals intro h
  all_goals repeat' first
    | (with_reducible first | exact h | assumption | apply keeps_spAnchors | apply keeps_spBlock)
    | (with_reducible first | apply Keeps.ite | apply Keeps.ite1 | intro _ | apply_assumption)

theorem keeps_spSend {s t : State} (h : Keeps s t) (a) (b) (c) (d) (e) : Keeps s (spSend a b c d e t) := by
  induction d generalizing e t with
  | nil => exact keeps_modPhase h _ _
  | cons p ps ih =>
    have hk := keeps_sendAnchors (keeps_headerPass h (spCur a c.bytes) b (spTask c p.1 p.2)) a 1
      (spotBlk a.f (dtSpot (spTask c p.1 p.2).bytes)) (a.f.gme.getD {}).group (groupOf t (a.f.gme.getD {}).group)
      (headerPass t (spCur a c.bytes) b (spTask c p.1 p.2)).2.anchors (groupPeers (groupOf t (a.f.gme.getD {}).group))
    unfold spSend
    dsimp only
    revert hk
    generalize sendAnchors a 1 _ _ _ _ _ _ = r
    intro hk
    obtain ⟨u, v⟩ := r
    cases v with
    | ok => exact ih hk _
    | _ => exact keeps_failPlan hk _ _

theorem keeps_holdTask {s t : State} (h : Keeps s t) (a) (b) (c) : Keeps s (holdTask t a b c) := by
  unfold holdTask
  repeat' first
    | (with_reducible first | exact h | assumption | apply keeps_modPhase)

theorem keeps_gmeSpRun {s t : State} (h : Keeps s t) (a) (b) (c) : Keeps s (gmeSpRun a t b c) := by
  unfold gmeSpRun
  repeat' first
    | (with_reducible first | exact h | assumption | apply keeps_holdTask | apply keeps_ownTask)
    | (with_reducible first | apply keeps_spSend | apply keeps_spRunAll | apply Keeps.ite)

theorem keeps_spResume {s t : State} (h : Keeps s t) (a) (b) (c) : Keeps s (spResume t a b c) := by
  unfold spResume
  repeat' first
    | (with_reducible first | exact h | assumption | apply keeps_dropGroupMsgs | apply keeps_spBlock)
    | (with_reducible first | apply keeps_modPhase | apply Keeps.ite | apply Keeps.ite1)
    | (with_reducible first | (apply Keeps.foldl; intro _ _ _))

theorem keeps_readOper {s t : State} (h : Keeps s t) (a) (b) (c) (d) : Keeps s (readOper t a b c d).1 := by
  unfold readOper
  repeat' first
    | (with_reducible first | exact h | assumption | apply keeps_readOperHdr | apply keeps_readOperAt)

theorem keeps_scanBlocks {s : State} {z : State × NMap Nat} (h : Keeps s z.1) (a b c d) : Keeps s (scanBlocks a b c d
    z).1 := by
  induction d generalizing z with
  | nil => exact h
  | cons q l ih => exact ih (z := (_, _)) (keeps_readOper h _ _ _ _)

theorem keeps_scanAll {s t : State} (h : Keeps s t) (a) (b) (c) (d) : Keeps s (scanAll a b c d t).1 := by
  unfold scanAll
  exact Keeps.foldl1 (t := (t, [])) (fun t x k => by
    split
    · exact keeps_scanBlocks k _ _ _ _
    · exact k) _ h

theorem keeps_segFold {s t : State} (h : Keeps s t) (a) (b) (c) (d) (e) (f) (g) (i) (j) : Keeps s (segFold a b c d e f
    g i t j).1 := by
  revert h
  fun_induction segFold a b c d e f g i t j
  all_goals intro h
  all_goals repeat' first
    | (with_reducible first | exact h | assumption | apply keeps_taskOpers | apply keeps_countProducts)
    | (with_reducible first | apply Keeps.ite | apply Keeps.ite1 | intro _ | apply_assumption)

theorem keeps_segStart {s t : State} (h : Keeps s t) (a) (b) (c) (d) : Keeps s (segStart t a b c d).1 := by
  unfold segStart
  repeat' first
    | (with_reducible first | exact h | assumption | apply keeps_readCin | apply Keeps.ite | apply Keeps.ite1)

theorem keeps_segRun {s t : State} (h : Keeps s t) (a) (b) (c) (d) : Keeps s (segRun t a b c d) := by
  unfold segRun
  repeat' first
    | (with_reducible first | exact h | assumption | apply keeps_spAnchors | apply keeps_segStart)
    | (with_reducible first | apply keeps_segFold | apply keeps_sendFly | apply keeps_tileEvent)
    | (with_reducible first | apply keeps_overflowed | apply Keeps.ite | apply Keeps.ite1)
    | (with_reducible first | (apply Keeps.foldl; intro _ _ _))

theorem keeps_ownerFinishBlock {s t : State} (h : Keeps s t) (a) (b) (c) (d) : Keeps s (ownerFinishBlock t a b c d) :=
    by
  unfold ownerFinishBlock
  repeat' first
    | (with_reducible first | exact h | assumption | apply keeps_modPhase | apply keeps_dropOwned)
    | (with_reducible first | apply keeps_ownBlock | apply keeps_spAnchors | apply keeps_pinnedAnchor)
    | (with_reducible first | apply keeps_ownedLps | apply keeps_observe | apply keeps_finishBlock)
    | (with_reducible first | apply keeps_countSubst | apply Keeps.ite | apply Keeps.ite1 | intro _)
    | simp -zeta -beta -eta -iota -proj only [↓keeps_mk] | extract_lets | split

theorem keeps_gmeRaggedRun {s t : State} (h : Keeps s t) (a) (b) (c) : Keeps s (gmeRaggedRun a t b c) := by
  unfold gmeRaggedRun
  repeat' first
    | (with_reducible first | exact h | assumption | apply keeps_gmeList | apply keeps_gmeFail)
    | (with_reducible first | apply keeps_readRows | apply keeps_gmeWrite | apply Keeps.ite)

theorem keeps_writeFlat {s t : State} (h : Keeps s t) (a) (b) (c) (d) (e) : Keeps s (writeFlat t a b c d e) := by
  unfold writeFlat
  repeat' first
    | (with_reducible first | exact h | assumption | apply keeps_gmeWrite)

theorem keeps_readPairs {s t : State} (h : Keeps s t) (a) (b) (c) : Keeps s (readPairs t a b c).1 := by
  unfold readPairs
  repeat' first
    | (with_reducible first | exact h | assumption | apply keeps_gmeList)

theorem keeps_writePairs {s t : State} (h : Keeps s t) (a) (b) (c) (d) : Keeps s (writePairs t a b c d) := by
  unfold writePairs
  repeat' first
    | (with_reducible first | exact h | assumption | apply keeps_writeFlat)

theorem keeps_gmeSortRun {s t : State} (h : Keeps s t) (a) (b) (c) : Keeps s (gmeSortRun a t b c) := by
  unfold gmeSortRun
  repeat' first
    | (with_reducible first | exact h | assumption | apply keeps_readPairs | apply keeps_writePairs)

theorem keeps_gmeMergeRun {s t : State} (h : Keeps s t) (a) (b) (c) : Keeps s (gmeMergeRun a t b c) := by
  unfold gmeMergeRun
  repeat' first
    | (with_reducible first | exact h | assumption | apply keeps_readPairs | apply keeps_gmeList)
    | (with_reducible first | apply keeps_gmeFail | apply keeps_writePairs | apply Keeps.ite)

theorem keeps_gmeTopkRun {s t : State} (h : Keeps s t) (a) (b) (c) : Keeps s (gmeTopkRun a t b c) := by
  unfold gmeTopkRun
  repeat' first
    | (with_reducible first | exact h | assumption | apply keeps_readRows | apply keeps_gmeWrite)

theorem keeps_ringWriteDropped {s t : State} (h : Keeps s t) : Keeps s (ringWriteDropped t) := by
  unfold ringWriteDropped
  repeat' first
    | (with_reducible first | exact h | assumption | apply keeps_countDropped | apply keeps_cntAdd)

theorem keeps_putEvent {s t : State} (h : Keeps s t) (a) (b) (c) (d) : Keeps s (putEvent t a b c d) := by
  unfold putEvent
  repeat' first
    | (with_reducible first | exact h | assumption | apply keeps_cntAdd | apply keeps_setRing)
    | (with_reducible first | apply keeps_putEntry | apply Keeps.ite | apply Keeps.ite1 | intro _)
    | simp -zeta -beta -eta -iota -proj only [↓keeps_mk]

theorem keeps_hqeResume {s t : State} (h : Keeps s t) : Keeps s (hqeResume t) := by
  unfold hqeResume
  repeat' first
    | (with_reducible first | exact h | assumption | apply keeps_putEvent | apply keeps_drainBuf)
    | (with_reducible first | apply Keeps.ite | apply Keeps.ite1 | (apply Keeps.foldl; intro _ _ _) | intro _)
    | simp -zeta -beta -eta -iota -proj only [↓keeps_mk]

theorem keeps_scanWorld {s t : State} (h : Keeps s t) (a) : Keeps s (scanWorld t a) := by
  unfold scanWorld
  repeat' first
    | (with_reducible first | exact h | assumption | apply keeps_hostPut | apply Keeps.ite | apply Keeps.ite1)
    | (with_reducible first | (apply Keeps.foldl; intro _ _ _) | intro _)
    | simp -zeta -beta -eta -iota -proj only [↓keeps_mk] | extract_lets | split

theorem keeps_hqeScanOnce {s t : State} (h : Keeps s t) : Keeps s (hqeScanOnce t) := by
  unfold hqeScanOnce
  repeat' first
    | (with_reducible first | exact h | assumption | apply keeps_cntAdd | apply keeps_scanEnd)
    | (with_reducible first | apply keeps_scanWorld | apply Keeps.ite | apply Keeps.ite1 | intro _)
    | simp -zeta -beta -eta -iota -proj only [↓keeps_mk]

theorem keeps_takeGrant {s t : State} (h : Keeps s t) (a) : Keeps s (takeGrant t a) := by
  unfold takeGrant
  repeat' first
    | (with_reducible first | exact h | assumption | apply Keeps.ite | apply Keeps.ite1 | intro _)
    | simp -zeta -beta -eta -iota -proj only [↓keeps_mk] | extract_lets

theorem keeps_fetchFrom {s t : State} (h : Keeps s t) (a) : Keeps s (fetchFrom t a) := by
  unfold fetchFrom
  repeat' first
    | (with_reducible first | exact h | assumption | apply keeps_hostPut)

theorem keeps_issueNext {s t : State} (h : Keeps s t) : Keeps s (issueNext t) := by
  unfold issueNext
  repeat' first
    | (with_reducible first | exact h | assumption | apply keeps_setRing | apply keeps_complete)
    | (with_reducible first | apply Keeps.ite | apply Keeps.ite1 | intro _)
    | simp -zeta -beta -eta -iota -proj only [↓keeps_mk] | extract_lets | split

theorem keeps_ringOff {s t : State} (h : Keeps s t) (a) : Keeps s (ringOff t a) := by
  unfold ringOff
  repeat' first
    | (with_reducible first | exact h | assumption | apply keeps_setRing)

theorem keeps_ringCfgWrite {s t : State} (h : Keeps s t) (a) (b) : Keeps s (ringCfgWrite t a b) := by
  unfold ringCfgWrite
  repeat' first
    | (with_reducible first | exact h | assumption | apply keeps_ringWriteDropped | apply keeps_wr)
    | (with_reducible first | apply keeps_ringOff | apply keeps_setRing | apply keeps_ringError)
    | (with_reducible first | apply Keeps.ite)

theorem keeps_sendGrants {s t : State} (h : Keeps s t) (a) : Keeps s (sendGrants t a) := by
  unfold sendGrants
  repeat' first
    | (with_reducible first | exact h | assumption | apply keeps_refill | apply keeps_setLink | apply Keeps.ite)

theorem keeps_takeAck {s t : State} (h : Keeps s t) (a) (b) : Keeps s (takeAck t a b) := by
  unfold takeAck
  repeat' first
    | (with_reducible first | exact h | assumption | apply keeps_pumpAll | apply keeps_setLink)

theorem keeps_replayAll {s t : State} (h : Keeps s t) (a) : Keeps s (replayAll t a) := by
  unfold replayAll
  repeat' first
    | (with_reducible first | exact h | assumption | apply keeps_setLink | apply keeps_linkCount)
    | (with_reducible first | apply keeps_rasBump | apply keeps_flitOut | apply Keeps.ite | apply Keeps.ite1)
    | (with_reducible first | (apply Keeps.foldl; intro _ _ _))

theorem keeps_serdesTakes {s t : State} (h : Keeps s t) (a) : Keeps s (serdesTakes t a) := by
  unfold serdesTakes
  repeat' first
    | (with_reducible first | exact h | assumption | apply keeps_modPlat)

theorem keeps_enterRetrain {s t : State} (h : Keeps s t) (a) (b) : Keeps s (enterRetrain t a b) := by
  unfold enterRetrain
  repeat' first
    | (with_reducible first | exact h | assumption | apply keeps_setLink | apply keeps_serdesTakes)

theorem keeps_discardFlit {s t : State} (h : Keeps s t) (a) : Keeps s (discardFlit t a) := by
  unfold discardFlit
  repeat' first
    | (with_reducible first | exact h | assumption | apply keeps_linkCount | apply keeps_flitOut)
    | (with_reducible first | apply keeps_setLink | apply Keeps.ite)

theorem keeps_takePayload {s t : State} (h : Keeps s t) (a) (b) : Keeps s (takePayload t a b) := by
  unfold takePayload
  repeat' first
    | (with_reducible first | exact h | assumption | apply keeps_setLink | apply keeps_rasBump)
    | (with_reducible first | apply keeps_cntAdd | apply Keeps.ite)

theorem keeps_receiveFlit {s t : State} (h : Keeps s t) (a) (b) : Keeps s (receiveFlit t a b) := by
  unfold receiveFlit
  repeat' first
    | (with_reducible first | exact h | assumption | apply keeps_discardFlit | apply keeps_takeAck)
    | (with_reducible first | apply keeps_replayAll | apply keeps_setLink | apply keeps_linkCount)
    | (with_reducible first | apply keeps_takePayload | apply keeps_pumpAll | apply Keeps.ite)
    | (with_reducible first | apply Keeps.ite1 | intro _)
    | simp -zeta -beta -eta -iota -proj only [↓keeps_mk] | extract_lets | split

theorem keeps_sendAck {s t : State} (h : Keeps s t) (a) : Keeps s (sendAck t a) := by
  unfold sendAck
  repeat' first
    | (with_reducible first | exact h | assumption | apply keeps_sendGrants | apply keeps_flitOut | apply Keeps.ite)

theorem keeps_linkUp {s t : State} (h : Keeps s t) (a) (b) (c) (d) : Keeps s (linkUp t a b c d) := by
  unfold linkUp
  repeat' first
    | (with_reducible first | exact h | assumption | apply keeps_setLink | apply keeps_pumpAll)
    | (with_reducible first | apply keeps_sendGrants | apply keeps_replayAll | apply keeps_wrf)
    | (with_reducible first | apply keeps_hqeResume | apply Keeps.ite | apply Keeps.ite1 | intro _)
    | simp -zeta -beta -eta -iota -proj only [↓keeps_mk] | extract_lets | split

theorem keeps_signalDetect {s t : State} (h : Keeps s t) (a) (b) : Keeps s (signalDetect t a b) := by
  unfold signalDetect
  repeat' first
    | (with_reducible first | exact h | assumption | apply keeps_wireWake | apply keeps_setLink)
    | (with_reducible first | apply keeps_serdesTakes | apply Keeps.ite)

theorem keeps_trainDone {s t : State} (h : Keeps s t) (a) (b) : Keeps s (trainDone t a b) := by
  unfold trainDone
  repeat' first
    | (with_reducible first | exact h | assumption | apply keeps_linkUp | apply Keeps.ite | apply Keeps.ite1)
    | (with_reducible first | intro _)
    | simp -zeta -beta -eta -iota -proj only [↓keeps_mk] | extract_lets | split

theorem keeps_trainTimeout {s t : State} (h : Keeps s t) (a) : Keeps s (trainTimeout t a) := by
  unfold trainTimeout
  repeat' first
    | (with_reducible first | exact h | assumption | apply keeps_setLink | apply Keeps.ite)

theorem keeps_linkAnew {s t : State} (h : Keeps s t) (a) (b) : Keeps s (linkAnew t a b) := by
  unfold linkAnew
  repeat' first
    | (with_reducible first | exact h | assumption | apply keeps_setLink)

theorem keeps_portEnable {s t : State} (h : Keeps s t) (a) : Keeps s (portEnable t a) := by
  unfold portEnable
  repeat' first
    | (with_reducible first | exact h | assumption | apply keeps_spreadHold | apply keeps_setLink | apply Keeps.ite)

theorem keeps_leaveActive {s t : State} (h : Keeps s t) (a) (b) : Keeps s (leaveActive t a b) := by
  unfold leaveActive
  repeat' first
    | (with_reducible first | exact h | assumption | apply keeps_enterRetrain | apply keeps_spreadHold)
    | (with_reducible first | apply Keeps.ite | apply Keeps.ite1 | intro _)
    | simp -zeta -beta -eta -iota -proj only [↓keeps_mk] | extract_lets | split

theorem keeps_retrainEntry {s t : State} (h : Keeps s t) (a) (b) : Keeps s (retrainEntry t a b) := by
  unfold retrainEntry
  repeat' first
    | (with_reducible first | exact h | assumption | apply keeps_leaveActive | apply Keeps.ite)
    | (with_reducible first | apply Keeps.ite1 | intro _)
    | simp -zeta -beta -eta -iota -proj only [↓keeps_mk] | extract_lets | split

theorem keeps_retrainDone {s t : State} (h : Keeps s t) (a) (b) : Keeps s (retrainDone t a b) := by
  unfold retrainDone
  repeat' first
    | (with_reducible first | exact h | assumption | apply keeps_linkUp | apply Keeps.ite | apply Keeps.ite1)
    | (with_reducible first | intro _)
    | simp -zeta -beta -eta -iota -proj only [↓keeps_mk] | extract_lets | split

theorem keeps_abortTransition {s t : State} (h : Keeps s t) (a) : Keeps s (abortTransition t a) := by
  unfold abortTransition
  repeat' first
    | (with_reducible first | exact h | assumption | apply keeps_completeInfo | apply Keeps.ite)
    | (with_reducible first | apply Keeps.ite1 | intro _)
    | simp -zeta -beta -eta -iota -proj only [↓keeps_mk] | extract_lets | split

theorem keeps_retrainTimeout {s t : State} (h : Keeps s t) (a) : Keeps s (retrainTimeout t a) := by
  unfold retrainTimeout
  repeat' first
    | (with_reducible first | exact h | assumption | apply keeps_setLink | apply keeps_linkUp)
    | (with_reducible first | apply keeps_abortTransition | apply Keeps.ite | apply Keeps.ite1 | intro _)
    | simp -zeta -beta -eta -iota -proj only [↓keeps_mk] | extract_lets | split

theorem keeps_takeNak {s t : State} (h : Keeps s t) (a) (b) : Keeps s (takeNak t a b) := by
  unfold takeNak
  repeat' first
    | (with_reducible first | exact h | assumption | apply keeps_replayAll | apply keeps_takeAck | apply Keeps.ite)

theorem keeps_replayTimeout {s t : State} (h : Keeps s t) (a) : Keeps s (replayTimeout t a) := by
  unfold replayTimeout
  repeat' first
    | (with_reducible first | exact h | assumption | apply keeps_replayAll | apply Keeps.ite)

theorem keeps_packetLost {s t : State} (h : Keeps s t) (a) (b) : Keeps s (packetLost a t b) := by
  unfold packetLost
  repeat' first
    | (with_reducible first | exact h | assumption | apply keeps_dieEvent | apply keeps_qxfErrSet)
    | (with_reducible first | apply keeps_cntAdd | apply Keeps.ite)

theorem keeps_scrubTime {s t : State} (h : Keeps s t) (a) (b) (c) (d) (e) (f) : Keeps s (scrubTime t a b c d e f) :=
    by
  unfold scrubTime
  repeat' first
    | (with_reducible first | exact h | assumption | apply keeps_wrf | apply Keeps.ite | apply Keeps.ite1 | intro _)
    | simp -zeta -beta -eta -iota -proj only [↓keeps_mk]

theorem keeps_trainingTakes {s t : State} (h : Keeps s t) (a) : Keeps s (trainingTakes t a) := by
  unfold trainingTakes
  repeat' first
    | (with_reducible first | exact h | assumption | apply keeps_modPlat)

theorem keeps_chanTrains {s t : State} (h : Keeps s t) (a) : Keeps s (chanTrains t a) := by
  unfold chanTrains
  repeat' first
    | (with_reducible first | exact h | assumption | apply keeps_trainingTakes | apply keeps_wrf)

theorem keeps_retrainStart {s t : State} (h : Keeps s t) (a) : Keeps s (retrainStart t a).1 := by
  unfold retrainStart
  repeat' first
    | (with_reducible first | exact h | assumption | apply keeps_countDropped | apply keeps_chanTrains)
    | (with_reducible first | apply Keeps.ite | apply Keeps.ite1)

theorem keeps_retrainGo {s t : State} (h : Keeps s t) : Keeps s (retrainGo t) := by
  unfold retrainGo
  repeat' first
    | (with_reducible first | exact h | assumption | apply keeps_retrainStart | apply keeps_modPlat)
    | (with_reducible first | apply keeps_wrf | apply Keeps.ite)

theorem keeps_retrainEnd {s t : State} (h : Keeps s t) (a) : Keeps s (retrainEnd t a) := by
  unfold retrainEnd
  repeat' first
    | (with_reducible first | exact h | assumption | apply keeps_wrf | apply keeps_modPlat)

theorem keeps_trainReset {s t : State} (h : Keeps s t) (a) : Keeps s (trainReset t a) := by
  unfold trainReset
  repeat' first
    | (with_reducible first | exact h | assumption | apply keeps_wrf | apply keeps_retrainEnd | apply Keeps.ite)

theorem keeps_rateTrain {s t : State} (h : Keeps s t) (a) : Keeps s (rateTrain t a) := by
  unfold rateTrain
  repeat' first
    | (with_reducible first | exact h | assumption | apply keeps_chanTrains | apply Keeps.ite)
    | (with_reducible first | apply Keeps.ite1 | (apply Keeps.foldl; intro _ _ _))

theorem keeps_evacCheck {s t : State} (h : Keeps s t) (a) : Keeps s (evacCheck t a) := by
  unfold evacCheck
  repeat' first
    | (with_reducible first | exact h | assumption | apply keeps_wr | apply keeps_modPlat | apply Keeps.ite)

theorem keeps_evacGo {s t : State} (h : Keeps s t) : Keeps s (evacGo t) := by
  unfold evacGo
  repeat' first
    | (with_reducible first | exact h | assumption | apply keeps_wr | apply keeps_evacCheck)
    | (with_reducible first | apply keeps_modPlat | apply Keeps.ite | apply Keeps.ite1 | intro _)
    | simp -zeta -beta -eta -iota -proj only [↓keeps_mk]

theorem keeps_evacWrite {s t : State} (h : Keeps s t) (a) : Keeps s (evacWrite t a) := by
  unfold evacWrite
  repeat' first
    | (with_reducible first | exact h | assumption | apply keeps_wr | apply keeps_countDropped)
    | (with_reducible first | apply keeps_evacGo | apply Keeps.ite)

theorem keeps_moveWrites {s t : State} (h : Keeps s t) (a) (b) (c) (d) : Keeps s (moveWrites t a b c d) := by
  unfold moveWrites
  repeat' first
    | (with_reducible first | exact h | assumption | apply keeps_setMem | apply Keeps.ite | apply Keeps.ite1)
    | (with_reducible first | intro _)
    | simp -zeta -beta -eta -iota -proj only [↓keeps_mk] | extract_lets

theorem keeps_moveGranule {s t : State} (h : Keeps s t) (a) : Keeps s (moveGranule t a) := by
  unfold moveGranule
  repeat' first
    | (with_reducible first | exact h | assumption | apply keeps_eccReadAll | apply keeps_evacCheck)
    | (with_reducible first | apply keeps_moveWrites | apply Keeps.ite | apply Keeps.ite1 | intro _)
    | simp -zeta -beta -eta -iota -proj only [↓keeps_mk]

theorem keeps_evacAbort {s t : State} (h : Keeps s t) : Keeps s (evacAbort t) := by
  unfold evacAbort
  repeat' first
    | (with_reducible first | exact h | assumption | apply keeps_modPlat | apply keeps_wr | apply Keeps.ite)

theorem keeps_accLose {s t : State} (h : Keeps s t) (a) (b) : Keeps s (accLose a b t) := by
  revert h
  fun_induction accLose a b t
  all_goals intro h
  all_goals repeat' first
    | (with_reducible first | exact h | assumption | apply keeps_drawFree | apply keeps_accSet)
    | (with_reducible first | apply Keeps.ite | apply Keeps.ite1 | intro _ | apply_assumption)

theorem keeps_gateTile {s t : State} (h : Keeps s t) (a) (b) : Keeps s (gateTile t a b) := by
  unfold gateTile
  repeat' first
    | (with_reducible first | exact h | assumption | apply keeps_bankSet | apply keeps_accLose)

theorem keeps_ungateTiles {s t : State} (h : Keeps s t) (a) : Keeps s (ungateTiles t a) := by
  unfold ungateTiles
  repeat' first
    | (with_reducible first | exact h | assumption | apply keeps_ungateTile | apply Keeps.ite)
    | (with_reducible first | apply Keeps.ite1 | (apply Keeps.foldl; intro _ _ _))

theorem keeps_meshErrSet {s t : State} (h : Keeps s t) (a) (b) (c) : Keeps s (meshErrSet t a b c) := by
  unfold meshErrSet
  repeat' first
    | (with_reducible first | exact h | assumption | apply keeps_meshErrAt)

theorem keeps_setBridge {s t : State} (h : Keeps s t) (a) (b) : Keeps s (setBridge t a b) := by
  unfold setBridge
  repeat' first
    | (with_reducible first | exact h | assumption | apply Keeps.ite | apply Keeps.ite1 | intro _)
    | simp -zeta -beta -eta -iota -proj only [↓keeps_mk]

theorem keeps_bridgeFlit {s t : State} (h : Keeps s t) (a) (b) (c) (d) : Keeps s (bridgeFlit t a b c d).1 := by
  unfold bridgeFlit
  repeat' first
    | (with_reducible first | exact h | assumption | apply keeps_injected | apply keeps_dieEvent)
    | (with_reducible first | apply keeps_setBridge | apply Keeps.ite | apply Keeps.ite1)

theorem keeps_bridgeSend {s t : State} (h : Keeps s t) (a) (b) (c) : Keeps s (bridgeSend a b c t) := by
  revert h
  fun_induction bridgeSend a b c t
  all_goals intro h
  all_goals repeat' first
    | (with_reducible first | exact h | assumption | apply keeps_bridgeFlit | apply keeps_setBridge)
    | (with_reducible first | apply Keeps.ite | apply Keeps.ite1 | intro _ | apply_assumption)

theorem keeps_bridgePacket {s t : State} (h : Keeps s t) (a) (b) (c) : Keeps s (bridgePacket a b c t) := by
  unfold bridgePacket
  repeat' first
    | (with_reducible first | exact h | assumption | apply keeps_dieEvent | apply keeps_setBridge)
    | (with_reducible first | apply keeps_bridgeSend | apply Keeps.ite | apply Keeps.ite1 | intro _)
    | simp -zeta -beta -eta -iota -proj only [↓keeps_mk] | extract_lets | split

theorem keeps_passRouters {s t : State} (h : Keeps s t) (a) (b) (c) (d) : Keeps s (passRouters a b c d t) := by
  revert h
  fun_induction passRouters a b c d t
  all_goals intro h
  all_goals repeat' first
    | (with_reducible first | exact h | assumption | apply keeps_cntAdd | apply keeps_bridgePacket)
    | (with_reducible first | apply Keeps.ite | apply Keeps.ite1 | intro _ | apply_assumption)
    | simp -zeta -beta -eta -iota -proj only [↓keeps_mk] | extract_lets | split | dsimp +zetaDelta only

theorem keeps_meshDiscard {s t : State} (h : Keeps s t) (a) (b) (c) (d) (e) : Keeps s (meshDiscard t a b c d e) := by
  unfold meshDiscard
  repeat' first
    | (with_reducible first | exact h | assumption | apply keeps_meshLost)

theorem keeps_redCombine {s t : State} (h : Keeps s t) (a) (b) (c) (d) : Keeps s (redCombine t a b c d) := by
  unfold redCombine
  repeat' first
    | (with_reducible first | exact h | assumption | apply keeps_cntAdd | apply keeps_meshErrSet)
    | (with_reducible first | apply keeps_tileEvent | apply keeps_noteOvf | apply Keeps.ite | apply Keeps.ite1)
    | (with_reducible first | (apply Keeps.foldl; intro _ _ _) | intro _)
    | simp -zeta -beta -eta -iota -proj only [↓keeps_mk] | extract_lets | split

theorem keeps_meshDeliver {s t : State} (h : Keeps s t) (a) (b) : Keeps s (meshDeliver t a b) := by
  unfold meshDeliver
  repeat' first
    | (with_reducible first | exact h | assumption | apply keeps_devWrite | apply keeps_emit | apply Keeps.ite)

theorem keeps_meshTravel {s t : State} (h : Keeps s t) (a) (b) (c) : Keeps s (meshTravel t a b c) := by
  unfold meshTravel
  repeat' first
    | (with_reducible first | exact h | assumption | apply keeps_meshDiscard | apply keeps_passRouters)
    | (with_reducible first | apply keeps_redCombine | apply keeps_meshDeliver | apply Keeps.ite)
    | (with_reducible first | apply Keeps.ite1 | intro _)
    | simp -zeta -beta -eta -iota -proj only [↓keeps_mk] | extract_lets | split

theorem keeps_mcSpread {s t : State} (h : Keeps s t) (a) (b) : Keeps s (mcSpread t a b).1 := by
  unfold mcSpread
  repeat' first
    | (with_reducible first | exact h | assumption | apply keeps_passRouters | apply keeps_meshDiscard)
    | (with_reducible first | apply Keeps.ite | apply Keeps.ite1 | (apply Keeps.foldl; intro _ _ _))

theorem keeps_mcDeliver {s t : State} (h : Keeps s t) (a) (b) : Keeps s (mcDeliver t a b) := by
  unfold mcDeliver
  repeat' first
    | (with_reducible first | exact h | assumption | apply keeps_devWrite | apply Keeps.ite | apply Keeps.ite1)
    | (with_reducible first | (apply Keeps.foldl; intro _ _ _))

theorem keeps_mcHolds {s t : State} (h : Keeps s t) (a) (b) : Keeps s (mcHolds t a b).1 := by
  unfold mcHolds
  repeat' first
    | (with_reducible first | exact h | assumption | apply keeps_drawFree | apply Keeps.ite | apply Keeps.ite1)

theorem keeps_mcStart {s t : State} (h : Keeps s t) (a) (b) : Keeps s (mcStart t a b) := by
  unfold mcStart
  repeat' first
    | (with_reducible first | exact h | assumption | apply keeps_mcSpread | apply keeps_mcHolds)
    | (with_reducible first | apply keeps_mcDeliver | apply Keeps.ite | apply Keeps.ite1 | intro _)
    | simp -zeta -beta -eta -iota -proj only [↓keeps_mk]

theorem keeps_mcResend {s t : State} (h : Keeps s t) (a) : Keeps s (mcResend t a) := by
  unfold mcResend
  repeat' first
    | (with_reducible first | exact h | assumption | apply keeps_mcStart | apply keeps_cntAdd)

theorem keeps_bridgeReplay {s t : State} (h : Keeps s t) (a) : Keeps s (bridgeReplay t a) := by
  unfold bridgeReplay
  repeat' first
    | (with_reducible first | exact h | assumption | apply keeps_bridgeFlit | apply keeps_emit)
    | (with_reducible first | apply Keeps.ite | apply Keeps.ite1 | (apply Keeps.foldl; intro _ _ _) | intro _)
    | simp -zeta -beta -eta -iota -proj only [↓keeps_mk] | extract_lets | split

theorem keeps_jobRead {s t : State} (h : Keeps s t) (a) (b) (c) (d) (e) : Keeps s (jobRead t a b c d e).1 := by
  unfold jobRead
  repeat' first
    | (with_reducible first | exact h | assumption | apply keeps_devRead | apply Keeps.ite | apply Keeps.ite1)

theorem keeps_jobWrite {s t : State} (h : Keeps s t) (a) (b) (c) (d) (e) : Keeps s (jobWrite t a b c d e) := by
  unfold jobWrite
  repeat' first
    | (with_reducible first | exact h | assumption | apply keeps_devWrite | apply Keeps.ite)

theorem keeps_jobGran {s t : State} (h : Keeps s t) (a) (b) (c) (d) (e) : Keeps s (jobGran t a b c d e).1 := by
  unfold jobGran
  repeat' first
    | (with_reducible first | exact h | assumption | apply keeps_jobRead | apply keeps_jobWrite)

theorem keeps_jobLoop {s t : State} (h : Keeps s t) (a) (b) (c) (d) (e) (f) : Keeps s (jobLoop a b c d t e f).1 := by
  revert h
  fun_induction jobLoop a b c d t e f
  all_goals intro h
  all_goals repeat' first
    | (with_reducible first | exact h | assumption | apply keeps_jobRead | apply keeps_countDenied)
    | (with_reducible first | apply keeps_jobGran | apply Keeps.ite | apply Keeps.ite1)
    | (with_reducible first | (apply Keeps.foldl; intro _ _ _) | intro _ | apply_assumption)

theorem keeps_jobAdvance {s t : State} (h : Keeps s t) (a) : Keeps s (jobAdvance t a) := by
  unfold jobAdvance
  repeat' first
    | (with_reducible first | exact h | assumption | apply keeps_wr | apply Keeps.ite)

theorem keeps_jobDo {s t : State} (h : Keeps s t) (a) (b) : Keeps s (jobDo t a b) := by
  unfold jobDo
  repeat' first
    | (with_reducible first | exact h | assumption | apply keeps_drawFree | apply keeps_jobLoop)
    | (with_reducible first | apply keeps_jobAdvance | apply keeps_wr | apply Keeps.ite | apply Keeps.ite1)
    | (with_reducible first | intro _)
    | simp -zeta -beta -eta -iota -proj only [↓keeps_mk] | extract_lets

theorem keeps_nmuRow {s t : State} (h : Keeps s t) (a) : Keeps s (nmuRow t a) := by
  unfold nmuRow
  repeat' first
    | (with_reducible first | exact h | assumption | apply keeps_jobDo | apply keeps_devRead | apply Keeps.ite)
    | (with_reducible first | apply Keeps.ite1 | intro _)
    | simp -zeta -beta -eta -iota -proj only [↓keeps_mk] | extract_lets | split

theorem keeps_nmuEnd {s t : State} (h : Keeps s t) (a) : Keeps s (nmuEnd t a) := by
  unfold nmuEnd
  repeat' first
    | (with_reducible first | exact h | assumption | apply keeps_wr | apply Keeps.ite | apply Keeps.ite1 | intro _)
    | simp -zeta -beta -eta -iota -proj only [↓keeps_mk]

theorem keeps_nmuGo {s t : State} (h : Keeps s t) (a) : Keeps s (nmuGo t a) := by
  unfold nmuGo
  repeat' first
    | (with_reducible first | exact h | assumption | apply keeps_countDropped | apply keeps_wr)
    | (with_reducible first | apply Keeps.ite | apply Keeps.ite1 | intro _)
    | simp -zeta -beta -eta -iota -proj only [↓keeps_mk] | extract_lets

theorem keeps_setShadow {s t : State} (h : Keeps s t) (a) (b) (c) (d) (e) : Keeps s (setShadow t a b c d e) := by
  unfold setShadow
  repeat' first
    | (with_reducible first | exact h | assumption | apply Keeps.ite | apply Keeps.ite1 | intro _)
    | simp -zeta -beta -eta -iota -proj only [↓keeps_mk] | extract_lets | split

theorem keeps_setPointOf {s t : State} (h : Keeps s t) (a) (b) : Keeps s (setPointOf t a b) := by
  unfold setPointOf
  repeat' first
    | (with_reducible first | exact h | assumption | apply keeps_wrf)

theorem keeps_refreshPoints {s t : State} (h : Keeps s t) : Keeps s (refreshPoints t) := by
  unfold refreshPoints
  repeat' first
    | (with_reducible first | exact h | assumption | apply keeps_setPointOf | apply Keeps.ite)
    | (with_reducible first | apply Keeps.ite1 | (apply Keeps.foldl; intro _ _ _))

theorem keeps_sendResults {s t : State} (h : Keeps s t) (a) (b) (c) (d) (e) : Keeps s (sendResults a b c d e t).1 :=
    by
  induction e generalizing t with
  | nil => exact h
  | cons x xs ih =>
    rw [sendResults]
    have hk := fun m => keeps_sendMsg h m
    split
    · exact ih (Keeps.pair (by assumption) (hk _))
    · exact ih (Keeps.pair (by assumption) (hk _))

theorem keeps_setLastDelta {s t : State} (h : Keeps s t) (a) : Keeps s (setLastDelta t a) := by
  unfold setLastDelta
  repeat' first
    | (with_reducible first | exact h | assumption | apply keeps_wrf | apply Keeps.ite | apply Keeps.ite1)
    | (with_reducible first | (apply Keeps.foldl; intro _ _ _))

theorem keeps_failAtOnce {s t : State} (h : Keeps s t) (a) : Keeps s (failAtOnce t a) := by
  unfold failAtOnce
  repeat' first
    | (with_reducible first | exact h | assumption | apply keeps_sendResults | apply keeps_failPlan)
    | (with_reducible first | apply keeps_setLastDelta | apply Keeps.ite | apply Keeps.ite1 | intro _)
    | simp -zeta -beta -eta -iota -proj only [↓keeps_mk] | extract_lets | split

theorem keeps_switchRegions {s t : State} (h : Keeps s t) (a) : Keeps s (switchRegions t a) := by
  unfold switchRegions
  repeat' first
    | (with_reducible first | exact h | assumption | apply keeps_setRegion | apply Keeps.ite | apply Keeps.ite1)
    | (with_reducible first | (apply Keeps.foldl; intro _ _ _))

theorem keeps_noteStep {s t : State} (h : Keeps s t) (a) : Keeps s (noteStep t a) := by
  unfold noteStep
  repeat' first
    | (with_reducible first | exact h | assumption | apply Keeps.ite | apply Keeps.ite1 | intro _)
    | simp -zeta -beta -eta -iota -proj only [↓keeps_mk] | extract_lets

theorem keeps_lateAnswer {s t : State} (h : Keeps s t) (a) : Keeps s (lateAnswer t a) := by
  unfold lateAnswer
  repeat' first
    | (with_reducible first | exact h | assumption | apply keeps_applyAnswers | apply Keeps.ite)

theorem keeps_postQuestion {s t : State} (h : Keeps s t) (a) (b) : Keeps s (postQuestion t a b) := by
  unfold postQuestion
  repeat' first
    | (with_reducible first | exact h | assumption | apply keeps_countDropped | apply keeps_hostWrite)
    | (with_reducible first | apply keeps_setTkr | apply keeps_putCpl | apply Keeps.ite)

theorem keeps_commitEnd {s t : State} (h : Keeps s t) (a) : Keeps s (commitEnd t a) := by
  unfold commitEnd
  repeat' first
    | (with_reducible first | exact h | assumption | apply keeps_leavePlan | apply keeps_wr)
    | (with_reducible first | apply keeps_switchRegions | apply keeps_lateAnswer | apply keeps_hostWrite)
    | (with_reducible first | apply keeps_noteStep | apply keeps_completeInfo | apply keeps_postQuestion)
    | (with_reducible first | apply Keeps.ite | apply Keeps.ite1 | intro _)
    | simp -zeta -beta -eta -iota -proj only [↓keeps_mk] | extract_lets | split

theorem keeps_commitGo {s t : State} (h : Keeps s t) (a) : Keeps s (commitGo t a) := by
  unfold commitGo
  repeat' first
    | (with_reducible first | exact h | assumption | apply keeps_leavePlan | apply keeps_completeInfo)
    | (with_reducible first | apply keeps_modPlan | apply keeps_commitEnd | apply Keeps.ite | apply Keeps.ite1)
    | (with_reducible first | intro _)
    | simp -zeta -beta -eta -iota -proj only [↓keeps_mk] | extract_lets | split

theorem keeps_decideChecks {s t : State} (h : Keeps s t) (a) : Keeps s (decideChecks t a) := by
  unfold decideChecks
  repeat' first
    | (with_reducible first | exact h | assumption | apply keeps_setPlan | apply keeps_failPlan)
    | (with_reducible first | apply keeps_setLastDelta | apply keeps_modPlan | apply keeps_commitGo)
    | (with_reducible first | apply Keeps.ite | apply Keeps.ite1 | intro _)
    | simp -zeta -beta -eta -iota -proj only [↓keeps_mk] | extract_lets | split

theorem keeps_beginCheck {s t : State} (h : Keeps s t) (a) (b) : Keeps s (beginCheck t a b) := by
  unfold beginCheck
  repeat' first
    | (with_reducible first | exact h | assumption | apply keeps_failAtOnce | apply keeps_sendResults)
    | (with_reducible first | apply keeps_failPlan | apply keeps_modPlan | apply keeps_decideChecks)
    | (with_reducible first | apply Keeps.ite | apply Keeps.ite1 | intro _)
    | simp -zeta -beta -eta -iota -proj only [↓keeps_mk] | extract_lets | split

theorem keeps_abortAttempt {s t : State} (h : Keeps s t) (a) (b) : Keeps s (abortAttempt t a b) := by
  unfold abortAttempt
  repeat' first
    | (with_reducible first | exact h | assumption | apply keeps_failAtOnce | apply keeps_failPlan)
    | (with_reducible first | apply keeps_beginCheck | apply keeps_modPlan | apply keeps_dropEngines)
    | (with_reducible first | apply Keeps.ite | apply Keeps.ite1 | intro _)
    | simp -zeta -beta -eta -iota -proj only [↓keeps_mk] | extract_lets | split

theorem keeps_repairGranules {s t : State} (h : Keeps s t) (a) (b) : Keeps s (repairGranules t a b) := by
  unfold repairGranules
  repeat' first
    | (with_reducible first | exact h | assumption | apply keeps_modPlan | apply keeps_sendRead)
    | (with_reducible first | apply Keeps.ite | apply Keeps.ite1 | (apply Keeps.foldl; intro _ _ _) | intro _)
    | simp -zeta -beta -eta -iota -proj only [↓keeps_mk] | extract_lets | split

theorem keeps_attemptPins {s t : State} (h : Keeps s t) (a) (b) : Keeps s (attemptPins t a b) := by
  unfold attemptPins
  repeat' first
    | (with_reducible first | exact h | assumption | apply keeps_modPlan | apply keeps_pinsDrop)
    | (with_reducible first | apply Keeps.ite | apply Keeps.ite1 | intro _)
    | simp -zeta -beta -eta -iota -proj only [↓keeps_mk] | extract_lets | split

theorem keeps_takePin {s t : State} (h : Keeps s t) (a) (b) (c) (d) : Keeps s (takePin t a b c d) := by
  unfold takePin
  repeat' first
    | (with_reducible first | exact h | assumption | apply keeps_modPlan | apply keeps_pinAdd | apply Keeps.ite)
    | (with_reducible first | apply Keeps.ite1 | intro _)
    | simp -zeta -beta -eta -iota -proj only [↓keeps_mk] | extract_lets | split

theorem keeps_mbTag {s t : State} (h : Keeps s t) (a) (b) (c) (d) : Keeps s (mbTag t a b c d).1 := by
  unfold mbTag
  repeat' first
    | (with_reducible first | exact h | assumption | apply keeps_planRead)

theorem keeps_phasePins {s t : State} (h : Keeps s t) (a) (b) (c) : Keeps s (phasePins t a b c) := by
  unfold phasePins
  repeat' first
    | (with_reducible first | exact h | assumption | apply keeps_mbTag | apply keeps_takePin | apply Keeps.ite)
    | (with_reducible first | apply Keeps.ite1 | (apply Keeps.foldl; intro _ _ _) | intro _)
    | simp -zeta -beta -eta -iota -proj only [↓keeps_mk] | extract_lets | split

theorem keeps_freeUnstall {s t : State} (h : Keeps s t) (a) : Keeps s (freeUnstall t a) := by
  unfold freeUnstall
  repeat' first
    | (with_reducible first | exact h | assumption | apply keeps_setRegion)

theorem keeps_freeWrites {s t : State} (h : Keeps s t) (a) : Keeps s (freeWrites t a) := by
  unfold freeWrites
  repeat' first
    | (with_reducible first | exact h | assumption | apply keeps_setRegion | apply keeps_modPhase)
    | (with_reducible first | apply Keeps.ite | apply Keeps.ite1 | (apply Keeps.foldl; intro _ _ _))

theorem keeps_dropoutMask {s t : State} (h : Keeps s t) (a) (b) (c) (d) : Keeps s (dropoutMask t a b c d) := by
  unfold dropoutMask
  repeat' first
    | (with_reducible first | exact h | assumption | apply keeps_writeTens)

theorem keeps_streamAdvance {s t : State} (h : Keeps s t) (a) (b) : Keeps s (streamAdvance t a b) := by
  unfold streamAdvance
  repeat' first
    | (with_reducible first | exact h | assumption | apply keeps_wr)

theorem keeps_uniformFill {s t : State} (h : Keeps s t) (a) (b) (c) (d) (e) : Keeps s (uniformFill t a b c d e) := by
  unfold uniformFill
  repeat' first
    | (with_reducible first | exact h | assumption | apply keeps_writeTens | apply keeps_streamAdvance)
    | (with_reducible first | apply Keeps.ite)

theorem keeps_runRngs {s t : State} (h : Keeps s t) (a) (b) (c) : Keeps s (runRngs t a b c) := by
  unfold runRngs
  repeat' first
    | (with_reducible first | exact h | assumption | apply keeps_dropoutMask | apply keeps_uniformFill)
    | (with_reducible first | apply Keeps.ite | apply Keeps.ite1 | (apply Keeps.foldl; intro _ _ _))

theorem keeps_resetEnts {s t : State} (h : Keeps s t) (a) (b) : Keeps s (resetEnts t a b) := by
  unfold resetEnts
  repeat' first
    | (with_reducible first | exact h | assumption | apply keeps_modPlan)

theorem keeps_askPeers {s t : State} (h : Keeps s t) (a) (b) : Keeps s (askPeers t a b) := by
  unfold askPeers
  repeat' first
    | (with_reducible first | exact h | assumption | apply keeps_sentOr | apply keeps_askRuns | apply Keeps.ite)
    | (with_reducible first | apply Keeps.ite1 | (apply Keeps.foldl; intro _ _ _) | intro _)
    | simp -zeta -beta -eta -iota -proj only [↓keeps_mk] | extract_lets | split

theorem keeps_strayRecords {s t : State} (h : Keeps s t) (a) (b) : Keeps s (strayRecords t a b) := by
  unfold strayRecords
  repeat' first
    | (with_reducible first | exact h | assumption | apply keeps_drawFree | apply keeps_gmeErr)
    | (with_reducible first | apply keeps_dieEvent | apply keeps_modPhase | apply Keeps.ite | apply Keeps.ite1)
    | (with_reducible first | (apply Keeps.foldl; intro _ _ _))

theorem keeps_fencedPlaces {s t : State} (h : Keeps s t) (a) (b) : Keeps s (fencedPlaces t a b) := by
  unfold fencedPlaces
  repeat' first
    | (with_reducible first | exact h | assumption | apply keeps_fencedDrop | apply Keeps.ite)
    | (with_reducible first | apply Keeps.ite1 | (apply Keeps.foldl; intro _ _ _) | intro _)
    | simp -zeta -beta -eta -iota -proj only [↓keeps_mk] | extract_lets | split

theorem keeps_spillAll {s t : State} (h : Keeps s t) (a) : Keeps s (spillAll t a) := by
  unfold spillAll
  repeat' first
    | (with_reducible first | exact h | assumption | apply keeps_spillOut | apply Keeps.ite | apply Keeps.ite1)
    | (with_reducible first | (apply Keeps.foldl; intro _ _ _))

theorem keeps_phaseGo {s t : State} (h : Keeps s t) (a) : Keeps s (phaseGo t a) := by
  unfold phaseGo
  repeat' first
    | (with_reducible first | exact h | assumption | apply keeps_spillAll | apply keeps_strayRecords)
    | (with_reducible first | apply keeps_fencedPlaces | apply keeps_askPeers | apply keeps_runRngs)
    | (with_reducible first | apply keeps_resetEnts | apply keeps_takeUp | apply Keeps.ite | apply Keeps.ite1)
    | (with_reducible first | intro _)
    | simp -zeta -beta -eta -iota -proj only [↓keeps_mk] | extract_lets | split

theorem keeps_passMarkers {s t : State} (h : Keeps s t) : Keeps s (passMarkers t) := by
  unfold passMarkers
  repeat' first
    | (with_reducible first | exact h | assumption | apply Keeps.ite | apply Keeps.ite1 | intro _)
    | simp -zeta -beta -eta -iota -proj only [↓keeps_mk] | extract_lets | split

theorem keeps_phaseEnter {s t : State} (h : Keeps s t) (a) (b) : Keeps s (phaseEnter t a b) := by
  unfold phaseEnter
  repeat' first
    | (with_reducible first | exact h | assumption | apply keeps_applyMoment | apply keeps_ungateTiles)
    | (with_reducible first | apply keeps_passMarkers | apply keeps_modPlan | apply keeps_phaseGo)
    | (with_reducible first | apply keeps_freeWrites | apply keeps_phasePins | apply Keeps.ite)
    | (with_reducible first | apply Keeps.ite1 | intro _)
    | simp -zeta -beta -eta -iota -proj only [↓keeps_mk] | extract_lets | split | dsimp +zetaDelta only

theorem keeps_runPhaseCopy {s t : State} (h : Keeps s t) (a) (b) (c) : Keeps s (runPhaseCopy t a b c) := by
  unfold runPhaseCopy
  repeat' first
    | (with_reducible first | exact h | assumption | apply keeps_failPlan | apply keeps_copyMove)
    | (with_reducible first | apply keeps_ovWrite | apply Keeps.ite | apply Keeps.ite1 | intro _)

theorem keeps_runCopies {s t : State} (h : Keeps s t) (a) : Keeps s (runCopies t a) := by
  unfold runCopies
  repeat' first
    | (with_reducible first | exact h | assumption | apply keeps_runPhaseCopy | apply Keeps.ite)
    | (with_reducible first | apply Keeps.ite1 | (apply Keeps.foldl; intro _ _ _) | intro _)
    | simp -zeta -beta -eta -iota -proj only [↓keeps_mk] | extract_lets | split

theorem keeps_endPins {s t : State} (h : Keeps s t) (a) (b) (c) : Keeps s (endPins t a b c) := by
  unfold endPins
  repeat' first
    | (with_reducible first | exact h | assumption | apply keeps_modPlan | apply keeps_pinsDrop)
    | (with_reducible first | apply Keeps.ite | apply Keeps.ite1 | intro _)
    | simp -zeta -beta -eta -iota -proj only [↓keeps_mk] | extract_lets | split

theorem keeps_gateOne {s t : State} (h : Keeps s t) (a) (b) : Keeps s (gateOne a t b) := by
  unfold gateOne
  repeat' first
    | (with_reducible first | exact h | assumption | apply keeps_gateTile | apply Keeps.ite)

theorem keeps_gateStep {s t : State} (h : Keeps s t) (a) (b) : Keeps s (gateStep a t b) := by
  unfold gateStep
  repeat' first
    | (with_reducible first | exact h | assumption | apply keeps_gateOne | apply keeps_complete)
    | (with_reducible first | apply keeps_modIssued | apply Keeps.ite | apply Keeps.ite1)
    | (with_reducible first | (apply Keeps.foldl; intro _ _ _))

theorem keeps_applyGates {s t : State} (h : Keeps s t) : Keeps s (applyGates t) := by
  unfold applyGates
  repeat' first
    | (with_reducible first | exact h | assumption | apply keeps_gateStep | apply Keeps.ite | apply Keeps.ite1)
    | (with_reducible first | (apply Keeps.foldl; intro _ _ _))

theorem keeps_quarantine {s t : State} (h : Keeps s t) (a) : Keeps s (quarantine t a) := by
  unfold quarantine
  repeat' first
    | (with_reducible first | exact h | assumption | apply keeps_setFences | apply keeps_tileReset)
    | (with_reducible first | apply keeps_wr | apply Keeps.ite | apply Keeps.ite1)
    | (with_reducible first | (apply Keeps.foldl; intro _ _ _))

theorem keeps_testEnd {s t : State} (h : Keeps s t) (a) : Keeps s (testEnd t a) := by
  unfold testEnd
  repeat' first
    | (with_reducible first | exact h | assumption | apply keeps_complete | apply Keeps.ite)

theorem keeps_testAbort {s t : State} (h : Keeps s t) (a) : Keeps s (testAbort t a) := by
  unfold testAbort
  repeat' first
    | (with_reducible first | exact h | assumption | apply keeps_bankSet | apply keeps_wr | apply keeps_testEnd)
    | (with_reducible first | apply keeps_modIssued | apply Keeps.ite | apply Keeps.ite1 | intro _)
    | simp -zeta -beta -eta -iota -proj only [↓keeps_mk] | extract_lets | split

theorem keeps_dieResetNow {s t : State} (h : Keeps s t) (a) : Keeps s (dieResetNow t a) := by
  unfold dieResetNow
  repeat' first
    | (with_reducible first | exact h | assumption | apply keeps_quarantine | apply keeps_testAbort)
    | (with_reducible first | apply Keeps.ite | apply Keeps.ite1 | (apply Keeps.foldl; intro _ _ _) | intro _)
    | simp -zeta -beta -eta -iota -proj only [↓keeps_mk] | extract_lets

theorem keeps_applyDieResets {s t : State} (h : Keeps s t) : Keeps s (applyDieResets t) := by
  unfold applyDieResets
  repeat' first
    | (with_reducible first | exact h | assumption | apply keeps_dieResetNow | apply Keeps.ite)
    | (with_reducible first | apply Keeps.ite1 | (apply Keeps.foldl; intro _ _ _) | intro _)
    | simp -zeta -beta -eta -iota -proj only [↓keeps_mk]

theorem keeps_quarRow {s t : State} (h : Keeps s t) (a) (b) (c) (d) {e} (he : ∀ (t : State) (x0), Keeps s t → Keeps s
    (e t x0)) : Keeps s (quarRow t a b c d e) := by
  unfold quarRow
  repeat' first
    | (with_reducible first | exact h | assumption | apply keeps_complete | apply keeps_holdCmd)
    | (with_reducible first | apply keeps_unholdCmd | apply he | apply Keeps.ite | apply Keeps.ite1 | intro _)
    | simp -zeta -beta -eta -iota -proj only [↓keeps_mk] | extract_lets | split

theorem keeps_applyQuars {s t : State} (h : Keeps s t) : Keeps s (applyQuars t) := by
  unfold applyQuars
  repeat' first
    | (with_reducible first | exact h | assumption | apply keeps_quarRow | apply keeps_quarantine)
    | (with_reducible first | apply Keeps.ite | apply Keeps.ite1 | (apply Keeps.foldl; intro _ _ _) | intro _)

theorem keeps_atBoundary {s t : State} (h : Keeps s t) : Keeps s (atBoundary t) := by
  unfold atBoundary
  repeat' first
    | (with_reducible first | exact h | assumption | apply keeps_applyGates | apply keeps_applyDieResets)
    | (with_reducible first | apply keeps_applyQuars)

theorem keeps_phaseDone {s t : State} (h : Keeps s t) (a) (b) : Keeps s (phaseDone t a b) := by
  unfold phaseDone
  repeat' first
    | (with_reducible first | exact h | assumption | apply keeps_atBoundary | apply keeps_endPins)
    | (with_reducible first | apply keeps_modPlan | apply Keeps.ite | apply Keeps.ite1 | intro _)
    | simp -zeta -beta -eta -iota -proj only [↓keeps_mk] | extract_lets | split

theorem keeps_loadKernels {s t : State} (h : Keeps s t) (a) (b) (c) (d) (e) (f) : Keeps s (loadKernels a b c d e t
    f).1 := by
  revert h
  fun_induction loadKernels a b c d e t f
  all_goals intro h
  all_goals repeat' first
    | (with_reducible first | exact h | assumption | apply keeps_planRead | apply Keeps.ite | apply Keeps.ite1)
    | (with_reducible first | intro _ | apply_assumption)

theorem keeps_readPlace {s t : State} (h : Keeps s t) (a) (b) (c) (d) (e) : Keeps s (readPlace t a b c d e).1 := by
  unfold readPlace
  repeat' first
    | (with_reducible first | exact h | assumption | apply keeps_planRead | apply Keeps.ite | apply Keeps.ite1)

theorem keeps_readLists {s t : State} (h : Keeps s t) (a) (b) (c) (d) : Keeps s (readLists t a b c d).1 := by
  unfold readLists
  repeat' first
    | (with_reducible first | exact h | assumption | apply keeps_readRecords | apply keeps_loadKernels)
    | (with_reducible first | apply keeps_readPlace | apply Keeps.ite | apply Keeps.ite1 | intro _)
    | simp -zeta -beta -eta -iota -proj only [↓keeps_mk] | extract_lets | split | dsimp +zetaDelta only

theorem keeps_loadPhase {s t : State} (h : Keeps s t) (a) (b) (c) : Keeps s (loadPhase t a b c).1 := by
  unfold loadPhase
  repeat' first
    | (with_reducible first | exact h | assumption | apply keeps_phaseRec | apply keeps_planRead)
    | (with_reducible first | apply keeps_mbTag | apply keeps_readLists | apply Keeps.ite | apply Keeps.ite1)

theorem keeps_charcoalTurn {s t : State} (h : Keeps s t) (a) : Keeps s (charcoalTurn t a) := by
  unfold charcoalTurn
  repeat' first
    | (with_reducible first | exact h | assumption | apply keeps_wakeWatched | apply keeps_wakeWhite)
    | (with_reducible first | apply Keeps.ite | apply Keeps.ite1 | intro _)
    | simp -zeta -beta -eta -iota -proj only [↓keeps_mk] | extract_lets | split

theorem keeps_enterCharcoal {s t : State} (h : Keeps s t) : Keeps s (enterCharcoal t) := by
  unfold enterCharcoal
  repeat' first
    | (with_reducible first | exact h | assumption | apply keeps_wrf | apply keeps_charcoalTurn)

theorem keeps_linksAnew {s t : State} (h : Keeps s t) (a) : Keeps s (linksAnew t a) := by
  unfold linksAnew
  repeat' first
    | (with_reducible first | exact h | assumption | apply keeps_linkAnew | apply Keeps.ite | apply Keeps.ite1)
    | (with_reducible first | (apply Keeps.foldl; intro _ _ _))

theorem keeps_linksOff {s t : State} (h : Keeps s t) : Keeps s (linksOff t) := by
  unfold linksOff
  repeat' first
    | (with_reducible first | exact h | assumption | apply keeps_linksAnew)

theorem keeps_newNonce {s t : State} (h : Keeps s t) (a) : Keeps s (newNonce a t) := by
  revert h
  fun_induction newNonce a t
  all_goals intro h
  all_goals repeat' first
    | (with_reducible first | exact h | assumption | apply keeps_drawFree | apply keeps_wr | apply Keeps.ite)
    | (with_reducible first | apply Keeps.ite1 | intro _ | apply_assumption)

theorem keeps_resetDebug {s t : State} (h : Keeps s t) : Keeps s (resetDebug t) := by
  unfold resetDebug
  repeat' first
    | (with_reducible first | exact h | assumption | apply keeps_newNonce | apply keeps_wrf | apply keeps_modPlat)

theorem keeps_evcReready {s t : State} (h : Keeps s t) : Keeps s (evcReready t) := by
  unfold evcReready
  repeat' first
    | (with_reducible first | exact h | assumption | apply keeps_wr | apply keeps_evcTakeWaiting)
    | (with_reducible first | apply Keeps.ite | apply Keeps.ite1 | (apply Keeps.foldl; intro _ _ _) | intro _)
    | simp -zeta -beta -eta -iota -proj only [↓keeps_mk] | extract_lets | split

theorem keeps_keepConfig {s t : State} (h : Keeps s t) (a) : Keeps s (keepConfig a t) := by
  unfold keepConfig
  refine Keeps.foldl (fun t p k => ?_) _ h
  split
  · exact .ite k (keeps_wr k _ _ _ _)
  · exact k

theorem keeps_warmClear {s t : State} (h : Keeps s t) : Keeps s (warmClear t) := by
  unfold warmClear
  have hm : memWf t.mem = true → memWf (mapKeep (fun a => decide (a < 0x400000000000)) t.mem) = true := fun hm =>
    mapWf_mapKeep memD _ hm
  refine keeps_refreshPoints (keeps_resetDebug (keeps_evcReready (keeps_keepConfig (keeps_linksAnew ?_ _) t)))
  refine Keeps.foldl (f := fun u c => u.wrf .mctChstat c 0 15 0 (t.rdf .mctChstat c 0 15 0)) (fun _ _ k => keeps_wrf k _ _ _ _ _ _) _ ?_
  exact h.parts rfl hm id (keysRise_filter _)

theorem keeps_blackNow {s t : State} (h : Keeps s t) : Keeps s (blackNow t) := by
  unfold blackNow
  repeat' first
    | (with_reducible first | exact h | assumption | apply keeps_linksOff | apply keeps_wrf)
    | (with_reducible first | apply keeps_warmClear | apply keeps_modPlat)

theorem keeps_enterBlack {s t : State} (h : Keeps s t) : Keeps s (enterBlack t) := by
  unfold enterBlack
  repeat' first
    | (with_reducible first | exact h | assumption | apply keeps_blackNow | apply keeps_modPlat | apply Keeps.ite)

theorem keeps_enterGrey {s t : State} (h : Keeps s t) : Keeps s (enterGrey t) := by
  unfold enterGrey
  repeat' first
    | (with_reducible first | exact h | assumption | apply keeps_setInterval | apply keeps_wrf | apply Keeps.ite)

theorem keeps_enterDark {s t : State} (h : Keeps s t) (a) : Keeps s (enterDark t a) := by
  unfold enterDark
  repeat' first
    | (with_reducible first | exact h | assumption | apply keeps_enterCharcoal | apply keeps_enterBlack)
    | (with_reducible first | apply Keeps.ite)

theorem keeps_trip {s t : State} (h : Keeps s t) : Keeps s (trip t) := by
  unfold trip
  repeat' first
    | (with_reducible first | exact h | assumption | apply keeps_blackNow | apply keeps_modPlat)
    | (with_reducible first | apply keeps_resetCause | apply Keeps.ite)

theorem keeps_setShadeGo {s t : State} (h : Keeps s t) (a) : Keeps s (setShadeGo t a) := by
  unfold setShadeGo
  repeat' first
    | (with_reducible first | exact h | assumption | apply keeps_complete | apply keeps_wakeWhite)
    | (with_reducible first | apply keeps_enterGrey | apply keeps_enterDark | apply Keeps.ite)
    | (with_reducible first | apply Keeps.ite1 | intro _)
    | simp -zeta -beta -eta -iota -proj only [↓keeps_mk] | extract_lets | split

theorem keeps_settlePoints {s t : State} (h : Keeps s t) : Keeps s (settlePoints t) := by
  unfold settlePoints
  repeat' first
    | (with_reducible first | exact h | assumption | apply keeps_complete | apply Keeps.ite | apply Keeps.ite1)
    | (with_reducible first | (apply Keeps.foldl; intro _ _ _))

theorem keeps_setCeil {s t : State} (h : Keeps s t) (a) : Keeps s (setCeil t a) := by
  unfold setCeil
  repeat' first
    | (with_reducible first | exact h | assumption | apply keeps_modPlat)

theorem keeps_gateRow {s t : State} (h : Keeps s t) (a) {b} (hb : ∀ (t : State), Keeps s t → Keeps s (b t)) : Keeps s
    (gateRow t a b) := by
  unfold gateRow
  repeat' first
    | (with_reducible first | exact h | assumption | apply keeps_complete | apply keeps_holdCmd)
    | (with_reducible first | apply keeps_unholdCmd | apply hb | apply Keeps.ite)

theorem keeps_setPower {s t : State} (h : Keeps s t) (a) (b) : Keeps s (setPower t a b) := by
  unfold setPower
  repeat' first
    | (with_reducible first | exact h | assumption | apply keeps_refreshPoints | apply keeps_modPlat)

theorem keeps_powerPoint {s t : State} (h : Keeps s t) (a) : Keeps s (powerPoint t a) := by
  unfold powerPoint
  repeat' first
    | (with_reducible first | exact h | assumption | apply keeps_setPower | apply Keeps.ite)

theorem keeps_setSens {s t : State} (h : Keeps s t) (a) (b) (c) : Keeps s (setSens t a b c) := by
  unfold setSens
  repeat' first
    | (with_reducible first | exact h | assumption | apply keeps_wr)

theorem keeps_sensSample {s t : State} (h : Keeps s t) (a) (b) : Keeps s (sensSample t a b).1 := by
  unfold sensSample
  repeat' first
    | (with_reducible first | exact h | assumption | apply keeps_modPlat | apply keeps_setSens)
    | (with_reducible first | apply Keeps.ite | apply Keeps.ite1)

theorem keeps_derive {s t : State} (h : Keeps s t) (a) (b) : Keeps s (derive t a b).1 := by
  unfold derive
  repeat' first
    | (with_reducible first | exact h | assumption | apply keeps_setSens | apply Keeps.ite | apply Keeps.ite1)
    | (with_reducible first | intro _)
    | simp -zeta -beta -eta -iota -proj only [↓keeps_mk] | extract_lets | split

theorem keeps_ruleFlip {s t : State} (h : Keeps s t) (a) : Keeps s (ruleFlip t a) := by
  unfold ruleFlip
  repeat' first
    | (with_reducible first | exact h | assumption | apply keeps_clearWaiting | apply keeps_wr)
    | (with_reducible first | apply Keeps.ite | apply Keeps.ite1 | intro _)
    | simp -zeta -beta -eta -iota -proj only [↓keeps_mk] | extract_lets | split

theorem keeps_ruleEval {s t : State} (h : Keeps s t) (a) (b) : Keeps s (ruleEval t a b).1 := by
  unfold ruleEval
  repeat' first
    | (with_reducible first | exact h | assumption | apply keeps_modPlat | apply keeps_ruleFlip)
    | (with_reducible first | apply Keeps.ite | apply Keeps.ite1)

theorem keeps_rulesEval {s t : State} (h : Keeps s t) (a) (b) : Keeps s (rulesEval t a b).1 := by
  unfold rulesEval
  repeat' first
    | (with_reducible first | exact h | assumption | apply keeps_ruleEval | apply Keeps.ite | apply Keeps.ite1)
    | (with_reducible first | (apply Keeps.foldl1; intro _ _ _))

theorem keeps_stepDown {s t : State} (h : Keeps s t) (a) : Keeps s (stepDown t a) := by
  unfold stepDown
  repeat' first
    | (with_reducible first | exact h | assumption | apply keeps_refreshPoints | apply keeps_modPlat)

theorem keeps_actRule {s t : State} (h : Keeps s t) (a) : Keeps s (actRule t a) := by
  unfold actRule
  repeat' first
    | (with_reducible first | exact h | assumption | apply keeps_evcFire | apply keeps_stepDown)
    | (with_reducible first | apply keeps_refreshPoints | apply keeps_modPlat | apply keeps_wakeWhite)
    | (with_reducible first | apply keeps_trip | apply Keeps.ite | apply Keeps.ite1 | intro _)
    | simp -zeta -beta -eta -iota -proj only [↓keeps_mk] | extract_lets | split

theorem keeps_actRules {s t : State} (h : Keeps s t) (a) : Keeps s (actRules t a) := by
  unfold actRules
  repeat' first
    | (with_reducible first | exact h | assumption | apply keeps_actRule | apply Keeps.ite | apply Keeps.ite1)
    | (with_reducible first | (apply Keeps.foldl; intro _ _ _))

theorem keeps_heldWakeGo {s t : State} (h : Keeps s t) : Keeps s (heldWakeGo t) := by
  unfold heldWakeGo
  repeat' first
    | (with_reducible first | exact h | assumption | apply keeps_wakeWhite | apply keeps_modPlat | apply Keeps.ite)

theorem keeps_sensorNew {s t : State} (h : Keeps s t) (a) : Keeps s (sensorNew t a) := by
  unfold sensorNew
  repeat' first
    | (with_reducible first | exact h | assumption | apply keeps_rulesEval | apply keeps_heldWakeGo)
    | (with_reducible first | apply keeps_actRules)

theorem keeps_sampleOne {s t : State} (h : Keeps s t) (a) (b) : Keeps s (sampleOne t a b) := by
  unfold sampleOne
  repeat' first
    | (with_reducible first | exact h | assumption | apply keeps_sensSample | apply keeps_sensorNew)
    | (with_reducible first | apply keeps_derive | apply Keeps.ite)

theorem keeps_wdogKick {s t : State} (h : Keeps s t) : Keeps s (wdogKick t) := by
  unfold wdogKick
  repeat' first
    | (with_reducible first | exact h | assumption | apply keeps_modPlat)

theorem keeps_ckgTimeSet {s t : State} (h : Keeps s t) (a) (b) : Keeps s (ckgTimeSet t a b) := by
  unfold ckgTimeSet
  repeat' first
    | (with_reducible first | exact h | assumption | apply keeps_countDropped | apply Keeps.ite)
    | (with_reducible first | apply Keeps.ite1 | intro _)
    | simp -zeta -beta -eta -iota -proj only [↓keeps_mk]

theorem keeps_ckgSync {s t : State} (h : Keeps s t) : Keeps s (ckgSync t) := by
  unfold ckgSync
  repeat' first
    | (with_reducible first | exact h | assumption | apply keeps_wr)

theorem keeps_charcoalWake {s t : State} (h : Keeps s t) (a) : Keeps s (charcoalWake t a) := by
  unfold charcoalWake
  cases a with
  | watchedSource n => exact .ite (keeps_wakeWatched h _) h
  | _ => first | exact keeps_wakeWhite h | exact keeps_wireWake h _ | exact h

theorem keeps_countBoot {s t : State} (h : Keeps s t) : Keeps s (countBoot t) := by
  unfold countBoot
  repeat' first
    | (with_reducible first | exact h | assumption | apply keeps_wrf)

theorem keeps_applyOptions {s t : State} (h : Keeps s t) : Keeps s (applyOptions t) := by
  unfold applyOptions
  repeat' first
    | (with_reducible first | exact h | assumption | apply keeps_wrf | apply Keeps.ite | apply Keeps.ite1)
    | (with_reducible first | (apply Keeps.foldl; intro _ _ _) | intro _)
    | simp -zeta -beta -eta -iota -proj only [↓keeps_mk] | extract_lets | split

theorem keeps_bootStep {s t : State} (h : Keeps s t) (a) : Keeps s (bootStep t a) := by
  unfold bootStep
  repeat' first
    | (with_reducible first | exact h | assumption | apply keeps_wrf)

theorem keeps_enterAsh {s t : State} (h : Keeps s t) : Keeps s (enterAsh t) := by
  unfold enterAsh
  repeat' first
    | (with_reducible first | exact h | assumption | apply keeps_linkAnew | apply keeps_bootStep | apply keeps_wrf)

theorem keeps_startLinks {s t : State} (h : Keeps s t) (a) : Keeps s (startLinks t a) := by
  unfold startLinks
  repeat' first
    | (with_reducible first | exact h | assumption | apply keeps_linkAnew | apply Keeps.ite | apply Keeps.ite1)
    | (with_reducible first | (apply Keeps.foldl; intro _ _ _))

theorem keeps_failTiles {s t : State} (h : Keeps s t) (a) : Keeps s (failTiles t a) := by
  unfold failTiles
  repeat' first
    | (with_reducible first | exact h | assumption | apply keeps_bankSet | apply Keeps.ite | apply Keeps.ite1)
    | (with_reducible first | (apply Keeps.foldl; intro _ _ _))

theorem keeps_bringUnits {s t : State} (h : Keeps s t) (a) (b) (c) : Keeps s (bringUnits t a b c) := by
  unfold bringUnits
  repeat' first
    | (with_reducible first | exact h | assumption | apply keeps_runFirmware | apply keeps_wrf)
    | (with_reducible first | apply keeps_startLinks | apply keeps_failTiles | apply keeps_wr)
    | (with_reducible first | apply keeps_bootStep | apply keeps_modPlat | apply Keeps.ite | apply Keeps.ite1)
    | (with_reducible first | (apply Keeps.foldl; intro _ _ _))

theorem keeps_bringUp {s t : State} (h : Keeps s t) (a) (b) : Keeps s (bringUp t a b) := by
  unfold bringUp
  repeat' first
    | (with_reducible first | exact h | assumption | apply keeps_modPlat | apply keeps_countBoot)
    | (with_reducible first | apply keeps_applyOptions | apply keeps_bootStep | apply keeps_wrf)
    | (with_reducible first | apply keeps_enterAsh | apply keeps_bootChoice | apply keeps_bringUnits)
    | (with_reducible first | apply Keeps.ite | apply Keeps.ite1 | intro _)
    | simp -zeta -beta -eta -iota -proj only [↓keeps_mk] | extract_lets | split | dsimp +zetaDelta only | (refine Keeps.pair (by assumption) ?_)

theorem keeps_leaveBlack {s t : State} (h : Keeps s t) (a) : Keeps s (leaveBlack t a) := by
  unfold leaveBlack
  repeat' first
    | (with_reducible first | exact h | assumption | apply keeps_bringUp | apply keeps_warmClear)
    | (with_reducible first | apply keeps_wrf | apply Keeps.ite | apply Keeps.ite1 | intro _)
    | simp -zeta -beta -eta -iota -proj only [↓keeps_mk]

theorem keeps_modQueue {s t : State} (h : Keeps s t) (a) (b) (c) : Keeps s (modQueue t a b c) := by
  unfold modQueue
  repeat' first
    | (with_reducible first | exact h | assumption | apply keeps_modPlan)

theorem keeps_qopDone {s t : State} (h : Keeps s t) (a) (b) : Keeps s (qopDone t a b) := by
  unfold qopDone
  repeat' first
    | (with_reducible first | exact h | assumption | apply keeps_modPhase)

theorem keeps_placeEntry {s t : State} (h : Keeps s t) (a) (b) (c) (d) (e) (f) : Keeps s (placeEntry t a b c d e f) :=
    by
  unfold placeEntry
  repeat' first
    | (with_reducible first | exact h | assumption | apply keeps_modQueue | apply keeps_engWrite)
    | (with_reducible first | apply Keeps.ite | apply Keeps.ite1 | intro _)
    | simp -zeta -beta -eta -iota -proj only [↓keeps_mk] | extract_lets | split

theorem keeps_refillRing {s t : State} (h : Keeps s t) (a) (b) (c) (d) : Keeps s (refillRing a b c d t) := by
  revert h
  fun_induction refillRing a b c d t
  all_goals intro h
  all_goals repeat' first
    | (with_reducible first | exact h | assumption | apply keeps_engRead | apply keeps_engWrite)
    | (with_reducible first | apply keeps_modQueue | apply Keeps.ite | apply Keeps.ite1 | intro _)
    | (with_reducible first | apply_assumption)

theorem keeps_entryBytes {s t : State} (h : Keeps s t) (a) (b) (c) : Keeps s (entryBytes t a b c).1 := by
  unfold entryBytes
  repeat' first
    | (with_reducible first | exact h | assumption | apply keeps_engRead)

theorem keeps_qStall {s t : State} (h : Keeps s t) (a) (b) : Keeps s (qStall t a b) := by
  unfold qStall
  repeat' first
    | (with_reducible first | exact h | assumption | apply keeps_modQueue)

theorem keeps_qopSent {s t : State} (h : Keeps s t) (a) (b) : Keeps s (qopSent t a b) := by
  unfold qopSent
  repeat' first
    | (with_reducible first | exact h | assumption | apply keeps_modPhase)

theorem keeps_sendEntry {s t : State} (h : Keeps s t) (a) (b) (c) (d) : Keeps s (sendEntry t a b c d) := by
  unfold sendEntry
  repeat' first
    | (with_reducible first | exact h | assumption | apply keeps_qopDone | apply keeps_modQueue)
    | (with_reducible first | apply keeps_qStall | apply keeps_entryBytes | apply keeps_placeEntry)
    | (with_reducible first | apply keeps_sendMsg | apply keeps_qopSent | apply keeps_failPlan)
    | (with_reducible first | apply Keeps.ite | apply Keeps.ite1 | intro _)
    | simp -zeta -beta -eta -iota -proj only [↓keeps_mk] | extract_lets | split | dsimp +zetaDelta only | (refine Keeps.pair (by assumption) ?_)

theorem keeps_takeEntry {s t : State} (h : Keeps s t) (a) (b) (c) (d) : Keeps s (takeEntry t a b c d) := by
  unfold takeEntry
  repeat' first
    | (with_reducible first | exact h | assumption | apply keeps_engRead | apply keeps_engWrite)
    | (with_reducible first | apply keeps_modQueue | apply keeps_qopDone | apply keeps_refillRing)

theorem keeps_staleEntry {s t : State} (h : Keeps s t) : Keeps s (staleEntry t) := by
  unfold staleEntry
  repeat' first
    | (with_reducible first | exact h | assumption | apply keeps_rasBump | apply keeps_cntAdd)

theorem keeps_entryRetry {s t : State} (h : Keeps s t) (a) (b) (c) : Keeps s (entryRetry t a b c) := by
  unfold entryRetry
  repeat' first
    | (with_reducible first | exact h | assumption | apply keeps_sendDone | apply keeps_cntAdd)

theorem keeps_entryCame {s t : State} (h : Keeps s t) (a) (b) (c) (d) (e) (f) (g) : Keeps s (entryCame t a b c d e f
    g) := by
  unfold entryCame
  repeat' first
    | (with_reducible first | exact h | assumption | apply keeps_staleEntry | apply keeps_entryRetry)
    | (with_reducible first | apply keeps_sendDone | apply keeps_cntAdd | apply keeps_placeEntry)
    | (with_reducible first | apply Keeps.ite)

theorem keeps_entryEarly {s t : State} (h : Keeps s t) (a) : Keeps s (entryEarly t a) := by
  unfold entryEarly
  repeat' first
    | (with_reducible first | exact h | assumption | apply keeps_staleEntry | apply Keeps.ite)

theorem keeps_coldClear {s t : State} (h : Keeps s t) : Keeps s (coldClear t) := by
  unfold coldClear
  extract_lets
  apply keeps_resetDebug
  exact h.parts rfl (fun _ => rfl) id (keysRise_filter _)

theorem keeps_warmReset {s t : State} (h : Keeps s t) (a) (b) : Keeps s (warmReset t a b) := by
  unfold warmReset
  repeat' first
    | (with_reducible first | exact h | assumption | apply keeps_bringUp | apply keeps_resetCause)
    | (with_reducible first | apply keeps_warmClear)

theorem keeps_coldReset {s t : State} (h : Keeps s t) (a) (b) : Keeps s (coldReset t a b) := by
  unfold coldReset
  repeat' first
    | (with_reducible first | exact h | assumption | apply keeps_resetCause | apply keeps_coldClear)
    | (with_reducible first | apply keeps_bootStep | apply keeps_modPlat | apply keeps_bringUp)
    | (with_reducible first | apply Keeps.ite)

theorem keeps_dieReset {s t : State} (h : Keeps s t) (a) (b) : Keeps s (dieReset t a b) := by
  unfold dieReset
  repeat' first
    | (with_reducible first | exact h | assumption | apply keeps_countDropped | apply keeps_resetCause)
    | (with_reducible first | apply keeps_applyDieResets | apply Keeps.ite | apply Keeps.ite1 | intro _)
    | simp -zeta -beta -eta -iota -proj only [↓keeps_mk]

theorem keeps_lhlReset {s t : State} (h : Keeps s t) (a) (b) (c) (d) : Keeps s (lhlReset t a b c d) := by
  unfold lhlReset
  repeat' first
    | (with_reducible first | exact h | assumption | apply keeps_countDropped | apply keeps_cntAdd)
    | (with_reducible first | apply keeps_countDenied | apply keeps_coldReset | apply keeps_warmReset)
    | (with_reducible first | apply keeps_dieReset | apply Keeps.ite | apply Keeps.ite1 | intro _)
    | simp -zeta -beta -eta -iota -proj only [↓keeps_mk] | extract_lets | split

theorem keeps_swrstOk {s t : State} (h : Keeps s t) (a) {b} (hb : ∀ (t : State), Keeps s t → Keeps s (b t)) : Keeps s
    (swrstOk t a b) := by
  unfold swrstOk
  repeat' first
    | (with_reducible first | exact h | assumption | apply keeps_countDenied | apply hb | apply Keeps.ite)

theorem keeps_bootGood {s t : State} (h : Keeps s t) (a) : Keeps s (bootGood t a) := by
  unfold bootGood
  repeat' first
    | (with_reducible first | exact h | assumption | apply keeps_wrf | apply keeps_countDenied | apply Keeps.ite)

theorem keeps_blockGo {s t : State} (h : Keeps s t) (a) (b) : Keeps s (blockGo t a b) := by
  unfold blockGo
  repeat' first
    | (with_reducible first | exact h | assumption | apply keeps_countDropped | apply keeps_wr)
    | (with_reducible first | apply keeps_modPlat | apply Keeps.ite)

theorem keeps_blockReset {s t : State} (h : Keeps s t) (a) (b) : Keeps s (blockReset t a b) := by
  unfold blockReset
  repeat' first
    | (with_reducible first | exact h | assumption | apply keeps_countDropped | apply keeps_wr)
    | (with_reducible first | apply keeps_blockGo | apply Keeps.ite)

theorem keeps_injClear {s t : State} (h : Keeps s t) (a) : Keeps s (injClear t a) := by
  unfold injClear
  repeat' first
    | (with_reducible first | exact h | assumption | apply keeps_wr | apply Keeps.ite | apply Keeps.ite1 | intro _)
    | simp -zeta -beta -eta -iota -proj only [↓keeps_mk]

theorem keeps_blockClear {s t : State} (h : Keeps s t) (a) (b) : Keeps s (blockClear t a b) := by
  unfold blockClear
  repeat' first
    | (with_reducible first | exact h | assumption | apply keeps_linkAnew | apply keeps_spreadHold)
    | (with_reducible first | apply keeps_setLink | apply keeps_injClear | apply keeps_evacAbort)
    | (with_reducible first | apply keeps_trainReset | apply Keeps.ite | apply Keeps.ite1)
    | (with_reducible first | (apply Keeps.foldl; intro _ _ _) | intro _)
    | simp -zeta -beta -eta -iota -proj only [↓keeps_mk] | extract_lets | split | dsimp +zetaDelta only

theorem keeps_blockEnd {s t : State} (h : Keeps s t) (a) (b) : Keeps s (blockEnd t a b) := by
  unfold blockEnd
  repeat' first
    | (with_reducible first | exact h | assumption | apply keeps_resetCause | apply keeps_blockClear | apply keeps_wr)

theorem keeps_tkrErrSet {s t : State} (h : Keeps s t) (a) (b) (c) (d) (e) : Keeps s (tkrErrSet t a b c d e) := by
  unfold tkrErrSet
  repeat' first
    | (with_reducible first | exact h | assumption | apply keeps_wr | apply Keeps.ite)

theorem keeps_modPass {s t : State} (h : Keeps s t) (a) (b) (c) : Keeps s (modPass t a b c) := by
  unfold modPass
  repeat' first
    | (with_reducible first | exact h | assumption | apply keeps_modPhase)

theorem keeps_modStat {s t : State} (h : Keeps s t) (a) (b) (c) : Keeps s (modStat t a b c) := by
  unfold modStat
  repeat' first
    | (with_reducible first | exact h | assumption | apply keeps_modPlan)

theorem keeps_sendFrame {s t : State} (h : Keeps s t) (a) (b) (c) : Keeps s (sendFrame t a b c).1 := by
  unfold sendFrame
  repeat' first
    | (with_reducible first | exact h | assumption | apply keeps_emit | apply keeps_sendMsg | apply Keeps.ite)
    | (with_reducible first | apply Keeps.ite1 | intro _)
    | simp -zeta -beta -eta -iota -proj only [↓keeps_mk] | extract_lets | split | dsimp +zetaDelta only | (refine Keeps.pair (by assumption) ?_)

theorem keeps_sendStepFrame {s t : State} (h : Keeps s t) (a) (b) (c) : Keeps s (sendStepFrame a b t c) := by
  unfold sendStepFrame
  repeat' first
    | (with_reducible first | exact h | assumption | apply keeps_sendFrame | apply keeps_failPlan)
    | (with_reducible first | apply Keeps.ite | apply Keeps.ite1 | intro _)
    | simp -zeta -beta -eta -iota -proj only [↓keeps_mk] | extract_lets | split | dsimp +zetaDelta only | (refine Keeps.pair (by assumption) ?_)

theorem keeps_frameBad {s t : State} (h : Keeps s t) (a) : Keeps s (frameBad t a) := by
  unfold frameBad
  repeat' first
    | (with_reducible first | exact h | assumption | apply keeps_dieEvent | apply keeps_tkrErrSet)

theorem keeps_frameStale {s t : State} (h : Keeps s t) (a) : Keeps s (frameStale t a) := by
  unfold frameStale
  repeat' first
    | (with_reducible first | exact h | assumption | apply keeps_rasBump | apply keeps_cntAdd)

theorem keeps_answerMismatch {s t : State} (h : Keeps s t) (a) (b) : Keeps s (answerMismatch t a b) := by
  unfold answerMismatch
  repeat' first
    | (with_reducible first | exact h | assumption | apply keeps_dieEvent | apply keeps_tkrErrSet)

theorem keeps_readRowBytes {s t : State} (h : Keeps s t) (a) (b) (c) (d) (e) : Keeps s (readRowBytes t a b c d e).1 :=
    by
  unfold readRowBytes
  repeat' first
    | (with_reducible first | exact h | assumption | apply keeps_engRead | apply keeps_readTensAt)
    | (with_reducible first | apply Keeps.ite | apply Keeps.ite1)

theorem keeps_readRowsBytes {s t : State} (h : Keeps s t) (a) (b) (c) (d) (e) (f) : Keeps s (readRowsBytes a b c d e t
    f).1 := by
  revert h
  fun_induction readRowsBytes a b c d e t f
  all_goals intro h
  all_goals repeat' first
    | (with_reducible first | exact h | assumption | apply keeps_readRowBytes | apply Keeps.ite)
    | (with_reducible first | apply Keeps.ite1 | intro _ | apply_assumption)

theorem keeps_pickTicket {s t : State} (h : Keeps s t) (a) : Keeps s (pickTicket t a).1 := by
  unfold pickTicket
  repeat' first
    | (with_reducible first | exact h | assumption | apply keeps_drawFree | apply Keeps.ite | apply Keeps.ite1)

theorem keeps_dispatchExpert {s : State} {z : State × NMap Nat} (h : Keeps s z.1) (a b c d e) : Keeps s
    (dispatchExpert a b c d z e).1 := by
  unfold dispatchExpert
  repeat' first
    | (with_reducible first | exact h | assumption | apply keeps_pickTicket | apply keeps_readRowsBytes)
    | (with_reducible first | apply keeps_setTkr | apply keeps_sendStepFrame | apply keeps_cntAdd)
    | (with_reducible first | apply Keeps.ite | apply Keeps.ite1 | intro _)
    | simp -zeta -beta -eta -iota -proj only [↓keeps_mk] | extract_lets | split | dsimp +zetaDelta only | (refine Keeps.pair (by assumption) ?_)

theorem keeps_closeTo {s t : State} (h : Keeps s t) (a) (b) (c) : Keeps s (closeTo a b t c) := by
  unfold closeTo
  repeat' first
    | (with_reducible first | exact h | assumption | apply keeps_sendStepFrame | apply Keeps.ite)
    | (with_reducible first | apply Keeps.ite1 | (apply Keeps.foldl; intro _ _ _))

theorem keeps_closePass {s t : State} (h : Keeps s t) (a) (b) : Keeps s (closePass t a b) := by
  unfold closePass
  repeat' first
    | (with_reducible first | exact h | assumption | apply keeps_closeTo | apply keeps_modPass)
    | (with_reducible first | apply Keeps.ite | apply Keeps.ite1 | (apply Keeps.foldl; intro _ _ _) | intro _)
    | simp -zeta -beta -eta -iota -proj only [↓keeps_mk] | extract_lets | split

theorem keeps_finishCombRow {s t : State} (h : Keeps s t) (a) (b) (c) : Keeps s (finishCombRow t a b c) := by
  unfold finishCombRow
  repeat' first
    | (with_reducible first | exact h | assumption | apply keeps_pinnedAnchor | apply keeps_observe)
    | (with_reducible first | apply keeps_countSubst | apply keeps_setReady | apply keeps_writeBlock)
    | (with_reducible first | apply keeps_modPass | apply Keeps.ite | apply Keeps.ite1)
    | (with_reducible first | (apply Keeps.foldl; intro _ _ _) | intro _)
    | simp -zeta -beta -eta -iota -proj only [↓keeps_mk] | extract_lets | split

theorem keeps_finishComb {s t : State} (h : Keeps s t) (a) (b) : Keeps s (finishComb t a b) := by
  unfold finishComb
  repeat' first
    | (with_reducible first | exact h | assumption | apply keeps_finishCombRow | apply Keeps.ite)
    | (with_reducible first | apply Keeps.ite1 | (apply Keeps.foldl; intro _ _ _) | intro _)
    | simp -zeta -beta -eta -iota -proj only [↓keeps_mk] | extract_lets | split

theorem keeps_acceptStage {s t : State} (h : Keeps s t) (a) (b) : Keeps s (acceptStage t a b) := by
  unfold acceptStage
  repeat' first
    | (with_reducible first | exact h | assumption | apply keeps_modPass | apply keeps_rasBump)
    | (with_reducible first | apply keeps_modStat | apply keeps_cntAdd | apply keeps_dispatchExpert)
    | (with_reducible first | apply keeps_engWrite | apply keeps_finishComb | apply keeps_closePass)
    | (with_reducible first | apply Keeps.ite | apply Keeps.ite1 | (apply Keeps.foldl; intro _ _ _))
    | (with_reducible first | (apply Keeps.foldl1; intro _ _ _))

theorem keeps_modArr {s t : State} (h : Keeps s t) (a) (b) (c) (d) : Keeps s (modArr t a b c d) := by
  unfold modArr
  repeat' first
    | (with_reducible first | exact h | assumption | apply keeps_modPass)

theorem keeps_gathEnd {s t : State} (h : Keeps s t) (a) : Keeps s (gathEnd t a) := by
  unfold gathEnd
  repeat' first
    | (with_reducible first | exact h | assumption | apply keeps_gathClose | apply Keeps.ite | apply Keeps.ite1)
    | (with_reducible first | intro _)
    | simp -zeta -beta -eta -iota -proj only [↓keeps_mk] | extract_lets | split

theorem keeps_gathEnds {s t : State} (h : Keeps s t) : Keeps s (gathEnds t) := by
  unfold gathEnds
  repeat' first
    | (with_reducible first | exact h | assumption | apply keeps_gathEnd)

theorem keeps_readLanded {s t : State} (h : Keeps s t) (a) (b) (c) (d) (e) (f) : Keeps s (readLanded a b c d e t f).1
    := by
  revert h
  fun_induction readLanded a b c d e t f
  all_goals intro h
  all_goals repeat' first
    | (with_reducible first | exact h | assumption | apply keeps_engRead | apply Keeps.ite | apply Keeps.ite1)
    | (with_reducible first | intro _ | apply_assumption)

theorem keeps_launchBlock {s t : State} (h : Keeps s t) (a) (b) (c) (d) : Keeps s (launchBlock t a b c d) := by
  unfold launchBlock
  repeat' first
    | (with_reducible first | exact h | assumption | apply keeps_readLanded | apply keeps_writeElts)
    | (with_reducible first | apply keeps_modArr | apply keeps_modPhase | apply keeps_appendTasks)
    | (with_reducible first | apply Keeps.ite | apply Keeps.ite1 | (apply Keeps.foldl; intro _ _ _))

theorem keeps_launchComplete {s t : State} (h : Keeps s t) (a) (b) (c) : Keeps s (launchComplete t a b c) := by
  unfold launchComplete
  repeat' first
    | (with_reducible first | exact h | assumption | apply keeps_launchBlock | apply Keeps.ite)
    | (with_reducible first | apply Keeps.ite1 | (apply Keeps.foldl; intro _ _ _) | intro _)
    | simp -zeta -beta -eta -iota -proj only [↓keeps_mk] | extract_lets | split

theorem keeps_fromPeer {s t : State} (h : Keeps s t) (a) : Keeps s (fromPeer t a).1 := by
  unfold fromPeer
  repeat' first
    | (with_reducible first | exact h | assumption | apply keeps_peerCheck | apply keeps_cntAdd)
    | (with_reducible first | apply Keeps.ite | apply Keeps.ite1 | intro _)
    | simp -zeta -beta -eta -iota -proj only [↓keeps_mk] | extract_lets | split | dsimp +zetaDelta only | (refine Keeps.pair (by assumption) ?_)

theorem keeps_ifFrom {s t : State} (h : Keeps s t) (a) {b} (hb : ∀ (t : State), Keeps s t → Keeps s (b t)) : Keeps s
    (ifFrom t a b) := by
  unfold ifFrom
  repeat' first
    | (with_reducible first | exact h | assumption | apply keeps_fromPeer | apply hb | apply Keeps.ite)

theorem keeps_joinDevice {s t : State} (h : Keeps s t) (a) (b) : Keeps s (joinDevice t a b) := by
  unfold joinDevice
  repeat' first
    | (with_reducible first | exact h | assumption | apply keeps_modPlan)

theorem keeps_landFrame {s t : State} (h : Keeps s t) (a) (b) (c) : Keeps s (landFrame t a b c) := by
  unfold landFrame
  repeat' first
    | (with_reducible first | exact h | assumption | apply keeps_engWrite | apply keeps_modArr)
    | (with_reducible first | apply keeps_joinDevice | apply keeps_modPass | apply keeps_modStat)
    | (with_reducible first | apply keeps_launchComplete | apply Keeps.ite | apply Keeps.ite1)
    | (with_reducible first | (apply Keeps.foldl; intro _ _ _))

theorem keeps_takeClose {s t : State} (h : Keeps s t) (a) (b) (c) (d) : Keeps s (takeClose a b c t d) := by
  unfold takeClose
  repeat' first
    | (with_reducible first | exact h | assumption | apply keeps_answerMismatch | apply keeps_launchComplete)
    | (with_reducible first | apply keeps_modArr | apply Keeps.ite | apply Keeps.ite1 | intro _)
    | simp -zeta -beta -eta -iota -proj only [↓keeps_mk] | extract_lets | split

theorem keeps_releaseTicket {s t : State} (h : Keeps s t) (a) : Keeps s (releaseTicket t a) := by
  unfold releaseTicket
  repeat' first
    | (with_reducible first | exact h | assumption | apply keeps_setTkr)

theorem keeps_logGate {s t : State} (h : Keeps s t) (a) (b) (c) (d) (e) : Keeps s (logGate t a b c d e).1 := by
  unfold logGate
  repeat' first
    | (with_reducible first | exact h | assumption | apply keeps_engRead)

theorem keeps_combinePiece {s t : State} (h : Keeps s t) (a) (b) (c) (d) (e) (f) : Keeps s (combinePiece a b c d e t
    f) := by
  unfold combinePiece
  repeat' first
    | (with_reducible first | exact h | assumption | apply keeps_pinnedAnchor | apply keeps_tileEvent)
    | (with_reducible first | apply keeps_modPass | apply keeps_overflowed | apply Keeps.ite | apply Keeps.ite1)
    | (with_reducible first | intro _)
    | simp -zeta -beta -eta -iota -proj only [↓keeps_mk] | extract_lets | split

theorem keeps_combineFrame {s t : State} (h : Keeps s t) (a) (b) (c) (d) (e) : Keeps s (combineFrame t a b c d e) :=
    by
  unfold combineFrame
  repeat' first
    | (with_reducible first | exact h | assumption | apply keeps_logGate | apply keeps_combinePiece)
    | (with_reducible first | apply Keeps.ite | apply Keeps.ite1 | (apply Keeps.foldl; intro _ _ _))

theorem keeps_cancelPlan {s t : State} (h : Keeps s t) (a) : Keeps s (cancelPlan t a) := by
  unfold cancelPlan
  repeat' first
    | (with_reducible first | exact h | assumption | apply keeps_failPlan | apply Keeps.ite | apply Keeps.ite1)
    | (with_reducible first | intro _)
    | simp -zeta -beta -eta -iota -proj only [↓keeps_mk] | extract_lets | split

theorem keeps_sendEpochs {s t : State} (h : Keeps s t) (a) : Keeps s (sendEpochs t a) := by
  unfold sendEpochs
  repeat' first
    | (with_reducible first | exact h | assumption | apply keeps_sendFrame | apply Keeps.ite | apply Keeps.ite1)
    | (with_reducible first | (apply Keeps.foldl; intro _ _ _))

theorem keeps_dropUnsent {s t : State} (h : Keeps s t) : Keeps s (dropUnsent t) := by
  unfold dropUnsent
  repeat' first
    | (with_reducible first | exact h | assumption | apply Keeps.ite | apply Keeps.ite1 | intro _)
    | simp -zeta -beta -eta -iota -proj only [↓keeps_mk]

theorem keeps_fuseCmd {s t : State} (h : Keeps s t) (a) : Keeps s (fuseCmd t a) := by
  unfold fuseCmd
  repeat' first
    | (with_reducible first | exact h | assumption | apply keeps_wrf | apply keeps_countDropped)
    | (with_reducible first | apply keeps_wr | apply Keeps.ite)

theorem keeps_secureOnly {s t : State} (h : Keeps s t) (a) {b} (hb : ∀ (t : State), Keeps s t → Keeps s (b t)) : Keeps
    s (secureOnly t a b) := by
  unfold secureOnly
  repeat' first
    | (with_reducible first | exact h | assumption | apply keeps_countDenied | apply hb | apply Keeps.ite)

theorem keeps_attestWrite {s t : State} (h : Keeps s t) (a) : Keeps s (attestWrite t a) := by
  unfold attestWrite
  repeat' first
    | (with_reducible first | exact h | assumption | apply keeps_wrf | apply keeps_countDropped)
    | (with_reducible first | apply keeps_modPlat | apply keeps_sendMsg | apply Keeps.ite)

theorem keeps_attestEnd {s t : State} (h : Keeps s t) (a) : Keeps s (attestEnd t a) := by
  unfold attestEnd
  repeat' first
    | (with_reducible first | exact h | assumption | apply keeps_wrf)

theorem keeps_attestPass {s t : State} (h : Keeps s t) (a) : Keeps s (attestPass t a) := by
  unfold attestPass
  repeat' first
    | (with_reducible first | exact h | assumption | apply keeps_setMem)

theorem keeps_spdmPut {s t : State} (h : Keeps s t) (a) : Keeps s (spdmPut t a) := by
  unfold spdmPut
  repeat' first
    | (with_reducible first | exact h | assumption | apply keeps_wr | apply Keeps.ite | apply Keeps.ite1)
    | (with_reducible first | (apply Keeps.foldl; intro _ _ _))

theorem keeps_mailboxAnswer {s t : State} (h : Keeps s t) (a) : Keeps s (mailboxAnswer t a) := by
  unfold mailboxAnswer
  repeat' first
    | (with_reducible first | exact h | assumption | apply keeps_wr | apply keeps_spdmPut)

theorem keeps_spdmSend {s t : State} (h : Keeps s t) (a) (b) (c) : Keeps s (spdmSend t a b c) := by
  unfold spdmSend
  repeat' first
    | (with_reducible first | exact h | assumption | apply keeps_emit | apply keeps_mailboxAnswer)
    | (with_reducible first | apply Keeps.ite | apply Keeps.ite1 | intro _)
    | simp -zeta -beta -eta -iota -proj only [↓keeps_mk] | extract_lets | split

theorem keeps_spdmError {s t : State} (h : Keeps s t) (a) (b) : Keeps s (spdmError t a b) := by
  unfold spdmError
  repeat' first
    | (with_reducible first | exact h | assumption | apply keeps_spdmSend)

theorem keeps_spdmServe {s t : State} (h : Keeps s t) (a) {b} (hb : ∀ (t : State), Keeps s t → Keeps s (b t)) : Keeps
    s (spdmServe t a b) := by
  unfold spdmServe
  repeat' first
    | (with_reducible first | exact h | assumption | apply keeps_spdmError | apply hb | apply Keeps.ite)
    | (with_reducible first | apply Keeps.ite1 | intro _)
    | simp -zeta -beta -eta -iota -proj only [↓keeps_mk] | extract_lets | split

theorem keeps_spdmRow {s t : State} (h : Keeps s t) (a) (b) (c) (d) : Keeps s (spdmRow t a b c d) := by
  unfold spdmRow
  repeat' first
    | (with_reducible first | exact h | assumption | apply keeps_spdmServe | apply keeps_spdmSend)
    | (with_reducible first | apply Keeps.ite | apply Keeps.ite1 | intro _)

theorem keeps_spdmNo {s t : State} (h : Keeps s t) (a) : Keeps s (spdmNo t a) := by
  exact keeps_spdmServe h a fun _ k => keeps_spdmError k a 7

theorem keeps_nonceRead {s t : State} (h : Keeps s t) (a) : Keeps s (nonceRead t a).1 := by
  unfold nonceRead
  repeat' first
    | (with_reducible first | exact h | assumption | apply keeps_newNonce)

theorem keeps_dbgCheck {s t : State} (h : Keeps s t) (a) : Keeps s (dbgCheck t a) := by
  unfold dbgCheck
  repeat' first
    | (with_reducible first | exact h | assumption | apply keeps_wr | apply keeps_modPlat | apply keeps_wrf)
    | (with_reducible first | apply keeps_countDropped | apply Keeps.ite)

theorem keeps_sbAnswer {s t : State} (h : Keeps s t) (a) (b) : Keeps s (sbAnswer t a b) := by
  unfold sbAnswer
  repeat' first
    | (with_reducible first | exact h | assumption | apply keeps_emit | apply Keeps.ite)

theorem keeps_capture {s t : State} (h : Keeps s t) (a) : Keeps s (capture t a) := by
  unfold capture
  repeat' first
    | (with_reducible first | exact h | assumption | apply keeps_setTracked | apply Keeps.ite)
    | (with_reducible first | apply Keeps.ite1 | (apply Keeps.foldl; intro _ _ _) | intro _)
    | simp -zeta -beta -eta -iota -proj only [↓keeps_mk] | extract_lets

theorem keeps_snapPageSend {s t : State} (h : Keeps s t) : Keeps s (snapPageSend t) := by
  unfold snapPageSend
  repeat' first
    | (with_reducible first | exact h | assumption | apply keeps_snapSendBuffered | apply keeps_snapFinish)
    | (with_reducible first | apply keeps_rawRead | apply keeps_snapSendPage | apply keeps_setTracked)
    | (with_reducible first | apply Keeps.ite | apply Keeps.ite1 | intro _)
    | simp -zeta -beta -eta -iota -proj only [↓keeps_mk] | extract_lets | split

theorem keeps_unquarantine {s t : State} (h : Keeps s t) (a) : Keeps s (unquarantine t a) := by
  unfold unquarantine
  repeat' first
    | (with_reducible first | exact h | assumption | apply keeps_setFences | apply keeps_tileRelease)
    | (with_reducible first | apply keeps_wr | apply Keeps.ite | apply Keeps.ite1)
    | (with_reducible first | (apply Keeps.foldl; intro _ _ _))

theorem keeps_setVe {s t : State} (h : Keeps s t) (a) (b) : Keeps s (setVe t a b) := by
  unfold setVe
  repeat' first
    | (with_reducible first | exact h | assumption | apply Keeps.ite | apply Keeps.ite1 | intro _)
    | simp -zeta -beta -eta -iota -proj only [↓keeps_mk]

theorem keeps_veErr {s t : State} (h : Keeps s t) (a) (b) (c) (d) : Keeps s (veErr t a b c d) := by
  unfold veErr
  repeat' first
    | (with_reducible first | exact h | assumption | apply keeps_wr | apply Keeps.ite)

theorem keeps_rowPre {s t : State} (h : Keeps s t) (a) (b) (c) (d) (e) (f) : Keeps s (rowPre a b c d e t f).1 := by
  revert h
  fun_induction rowPre a b c d e t f
  all_goals intro h
  all_goals repeat' first
    | (with_reducible first | exact h | assumption | apply keeps_readOperHdr | apply Keeps.ite)
    | (with_reducible first | apply Keeps.ite1 | intro _ | apply_assumption)

theorem keeps_vePre {s t : State} (h : Keeps s t) (a) (b) (c) (d) (e) : Keeps s (vePre a b c d t e).1 := by
  revert h
  fun_induction vePre a b c d t e
  all_goals intro h
  all_goals repeat' first
    | (with_reducible first | exact h | assumption | apply keeps_rowPre | apply Keeps.ite | apply Keeps.ite1)
    | (with_reducible first | intro _ | apply_assumption)

theorem keeps_summSettle {s t : State} (h : Keeps s t) (a) : Keeps s (summSettle t a) := by
  unfold summSettle
  repeat' first
    | (with_reducible first | exact h | assumption | apply keeps_modPlan | apply Keeps.ite | apply Keeps.ite1)
    | (with_reducible first | intro _)
    | simp -zeta -beta -eta -iota -proj only [↓keeps_mk] | extract_lets | split

theorem keeps_veSet {s t : State} (h : Keeps s t) (a) (b) : Keeps s (veSet t a b) := by
  unfold veSet
  repeat' first
    | (with_reducible first | exact h | assumption | apply keeps_summSettle | apply keeps_setVe | apply Keeps.ite)

theorem keeps_veRetire {s t : State} (h : Keeps s t) (a) (b) : Keeps s (veRetire t a b) := by
  unfold veRetire
  repeat' first
    | (with_reducible first | exact h | assumption | apply keeps_cntAdd | apply keeps_veSet)

theorem keeps_xchLeave {s t : State} (h : Keeps s t) (a) (b) (c) : Keeps s (xchLeave t a b c) := by
  unfold xchLeave
  repeat' first
    | (with_reducible first | exact h | assumption | apply keeps_veSet | apply keeps_cntAdd)

theorem keeps_winAccess {s t : State} (h : Keeps s t) (a) (b) (c) : Keeps s (winAccess t a b c).1 := by
  unfold winAccess
  repeat' first
    | (with_reducible first | exact h | assumption | apply keeps_countBadAccess | apply keeps_countDenied)
    | (with_reducible first | apply Keeps.ite | apply Keeps.ite1 | intro _)
    | simp -zeta -beta -eta -iota -proj only [↓keeps_mk] | extract_lets | split

theorem keeps_regReadAll {s t : State} (h : Keeps s t) (a) (b) (c) (d) : Keeps s (regReadAll t a b c d).1 := by
  unfold regReadAll
  repeat' first
    | (with_reducible first | exact h | assumption | apply keeps_wr | apply keeps_claim | apply keeps_ckgSync)
    | (with_reducible first | apply keeps_nonceRead | apply Keeps.ite | apply Keeps.ite1 | intro _)
    | simp -zeta -beta -eta -iota -proj only [↓keeps_mk] | extract_lets | split

theorem keeps_regRead {s t : State} (h : Keeps s t) (a) (b) : Keeps s (regRead t a b).1 := by
  unfold regRead
  repeat' first
    | (with_reducible first | exact h | assumption | apply keeps_regReadAll | apply Keeps.ite)

theorem keeps_winRead {s t : State} (h : Keeps s t) (a) (b) (c) : Keeps s (winRead t a b c).1 := by
  unfold winRead
  repeat' first
    | (with_reducible first | exact h | assumption | apply keeps_nonceRead | apply keeps_winAccess)
    | (with_reducible first | apply keeps_regRead | apply Keeps.ite | apply Keeps.ite1 | intro _)
    | simp -zeta -beta -eta -iota -proj only [↓keeps_mk] | extract_lets | split | dsimp +zetaDelta only | (refine Keeps.pair (by assumption) ?_)

theorem keeps_plainWrite {s t : State} (h : Keeps s t) (a) (b) (c) : Keeps s (plainWrite t a b c) := by
  unfold plainWrite
  repeat' first
    | (with_reducible first | exact h | assumption | apply keeps_setShadow | apply keeps_wr)
    | (with_reducible first | apply keeps_setWaiting | apply Keeps.ite)

theorem keeps_dropWrite {s t : State} (h : Keeps s t) : Keeps s (dropWrite t) := by
  unfold dropWrite
  repeat' first
    | (with_reducible first | exact h | assumption | apply keeps_countDropped)

theorem keeps_writeIf {s t : State} (h : Keeps s t) (a) (b) (c) (d) : Keeps s (writeIf t a b c d) := by
  unfold writeIf
  repeat' first
    | (with_reducible first | exact h | assumption | apply keeps_plainWrite | apply keeps_dropWrite | apply Keeps.ite)

theorem keeps_retireWrite {s t : State} (h : Keeps s t) (a) (b) (c) : Keeps s (retireWrite t a b c) := by
  unfold retireWrite
  repeat' first
    | (with_reducible first | exact h | assumption | apply keeps_plainWrite | apply keeps_dropWrite | apply Keeps.ite)

theorem keeps_frozenWrite {s t : State} (h : Keeps s t) (a) (b) (c) : Keeps s (frozenWrite t a b c) := by
  unfold frozenWrite
  repeat' first
    | (with_reducible first | exact h | assumption | apply keeps_setWaiting | apply keeps_countDenied)
    | (with_reducible first | apply Keeps.ite)

theorem keeps_srcWrite {s t : State} (h : Keeps s t) (a) (b) (c) : Keeps s (srcWrite t a b c) := by
  unfold srcWrite
  repeat' first
    | (with_reducible first | exact h | assumption | apply keeps_dropWrite | apply keeps_wr)
    | (with_reducible first | apply keeps_setWaiting | apply Keeps.ite)

theorem keeps_watchWrite {s t : State} (h : Keeps s t) (a) (b) (c) : Keeps s (watchWrite t a b c) := by
  unfold watchWrite
  repeat' first
    | (with_reducible first | exact h | assumption | apply keeps_writeIf)

theorem keeps_ruleWrite {s t : State} (h : Keeps s t) (a) (b) (c) : Keeps s (ruleWrite t a b c) := by
  unfold ruleWrite
  repeat' first
    | (with_reducible first | exact h | assumption | apply keeps_setWaiting | apply keeps_wr)
    | (with_reducible first | apply keeps_modPlat | apply Keeps.ite)

theorem keeps_alarmWrite {s t : State} (h : Keeps s t) (a) (b) (c) : Keeps s (alarmWrite t a b c) := by
  unfold alarmWrite
  repeat' first
    | (with_reducible first | exact h | assumption | apply keeps_plainWrite | apply keeps_modPlat | apply Keeps.ite)

theorem keeps_autoWrite {s t : State} (h : Keeps s t) (a) (b) (c) : Keeps s (autoWrite t a b c) := by
  unfold autoWrite
  repeat' first
    | (with_reducible first | exact h | assumption | apply keeps_plainWrite | apply Keeps.ite)
    | (with_reducible first | apply Keeps.ite1 | intro _)
    | simp -zeta -beta -eta -iota -proj only [↓keeps_mk]

theorem keeps_watchCtlWrite {s t : State} (h : Keeps s t) (a) (b) (c) : Keeps s (watchCtlWrite t a b c) := by
  unfold watchCtlWrite
  repeat' first
    | (with_reducible first | exact h | assumption | apply keeps_plainWrite | apply Keeps.ite)
    | (with_reducible first | apply Keeps.ite1 | intro _)
    | simp -zeta -beta -eta -iota -proj only [↓keeps_mk]

theorem keeps_mirCfgWrite {s t : State} (h : Keeps s t) (a) (b) (c) : Keeps s (mirCfgWrite t a b c) := by
  unfold mirCfgWrite
  repeat' first
    | (with_reducible first | exact h | assumption | apply keeps_dropWrite | apply keeps_setWaiting)
    | (with_reducible first | apply keeps_writeIf | apply Keeps.ite)

theorem keeps_mirCtlWrite {s t : State} (h : Keeps s t) (a) (b) (c) : Keeps s (mirCtlWrite t a b c) := by
  unfold mirCtlWrite
  repeat' first
    | (with_reducible first | exact h | assumption | apply keeps_plainWrite | apply keeps_mirReseedAll)
    | (with_reducible first | apply Keeps.ite)

theorem keeps_fijAuthWrite {s t : State} (h : Keeps s t) (a) : Keeps s (fijAuthWrite t a) := by
  unfold fijAuthWrite
  repeat' first
    | (with_reducible first | exact h | assumption | apply keeps_wrf | apply keeps_dropWrite | apply Keeps.ite)
    | (with_reducible first | apply Keeps.ite1 | (apply Keeps.foldl; intro _ _ _) | intro _)
    | simp -zeta -beta -eta -iota -proj only [↓keeps_mk] | extract_lets

theorem keeps_fijCtlWrite {s t : State} (h : Keeps s t) (a) (b) (c) : Keeps s (fijCtlWrite t a b c) := by
  unfold fijCtlWrite
  repeat' first
    | (with_reducible first | exact h | assumption | apply keeps_plainWrite | apply Keeps.ite)
    | (with_reducible first | apply Keeps.ite1 | intro _)
    | simp -zeta -beta -eta -iota -proj only [↓keeps_mk]

theorem keeps_ringRegWrite {s t : State} (h : Keeps s t) (a) (b) (c) : Keeps s (ringRegWrite t a b c) := by
  unfold ringRegWrite
  repeat' first
    | (with_reducible first | exact h | assumption | apply keeps_plainWrite | apply keeps_ringWriteDropped)
    | (with_reducible first | apply Keeps.ite)

theorem keeps_nmuCtlWrite {s t : State} (h : Keeps s t) (a) (b) (c) : Keeps s (nmuCtlWrite t a b c) := by
  unfold nmuCtlWrite
  repeat' first
    | (with_reducible first | exact h | assumption | apply keeps_plainWrite | apply keeps_nmuGo | apply Keeps.ite)

theorem keeps_retrainWrite {s t : State} (h : Keeps s t) (a) (b) (c) : Keeps s (retrainWrite t a b c) := by
  unfold retrainWrite
  repeat' first
    | (with_reducible first | exact h | assumption | apply keeps_plainWrite | apply keeps_retrainGo | apply Keeps.ite)

theorem keeps_swrstWrite {s t : State} (h : Keeps s t) (a) (b) (c) : Keeps s (swrstWrite t a b c) := by
  unfold swrstWrite
  repeat' first
    | (with_reducible first | exact h | assumption | apply keeps_plainWrite | apply keeps_coldReset)
    | (with_reducible first | apply keeps_warmReset | apply keeps_dieReset | apply keeps_dropWrite)
    | (with_reducible first | apply Keeps.ite | apply Keeps.ite1 | intro _)
    | simp -zeta -beta -eta -iota -proj only [↓keeps_mk] | extract_lets | split

theorem keeps_wdogWrite {s t : State} (h : Keeps s t) (a) (b) (c) : Keeps s (wdogWrite t a b c) := by
  unfold wdogWrite
  repeat' first
    | (with_reducible first | exact h | assumption | apply keeps_plainWrite | apply keeps_wdogKick | apply Keeps.ite)

theorem keeps_cfgCtlWrite {s t : State} (h : Keeps s t) (a) (b) : Keeps s (cfgCtlWrite t a b) := by
  unfold cfgCtlWrite
  repeat' first
    | (with_reducible first | exact h | assumption | apply keeps_wr)

theorem keeps_spdmCtlWrite {s t : State} (h : Keeps s t) (a) (b) (c) : Keeps s (spdmCtlWrite t a b c) := by
  unfold spdmCtlWrite
  repeat' first
    | (with_reducible first | exact h | assumption | apply keeps_plainWrite | apply keeps_wrf | apply Keeps.ite)

theorem keeps_dbgRespWrite {s t : State} (h : Keeps s t) (a) (b) : Keeps s (dbgRespWrite t a b) := by
  unfold dbgRespWrite
  repeat' first
    | (with_reducible first | exact h | assumption | apply keeps_dbgCheck | apply keeps_wr | apply Keeps.ite)

theorem keeps_regWrite {s t : State} (h : Keeps s t) (a) (b) (c) : Keeps s (regWrite t a b c) := by
  unfold regWrite
  repeat' first
    | (with_reducible first | exact h | assumption | apply keeps_writeIf | apply keeps_retireWrite)
    | (with_reducible first | apply keeps_evacWrite | apply keeps_retrainWrite | apply keeps_nmuCtlWrite)
    | (with_reducible first | apply keeps_frozenWrite | apply keeps_cfgCtlWrite | apply keeps_fuseCmd)
    | (with_reducible first | apply keeps_attestWrite | apply keeps_spdmCtlWrite | apply keeps_dbgRespWrite)
    | (with_reducible first | apply keeps_ckgTimeSet | apply keeps_doorbellWrite | apply keeps_eoi)
    | (with_reducible first | apply keeps_srcWrite | apply keeps_watchWrite | apply keeps_ruleWrite)
    | (with_reducible first | apply keeps_alarmWrite | apply keeps_wdogWrite | apply keeps_swrstWrite)
    | (with_reducible first | apply keeps_blockReset | apply keeps_bootGood | apply keeps_autoWrite)
    | (with_reducible first | apply keeps_watchCtlWrite | apply keeps_mirCtlWrite | apply keeps_mirCfgWrite)
    | (with_reducible first | apply keeps_fijAuthWrite | apply keeps_fijCtlWrite | apply keeps_ringRegWrite)
    | (with_reducible first | apply keeps_ringCfgWrite | apply keeps_plainWrite | apply Keeps.ite)
    | (with_reducible first | apply Keeps.ite1 | intro _)
    | simp -zeta -beta -eta -iota -proj only [↓keeps_mk] | extract_lets | split

theorem keeps_winWrite {s t : State} (h : Keeps s t) (a) (b) (c) (d) : Keeps s (winWrite t a b c d) := by
  unfold winWrite
  repeat' first
    | (with_reducible first | exact h | assumption | apply keeps_winAccess | apply keeps_regWrite)
    | (with_reducible first | apply Keeps.ite | apply Keeps.ite1 | intro _)
    | simp -zeta -beta -eta -iota -proj only [↓keeps_mk] | extract_lets | split | dsimp +zetaDelta only | (refine Keeps.pair (by assumption) ?_)

theorem keeps_cplOut {s t : State} (h : Keeps s t) (a) (b) : Keeps s (cplOut t a b) := by
  unfold cplOut
  repeat' first
    | (with_reducible first | exact h | assumption | apply keeps_linkSend | apply Keeps.ite | apply Keeps.ite1)
    | (with_reducible first | intro _)
    | simp -zeta -beta -eta -iota -proj only [↓keeps_mk] | extract_lets | split

theorem keeps_coreRead {s t : State} (h : Keeps s t) (a) (b) (c) : Keeps s (coreRead t a b c) := by
  unfold coreRead
  repeat' first
    | (with_reducible first | exact h | assumption | apply keeps_winRead | apply keeps_emit | apply Keeps.ite)

theorem keeps_ringRow {s t : State} (h : Keeps s t) (a) (b) (c) (d) : Keeps s (ringRow t a b c d) := by
  unfold ringRow
  repeat' first
    | (with_reducible first | exact h | assumption | apply keeps_winWrite | apply Keeps.ite)

theorem keeps_msgDropped {s t : State} (h : Keeps s t) : Keeps s (msgDropped t) := by
  unfold msgDropped
  repeat' first
    | (with_reducible first | exact h | assumption | apply keeps_countDropped | apply keeps_cntAdd)

theorem keeps_nudgeGo {s t : State} (h : Keeps s t) (a) : Keeps s (nudgeGo t a) := by
  unfold nudgeGo
  repeat' first
    | (with_reducible first | exact h | assumption | apply keeps_setInterval | apply keeps_readDoorbell)
    | (with_reducible first | apply keeps_hqeScanOnce | apply Keeps.ite | apply Keeps.ite1 | intro _)
    | simp -zeta -beta -eta -iota -proj only [↓keeps_mk] | extract_lets | split

end Sys2Proof.Machine
end

