-- ==== Sys2Proof/Laws/PerInstr.lean ====
section
/-! SUPPORT. A fact about every command as syntax, one lemma per command: a vector-engine command that acts on its own
registers alone is among the commands that store nothing. -/

namespace Sys2Proof.Laws

/-- A command of the vector engine's own registers stores nothing (R138, R139). -/
def VeRegisterRow.Statement (i : Instr) : Prop := (Machine.veRegisterRow i).isSome = true → Machine.storesNothing i = true

theorem VeRegisterRow.registerWrite (w : World) (off : W32) (size : Nat) (val : W64) : VeRegisterRow.Statement (.registerWrite w off size val) := fun h => nomatch h
theorem VeRegisterRow.cfgRd (w : World) (tag : Fin 4096) (off : W32) (size : Nat) : VeRegisterRow.Statement (.cfgRd w tag off size) := fun h => nomatch h
theorem VeRegisterRow.cfgWr (w : World) (tag : Fin 4096) (off : W32) (size : Nat) (val : W64) : VeRegisterRow.Statement (.cfgWr w tag off size val) := fun h => nomatch h
theorem VeRegisterRow.gblLayoutErrRead (w : World) (h : Half) : VeRegisterRow.Statement (.gblLayoutErrRead w h) := fun h => nomatch h
theorem VeRegisterRow.tilSlotErrRead (w : World) (t : Tile) (h : Half) : VeRegisterRow.Statement (.tilSlotErrRead w t h) := fun h => nomatch h
theorem VeRegisterRow.tilGmeErrRead (w : World) (t : Tile) (h : Half) : VeRegisterRow.Statement (.tilGmeErrRead w t h) := fun h => nomatch h
theorem VeRegisterRow.tilVeErrRead (w : World) (t : Tile) (h : Half) : VeRegisterRow.Statement (.tilVeErrRead w t h) := fun h => nomatch h
theorem VeRegisterRow.tkrErrRead (w : World) (h : Half) : VeRegisterRow.Statement (.tkrErrRead w h) := fun h => nomatch h
theorem VeRegisterRow.mshErrRead (w : World) (h : Half) : VeRegisterRow.Statement (.mshErrRead w h) := fun h => nomatch h
theorem VeRegisterRow.qxfErrRead (w : World) (h : Half) : VeRegisterRow.Statement (.qxfErrRead w h) := fun h => nomatch h
theorem VeRegisterRow.ckgSyncRead (w : World) : VeRegisterRow.Statement (.ckgSyncRead w) := fun h => nomatch h
theorem VeRegisterRow.ckgTimeWrite (w : World) (val : W64) : VeRegisterRow.Statement (.ckgTimeWrite w val) := fun h => nomatch h
theorem VeRegisterRow.nop (iid : Nat) : VeRegisterRow.Statement (.nop iid) := fun h => nomatch h
theorem VeRegisterRow.copyIn (iid : Nat) : VeRegisterRow.Statement (.copyIn iid) := fun h => nomatch h
theorem VeRegisterRow.copyOut (iid : Nat) : VeRegisterRow.Statement (.copyOut iid) := fun h => nomatch h
theorem VeRegisterRow.copyDev (iid : Nat) : VeRegisterRow.Statement (.copyDev iid) := fun h => nomatch h
theorem VeRegisterRow.heldCopyStart (iid : Nat) : VeRegisterRow.Statement (.heldCopyStart iid) := fun h => nomatch h
theorem VeRegisterRow.runPlan (iid : Nat) : VeRegisterRow.Statement (.runPlan iid) := fun h => nomatch h
theorem VeRegisterRow.runPlanEval (iid : Nat) : VeRegisterRow.Statement (.runPlanEval iid) := fun h => nomatch h
theorem VeRegisterRow.runPlanRecompute (iid : Nat) : VeRegisterRow.Statement (.runPlanRecompute iid) := fun h => nomatch h
theorem VeRegisterRow.heldPlanStart (k : PlanKind) : VeRegisterRow.Statement (.heldPlanStart k) := fun h => nomatch h
theorem VeRegisterRow.stepAnswer (iid : Nat) : VeRegisterRow.Statement (.stepAnswer iid) := fun h => nomatch h
theorem VeRegisterRow.cancelBatch (iid : Nat) : VeRegisterRow.Statement (.cancelBatch iid) := fun h => nomatch h
theorem VeRegisterRow.configCommit (iid : Nat) : VeRegisterRow.Statement (.configCommit iid) := fun h => nomatch h
theorem VeRegisterRow.configDiscard (iid : Nat) : VeRegisterRow.Statement (.configDiscard iid) := fun h => nomatch h
theorem VeRegisterRow.epochMarker (b : EpochBlock) : VeRegisterRow.Statement (.epochMarker b) := fun h => nomatch h
theorem VeRegisterRow.transitionEnd : VeRegisterRow.Statement (.transitionEnd) := fun h => nomatch h
theorem VeRegisterRow.snapshot (iid : Nat) : VeRegisterRow.Statement (.snapshot iid) := fun h => nomatch h
theorem VeRegisterRow.snapshotCapture : VeRegisterRow.Statement (.snapshotCapture) := fun h => nomatch h
theorem VeRegisterRow.cowCopy (w : World) (addr : DevAddr) (data : Bytes) : VeRegisterRow.Statement (.cowCopy w addr data) := fun h => nomatch h
theorem VeRegisterRow.snapshotPageSend : VeRegisterRow.Statement (.snapshotPageSend) := fun h => nomatch h
theorem VeRegisterRow.snapshotAuto : VeRegisterRow.Statement (.snapshotAuto) := fun h => nomatch h
theorem VeRegisterRow.restore (iid : Nat) : VeRegisterRow.Statement (.restore iid) := fun h => nomatch h
theorem VeRegisterRow.fenceTiles (iid : Nat) : VeRegisterRow.Statement (.fenceTiles iid) := fun h => nomatch h
theorem VeRegisterRow.unfenceTiles (iid : Nat) : VeRegisterRow.Statement (.unfenceTiles iid) := fun h => nomatch h
theorem VeRegisterRow.dieQuarantine (iid : Nat) : VeRegisterRow.Statement (.dieQuarantine iid) := fun h => nomatch h
theorem VeRegisterRow.dieUnquarantine (iid : Nat) : VeRegisterRow.Statement (.dieUnquarantine iid) := fun h => nomatch h
theorem VeRegisterRow.selfTest (iid : Nat) : VeRegisterRow.Statement (.selfTest iid) := fun h => nomatch h
theorem VeRegisterRow.testFenceStart (t : Tile) : VeRegisterRow.Statement (.testFenceStart t) := fun h => nomatch h
theorem VeRegisterRow.tileTestEnd (t : Tile) (sramFail accFail logicFail layer : Bool) (granule : Fin 131072) : VeRegisterRow.Statement (.tileTestEnd t sramFail accFail logicFail layer granule) := fun h => nomatch h
theorem VeRegisterRow.loadRoutingContexts (iid : Nat) : VeRegisterRow.Statement (.loadRoutingContexts iid) := fun h => nomatch h
theorem VeRegisterRow.loadVersionedRegions (iid : Nat) : VeRegisterRow.Statement (.loadVersionedRegions iid) := fun h => nomatch h
theorem VeRegisterRow.loadRouteBank (iid : Nat) : VeRegisterRow.Statement (.loadRouteBank iid) := fun h => nomatch h
theorem VeRegisterRow.loadPeerEntries (iid : Nat) : VeRegisterRow.Statement (.loadPeerEntries iid) := fun h => nomatch h
theorem VeRegisterRow.loadCloseGroups (iid : Nat) : VeRegisterRow.Statement (.loadCloseGroups iid) := fun h => nomatch h
theorem VeRegisterRow.loadReductionWindows (iid : Nat) : VeRegisterRow.Statement (.loadReductionWindows iid) := fun h => nomatch h
theorem VeRegisterRow.fwStage (iid : Nat) : VeRegisterRow.Statement (.fwStage iid) := fun h => nomatch h
theorem VeRegisterRow.fwActivateAuto (iid : Nat) : VeRegisterRow.Statement (.fwActivateAuto iid) := fun h => nomatch h
theorem VeRegisterRow.fwActivateInPlace (iid : Nat) : VeRegisterRow.Statement (.fwActivateInPlace iid) := fun h => nomatch h
theorem VeRegisterRow.fwActivateWarm (iid : Nat) : VeRegisterRow.Statement (.fwActivateWarm iid) := fun h => nomatch h
theorem VeRegisterRow.fwActivateCold (iid : Nat) : VeRegisterRow.Statement (.fwActivateCold iid) := fun h => nomatch h
theorem VeRegisterRow.activationCommit (b : BringUp) : VeRegisterRow.Statement (.activationCommit b) := fun h => nomatch h
theorem VeRegisterRow.fwConfirm (iid : Nat) : VeRegisterRow.Statement (.fwConfirm iid) := fun h => nomatch h
theorem VeRegisterRow.setShade (iid : Nat) : VeRegisterRow.Statement (.setShade iid) := fun h => nomatch h
theorem VeRegisterRow.setPoint (iid : Nat) : VeRegisterRow.Statement (.setPoint iid) := fun h => nomatch h
theorem VeRegisterRow.gate (iid : Nat) : VeRegisterRow.Statement (.gate iid) := fun h => nomatch h
theorem VeRegisterRow.ungate (iid : Nat) : VeRegisterRow.Statement (.ungate iid) := fun h => nomatch h
theorem VeRegisterRow.phaseStart (k : PlanKind) : VeRegisterRow.Statement (.phaseStart k) := fun h => nomatch h
theorem VeRegisterRow.freeWriteUnblock (r : Fin 256) : VeRegisterRow.Statement (.freeWriteUnblock r) := fun h => nomatch h
theorem VeRegisterRow.versionStallExpire (r : Fin 256) : VeRegisterRow.Statement (.versionStallExpire r) := fun h => nomatch h
theorem VeRegisterRow.phaseEnd (k : PlanKind) (d : Die) : VeRegisterRow.Statement (.phaseEnd k d) := fun h => nomatch h
theorem VeRegisterRow.branchDecide (k : PlanKind) : VeRegisterRow.Statement (.branchDecide k) := fun h => nomatch h
theorem VeRegisterRow.phaseLimitExceeded (k : PlanKind) : VeRegisterRow.Statement (.phaseLimitExceeded k) := fun h => nomatch h
theorem VeRegisterRow.stepCommit (k : PlanKind) : VeRegisterRow.Statement (.stepCommit k) := fun h => nomatch h
theorem VeRegisterRow.mirrorDrainDone : VeRegisterRow.Statement (.mirrorDrainDone) := fun h => nomatch h
theorem VeRegisterRow.checkResultMessage (src : DeviceId) (pass : Bool) (atOnce : Bool) : VeRegisterRow.Statement (.checkResultMessage src pass atOnce) := fun h => nomatch h
theorem VeRegisterRow.replayStart (k : PlanKind) : VeRegisterRow.Statement (.replayStart k) := fun h => nomatch h
theorem VeRegisterRow.updateRetryStart : VeRegisterRow.Statement (.updateRetryStart) := fun h => nomatch h
theorem VeRegisterRow.qsend (k : PlanKind) (q : Fin 16) : VeRegisterRow.Statement (.qsend k q) := fun h => nomatch h
theorem VeRegisterRow.qrecv (k : PlanKind) (q : Fin 16) : VeRegisterRow.Statement (.qrecv k q) := fun h => nomatch h
theorem VeRegisterRow.queueEntryReceive (qid : Fin 256) (step : W64) (attempt : Fin 8) (seq msg : W32) (data : Bytes) : VeRegisterRow.Statement (.queueEntryReceive qid step attempt seq msg data) := fun h => nomatch h
theorem VeRegisterRow.queueLimitExpire (k : PlanKind) (q : Fin 16) : VeRegisterRow.Statement (.queueLimitExpire k q) := fun h => nomatch h
theorem VeRegisterRow.denseTaskTake (t : Tile) : VeRegisterRow.Statement (.denseTaskTake t) := fun h => nomatch h
theorem VeRegisterRow.outputBlockFinish (t : Tile) (a : Fin 4) : VeRegisterRow.Statement (.outputBlockFinish t a) := fun h => nomatch h
theorem VeRegisterRow.sheetBlockArrive (t : Tile) (north : Bool) (slot : BitVec 16) : VeRegisterRow.Statement (.sheetBlockArrive t north slot) := fun h => nomatch h
theorem VeRegisterRow.splitkPartDone (t : Tile) (a : Fin 4) : VeRegisterRow.Statement (.splitkPartDone t a) := fun h => nomatch h
theorem VeRegisterRow.splitkClose (t : Tile) : VeRegisterRow.Statement (.splitkClose t) := fun h => nomatch h
theorem VeRegisterRow.gatherPosting (d : Die) (g : Fin 16) (p : Posting) : VeRegisterRow.Statement (.gatherPosting d g p) := fun h => nomatch h
theorem VeRegisterRow.gatherFlushExpire (d : Die) (g : Fin 16) : VeRegisterRow.Statement (.gatherFlushExpire d g) := fun h => nomatch h
theorem VeRegisterRow.packedSuperblockWrite (t : Tile) : VeRegisterRow.Statement (.packedSuperblockWrite t) := fun h => nomatch h
theorem VeRegisterRow.blockMerge (w : World) (td : Bytes) (pos : List Nat) (els : List (Fin 1024 × BitVec 152)) : VeRegisterRow.Statement (.blockMerge w td pos els) := fun h => nomatch h
theorem VeRegisterRow.gmeSpprod (t : Tile) : VeRegisterRow.Statement (.gmeSpprod t) := fun h => nomatch h
theorem VeRegisterRow.gmeGather (t : Tile) : VeRegisterRow.Statement (.gmeGather t) := fun h => nomatch h
theorem VeRegisterRow.gmeScatter (t : Tile) : VeRegisterRow.Statement (.gmeScatter t) := fun h => nomatch h
theorem VeRegisterRow.gmeScatterAcc (t : Tile) : VeRegisterRow.Statement (.gmeScatterAcc t) := fun h => nomatch h
theorem VeRegisterRow.gmeSegsum (t : Tile) : VeRegisterRow.Statement (.gmeSegsum t) := fun h => nomatch h
theorem VeRegisterRow.gmeRaggedCat (t : Tile) : VeRegisterRow.Statement (.gmeRaggedCat t) := fun h => nomatch h
theorem VeRegisterRow.gmeSortKey (t : Tile) : VeRegisterRow.Statement (.gmeSortKey t) := fun h => nomatch h
theorem VeRegisterRow.gmeMergeKey (t : Tile) : VeRegisterRow.Statement (.gmeMergeKey t) := fun h => nomatch h
theorem VeRegisterRow.gmeTopk (t : Tile) : VeRegisterRow.Statement (.gmeTopk t) := fun h => nomatch h
theorem VeRegisterRow.partCutsReady (k : PlanKind) : VeRegisterRow.Statement (.partCutsReady k) := fun h => nomatch h
theorem VeRegisterRow.ownerContribution (t : Tile) : VeRegisterRow.Statement (.ownerContribution t) := fun h => nomatch h
theorem VeRegisterRow.anchorPassClose (k : PlanKind) : VeRegisterRow.Statement (.anchorPassClose k) := fun h => nomatch h
theorem VeRegisterRow.ownerFinish (t : Tile) : VeRegisterRow.Statement (.ownerFinish t) := fun h => nomatch h
theorem VeRegisterRow.veTaskTake (t : Tile) : VeRegisterRow.Statement (.veTaskTake t) := fun h => nomatch h
theorem VeRegisterRow.ldb (t : Tile) (x : VeWord) : VeRegisterRow.Statement (.ldb t x) := fun h => nomatch h
theorem VeRegisterRow.stb (t : Tile) (x : VeWord) : VeRegisterRow.Statement (.stb t x) := fun h => nomatch h
theorem VeRegisterRow.mov (t : Tile) (x : VeWord) : VeRegisterRow.Statement (.mov t x) := fun _ => rfl
theorem VeRegisterRow.add (t : Tile) (x : VeWord) : VeRegisterRow.Statement (.add t x) := fun _ => rfl
theorem VeRegisterRow.sub (t : Tile) (x : VeWord) : VeRegisterRow.Statement (.sub t x) := fun _ => rfl
theorem VeRegisterRow.mul (t : Tile) (x : VeWord) : VeRegisterRow.Statement (.mul t x) := fun _ => rfl
theorem VeRegisterRow.fma (t : Tile) (x : VeWord) : VeRegisterRow.Statement (.fma t x) := fun _ => rfl
theorem VeRegisterRow.max (t : Tile) (x : VeWord) : VeRegisterRow.Statement (.max t x) := fun _ => rfl
theorem VeRegisterRow.min (t : Tile) (x : VeWord) : VeRegisterRow.Statement (.min t x) := fun _ => rfl
theorem VeRegisterRow.abs (t : Tile) (x : VeWord) : VeRegisterRow.Statement (.abs t x) := fun _ => rfl
theorem VeRegisterRow.neg (t : Tile) (x : VeWord) : VeRegisterRow.Statement (.neg t x) := fun _ => rfl
theorem VeRegisterRow.cvt (t : Tile) (x : VeWord) : VeRegisterRow.Statement (.cvt t x) := fun _ => rfl
theorem VeRegisterRow.cmplt (t : Tile) (x : VeWord) : VeRegisterRow.Statement (.cmplt t x) := fun _ => rfl
theorem VeRegisterRow.cmpeq (t : Tile) (x : VeWord) : VeRegisterRow.Statement (.cmpeq t x) := fun _ => rfl
theorem VeRegisterRow.sel (t : Tile) (x : VeWord) : VeRegisterRow.Statement (.sel t x) := fun _ => rfl
theorem VeRegisterRow.exp (t : Tile) (x : VeWord) : VeRegisterRow.Statement (.exp t x) := fun _ => rfl
theorem VeRegisterRow.log (t : Tile) (x : VeWord) : VeRegisterRow.Statement (.log t x) := fun _ => rfl
theorem VeRegisterRow.rsqrt (t : Tile) (x : VeWord) : VeRegisterRow.Statement (.rsqrt t x) := fun _ => rfl
theorem VeRegisterRow.tanh (t : Tile) (x : VeWord) : VeRegisterRow.Statement (.tanh t x) := fun _ => rfl
theorem VeRegisterRow.rcp (t : Tile) (x : VeWord) : VeRegisterRow.Statement (.rcp t x) := fun _ => rfl
theorem VeRegisterRow.perm (t : Tile) (x : VeWord) : VeRegisterRow.Statement (.perm t x) := fun _ => rfl
theorem VeRegisterRow.shuf (t : Tile) (x : VeWord) : VeRegisterRow.Statement (.shuf t x) := fun _ => rfl
theorem VeRegisterRow.pack (t : Tile) (x : VeWord) : VeRegisterRow.Statement (.pack t x) := fun _ => rfl
theorem VeRegisterRow.unpack (t : Tile) (x : VeWord) : VeRegisterRow.Statement (.unpack t x) := fun _ => rfl
theorem VeRegisterRow.trb (t : Tile) (x : VeWord) : VeRegisterRow.Statement (.trb t x) := fun _ => rfl
theorem VeRegisterRow.rowsum (t : Tile) (x : VeWord) : VeRegisterRow.Statement (.rowsum t x) := fun _ => rfl
theorem VeRegisterRow.rowdot (t : Tile) (x : VeWord) : VeRegisterRow.Statement (.rowdot t x) := fun _ => rfl
theorem VeRegisterRow.rowmax (t : Tile) (x : VeWord) : VeRegisterRow.Statement (.rowmax t x) := fun _ => rfl
theorem VeRegisterRow.rowmin (t : Tile) (x : VeWord) : VeRegisterRow.Statement (.rowmin t x) := fun _ => rfl
theorem VeRegisterRow.rowcnt (t : Tile) (x : VeWord) : VeRegisterRow.Statement (.rowcnt t x) := fun _ => rfl
theorem VeRegisterRow.colsum (t : Tile) (x : VeWord) : VeRegisterRow.Statement (.colsum t x) := fun h => nomatch h
theorem VeRegisterRow.divn (t : Tile) (x : VeWord) : VeRegisterRow.Statement (.divn t x) := fun _ => rfl
theorem VeRegisterRow.xch (t : Tile) (x : VeWord) : VeRegisterRow.Statement (.xch t x) := fun _ => rfl
theorem VeRegisterRow.xchCombine (brow : BitVec 24) (idx2 : BitVec 16) : VeRegisterRow.Statement (.xchCombine brow idx2) := fun h => nomatch h
theorem VeRegisterRow.rowtopk (t : Tile) (x : VeWord) : VeRegisterRow.Statement (.rowtopk t x) := fun _ => rfl
theorem VeRegisterRow.tkemit (t : Tile) (x : VeWord) : VeRegisterRow.Statement (.tkemit t x) := fun h => nomatch h
theorem VeRegisterRow.summ (t : Tile) (x : VeWord) : VeRegisterRow.Statement (.summ t x) := fun _ => rfl
theorem VeRegisterRow.acceptBlockRow (k : PlanKind) (ctx : Fin 256) : VeRegisterRow.Statement (.acceptBlockRow k ctx) := fun h => nomatch h
theorem VeRegisterRow.dispatchFrame (f : Frame) : VeRegisterRow.Statement (.dispatchFrame f) := fun h => nomatch h
theorem VeRegisterRow.closeFrame (f : Frame) : VeRegisterRow.Statement (.closeFrame f) := fun h => nomatch h
theorem VeRegisterRow.epochFrame (f : Frame) : VeRegisterRow.Statement (.epochFrame f) := fun h => nomatch h
theorem VeRegisterRow.arrivalFlush (ctx : Fin 256) (loc : BitVec 16) (blk : Nat) : VeRegisterRow.Statement (.arrivalFlush ctx loc blk) := fun h => nomatch h
theorem VeRegisterRow.returnSend (src : DeviceId) (ticket : Fin 131072) : VeRegisterRow.Statement (.returnSend src ticket) := fun h => nomatch h
theorem VeRegisterRow.returnFrame (f : Frame) : VeRegisterRow.Statement (.returnFrame f) := fun h => nomatch h
theorem VeRegisterRow.answerTimeout : VeRegisterRow.Statement (.answerTimeout) := fun h => nomatch h
theorem VeRegisterRow.ticketStallLimit (ctx : Fin 256) : VeRegisterRow.Statement (.ticketStallLimit ctx) := fun h => nomatch h
theorem VeRegisterRow.nmuFill : VeRegisterRow.Statement (.nmuFill) := fun h => nomatch h
theorem VeRegisterRow.nmuInitUniform : VeRegisterRow.Statement (.nmuInitUniform) := fun h => nomatch h
theorem VeRegisterRow.nmuSgdm : VeRegisterRow.Statement (.nmuSgdm) := fun h => nomatch h
theorem VeRegisterRow.nmuAdamw : VeRegisterRow.Statement (.nmuAdamw) := fun h => nomatch h
theorem VeRegisterRow.nmuScale : VeRegisterRow.Statement (.nmuScale) := fun h => nomatch h
theorem VeRegisterRow.nmuCompare : VeRegisterRow.Statement (.nmuCompare) := fun h => nomatch h
theorem VeRegisterRow.nmuJobEnd : VeRegisterRow.Statement (.nmuJobEnd) := fun h => nomatch h
theorem VeRegisterRow.sramScrubRead (t : Tile) (g : Fin 196608) : VeRegisterRow.Statement (.sramScrubRead t g) := fun h => nomatch h
theorem VeRegisterRow.dramPatrolRead (c : ChanNo) (burst : Nat) : VeRegisterRow.Statement (.dramPatrolRead c burst) := fun h => nomatch h
theorem VeRegisterRow.dramRefresh (c : ChanNo) (bank : Fin 16) (mr4 : Fin 32) : VeRegisterRow.Statement (.dramRefresh c bank mr4) := fun h => nomatch h
theorem VeRegisterRow.zqLatch (c : ChanNo) : VeRegisterRow.Statement (.zqLatch c) := fun h => nomatch h
theorem VeRegisterRow.wckTracking (c : ChanNo) (inWindow : Bool) : VeRegisterRow.Statement (.wckTracking c inWindow) := fun h => nomatch h
theorem VeRegisterRow.channelRetrain (c : ChanNo) : VeRegisterRow.Statement (.channelRetrain c) := fun h => nomatch h
theorem VeRegisterRow.evacuationStart (w : World) (val : W32) : VeRegisterRow.Statement (.evacuationStart w val) := fun h => nomatch h
theorem VeRegisterRow.evacGranuleMove : VeRegisterRow.Statement (.evacGranuleMove) := fun h => nomatch h
theorem VeRegisterRow.meshPacketRoute (p : MeshPacket) : VeRegisterRow.Statement (.meshPacketRoute p) := fun h => nomatch h
theorem VeRegisterRow.mcWrite (p : MeshPacket) : VeRegisterRow.Statement (.mcWrite p) := fun h => nomatch h
theorem VeRegisterRow.mcBranchPrune (id : Nat) (b : McBranch) : VeRegisterRow.Statement (.mcBranchPrune id b) := fun h => nomatch h
theorem VeRegisterRow.mcDone (id : Nat) : VeRegisterRow.Statement (.mcDone id) := fun h => nomatch h
theorem VeRegisterRow.bridgeFlitReceive (b : BridgeLink) (f : BridgeFlit) : VeRegisterRow.Statement (.bridgeFlitReceive b f) := fun h => nomatch h
theorem VeRegisterRow.bridgeNak (b : BridgeLink) (last : Fin 256) : VeRegisterRow.Statement (.bridgeNak b last) := fun h => nomatch h
theorem VeRegisterRow.bridgeRetrain (b : BridgeLink) : VeRegisterRow.Statement (.bridgeRetrain b) := fun h => nomatch h
theorem VeRegisterRow.lhlFlitReceive (f : Flit) : VeRegisterRow.Statement (.lhlFlitReceive f) := fun h => nomatch h
theorem VeRegisterRow.lhlNak (last : Fin 4096) : VeRegisterRow.Statement (.lhlNak last) := fun h => nomatch h
theorem VeRegisterRow.lhlReplayTimeout : VeRegisterRow.Statement (.lhlReplayTimeout) := fun h => nomatch h
theorem VeRegisterRow.lhlAckDue : VeRegisterRow.Statement (.lhlAckDue) := fun h => nomatch h
theorem VeRegisterRow.lhlSignalDetect (lanes : BitVec 8) : VeRegisterRow.Statement (.lhlSignalDetect lanes) := fun h => nomatch h
theorem VeRegisterRow.lhlTrainDone (lanes : BitVec 8) : VeRegisterRow.Statement (.lhlTrainDone lanes) := fun h => nomatch h
theorem VeRegisterRow.lhlTrainTimeout : VeRegisterRow.Statement (.lhlTrainTimeout) := fun h => nomatch h
theorem VeRegisterRow.lhlRetrainEntry (c : RetrainCause) : VeRegisterRow.Statement (.lhlRetrainEntry c) := fun h => nomatch h
theorem VeRegisterRow.lhlRetrainDone (lanes : BitVec 8) : VeRegisterRow.Statement (.lhlRetrainDone lanes) := fun h => nomatch h
theorem VeRegisterRow.lhlRetrainTimeout : VeRegisterRow.Statement (.lhlRetrainTimeout) := fun h => nomatch h
theorem VeRegisterRow.lhlDownLimit : VeRegisterRow.Statement (.lhlDownLimit) := fun h => nomatch h
theorem VeRegisterRow.hostCompletion (tag : Fin 4096) (status : Fin 4) (data : Bytes) : VeRegisterRow.Statement (.hostCompletion tag status data) := fun h => nomatch h
theorem VeRegisterRow.cplTimeout (tag : Fin 4096) : VeRegisterRow.Statement (.cplTimeout tag) := fun h => nomatch h
theorem VeRegisterRow.nudge (w : World) (operand : W64) : VeRegisterRow.Statement (.nudge w operand) := fun h => nomatch h
theorem VeRegisterRow.wake (w : World) (operand : W64) : VeRegisterRow.Statement (.wake w operand) := fun h => nomatch h
theorem VeRegisterRow.lhlResetCold (w : World) (operand : W64) (b : BringUp) : VeRegisterRow.Statement (.lhlResetCold w operand b) := fun h => nomatch h
theorem VeRegisterRow.lhlResetWarm (w : World) (operand : W64) (b : BringUp) : VeRegisterRow.Statement (.lhlResetWarm w operand b) := fun h => nomatch h
theorem VeRegisterRow.lhlResetDie (w : World) (operand : W64) : VeRegisterRow.Statement (.lhlResetDie w operand) := fun h => nomatch h
theorem VeRegisterRow.hqeScan : VeRegisterRow.Statement (.hqeScan) := fun h => nomatch h
theorem VeRegisterRow.descriptorFetch (n : RingNo) : VeRegisterRow.Statement (.descriptorFetch n) := fun h => nomatch h
theorem VeRegisterRow.descriptorSeqRecheck (n : RingNo) : VeRegisterRow.Statement (.descriptorSeqRecheck n) := fun h => nomatch h
theorem VeRegisterRow.descriptorIssue : VeRegisterRow.Statement (.descriptorIssue) := fun h => nomatch h
theorem VeRegisterRow.cqSpacePoll (n : RingNo) : VeRegisterRow.Statement (.cqSpacePoll n) := fun h => nomatch h
theorem VeRegisterRow.coalesceTimer (n : RingNo) : VeRegisterRow.Statement (.coalesceTimer n) := fun h => nomatch h
theorem VeRegisterRow.ringEnable (w : World) (n : RingNo) (cfg : W64) : VeRegisterRow.Statement (.ringEnable w n cfg) := fun h => nomatch h
theorem VeRegisterRow.ringDisable (w : World) (n : RingNo) (cfg : W64) : VeRegisterRow.Statement (.ringDisable w n cfg) := fun h => nomatch h
theorem VeRegisterRow.ringDrained (n : RingNo) : VeRegisterRow.Statement (.ringDrained n) := fun h => nomatch h
theorem VeRegisterRow.ringReset (w : World) (n : RingNo) (cfg : W64) : VeRegisterRow.Statement (.ringReset w n cfg) := fun h => nomatch h
theorem VeRegisterRow.qxfFlitReceive (p : PortNo) (f : Flit) : VeRegisterRow.Statement (.qxfFlitReceive p f) := fun h => nomatch h
theorem VeRegisterRow.qxfNak (p : PortNo) (last : Fin 4096) : VeRegisterRow.Statement (.qxfNak p last) := fun h => nomatch h
theorem VeRegisterRow.qxfReplayTimeout (p : PortNo) : VeRegisterRow.Statement (.qxfReplayTimeout p) := fun h => nomatch h
theorem VeRegisterRow.qxfSignalDetect (p : PortNo) (lanes : BitVec 4) : VeRegisterRow.Statement (.qxfSignalDetect p lanes) := fun h => nomatch h
theorem VeRegisterRow.qxfTrainDone (p : PortNo) (lanes : BitVec 4) : VeRegisterRow.Statement (.qxfTrainDone p lanes) := fun h => nomatch h
theorem VeRegisterRow.qxfTrainTimeout (p : PortNo) : VeRegisterRow.Statement (.qxfTrainTimeout p) := fun h => nomatch h
theorem VeRegisterRow.qxfRetrainEntry (p : PortNo) (c : RetrainCause) : VeRegisterRow.Statement (.qxfRetrainEntry p c) := fun h => nomatch h
theorem VeRegisterRow.qxfRetrainDone (p : PortNo) (lanes : BitVec 4) : VeRegisterRow.Statement (.qxfRetrainDone p lanes) := fun h => nomatch h
theorem VeRegisterRow.qxfRetrainTimeout (p : PortNo) : VeRegisterRow.Statement (.qxfRetrainTimeout p) := fun h => nomatch h
theorem VeRegisterRow.portDownTimeout (p : PortNo) : VeRegisterRow.Statement (.portDownTimeout p) := fun h => nomatch h
theorem VeRegisterRow.fabricTransit (p : PortNo) (x : FabPacket) : VeRegisterRow.Statement (.fabricTransit p x) := fun h => nomatch h
theorem VeRegisterRow.fabricWrite (p : PortNo) (m : List FabPacket) : VeRegisterRow.Statement (.fabricWrite p m) := fun h => nomatch h
theorem VeRegisterRow.fabricRead (p : PortNo) (m : List FabPacket) : VeRegisterRow.Statement (.fabricRead p m) := fun h => nomatch h
theorem VeRegisterRow.fabricResponse (p : PortNo) (m : List FabPacket) : VeRegisterRow.Statement (.fabricResponse p m) := fun h => nomatch h
theorem VeRegisterRow.reductionContribution (w : World) (own : Bool) (m : List FabPacket) : VeRegisterRow.Statement (.reductionContribution w own m) := fun h => nomatch h
theorem VeRegisterRow.reductionWaitTimeout (k : PlanKind) (win : Fin 64) (blk : Nat) : VeRegisterRow.Statement (.reductionWaitTimeout k win blk) := fun h => nomatch h
theorem VeRegisterRow.anchorMessage (p : PortNo) (m : List FabPacket) : VeRegisterRow.Statement (.anchorMessage p m) := fun h => nomatch h
theorem VeRegisterRow.mirrorMessage (p : PortNo) (m : List FabPacket) : VeRegisterRow.Statement (.mirrorMessage p m) := fun h => nomatch h
theorem VeRegisterRow.doneReceive (src : DeviceId) (msg : W32) (status : Fin 3) : VeRegisterRow.Statement (.doneReceive src msg status) := fun h => nomatch h
theorem VeRegisterRow.retryResend (peer : DeviceId) (msg : W32) : VeRegisterRow.Statement (.retryResend peer msg) := fun h => nomatch h
theorem VeRegisterRow.probeReceive (src : DeviceId) : VeRegisterRow.Statement (.probeReceive src) := fun h => nomatch h
theorem VeRegisterRow.msgTimeoutExpire (peer : DeviceId) (msg : W32) : VeRegisterRow.Statement (.msgTimeoutExpire peer msg) := fun h => nomatch h
theorem VeRegisterRow.probeInterval : VeRegisterRow.Statement (.probeInterval) := fun h => nomatch h
theorem VeRegisterRow.peerCacheFill (peer : DeviceId) : VeRegisterRow.Statement (.peerCacheFill peer) := fun h => nomatch h
theorem VeRegisterRow.mirrorSeedPage (n : Fin 64) : VeRegisterRow.Statement (.mirrorSeedPage n) := fun h => nomatch h
theorem VeRegisterRow.mirrorReseed (w : World) : VeRegisterRow.Statement (.mirrorReseed w) := fun h => nomatch h
theorem VeRegisterRow.rasWatchRearm (w : World) : VeRegisterRow.Statement (.rasWatchRearm w) := fun h => nomatch h
theorem VeRegisterRow.revokeSlot (w : World) (slot : Fin 4) : VeRegisterRow.Statement (.revokeSlot w slot) := fun h => nomatch h
theorem VeRegisterRow.attestPeer (w : World) (peer : DeviceId) : VeRegisterRow.Statement (.attestPeer w peer) := fun h => nomatch h
theorem VeRegisterRow.attestResult (r : AttestEnd) : VeRegisterRow.Statement (.attestResult r) := fun h => nomatch h
theorem VeRegisterRow.getVersion (t : Transport) (req : Bytes) : VeRegisterRow.Statement (.getVersion t req) := fun h => nomatch h
theorem VeRegisterRow.getCapabilities (t : Transport) (req : Bytes) : VeRegisterRow.Statement (.getCapabilities t req) := fun h => nomatch h
theorem VeRegisterRow.negotiateAlgorithms (t : Transport) (req : Bytes) : VeRegisterRow.Statement (.negotiateAlgorithms t req) := fun h => nomatch h
theorem VeRegisterRow.getDigests (t : Transport) (req : Bytes) : VeRegisterRow.Statement (.getDigests t req) := fun h => nomatch h
theorem VeRegisterRow.getCertificate (t : Transport) (slot : Byte) (req : Bytes) : VeRegisterRow.Statement (.getCertificate t slot req) := fun h => nomatch h
theorem VeRegisterRow.challenge (t : Transport) (req : Bytes) : VeRegisterRow.Statement (.challenge t req) := fun h => nomatch h
theorem VeRegisterRow.getMeasurements (t : Transport) (idx : Byte) (req : Bytes) : VeRegisterRow.Statement (.getMeasurements t idx req) := fun h => nomatch h
theorem VeRegisterRow.spdmUnsupportedRequest (t : Transport) (code : Byte) (req : Bytes) : VeRegisterRow.Statement (.spdmUnsupportedRequest t code req) := fun h => nomatch h
theorem VeRegisterRow.dbgNonceRead (h : Half) : VeRegisterRow.Statement (.dbgNonceRead h) := fun h => nomatch h
theorem VeRegisterRow.dbgResponseCheck (val : W32) : VeRegisterRow.Statement (.dbgResponseCheck val) := fun h => nomatch h
theorem VeRegisterRow.dbgLockoutExpire : VeRegisterRow.Statement (.dbgLockoutExpire) := fun h => nomatch h
theorem VeRegisterRow.powerReading (watts : Fin 4096) : VeRegisterRow.Statement (.powerReading watts) := fun h => nomatch h
theorem VeRegisterRow.tclkSwitchUp (d : Die) : VeRegisterRow.Statement (.tclkSwitchUp d) := fun h => nomatch h
theorem VeRegisterRow.amberSample (sensor : Fin 101) (raw : BitVec 16) : VeRegisterRow.Statement (.amberSample sensor raw) := fun h => nomatch h
theorem VeRegisterRow.thermalStepRepeat : VeRegisterRow.Statement (.thermalStepRepeat) := fun h => nomatch h
theorem VeRegisterRow.thermalPointRise : VeRegisterRow.Statement (.thermalPointRise) := fun h => nomatch h
theorem VeRegisterRow.amberShadeEntry : VeRegisterRow.Statement (.amberShadeEntry) := fun h => nomatch h
theorem VeRegisterRow.regulatorAlert (st : RegStatus) : VeRegisterRow.Statement (.regulatorAlert st) := fun h => nomatch h
theorem VeRegisterRow.ambWdogKick (w : World) : VeRegisterRow.Statement (.ambWdogKick w) := fun h => nomatch h
theorem VeRegisterRow.watchdogExpire (b : BringUp) : VeRegisterRow.Statement (.watchdogExpire b) := fun h => nomatch h
theorem VeRegisterRow.amberAlarm : VeRegisterRow.Statement (.amberAlarm) := fun h => nomatch h
theorem VeRegisterRow.aclkTrim : VeRegisterRow.Statement (.aclkTrim) := fun h => nomatch h
theorem VeRegisterRow.timeAlignPulse (skew : Byte) : VeRegisterRow.Statement (.timeAlignPulse skew) := fun h => nomatch h
theorem VeRegisterRow.autoGreyEntry : VeRegisterRow.Statement (.autoGreyEntry) := fun h => nomatch h
theorem VeRegisterRow.tileClockGate (t : Tile) : VeRegisterRow.Statement (.tileClockGate t) := fun h => nomatch h
theorem VeRegisterRow.shadeWake (x : WakeTrigger) : VeRegisterRow.Statement (.shadeWake x) := fun h => nomatch h
theorem VeRegisterRow.blackWake (x : WakeTrigger) (b : BringUp) : VeRegisterRow.Statement (.blackWake x b) := fun h => nomatch h
theorem VeRegisterRow.eventFire (w : World) (val : W32) : VeRegisterRow.Statement (.eventFire w val) := fun h => nomatch h
theorem VeRegisterRow.eventClaim (w : World) (c : Fin 19) (h : Half) : VeRegisterRow.Statement (.eventClaim w c h) := fun h => nomatch h
theorem VeRegisterRow.eventEoi (w : World) (c : Fin 19) (val : W32) : VeRegisterRow.Statement (.eventEoi w c val) := fun h => nomatch h
theorem VeRegisterRow.eventRecordWrite (n : RingNo) : VeRegisterRow.Statement (.eventRecordWrite n) := fun h => nomatch h
theorem VeRegisterRow.modWakeN : VeRegisterRow.Statement (.modWakeN) := fun h => nomatch h
theorem VeRegisterRow.modResetN (lowNs : Nat) (b : BringUp) : VeRegisterRow.Statement (.modResetN lowNs b) := fun h => nomatch h
theorem VeRegisterRow.inputPowerRise (b : BringUp) : VeRegisterRow.Statement (.inputPowerRise b) := fun h => nomatch h
theorem VeRegisterRow.inputPowerLoss : VeRegisterRow.Statement (.inputPowerLoss) := fun h => nomatch h
theorem VeRegisterRow.rscSwrstCold (w : World) (b : BringUp) : VeRegisterRow.Statement (.rscSwrstCold w b) := fun h => nomatch h
theorem VeRegisterRow.rscSwrstWarm (w : World) (b : BringUp) : VeRegisterRow.Statement (.rscSwrstWarm w b) := fun h => nomatch h
theorem VeRegisterRow.rscSwrstDie (w : World) (d : Die) : VeRegisterRow.Statement (.rscSwrstDie w d) := fun h => nomatch h
theorem VeRegisterRow.blockReset (w : World) (val : W32) : VeRegisterRow.Statement (.blockReset w val) := fun h => nomatch h
theorem VeRegisterRow.blockQuiesceDone : VeRegisterRow.Statement (.blockQuiesceDone) := fun h => nomatch h
theorem VeRegisterRow.blockQuiesceTimeout (aborted : Nat) : VeRegisterRow.Statement (.blockQuiesceTimeout aborted) := fun h => nomatch h
theorem VeRegisterRow.rscBootGood (w : World) : VeRegisterRow.Statement (.rscBootGood w) := fun h => nomatch h
theorem VeRegisterRow.ashBegin (slot : Fin 2) (len : Nat) : VeRegisterRow.Statement (.ashBegin slot len) := fun h => nomatch h
theorem VeRegisterRow.ashData (off : Nat) (data : Bytes) : VeRegisterRow.Statement (.ashData off data) := fun h => nomatch h
theorem VeRegisterRow.ashEnd (b : BringUp) : VeRegisterRow.Statement (.ashEnd b) := fun h => nomatch h
theorem VeRegisterRow.setEndpointId (eid : Byte) : VeRegisterRow.Statement (.setEndpointId eid) := fun h => nomatch h
theorem VeRegisterRow.getEndpointId : VeRegisterRow.Statement (.getEndpointId) := fun h => nomatch h
theorem VeRegisterRow.getMctpVersionSupport : VeRegisterRow.Statement (.getMctpVersionSupport) := fun h => nomatch h
theorem VeRegisterRow.getMessageTypeSupport : VeRegisterRow.Statement (.getMessageTypeSupport) := fun h => nomatch h
theorem VeRegisterRow.entdaa (addr : Fin 128) : VeRegisterRow.Statement (.entdaa addr) := fun h => nomatch h
theorem VeRegisterRow.getTid : VeRegisterRow.Statement (.getTid) := fun h => nomatch h
theorem VeRegisterRow.getPldmVersion : VeRegisterRow.Statement (.getPldmVersion) := fun h => nomatch h
theorem VeRegisterRow.getPldmTypes : VeRegisterRow.Statement (.getPldmTypes) := fun h => nomatch h
theorem VeRegisterRow.getPldmCommands : VeRegisterRow.Statement (.getPldmCommands) := fun h => nomatch h
theorem VeRegisterRow.getPdrRepositoryInfo : VeRegisterRow.Statement (.getPdrRepositoryInfo) := fun h => nomatch h
theorem VeRegisterRow.getPdr (handle : Nat) : VeRegisterRow.Statement (.getPdr handle) := fun h => nomatch h
theorem VeRegisterRow.getSensorReading (sensorId : BitVec 16) : VeRegisterRow.Statement (.getSensorReading sensorId) := fun h => nomatch h
theorem VeRegisterRow.pldmUnsupportedCmd (typ cmd : Byte) : VeRegisterRow.Statement (.pldmUnsupportedCmd typ cmd) := fun h => nomatch h
theorem VeRegisterRow.qxfAckDue (p : PortNo) : VeRegisterRow.Statement (.qxfAckDue p) := fun h => nomatch h
theorem VeRegisterRow.anchorRoundTimeout (k : PlanKind) (g : Fin 64) : VeRegisterRow.Statement (.anchorRoundTimeout k g) := fun h => nomatch h
theorem VeRegisterRow.probeAnswerTimeout (peer : DeviceId) : VeRegisterRow.Statement (.probeAnswerTimeout peer) := fun h => nomatch h
theorem VeRegisterRow.bridgeRetrainDone (b : BridgeLink) : VeRegisterRow.Statement (.bridgeRetrainDone b) := fun h => nomatch h
theorem VeRegisterRow.channelRetrainDone (c : ChanNo) : VeRegisterRow.Statement (.channelRetrainDone c) := fun h => nomatch h
theorem VeRegisterRow.inPlaceRestartDone : VeRegisterRow.Statement (.inPlaceRestartDone) := fun h => nomatch h
theorem VeRegisterRow.amberCoreUe (b : BringUp) : VeRegisterRow.Statement (.amberCoreUe b) := fun h => nomatch h
theorem VeRegisterRow.modResetNRelease (b : BringUp) : VeRegisterRow.Statement (.modResetNRelease b) := fun h => nomatch h

end Sys2Proof.Laws
end

