-- ==== Sys2Proof/Laws/Regs.lean ====
section
/-! SUPPORT. The register map: every instance of a register line lies at an offset of its own, and the decoder of offsets
finds it there (R9). -/

namespace Sys2Proof.Machine

/-- The offset just past the last instance of a line's inner index. -/
def regSpan (g : RegInfo) : Nat := if g.s2 = 0 then 1 else g.s2 * g.n2

/-- A line's own instances decode: its inner index fits between two outer ones. -/
def selfOk (g : RegInfo) : Bool :=
  decide (0 < g.n1) && decide (0 < g.n2) && (g.s1 != 0 || g.n1 == 1) && (g.s2 != 0 || g.n2 == 1)
    && (g.s1 == 0 || decide (regSpan g ≤ g.s1))

/-- No instance of line `g` decodes as one of line `m`: it lies below, beyond, or between `m`'s instances. -/
def sepOk (g m : RegInfo) : Bool :=
  decide (g.base + g.s1 * (g.n1 - 1) + g.s2 * (g.n2 - 1) < m.base)
    || decide (m.base + (if m.s1 = 0 then regSpan m else m.s1 * m.n1) ≤ g.base)
    || (m.s1 != 0 && g.s1 == m.s1 &&
      ((decide (m.base + regSpan m ≤ g.base) && decide (g.base - m.base + g.s2 * (g.n2 - 1) < m.s1))
      || (decide (g.base + g.s2 * (g.n2 - 1) < m.base) && decide (m.base - g.base + regSpan m ≤ m.s1))))

theorem regAt_beyond (m : RegName) {o : Nat} (hm : selfOk (regInfo m) = true)
    (h : (regInfo m).base + (if (regInfo m).s1 = 0 then regSpan (regInfo m) else (regInfo m).s1 * (regInfo m).n1) ≤ o) :
    regAt m o = none := by
  generalize hg : regInfo m = g at *
  obtain ⟨base, n1, s1, n2, s2, wide, world, reset, rw', w1c, sh, qu, moment⟩ := g
  simp only [selfOk, regSpan, Bool.and_eq_true, Bool.or_eq_true, decide_eq_true_eq, bne_iff_ne, beq_iff_eq, ne_eq] at hm h
  simp only [regAt, hg]
  obtain ⟨⟨⟨⟨h1, h2⟩, h3⟩, h4⟩, h5⟩ := hm
  have hb : ¬ o < base := by omega
  rw [if_neg hb]
  by_cases hs : s1 = 0
  · subst hs
    simp only [if_true] at h ⊢
    by_cases hs2 : s2 = 0
    · subst hs2; simp only [if_true] at h ⊢
      have : o - base ≠ 0 := by omega
      simp [this]
    · simp only [hs2, if_false] at h ⊢
      have : n2 ≤ (o - base) / s2 := by
        rw [Nat.le_div_iff_mul_le (Nat.pos_of_ne_zero hs2), Nat.mul_comm]; omega
      simp [Nat.not_lt.2 this]
  · simp only [hs, if_false] at h ⊢
    have : n1 ≤ (o - base) / s1 := by
      rw [Nat.le_div_iff_mul_le (Nat.pos_of_ne_zero hs), Nat.mul_comm]; omega
    simp [Nat.not_lt.2 this]

/-- Between two outer instances of line `m` there is none. -/
theorem regAt_between (m : RegName) {o k r : Nat} (hm : selfOk (regInfo m) = true) (hs : (regInfo m).s1 ≠ 0)
    (ho : o = (regInfo m).base + (regInfo m).s1 * k + r) (hr : regSpan (regInfo m) ≤ r) (hr' : r < (regInfo m).s1) :
    regAt m o = none := by
  generalize hg : regInfo m = g at *
  obtain ⟨base, n1, s1, n2, s2, wide, world, reset, rw', w1c, sh, qu, moment⟩ := g
  simp only [selfOk, regSpan, Bool.and_eq_true, Bool.or_eq_true, decide_eq_true_eq, bne_iff_ne, beq_iff_eq, ne_eq] at hm hr hs ho hr'
  simp only [regAt, hg]
  have hb : ¬ o < base := by omega
  have hd : (o - base) % s1 = r := by
    rw [show o - base = r + s1 * k by omega, Nat.add_mul_mod_self_left, Nat.mod_eq_of_lt hr']
  rw [if_neg hb]
  simp only [hs, if_false, hd]
  by_cases hs2 : s2 = 0
  · subst hs2; simp only [if_true] at hr ⊢
    simp [show r ≠ 0 by omega]
  · simp only [hs2, if_false] at hr ⊢
    have : n2 ≤ r / s2 := by
      rw [Nat.le_div_iff_mul_le (Nat.pos_of_ne_zero hs2), Nat.mul_comm]; omega
    simp [Nat.not_lt.2 this]

theorem regAt_sep (n m : RegName) {i j : Nat} (hm : selfOk (regInfo m) = true) (h : sepOk (regInfo n) (regInfo m) = true)
    (hi : i < (regInfo n).n1) (hj : j < (regInfo n).n2) : regAt m (regOff n i j) = none := by
  have hi' : (regInfo n).s1 * i ≤ (regInfo n).s1 * ((regInfo n).n1 - 1) := Nat.mul_le_mul_left _ (by omega)
  have hj' : (regInfo n).s2 * j ≤ (regInfo n).s2 * ((regInfo n).n2 - 1) := Nat.mul_le_mul_left _ (by omega)
  simp only [sepOk, Bool.or_eq_true, Bool.and_eq_true, decide_eq_true_eq, bne_iff_ne, beq_iff_eq, ne_eq] at h
  unfold regOff
  rcases h with (h | h) | ⟨⟨hs, he⟩, h | h⟩
  · rw [regAt, if_pos (by omega)]
  · exact regAt_beyond m hm (by omega)
  · refine regAt_between m (k := i) (r := (regInfo n).base - (regInfo m).base + (regInfo n).s2 * j) hm hs ?_ (by omega) (by omega)
    rw [he]; omega
  · rcases Nat.eq_zero_or_pos i with rfl | hp
    · rw [regAt, if_pos (by simp; omega)]
    · obtain ⟨k, rfl⟩ : ∃ k, i = k + 1 := ⟨i - 1, by omega⟩
      refine regAt_between m (k := k) (r := (regInfo m).s1 - ((regInfo m).base - (regInfo n).base) + (regInfo n).s2 * j) hm hs
        ?_ (by omega) (by omega)
      rw [he, Nat.mul_add, Nat.mul_one]; omega

theorem regAt_self (n : RegName) {i j : Nat} (h : selfOk (regInfo n) = true) (hi : i < (regInfo n).n1)
    (hj : j < (regInfo n).n2) : regAt n (regOff n i j) = some (i, j) := by
  unfold regOff regAt
  generalize hg : regInfo n = g at *
  obtain ⟨base, n1, s1, n2, s2, wide, world, reset, rw', w1c, sh, qu, moment⟩ := g
  simp only [selfOk, regSpan, Bool.and_eq_true, Bool.or_eq_true, decide_eq_true_eq, bne_iff_ne, beq_iff_eq, ne_eq] at h hi hj ⊢
  obtain ⟨⟨⟨⟨h1, h2⟩, h3⟩, h4⟩, h5⟩ := h
  rw [if_neg (by omega), show base + s1 * i + s2 * j - base = s2 * j + s1 * i by omega]
  have hz2 : s2 = 0 → j = 0 := fun h => by rcases h4 with h4 | h4 <;> omega
  have hjlt : s1 ≠ 0 → s2 * j < s1 := fun h => by
    rcases h5 with h5 | h5
    · exact absurd h5 h
    · by_cases hs2 : s2 = 0
      · subst hs2; simp; omega
      · rw [if_neg hs2] at h5
        exact Nat.lt_of_lt_of_le (Nat.mul_lt_mul_of_pos_left hj (Nat.pos_of_ne_zero hs2)) h5
  by_cases hs : s1 = 0
  · subst hs
    have hi0 : i = 0 := by rcases h3 with h3 | h3 <;> omega
    subst hi0
    by_cases hs2 : s2 = 0
    · subst hs2; obtain rfl := hz2 rfl; simp [h1, h2]
    · simp [hs2, h1, hj, Nat.mul_div_cancel_left j (Nat.pos_of_ne_zero hs2)]
  · have hl := hjlt hs
    have hdiv : (s2 * j + s1 * i) / s1 = i := by
      rw [Nat.add_mul_div_left _ _ (Nat.pos_of_ne_zero hs), Nat.div_eq_of_lt hl, Nat.zero_add]
    have hmod : (s2 * j + s1 * i) % s1 = s2 * j := by rw [Nat.add_mul_mod_self_left, Nat.mod_eq_of_lt hl]
    by_cases hs2 : s2 = 0
    · subst hs2; obtain rfl := hz2 rfl; simp [hs, hi, h2, Nat.mul_div_cancel_left i (Nat.pos_of_ne_zero hs)]
    · simp [hs, hs2, hdiv, hmod, hi, hj, Nat.mul_div_cancel_left j (Nat.pos_of_ne_zero hs2)]

/-- Each line of a list is separate from every later one. -/
def listSep : List RegName → Bool
  | [] => true
  | m :: ms => selfOk (regInfo m) && ms.all (fun n => sepOk (regInfo n) (regInfo m)) && listSep ms

theorem findReg_regOff {l : List RegName} (hl : listSep l = true) {n : RegName} (hn : n ∈ l) {i j : Nat}
    (hi : i < (regInfo n).n1) (hj : j < (regInfo n).n2) : findReg (regOff n i j) l = some (n, i, j) := by
  induction l with
  | nil => cases hn
  | cons m ms ih =>
    simp only [listSep, Bool.and_eq_true, List.all_eq_true] at hl
    obtain ⟨⟨hm, hall⟩, hrest⟩ := hl
    rcases List.mem_cons.1 hn with rfl | hn
    · simp [findReg, regAt_self n hm hi hj]
    · simp [findReg, regAt_sep n m hm (hall n hn) hi hj, ih hrest hn]

theorem regNames_sep : listSep regNames = true := by decide +kernel

theorem mem_regNames (n : RegName) : n ∈ regNames := by cases n <;> decide

/-- Every instance of every register line is what its offset decodes to. -/
theorem regDecode_regOff (n : RegName) {i j : Nat} (hi : i < (regInfo n).n1) (hj : j < (regInfo n).n2) :
    regDecode (regOff n i j) = some (n, i, j) := findReg_regOff regNames_sep (mem_regNames n) hi hj

/-- Two instances at one offset are the same. -/
theorem regOff_inj {n m : RegName} {i j k l : Nat} (hi : i < (regInfo n).n1) (hj : j < (regInfo n).n2)
    (hk : k < (regInfo m).n1) (hl : l < (regInfo m).n2) (h : regOff n i j = regOff m k l) : n = m ∧ i = k ∧ j = l := by
  have := regDecode_regOff n hi hj
  rw [h, regDecode_regOff m hk hl] at this
  simpa [eq_comm] using this

end Sys2Proof.Machine
end

