-- ==== Sys2Proof/Tests/Slice0.lean ====
section
/-! SUPPORT. Tests: ill-formed commands are refused; the worked examples of the spec; small steps whose results come from
the rules; and a witness for the hypotheses of every statement that has some. -/

set_option Elab.async false

namespace Sys2Proof.Tests

open Machine

/-! ### The helpers -/

/-- A running part in White with the LHL ACTIVE. -/
def s0 : State := { lhl := { st := .active } }

/-- A command of ring 0, issued with identifier 1. -/
def cmd (op : Nat) (ops : Bytes) : Issued :=
  { iid := 1, ring := 0, world := .ns, op := op, seq := 0, tag := 0, irq := false, fence := false, ops := ops }

/-- The part with that command issued. -/
def sCmd (op : Nat) (ops : Bytes) : State := { s0 with hqe := { issued := [cmd op ops] } }

/-- A VE word of given destination and sources, PREC FP32 and RND RNE. -/
def vw (d a b c imm : Nat) : VeWord :=
  { rnd := 0, dst := Fin.ofNat 32 d, src1 := Fin.ofNat 32 a, src2 := Fin.ofNat 32 b, src3 := Fin.ofNat 32 c, prec := 0,
    imm := BitVec.ofNat 32 imm }

/-- A state that an outcome goes on with. -/
def out (o : Host.Outcome State Fault Refusal) : State :=
  match o with
  | .next t => t
  | _ => {}

/-! ### Well-formed commands: one ill-formed term for each check -/

/-- The command is ill-formed, and refused so. -/
def refusedBoth (c : Instr) : Bool :=
  !c.wellFormed && match exec c s0 with
    | .refused .illFormed => true
    | _ => false

def noFrame : Frame :=
  { typ := 1, attempt := 0, ctx := 0, format := 0, epoch := 0, src := 0, dst := 0, expert := 0, loc := 0, firstSlot := 0,
    count := 0, h := 0, ticket := 0, answerId := 0, step := 0, plen := 0, pres := 0, rsvd := [], hpar := 0, payload := [] }

def noMesh : MeshPacket :=
  { dest := 0, src := 0x7FF, typ := 6, ctl := 0, addr := 0, key := 0, x0 := 0, y0 := 0, w := 1, h := 1, mflags := 0,
    rsvd := 0, hpar := 0, mask := [], payload := [] }

def noFab : FabPacket :=
  { dst := 0, src := 0, typ := 1, flags := 0, hops := 0, attempt := 0, msg := 0, seg := 0, len := 0, addr := 0, key := 0,
    step := 0, rsvd := 0, pres := 0, hpar := 0, payload := zeroBytes 2049 }

theorem test_wellFormed_data : [Instr.gatherPosting 0 0 ⟨[]⟩,
    .gatherPosting 0 0 ⟨List.replicate 33 (0, [])⟩, .blockMerge .ns (zeroBytes 63) [0, 0, 0, 0, 0] [],
    .blockMerge .ns (zeroBytes 64) [0] [], .hostCompletion 0 0 (zeroBytes 4097)].all refusedBoth = true := by decide +kernel

theorem test_wellFormed_long (w : World) (a : DevAddr) (q : Fin 256) (k : W64) (n : Fin 8) (i m : W32) (bs : Bytes) :
    (65536 < bs.length → (Instr.cowCopy w a bs).wellFormed = false)
    ∧ (2 ^ 21 < bs.length → (Instr.queueEntryReceive q k n i m bs).wellFormed = false) :=
  ⟨fun h => decide_eq_false (Nat.not_le.2 h), fun h => decide_eq_false (Nat.not_le.2 h)⟩

theorem test_wellFormed_packets : [Instr.dispatchFrame noFrame, .closeFrame noFrame, .epochFrame noFrame, .returnFrame noFrame,
    .meshPacketRoute noMesh, .mcWrite noMesh, .mcWrite { noMesh with src := 0, w := 0 }, .mcWrite { noMesh with src := 0, typ := 1 },
    .fabricTransit 0 noFab, .fabricWrite 0 [], .fabricRead 0 [noFab], .fabricResponse 0 [], .reductionContribution .ns true [noFab],
    .anchorMessage 0 [noFab], .mirrorMessage 0 [noFab], .bridgeFlitReceive ⟨0, false⟩ ⟨0, [], 0⟩,
    .lhlFlitReceive ⟨0, 0, 0, false, 0, zeroBytes 249, 0⟩, .qxfFlitReceive 0 ⟨0, 0, 0, false, 0, zeroBytes 249, 0⟩].all
    refusedBoth = true := by decide +kernel

theorem test_wellFormed_veCodes : [Instr.ldb 0 { vw 0 0 0 0 0 with prec := 7 }, .stb 0 { vw 0 0 0 0 0 with rnd := 3 },
    .summ 0 { vw 0 0 0 0 0 with prec := 7 }, .tkemit 0 { vw 0 0 0 0 0 with rnd := 3 },
    .add 0 { vw 0 0 0 0 0 with prec := 7 }].all refusedBoth = true := by decide +kernel

theorem test_wellFormed_veShapes : [Instr.ldb 0 (vw 16 0 0 0 0), .mov 0 (vw 31 0 0 0 0), .mov 0 (vw 24 0 0 0 0),
    .add 0 (vw 16 0 16 0 0), .fma 0 (vw 24 24 24 16 0), .exp 0 (vw 31 0 0 0 0), .perm 0 (vw 16 0 0 0 0), .pack 0 (vw 0 0 24 0 0),
    .rowsum 0 (vw 0 0 0 0 0), .rowdot 0 (vw 16 0 31 0 0), .rowmax 0 (vw 16 31 0 0 0), .rowcnt 0 (vw 24 0 0 0 0),
    .colsum 0 (vw 0 0 0 0 7), .colsum 0 (vw 0 0 0 0 13), .colsum 0 (vw 0 31 0 0 8), .divn 0 (vw 16 0 0 0 0),
    .xch 0 (vw 0 16 0 0 0), .rowtopk 0 (vw 0 0 0 0 0), .rowtopk 0 (vw 0 0 0 0 17)].all refusedBoth = true := by decide +kernel

theorem test_wellFormed_ok : [Instr.rowtopk 0 (vw 0 0 0 0 16), .colsum 0 (vw 0 0 0 0 12), .add 0 (vw 16 16 31 0 0),
    .gatherPosting 0 0 ⟨List.replicate 32 (0, [])⟩, .lhlFlitReceive ⟨0, 0, 0, false, 0, zeroBytes 248, 0⟩].all
    Instr.wellFormed = true := by decide +kernel

/-! ### The worked examples of the spec -/

/-- 00_scope.md: tile (30, 20). -/
theorem test_scope_tile : tileId 30 20 = 990 ∧ tileDie 990 = 3 ∧ sramAddr 990 0 = 0x4001EF000000
    ∧ regOff .tilDaCtl 990 0 / 0x1000 * 0x1000 = 0x013DE000 := by decide +kernel

/-- 02_arithmetic.md: the block partial of the transposed example is 3, and the long partial rounds to 1.5 × 2^-38. -/
theorem test_arith_example : (bpAdd 1 {} (([.fin 1 0, .fin (-1) 0, .fin 3 (-39), .fin 5 (-41), .fin (-7) (-41)] : List Val).map fun v => product false v (.fin 1 0))).v = 3
    ∧ (lpFold {} 1 3 (-39) .none).1.v = 3 * 2 ^ 56
    ∧ (lpRound 0x04 .rne 0 { v := 3 * 2 ^ 56, anchor := 1, live := true }).1 = 0x2CC0 := by
  decide +kernel

/-- 03_layout.md: the BF16 weight of 4,096 rows × 16,384 columns at 0x2000_0000. -/
def tdLayout : Td := { base := 0x20000000, fmt := 0x04, loc := true, ndim := 2, ext := [16384, 4096], stride := [1, 64] }

theorem test_layout_example : tdS tdLayout = 0x22000 ∧ superAddr tdLayout (posOf [5000, 1000]) = 0x21C06000
    ∧ blkIndex (posOf [5000, 1000]) = 60 ∧ hdrAddr tdLayout (posOf [5000, 1000]) = 0x21C07E00
    ∧ fixedPoff tdLayout 60 = 3840 ∧ numOf [5000, 1000] = 264 := by decide +kernel

/-- 03_layout.md: the record of the long partial 3 × 2^56. -/
theorem test_layout_lpz : lpzRecord (3 * 2 ^ 56) = [0x13, 0x00, 0x00, 0x00, 0x00, 0x60] := by decide +kernel

/-- 11_memory.md: where the element at 0x21C2_6210 lies. -/
theorem test_memory_interleave : dramChan 0x21C26210 = 56 ∧ dramLocal 0x21C26210 = 1080
    ∧ dramChAddr 0x21C26210 = 4424208 ∧ addrDie State.reset 0x21C26210 = 1 := by decide +kernel

/-- 11_memory.md: with channel 37 retired, 0x7A_120A_3000 lies on channel 2 at local 1,958,594. -/
theorem test_memory_retired :
    let s := (State.reset.wr .mctRetire 0 0 (2 ^ 37)).wr .mctLimit 0 0 975360
    physPlace s 0x7A120A3000 = (2, 1958594) ∧ dramLimit s = 0xEE20000000 ∧ limitBound 1 = 975360 := by decide +kernel

/-- 12_mesh.md: the direct path of the row pieces, and the path by waypoint 403. -/
theorem test_mesh_paths : (meshPath (tileId 5 7) (tileId 35 7)).length = 31 ∧ 356 ∈ meshPath (tileId 5 7) (tileId 35 7)
    ∧ (meshPath (tileId 5 7) 403 ++ (meshPath 403 (tileId 35 7)).drop 1).length = 33
    ∧ 356 ∉ meshPath (tileId 5 7) 403 ++ meshPath 403 (tileId 35 7) := by decide +kernel

/-- 12_mesh.md: QXF port 37 attaches at tile 1,497, MCT controller 13 at tile 527. -/
theorem test_mesh_endpoints : endpointTile (0x900 + 37) = some 1497 ∧ endpointTile (0x800 + 13) = some 527 := by
  decide +kernel

/-- 16_security.md: SEC_REGION5 for the secure world's 256 MiB at 0x4000_0000. -/
theorem test_security_region :
    let s := State.reset.wr .secRegion 5 0 0x9800100000004000
    permitted s .hqe .ns false 0x40000000 = false ∧ permitted s .hqe .ns true 0x4FFFFFFF = false ∧ permitted s .hqe .s true 0x4FFFFFFF = true
    ∧ permitted s .hqe .ns true 0x50000000 = true ∧ permitted s .hqe .ns true 0x3FFFFFFF = true := by decide +kernel

/-- 08_token_routing.md: token 40, with experts 9, 3 and 6 used 24, 17 and 4 times. -/
def exExperts : Nat → Expert
  | 3 => { dev := 0x0010, loc := 3, qbase := 0, quota := 32, cap := 96 }
  | 6 => { dev := 0x0011, loc := 1, qbase := 24, quota := 32, cap := 80 }
  | 9 => { dev := 0x0012, loc := 1, qbase := 0, quota := 24, cap := 64 }
  | _ => {}

def exCtx (next : Bool) (spare : Nat) : TkCtx :=
  { k := 2, spare := spare, next := next, renorm := true, world := .ns, valid := true, nexp := 10, h := 32, flush := 1, slots := 96 }

def exToken (next : Bool) (spare : Nat) : AccSt :=
  acceptToken (exCtx next spare) exExperts [(3, 17), (6, 4), (9, 24)] {} [(0x3F000000, 9), (0x3E99999A, 3), (0x3DF5C28F, 6)]

theorem test_router_next : (exToken true 1).kept.map (fun k => (k.e, k.rank, k.slot)) = [(3, 1, 17), (6, 2, 28)]
    ∧ (exToken true 1).st.dropped = 1 ∧ (exToken true 1).st.subst = 1
    ∧ (renormGates (exToken true 1).kept).1.map (fun k => k.gate) = [0x3F36DB6E, 0x3E924924] := by decide +kernel

theorem test_router_drop : (exToken false 0).kept.map (fun k => (k.e, k.slot)) = [(3, 17)] ∧ (exToken false 0).st.dropped = 1
    ∧ (renormGates (exToken false 0).kept).1.map (fun k => k.gate) = [0x3F800000] := by decide +kernel

/-- 18_events_reset.md: source 0x2A5 aimed at sequencer 3 with PRIO 9, in one of the states of its table. -/
def exSrc (x : Nat) : State := s0.wr .evcSrc 0x2A5 0 (2 ^ 63 + 3 * 2 ^ 46 + 9 * 2 ^ 42 + x)
def srcOf (s : State) : Nat := s.rd .evcSrc 0x2A5 - (2 ^ 63 + 3 * 2 ^ 46 + 9 * 2 ^ 42)

theorem test_events_fire : srcOf (out (exec (.eventFire .ns 0x001102A5) (exSrc 0))) = 2 ^ 61 + 0x00110000
    ∧ srcOf (out (exec (.eventFire .ns 0x001302A5) (exSrc (2 ^ 62 + 2 ^ 61 + 0x00120011))))
        = 2 ^ 62 + 2 ^ 61 + 2 ^ 32 + 0x00120011 := by decide +kernel

theorem test_events_eoi : srcOf (out (exec (.eventEoi .ns 3 0x2A5) (exSrc (2 ^ 62 + 2 ^ 61 + 2 ^ 32 + 0x00120011))))
    / 0x10000 * 0x10000 = 2 ^ 61 + 2 ^ 32 + 0x00120000 := by decide +kernel

theorem test_events_claim : (out (exec (.eventClaim .ns 3 .full) (exSrc (2 ^ 61 + 2 ^ 32 + 0x00120000)))).out
    = [.read 0x900218 (2 ^ 63 + 2 ^ 36 + 9 * 2 ^ 32 + 0x001202A5)] := by decide +kernel

/-- 17_clocks_power.md: sensor 17 reads 103.0 °C for the third time, and at 0.6 ms. -/
def exSensor (l : List Int) (y : Int) : State := { s0 with plat := { raws := [(17, l)], filt := [(17, y)] } }

theorem test_amber_filter :
    (out (exec (.amberSample 17 1648) (exSensor [1648, 1648, 1584, 1584, 1584] (99 * 4096)))).rdf .ambSens 17 0 15 0 = 1600
    ∧ (out (exec (.amberSample 17 1648) (exSensor [1648, 1648, 1648, 1648, 1648] 414976))).rdf .ambSens 17 0 15 0 = 1627
    ∧ (out (exec (.amberSample 17 2080) (exSensor [1584, 1584, 1584, 1584, 1584] (99 * 4096)))).rdf .ambSens 17 0 15 0 = 1584 := by
  decide +kernel

/-! ### Codes and functions with published check values -/

/-- The check values of CRC-32 (IEEE 802.3) and of the CRC-16 of R303 over "123456789". -/
theorem test_crc : crc32 [0x31, 0x32, 0x33, 0x34, 0x35, 0x36, 0x37, 0x38, 0x39] = 0xCBF43926
    ∧ crc16 [0x31, 0x32, 0x33, 0x34, 0x35, 0x36, 0x37, 0x38, 0x39] = 0x29B1 := by decide +kernel

/-- The published known answer of Philox-4x32-10 for a zero key and counter (log 14). -/
theorem test_philox : philox 0 0 = 0x9B00DBD8BC57AC4CE169C58D6627E8D5 := by decide +kernel

/-- FIPS 180-4's digest of "abc" (log 11): its first eight bytes. -/
theorem test_sha512 : (sha512 [0x61, 0x62, 0x63]).take 8 = [0xDD, 0xAF, 0x35, 0xA1, 0x93, 0x61, 0x7A, 0xBA] := by decide +kernel

/-- R43, R44: round to nearest even, the largest finite value of a format without infinity, and an integer limit. -/
theorem test_rounding : floatEncode fBF16 .rne 0 (.fin 257 (-8)) = 0x3F80 ∧ floatEncode fBF16 .rne 0 (.fin 259 (-8)) = 0x3F82
    ∧ floatEncode fFP16 .rne 0 (.fin 65504 0) = 0x7BFF ∧ floatEncode fE4M3 .rne 0 (.fin 448 0) = 0x7E
    ∧ floatEncode fE2M1 .rne 0 (.fin 6 0) = 0x7 ∧ (intEncode 8 .rne 0 (.fin (-3) (-1))).1 = 0xFE
    ∧ (intEncode 8 .rne 0 (.fin 128 0)).1 = 0x7F ∧ maxByte (.fin 1 0) = 0x80 := by decide +kernel

/-! ### A running phase -/

def ph0 : PhaseRun :=
  { index := 0, sheet := false, bank := 0, steal := false, stagingFree := false, dies := [0], mb := 0, next := 0,
    rect := (0, 0, 0, 0), copyRect := (0, 0, 0, 0), tds := [], binds := [], dense := {}, gme := none, ve := none, kernels := [],
    routes := [], rngs := [], copies := [], copiesLeft := [], ranges := [], qops := [], branches := [], left := [] }

def plan0 : PlanRun :=
  { iid := 1, world := .ns, recompute := false, addr := 0x4000000, step := 5, dataPos := 0, hash := 0, nphase := 1, phaseTab := 0,
    mbTab := 0, nmb := 1, total := 0, summKind := [], st := .phase }

/-- A part that runs a phase of a training plan. -/
def sPh (f : PhaseRun) : State := { s0 with seq := { train := some { plan0 with phase := some f } } }
def curT (f : PhaseRun) : Cur := { k := .training, p := { plan0 with phase := some f }, f := f }

/-- 04_dense_arrays.md: 21 rows are gathered, and a posting of 14 comes. -/
def gathRow (n : Nat) : Nat × Bytes := (n, [])

theorem test_gatherer_example :
    let f := { ph0 with dense := { flags := 4, gfill := 32, gflush := 16 } }
    let s := { sPh f with gath := [(3, { rows := (upTo 21).map gathRow, since := 0 })], time := 5000 }
    let t := out (exec (.gatherPosting 0 3 ⟨(upTo 14).map fun n => gathRow (32 + n)⟩) s)
    (curT f, curPhase t).2.map (fun c => c.f.launches.map List.length) = some [21]
    ∧ (getGath t 0 3).rows.length = 14 ∧ (getGath t 0 3).since = 5000
    ∧ exec (.gatherFlushExpire 0 3) { t with time := 20999 } = .next { t with time := 20999 } := by
  refine ⟨by decide +kernel, by decide +kernel, by decide +kernel, ?_⟩
  rfl

/-! ### The vector engine's instructions, on scalar registers -/

/-- The VE of tile 0 holds a task of one pass; S24 to S26 hold 1.0, 2.0 and -3.0. -/
def ve0 : Ve := { task := some { die := 0, bytes := zeroBytes 32 }, s := [(24, 0x3F800000), (25, 0x40000000), (26, 0xC0400000)] }
def sVw (l : List Nat) (v : Ve) : State := { sPh { ph0 with kernels := [{ words := l, bad := false }] } with ves := [(0, v)] }
def sVe (v : Ve) : State := sVw [vwWord 0x10 (vw 0 1 2 0 0)] v

/-- What S30 holds after the instruction of a kernel's word, with destination S30. -/
def s30 (opc : Nat) (x : VeWord) : Nat :=
  match veCommand 0 (vwWord opc x) with
  | some c => sReg (getVe (out (exec c (sVw [vwWord opc x] ve0))) 0) 30
  | none => 0

/-- 1 + 2, 1 - 2, 2 × -3, 2 × -3 + 1, the larger and the smaller of 1 and -3, |-3|, -1 (R143). -/
theorem test_ve_arith : [s30 0x10 (vw 30 24 25 0 0), s30 0x11 (vw 30 24 25 0 0), s30 0x12 (vw 30 25 26 0 0),
    s30 0x13 (vw 30 25 26 24 0), s30 0x14 (vw 30 24 26 0 0), s30 0x15 (vw 30 24 26 0 0), s30 0x16 (vw 30 26 0 0 0),
    s30 0x17 (vw 30 24 0 0 0)]
    = [0x40400000, 0xBF800000, 0xC0C00000, 0xC0A00000, 0x3F800000, 0xC0400000, 0x40400000, 0xBF800000] := by decide +kernel

/-- 1 < 2, 1 = 2, the selection by 1.0, a move, and -3.0 as INT32 (R143). -/
theorem test_ve_select : [s30 0x19 (vw 30 24 25 0 0), s30 0x1A (vw 30 24 25 0 0), s30 0x1B (vw 30 24 25 26 0),
    s30 0x03 (vw 30 26 0 0 0), s30 0x18 { vw 30 26 0 0 0 with prec := 5 }]
    = [0x3F800000, 0, 0x40000000, 0xC0400000, 0xFFFFFFFD] := by decide +kernel

/-- The special results of R144: e^-Inf, log 0, 1/√-3 and 1/0, with the immediate as source. -/
theorem test_ve_special : [s30 0x20 (vw 30 31 0 0 0xFF800000), s30 0x21 (vw 30 31 0 0 0), s30 0x22 (vw 30 26 0 0 0),
    s30 0x24 (vw 30 31 0 0 0), s30 0x23 (vw 30 31 0 0 0x7F800000)]
    = [0, 0xFF800000, 0x7FC00000, 0x7F800000, 0x3F800000] := by decide +kernel

/-- A word that is not the kernel's changes nothing (R141). -/
theorem test_ve_other_word : exec (.sub 0 (vw 0 1 2 0 0)) (sVe ve0) = .next (sVe ve0) := by rfl


/-! ### Witnesses: states and operands that meet the hypotheses of the statements, clause by clause -/

/-- StepRunsFront, StepTakesOneCommand, CompletesExactlyWhenWellFormed, TablesStayCanonical: a queue of two commands, of which
the first runs, in a state with a byte, a register and a host byte stored; an ill-formed command. -/
def sQueue : State :=
  setHost (setMem { s0 with pending := [.modWakeN, .hqeScan] } 0x1000 [1, 0, 2]) 0x2000 [3] |>.wr .rngKey 0 0 5

theorem test_wit_StepTakesOneCommand : sQueue.pending = [.modWakeN, .hqeScan] ∧ canonical sQueue = true
    ∧ (match step sQueue with
      | .next t => decide (t.pending = [.hqeScan]) && canonical t
      | _ => false) = true := by decide +kernel

theorem test_wit_StepRunsFront_idle : s0.pending = [] ∧ canonical s0 = true ∧ step s0 = .next { s0 with time := 1 } :=
  ⟨rfl, rfl, rfl⟩

theorem test_wit_TablesStayCanonical : canonical sQueue = true ∧ (match step sQueue with
      | .next _ => true
      | _ => false) = true := by decide +kernel

theorem test_wit_CompletesExactlyWhenWellFormed : Instr.modWakeN.wellFormed = true
    ∧ (Instr.gatherPosting 0 0 ⟨[]⟩).wellFormed = false := by decide +kernel

theorem test_wit_TablesReadBack : canonical sQueue = true ∧ regOff .rngKey 0 0 ≠ regOff .seqCtl 0 0
    ∧ (sQueue.wr .rngKey 0 0 0).regs = [] ∧ (sQueue.mem.map fun e => e.1) = [0x1000, 0x1002] := by decide +kernel

/-- A register access of the window by the world that owns the register. -/
def winHyp (s : State) (w : World) (off size : Nat) : Bool :=
  windowUp s && !inAsh s && match winRef off size with
    | some r => regWorldOk s w r.n r.i
    | none => false

/-- Every register that WindowWritesStore lists is written by a well-placed access of one of the worlds (its first instance, as
64 bits or 32), and those with fields have written bits in it. -/
def storeHyp (sel : RegInfo → Nat) (n : RegName) : Bool :=
  let off := regOff n 0 0
  let size := if (regInfo n).wide then 8 else 4
  match winRef off size with
  | some r => (winHyp s0 .s off size || winHyp s0 .ns off size) && decide (r.n = n) && decide (Nat.land (2 ^ (r.hi + 1) - 2 ^ r.lo) (sel (regInfo n)) ≠ 0)
  | none => false

theorem test_wit_WindowWritesStore :
    [RegName.nmuJobAddr, .gblBounceBaseNs, .gblBounceBaseS, .ambFilt, .mctScrub, .rscCfg, .gblArithCtl, .tilDaCtl, .tkrCtl,
      .tkrQbufBase, .seqVerCtl, .seqCtl, .rngKey, .rngCfg].all (storeHyp fun r => r.rw) = true
    ∧ [RegName.mshCtl, .mshDetour, .hqeScan, .hqeWrr, .lhlCfg].all (storeHyp fun r => r.sh + r.qu) = true
    ∧ [RegName.gblId, .gblCap, .gblSpareMap, .tilDaStatus, .tilDaCnt, .tkrEpoch, .tkrCnt, .mshCnt, .lhlStatus, .lhlCnt,
      .hqeStatus, .hqeCnt].all (storeHyp fun _ => 2 ^ 64 - 1) = true
    ∧ lhlActive s0 = true := by decide +kernel

/-- A 32-bit register, a 64-bit one whole and by halves, accesses that are not aligned, an offset that no register has, and a
register of the other world. -/
theorem test_wit_WindowReadsAnswer : lhlActive s0 = true ∧ winHyp s0 .ns 0x0 4 = true
    ∧ winHyp s0 .ns (regOff .hqeCnt 0 0) 8 = true ∧ winHyp s0 .ns (regOff .hqeCnt 0 0) 4 = true
    ∧ winHyp s0 .ns (regOff .hqeCnt 0 0 + 4) 4 = true ∧ [RegName.gblId, .hqeCnt].any readClears = false ∧ winRef 0x2 4 = none
    ∧ winRef 0x4 8 = none ∧ winRef 0xFFFFF8 8 = none
    ∧ (winRef (regOff .secRegion 5 0) 8).map (fun r => regWorldOk s0 .ns r.n r.i) = some false := by decide +kernel

theorem test_wit_CaptureReadsClear :
    [(RegName.gblLayoutErr, 0), (.tilSlotErr, 1535), (.tilGmeErr, 0), (.tilVeErr, 7), (.tkrErr, 0), (.mshErr, 0), (.qxfErr, 0)].all
      (fun p => windowUp s0 && !inAsh s0 && (regWorldOk s0 .ns p.1 p.2 || regWorldOk s0 .s p.1 p.2)) = true := by decide +kernel

/-- Source 5 idle, pending with a waiting tag, and active; a source of the other world; core 3 with and without a source to
claim, and an EOI of the source and of another. -/
def sSrc (x : Nat) : State := s0.wr .evcSrc 5 0 x

theorem test_wit_EventSourcesMove :
    let idle := sSrc 0
    let pend := sSrc (2 ^ 63 + 3 * 2 ^ 46 + 2 ^ 61)
    let act := sSrc (2 ^ 63 + 3 * 2 ^ 46 + 2 ^ 62)
    [idle, pend, act].all (fun s => windowUp s && !inAsh s && canonical s && decide (shade s = 0) && (evtWorld s 5 == .ns)
      && regWorldOk s .ns .evcClaim 3 && regWorldOk s .ns .evcEoi 3) = true
    ∧ bits (5 : W32).toNat 15 12 = 0 ∧ evtWorld s0 5 ≠ .s
    ∧ (bit (pend.rd .evcSrc 5) 61 = true) ∧ (bit (act.rd .evcSrc 5) 61 = false ∧ bit (act.rd .evcSrc 5) 62 = true)
    ∧ (bit (idle.rd .evcSrc 5) 61 = false ∧ bit (idle.rd .evcSrc 5) 62 = false ∧ waitingVal idle .evcSrc 5 0 = none)
    ∧ nextSource idle false 3 = none ∧ nextSource pend false 3 = some 5
    ∧ (bit (act.rd .evcSrc 5) 62 = true ∧ bit (act.rd .evcSrc 5) 60 = false ∧ bits (act.rd .evcSrc 5) 59 46 = 3)
    ∧ bits (act.rd .evcSrc 5) 59 46 ≠ 4 := by decide +kernel

/-- An active event ring 1 with source 5 aimed at it; the wake pin; a quiet part at time 7; a watch that has fired. -/
def sEvRing : State :=
  { s0.wr .evcSrc 5 0 (2 ^ 63 + 2 ^ 60 + 1 * 2 ^ 46 + 2 ^ 61) with
    hqe := { rings := [(1, { st := .active })] } } |>.wr .hqeRingCfg 1 0 (2 ^ 63 + 2 * 2 ^ 60)

theorem test_wit_EventRecordsAndTimeReads :
    ((getRing sEvRing 1).st = .active ∧ ringType sEvRing 1 = 2 ∧ shade sEvRing < 2 ∧ nextSource sEvRing true 1 = some 5)
    ∧ (s0.plat.powered = true ∧ shade s0 = 0 ∧ canonical s0 = true ∧ windowUp s0 = true ∧ inAsh s0 = false)
    ∧ (quiet s0 = true ∧ s0.time ≤ 7) ∧ (let s := s0.wr .rasWatchCtl 0 0 (2 ^ 31)
      windowUp s = true ∧ inAsh s = false ∧ bit (s.rd .rasWatchCtl) 31 = true ∧ canonical s = true) := by decide +kernel

def inShade (s : State) (k : Nat) : State := s.wrf .pwcStatus 0 0 63 62 k

/-- Ring 0 submits, with ring 1 of 16 entries for its completions; the doorbell area of the non-secure world is enabled. -/
def subCfg : Nat := 2 ^ 63 + 4 * 2 ^ 55 + 1 * 2 ^ 36
def cqCfg : Nat := 2 ^ 63 + 1 * 2 ^ 60 + 4 * 2 ^ 55
def sRing (a b : Ring) : State :=
  (({ s0 with hqe := { rings := [(0, a), (1, b)] } }.wr .hqeDbBaseNs 0 0 0x10000001).wr .hqeRingCfg 0 0
    (if a.st = RingSt.disabled ∨ a.st = RingSt.draining then subCfg - 2 ^ 63 else subCfg)).wr .hqeRingCfg 1 0 cqCfg

theorem test_wit_RingContextsChange :
    let on := { st := .active : Ring }
    let off := sRing {} on
    let run := sRing on on
    let drain := sRing { st := .draining } on
    let err := sRing { st := .error, err := 3 } on
    [off, run, drain, err].all (fun s => windowUp s && !inAsh s && (ringWorld s 0 == .ns)) = true
    ∧ bit subCfg 63 = true ∧ ringEnabled off 0 = false ∧ (getRing off 0).st = .disabled
    ∧ ringContextOk off 0 (setBit (Nat.land subCfg (ringCfgMask + 2 ^ 62)) 62 false) = true
    ∧ ringContextOk off 0 (setBit (Nat.land (subCfg + 2 ^ 60) (ringCfgMask + 2 ^ 62)) 62 false) = false
    ∧ (bit 0 63 = false ∧ ringEnabled run 0 = true ∧ ringType run 0 = 0 ∧ (getRing run 0).st ≠ .error)
    ∧ (bit (2 ^ 62) 62 = true ∧ bit (2 ^ 62) 63 = false ∧ ringEnabled off 0 = false ∧ (getRing off 0).st ≠ .draining)
    ∧ ((getRing drain 0).st = .draining ∧ ringBusy drain 0 = false ∧ ∀ f ∈ drain.hqe.fetched, f.ring ≠ 0) := by decide +kernel

/-- White, Charcoal, Grey; with and without doorbell areas; a scan that waits for a word. The operands 2^15 − 1 and 2^15 lie
where two clauses meet. -/
theorem test_wit_ScansAndNudges :
    let char := inShade s0 2
    let grey := inShade s0 1
    [s0, char, grey].all (fun s => lhlActive s && canonical s) = true
    ∧ 2 ^ 15 ≤ (0x8000 : W64).toNat ∧ (0x7FFF : W64).toNat < 2 ^ 15 ∧ bit (0x7FFF : W64).toNat 14 = true
    ∧ shade char = 2 ∧ shade s0 = 0 ∧ amberHeld grey = 0 ∧ shade grey < 3
    ∧ (s0.hqe.scanLeft = 0 ∧ s0.hqe.nudges = [] ∧ s0.plat.restart = none ∧ dbArea s0 .ns = none ∧ dbArea s0 .s = none)
    ∧ dbArea (sRing {} {}) .ns = some 0x10000000
    ∧ (let s := { s0 with hqe := { scanLeft := 1 } }; s.hqe.scanLeft ≠ 0 ∧ s.hqe.nudges = []) := by decide +kernel

/-- Ring 0 with a descriptor to fetch, and with one fetched: a NOP. -/
def nopDesc (seq : Nat) : Bytes := [1, 0, 0, 0] ++ natLe 4 seq ++ zeroBytes 56
def sFetched (seq : Nat) : State :=
  let s := sRing { st := .active, seen := 1, count := 1 } { st := .active }
  { s with hqe := { s.hqe with fetched := [{ ring := 0, seq := 0, desc := nopDesc seq }] } }

theorem test_wit_DescriptorsFetchAndIssue :
    (let s := sRing { st := .active, seen := 1 } { st := .active }
     fetchable s 0 = true ∧ roundOver s = false ∧ nextOfClass s (ringClass s 0) = some 0
      ∧ grantsUsed s (ringClass s 0) < classWeight s (ringClass s 0))
    ∧ fetchable (sRing { st := .active } { st := .active }) 0 = false
    ∧ (let s := sFetched 1
       s.lhl.lost = false ∧ s.plat.restart = none ∧ shade s < 2 ∧ (nextToIssue s [] s.hqe.fetched).isSome = true
        ∧ fld (nopDesc 1) 4 4 ≠ 0 ∧ cplKept s + cplNeed (fld (nopDesc 1) 0 2) (slice (nopDesc 1) 16 48) ≤ 4096)
    ∧ (let s := sFetched 0
       nextToIssue s [] s.hqe.fetched = some ({ ring := 0, seq := 0, desc := nopDesc 0 }, []) ∧ fld (nopDesc 0) 4 4 = 0
        ∧ cplKept s + cplNeed (fld (nopDesc 0) 0 2) (slice (nopDesc 0) 16 48) ≤ 4096
        ∧ descOk s { ring := 0, seq := 0, desc := nopDesc 0 } = true)
    ∧ (let s := setRing (sFetched 1) 0 { getRing (sFetched 1) 0 with recheck := true }
       (getRing s 0).recheck = true ∧ (s.hqe.fetched.find? (fun g => g.ring == 0)).isSome = true)
    ∧ (let s := sRing { st := .active } { st := .active, count := 16 }
       (getRing s 1).st = .active ∧ ringType s 1 ≠ 0 ∧ ringFull s 1 = true ∧ doorbell s 1 = some 0x10000008)
    ∧ (let s := (sRing { st := .active } { st := .active, unsig := 1 }).wr .hqeRingCfg 1 0 (cqCfg + 2 ^ 51 + 1 * 2 ^ 5)
       let cfg := s.rd .hqeRingCfg 1
       bit cfg 51 = true ∧ bits cfg 16 5 ≠ 0 ∧ ringType s 1 ≠ 0 ∧ 0 < (getRing s 1).unsig)
    ∧ (getIssued (sCmd 1 (zeroBytes 48)) 1 = some (cmd 1 (zeroBytes 48)) ∧ (cmd 1 (zeroBytes 48)).op = 0x0001) := by decide +kernel

theorem test_wit_CompletionEntriesWritten :
    let s := { sRing { st := .active, seen := 1, count := 1 } { st := .active } with
      hqe := { rings := [(0, { st := .active }), (1, { st := .active })], issued := [cmd 1 (zeroBytes 48)] }
      lhl := { st := .active, crHdr := [(0, 1)], crData := [(0, 1)] } }
    (getIssued s 1).isSome = true ∧ lhlActive s = true ∧ s.plat.restart = none ∧ ringCq s 0 = 1 ∧ ringFull s 1 = false
      ∧ s.hqe.buf = [] ∧ bit (s.rd .hqeRingCfg 1) 51 = false ∧ canonical s = true
      ∧ s.lhl.lost = false ∧ s.lhl.hold = [] ∧ s.lhl.wait = [] ∧ ringBase s 1 % 4096 = 0
      ∧ creditOk .lhl s.lhl { cls := 0, data := 1, bytes := [] } = true := by decide +kernel

/-! Links. -/

def okFlit : Flit := let f : Flit := ⟨0, 0, 0, false, 0, zeroBytes 248, 0⟩; { f with crc := BitVec.ofNat 32 (crc32 (flitBody f)) }

def sLink (l : Link) : State := setLink { s0 with lhl := l } (.port 63) l

theorem test_wit_LinkFlitsInOrder :
    (okFlit.payload.length ≤ 248 ∧ okFlit.kind.val < 2 ∧ okFlit.ackv = false ∧ flitGood okFlit = true
      ∧ flitGood { okFlit with crc := okFlit.crc + 1 } = false)
    ∧ [LinkId.lhl, .port 63].all (fun i =>
        decide ((getLink (sLink { st := .active }) i).st = .active) && decide ((getLink (sLink { st := .active }) i).rxSeq = 0)
        && decide ((getLink (sLink { st := .active, rxSeq := 1 }) i).rxSeq = 1)
        && decide ((getLink (sLink { st := .active }) i).hold = [] ∧ (getLink (sLink { st := .active }) i).wait = [])
        && (getLink (sLink { st := .active, naked := true }) i).naked
        && decide ((getLink (sLink { st := .detect }) i).st ≠ .active)) = true := by decide +kernel

theorem test_wit_LinkReplayAndAck :
    [LinkId.lhl, .port 63].all (fun i =>
        decide ((getLink (sLink { st := .active, replay := [{ seq := 0, payload := [] }] }) i).replay ≠ [])
        && (let l := getLink (sLink { st := .active, ackOwed := 1, grantDue := false }) i; decide (l.ackOwed = 1) && !l.grantDue)
        && !bit (s0.rd .fijCtl (linkInj i)) 63
        && decide ((getLink (sLink { st := .off }) i).st ≠ .active)) = true := by decide +kernel

/-- A link that trains with all lanes working, for the LHL and for port 0. -/
theorem test_wit_LinkTrainingStates :
    [(LinkId.lhl, 0xFF), (.port 0, 0xF)].all (fun p =>
      let at1 := fun st => setLink (s0.wr .qxfPortCfg 0 0 (2 ^ 27)) p.1 { st := st, grantDue := false }
      canonical (at1 .detect) && decide ((getLink (at1 .detect) p.1).st = .detect) && linkEnabled (at1 .detect) p.1
      && decide (shade (at1 .detect) = 0)
      && (let s := at1 .train
          (formWidth (linkLanes p.1) (usableLanes s p.1 p.2) (widths p.1 (linkCfgWidth s p.1))).isSome
            && decide ((getLink s p.1).replay = []) && decide ((getLink s p.1).wait = []) && decide ((getLink s p.1).hold = [])
            && !(getLink s p.1).grantDue && !(getLink s p.1).lost && decide (s.rdf .rscBoot 0 0 7 4 ≠ 9))
      && (let s := at1 .retrain
          (formWidth (linkLanes p.1) (usableLanes s p.1 p.2) (widths p.1 (max 0 (linkCfgWidth s p.1)))).isSome
            && decide ((getLink s p.1).fallback = none))
      && (let s := setLink (at1 .active) p.1 { st := .active, rate := 1, replay := [{ seq := 0, payload := [], tries := 4 }] }
          linkChanged s p.1 && (getLink s p.1).replay.any (fun f => decide (4 ≤ f.tries)) && decide ((getLink s p.1).hold = []))) = true := by
  decide +kernel

/-- A port and the LHL that are given up, with and without a flit that begins a posted write, and a host request for ring 0's
doorbell word. -/
theorem test_wit_LinksGivenUp :
    let l : Link := { st := .detect, replay := [{ seq := 0, payload := [], posted := 1 }] }
    let s := { sLink l with lhl := l }
    (s.lhl.st ≠ .active ∧ s.lhl.st ≠ .off ∧ s.hostReqs = []) ∧ (getLink s (.port 63)).st = .detect
    ∧ (let l := getLink (sLink { st := .detect, replay := [{ seq := 0, payload := [] }] }) (.port 63)
       ∀ f ∈ l.replay ++ l.wait ++ l.hold.flatMap flitsOf, f.posted = 0)
    ∧ (getLink (sLink { st := .active }) (.port 63)).st = .active
    ∧ (let s := { sRing { st := .active } { st := .active } with
        hostReqs := [{ tag := 4095, use := .doorbell 0, addr := 0x10000000, len := 8 }] }
       hostReqOf s 4095 = some { tag := 4095, use := .doorbell 0, addr := 0x10000000, len := 8 } ∧ s.hostLine = [] ∧ fetches s 0 = true
        ∧ canonical s = true) := by decide +kernel

/-! Ring copies. -/

/-- What a read of host memory answers, when the bytes are there. -/
def gotHost (r : State × HostRes) (s : State) : Option Bytes :=
  match r with
  | (t, .ok b) => if t = s then some b else none
  | _ => none

/-- A tensor descriptor of 64 LINEAR 16-bit elements, in device or host memory. -/
def tdB (base : Nat) (loc : Bool) : Bytes :=
  natLe 8 base ++ natLe 1 0x20 ++ natLe 1 (64 + 128 * b2n loc) ++ natLe 1 1 ++ natLe 1 0 ++ natLe 4 0
    ++ natLe 4 64 ++ natLe 4 1 ++ natLe 4 1 ++ natLe 4 1 ++ natLe 4 1 ++ natLe 4 1 ++ zeroBytes 24

/-- An issued copy whose two descriptors have come. -/
def sCopy (op : Nat) : State :=
  { sCmd op (natLe 8 0x1000 ++ natLe 8 0x1040 ++ zeroBytes 32) with
    hostAns := [{ use := .cmd 1, addr := 0x1000, len := 64, status := 0 }, { use := .cmd 1, addr := 0x1040, len := 64, status := 0 }]
    host := (setHost s0 0x1000 (tdB 0x4000000 (op == 0x10) ++ tdB 0x4010000 (op == 0x11))).host }

def copyHyp (op : Nat) : Bool :=
  let s := sCopy op
  match getIssued s 1 with
  | none => false
  | some k =>
    let c := parseCopy k.ops
    match gotHost (fetchTd s k c.src) s, gotHost (fetchTd s k c.dst) s with
    | some a, some d =>
      let ov := overlapPlan s k.world c (parseTd a) (parseTd d) k.bounce (copyXtiles c)
      let r : CopyRun := { iid := k.iid, world := k.world, op := c, src := parseTd a, dst := parseTd d, idx := none, bounce := k.bounce,
                           staged := false, bounced := false }
      copyTurn s 1 && s.seq.copies.isEmpty && copyFieldsOk c && c.src % 64 == 0 && c.dst % 64 == 0 && c.idx == 0
      && copyChecks s k c (parseTd a) (parseTd d) none == stOk && copyPeerStatus s c (parseTd a) (parseTd d) == stOk
      && decide (ov = OvPlan.direct) && !copyPartial c (parseTd a) (parseTd d) [] && !copyHeld s r
      && copyHeld { s with seq := { copies := [{ r with iid := 0, running := true }] } } r
      && (let t := { s with seq := { copies := [r] } }; decide (t.seq.copies.find? (fun e => e.iid == 1) = some r) && !copyHeld t r)
    | _, _ => false

theorem test_wit_RingCopiesRun : [0x10, 0x11, 0x12].all copyHyp = true := by decide +kernel

/-! Tables: the last record of each. -/

def loadOps (kind first : Nat) : Bytes := natLe 8 0x1000 ++ natLe 1 kind ++ zeroBytes 3 ++ natLe 4 first ++ natLe 4 1 ++ zeroBytes 28

def loadHyp (kind first len : Nat) (status : State → Issued → List (Nat × Bytes) → Nat) (rec0 : Bytes) : Bool :=
  let s := { sCmd 0x0050 (loadOps kind first) with
    hostAns := [{ use := .cmd 1, addr := 0x1000, len := len, status := 0 }], host := (setHost s0 0x1000 rec0).host }
  let s1 := unholdCmd s 1
  match getIssued s 1, gotHost (hostRead s1 .ns (.cmd 1) 0x1000 len) s1 with
  | some c, some bs => ltOk c.ops && ltKind c.ops == kind && !olderHeld s 1 [0x0050] && (plans s).isEmpty
      && status s1 c ((ltNums c.ops).zip (entries bs 0 (ltCount c.ops) len)) == stOk
      && (let t := { s with hqe := { issued := [{ c with iid := 0 }, c] }, seq := { heldCmds := [0] } }; olderHeld t 1 [0x0050])
  | _, _ => false

theorem test_wit_TableLoadsTakeEffect :
    loadHyp 0x10 255 64 contextStatus ([1, 0, 8, 0] ++ natLe 4 1 ++ natLe 4 1 ++ natLe 4 1 ++ natLe 4 1 ++ zeroBytes 44) = true
    ∧ loadHyp 0x20 255 32 regionsStatus (natLe 8 0x4000000 ++ natLe 8 0x4010000 ++ natLe 4 1 ++ [1] ++ zeroBytes 11) = true
    ∧ loadHyp 0x30 65535 2 routesStatus [0x0F, 0xCF] = true
    ∧ loadHyp 0x31 65535 16 peersStatus ([0xFF, 0xFF, 0x0F] ++ zeroBytes 13) = true
    ∧ loadHyp 0x32 63 32 groupsLoadStatus
        ([2, 0, 1, 0, 0, 0, 1, 0] ++ zeroBytes 12 ++ [0xFF, 0] ++ List.replicate 6 0xFF ++ zeroBytes 4) = true
    ∧ loadHyp 0x33 63 32 windowsStatus
        (natLe 8 0x4000000 ++ natLe 4 16 ++ [0, 1, 1, 0] ++ zeroBytes 4 ++ natLe 8 0x4100000 ++ zeroBytes 4) = true := by
  decide +kernel

/-- Epochs: a commit and a discard with the next epoch, with another one, and a transition at its start and at its end. -/
theorem test_wit_EpochsCommit :
    let s := sCmd 0x0023 (natLe 4 1 ++ zeroBytes 44)
    let d := sCmd 0x0023 (natLe 4 1 ++ [1] ++ zeroBytes 43)
    let s1 := unholdCmd s 1
    (getIssued s 1 = some (cmd 0x0023 (natLe 4 1 ++ zeroBytes 44)) ∧ s.seq.trans = none ∧ olderHeld s 1 [0x0023] = false)
    ∧ (ccEpoch (natLe 4 1 ++ zeroBytes 44) = (s.seq.epoch + 1) % 2 ^ 32 ∧ ccDiscard (natLe 4 1 ++ zeroBytes 44) = false
      ∧ limitBad s1 .ns = false ∧ detoursBad s1 .ns = false ∧ regionsBad s1 .ns = false ∧ retiresEvacuating s1 .ns = false
      ∧ quiesceDiffers s1 .ns = false)
    ∧ (getIssued d 1).map (fun c => (ccDiscard c.ops, c.world)) = some (true, World.ns)
    ∧ ccEpoch (natLe 4 2 ++ zeroBytes 44) ≠ (s.seq.epoch + 1) % 2 ^ 32
    ∧ (let t : Transition := { iid := 1, world := .ns, vals := [], left := epochBlocks }
       EpochBlock.lhl ∈ t.left ∧ atMarker { s with seq := { trans := some t } } (.die 3) = true
        ∧ EpochBlock.lhl ∉ ([] : List EpochBlock))
    ∧ (let t : Transition := { iid := 1, world := .ns, vals := [], left := [] }
       let e := { s with seq := { trans := some t } }
       oldTagged e = 0 ∧ ratePending e = false ∧ linkPending e .lhl = false ∧ (upTo 64).all (fun p => !linkPending e (.port p)) = true) := by decide +kernel

/-! Fences, self-tests, firmware, power. -/

/-- Rectangles that touch the grid's far corner (47 rows and 31 columns on), and one beyond it. -/
def rectOps (b4 b5 : Byte) : Bytes := [47, 31, 1, 1, b4, b5] ++ zeroBytes 42
def farOps : Bytes := [47, 31, 2, 1] ++ zeroBytes 44

theorem test_wit_FencesAndQuarantine :
    fnQuar (rectOps 0 0) = false ∧ fnRectOk (rectOps 0 0) = true ∧ fnTiles (rectOps 0 0) = [1535] ∧ fnRectOk farOps = false
    ∧ (fnTiles (rectOps 0 0)).any (underTest (sCmd 0x0040 (rectOps 0 0))) = false
    ∧ olderHeld (sCmd 0x0040 (rectOps 0 0)) 1 tileOps = false ∧ planRuns (sCmd 0x0040 (rectOps 0 0)) = false
    ∧ planRuns (sPh ph0) = true
    ∧ (let q := zeroBytes 4 ++ [2, 3] ++ zeroBytes 42
       fnQuar q = true ∧ zeros q 0 4 = true ∧ fnDie q = 3 ∧ (dieTiles 3).any (underTest (sCmd 0x0040 q)) = false
        ∧ phaseFree (sCmd 0x0040 q) = true ∧ planRuns (sCmd 0x0041 q) = false)
    ∧ fnQuar (rectOps 2 3) = true ∧ zeros (rectOps 2 3) 0 4 = false ∧ fnDie (zeroBytes 4 ++ [2, 0] ++ zeroBytes 42) = 0
    ∧ fnDie (zeroBytes 4 ++ [2, 4] ++ zeroBytes 42) = 4 := by decide +kernel

/-- A SELF_TEST on a quiet part and beside a running plan; tile 1,535 waiting for its boundary, and under test. -/
theorem test_wit_SelfTestsRun :
    let o := rectOps 7 0
    let s := sCmd 0x0042 o
    let busy := { s with seq := (sPh ph0).seq }
    [s, busy].all (fun s => match getIssued s 1 with
      | some c => c.op == 0x0042 && c.st != .running && tsTests c.ops != 0 && fnRectOk c.ops
          && (fnTiles c.ops).all (fun t => tileWorld s t == c.world && !underTest s t) && !olderHeld s 1 tileOps && !testNamed s c.ops
      | none => false) = true
    ∧ quiet (unholdCmd s 1) = true ∧ quiet (unholdCmd busy 1) = false
    ∧ (let w := s.wr .tilBist 1535 0 (2 ^ 30); w.rdf .tilBist 1535 0 31 30 = 1 ∧ curPhase w = none)
    ∧ s.rdf .tilBist 1535 0 31 30 ≠ 1
    ∧ (let t := (unholdCmd s 1).wr .tilBist 1535 0 (2 ^ 31)
       testFenced t 1535 = true ∧ (testCmd t 1535).isSome = true) := by decide +kernel

/-- The flash of a part: an activation record of a state in the first copy, slot 1 as given. -/
def flashOf (st slot : Nat) (img : Bytes) : List FlashSeg :=
  let h := natLe 4 0x52454341 ++ natLe 4 1 ++ natLe 1 st ++ natLe 1 slot ++ natLe 1 1 ++ natLe 1 1 ++ zeroBytes 48
  [{ addr := slotAddr 1, len := slotSize, data := img }, { addr := 0x2000, len := 64, data := h ++ natLe 4 (crc32 h) }, { addr := 0x3000, len := 64, data := [] }]

def sFw (op : Nat) (ops : Bytes) (stage st : Nat) (img : Bytes) : State :=
  { s0 with hqe := { issued := [{ cmd op ops with stage := stage }] }, plat := { flash := flashOf st 0 img } }

/-- An image of eight empty components, with the published SHA-512 digest of the empty string, signed by key slot 0. -/
def emptyDigest : Bytes :=
  [0xCF, 0x83, 0xE1, 0x35, 0x7E, 0xEF, 0xB8, 0xBD, 0xF1, 0x54, 0x28, 0x50, 0xD6, 0x6D, 0x80, 0x07, 0xD6, 0x20, 0xE4,
   0x05, 0x0B, 0x57, 0x15, 0xDC, 0x83, 0xF4, 0xA9, 0x21, 0xD3, 0x6C, 0xE9, 0xCE, 0x47, 0xD0, 0xD1, 0x3C, 0x5D, 0x85,
   0xF2, 0xB0, 0xFF, 0x83, 0x18, 0xD2, 0x87, 0x7E, 0xEC, 0x2F, 0x63, 0xB9, 0x31, 0xBD, 0x47, 0x41, 0x7A, 0x81, 0xA5,
   0x38, 0x32, 0x7A, 0xF9, 0x27, 0xDA, 0x3E]

def exEntry (k : Nat) : Bytes := [natLe 4 k, zeroBytes 8, natLe 4 4096, zeroBytes 16, emptyDigest].flatten
def exImage : Bytes :=
  [natLe 4 0x4D4E4654, natLe 2 (s0.rdf .gblId 0 0 15 0), natLe 2 1, zeroBytes 4, [0, 8, 1, 0], zeroBytes 48,
    exEntry 1, exEntry 2, exEntry 3, exEntry 4, exEntry 5, exEntry 6, exEntry 7, exEntry 8, zeroBytes 3264].flatten

theorem exEntry_length (k : Nat) : (exEntry k).length = 96 := by
  simp only [exEntry, List.length_flatten, List.map, natLe_length, zeroBytes, List.length_replicate]
  rfl

theorem exImage_length : exImage.length = 4096 := by
  simp only [exImage, List.length_flatten, List.map, natLe_length, zeroBytes, List.length_replicate, exEntry_length]
  rfl

theorem flashRead_second (s : State) (a k n : Nat) (e d : Bytes) (rest : List FlashSeg)
    (h : s.plat.flash = { addr := a, len := 0, data := e } :: { addr := a, len := k, data := d } :: rest) (hk : n ≤ k)
    (hd : d.length = n) : flashRead s a n = d := by
  apply List.ext_getElem
  · simp [flashRead, upTo, hd]
  · intro i h1 h2
    have h3 : i < k := by omega
    simp [flashRead, flashByte, upTo, h, h3, h2]

theorem emptyDigest_eq : sha512 [] = emptyDigest := by decide +kernel

theorem empty_comps (s : State) (slot : Nat) (m : Bytes) (hr : rangesApart (mfRange m :: (upTo 8).map (compRange m)) = true)
    (h : (upTo 8).all (fun i => compRange m i == (4096, 4096) && slice (mfEntry m i) 32 64 == emptyDigest) = true) :
    compsOk s slot m = true := by
  rw [compsOk, hr, Bool.true_and, List.all_eq_true]
  intro i hi
  have h1 := List.all_eq_true.1 h i hi
  simp only [Bool.and_eq_true, beq_iff_eq] at h1
  have h2 : 4096 ≤ slotSize := by decide
  simp [h1.1, h1.2, flashRead, upTo, emptyDigest_eq, h2]

/-- A part whose slot 1 holds it, with key slot 0 programmed. -/
def sGood : State := { s0 with plat := { flash := flashOf 0 0 exImage } } |>.wr .secBootStatus 0 0 (2 ^ 44)

theorem slot_passes (s : State) (slot : Nat) (m : Bytes) (hm : manifest s slot = m) (h1 : mfFieldsOk s m = true)
    (h2 : fld m 14 1 = 1) (h3 : fld (mfSig m 0) 0 1 = 0) (h4 : keyOk s 0 = true) (h5 : ownerReq s = false)
    (h6 : svnFused s ≤ mfSvn m) (h7 : compsOk s slot m = true)
    (h8 : Config.sigVerifies 0 (slice m 0 832) (slice (mfSig m 0) 16 512) = true) : slotReason s slot = 0 := by
  subst hm
  have h9 : sigsOk s (manifest s slot) = true := by
    have : upTo 1 = [0] := by decide
    simp [sigsOk, sigBy, h2, h3, h4, h5, h8, this]
  simp [slotReason, h1, h7, h9, Nat.not_lt.2 h6]

/-- FW_STAGE of an empty image, whose erase has been done: beside that image in the slot (whether its signature verifies is a
free value, log 11) and beside the erased slot. -/
def sStage (s : State) : State :=
  { s with hqe := { issued := [{ cmd 0x0060 (natLe 8 0x1000 ++ zeroBytes 40) with stage := 1 }] } }

theorem test_wit_FirmwareCommands_stage : fwTurn (sStage sGood) 1 = true ∧ otherSlot (sStage sGood) = 1
    ∧ slotReason (sStage { s0 with plat := { flash := flashOf 0 0 [] } }) 1 = 2 := by decide +kernel

theorem test_wit_FirmwareCommands_image : hostRead (sStage sGood) .ns (.cmd 1) 0x1000 0 = (sStage sGood, .ok []) := rfl

theorem test_wit_FirmwareCommands_passes :
    let s1 := flashPut (sStage sGood) (slotAddr 1) 0 []
    Config.sigVerifies 0 (slice (manifest s1 1) 0 832) (slice (mfSig (manifest s1 1) 0) 16 512) = true → slotReason s1 1 = 0 := by
  intro s1 h
  have hm : manifest s1 1 = exImage := by
    exact flashRead_second _ _ slotSize _ [] _ _ rfl (by decide) exImage_length
  exact slot_passes _ 1 _ hm (by decide +kernel) (by decide +kernel) (by decide +kernel) (by decide +kernel)
    (by decide +kernel) (by decide +kernel) (empty_comps _ _ _ (by decide +kernel) (by decide +kernel)) (hm ▸ h)

/-- FW_ACTIVATE: a staged image that asks for nothing of the running components, and one that asks for more. -/
def sAct (img : Bytes) (mode : Byte) (stage : Nat) : State :=
  (sFw 0x0061 (mode :: zeroBytes 47) stage 0 img).wr .gblFwStatus 0 0 (2 ^ 31)

theorem test_wit_FirmwareCommands_activate :
    (upTo 4).all (fun m => fwTurn (sAct (zeroBytes 1024) (BitVec.ofNat 8 m) 0) 1
      && decide (fld (BitVec.ofNat 8 m :: zeroBytes 47) 0 1 = m)
      && decide (activationMode (sAct (zeroBytes 1024) (BitVec.ofNat 8 m) 0) m = some (max 1 m))) = true
    ∧ activationMode (sAct [] 1 0) 1 = none ∧ activationMode (sAct [] 2 0) 2 = none := by decide +kernel

theorem test_wit_FirmwareCommands_commit : [1, 2, 3].all (fun g =>
    let s := sAct [] 3 g
    (activating s).map (fun c => c.stage) == some g && quiescePoint s && s.plat.restart.isNone
      && (activating s).any (cplRoom { s with hqe := { s.hqe with rings := [] } })) = true := by decide +kernel

theorem test_wit_FirmwareCommands_confirm :
    let s := { s0 with hqe := { issued := [cmd 0x0062 (zeroBytes 48)] }, plat := { flash := flashOf 1 0 [] } }
    fwTurn s 1 = true ∧ onTrial { s with plat := { flash := flashOf 0 0 [] } } = false
    ∧ (actRecord s).map (fun a => (recState a.2, recSlot a.2)) = some (1, runSlot s) ∧ s.plat.unitsOut = false
    ∧ bit (fld (zeroBytes 48) 0 1) 0 = false := by decide +kernel

/-- An ASH_END beside the image that passes. -/
def sAshEnd : State :=
  { sGood.wr .rscBoot 0 0 (2 ^ 31) with
    plat := { ash := some (1, 4096), flash := { addr := slotAddr 1, len := 0, data := [] } :: flashOf 0 0 exImage } }

/-- Ash mode, with and without a download begun; pieces of 0, 1, 4,032 and 4,033 bytes and at the length's end. -/
theorem test_wit_AshDownloads :
    let a := s0.wr .rscBoot 0 0 (2 ^ 31)
    let d := { a with plat := { ash := some (1, 4096) } }
    inAsh a = true ∧ slotSize ≤ slotSize ∧ slotSize < slotSize + 1 ∧ d.plat.ash = some (1, 4096)
    ∧ (1 ≤ (zeroBytes 4032).length ∧ (zeroBytes 4032).length ≤ 4032 ∧ 64 + (zeroBytes 4032).length ≤ 4096)
    ∧ 4032 < (zeroBytes 4033).length ∧ 4096 < 65 + (zeroBytes 4032).length ∧ inAsh s0 = false ∧ s0.plat.ash = none := by
  decide +kernel

theorem test_wit_AshDownloads_end :
    sAshEnd.plat.ash = some (1, 4096) ∧ slotReason { s0 with plat := { flash := flashOf 0 0 [] } } 1 ≠ 0
    ∧ (Config.sigVerifies 0 (slice (manifest sAshEnd 1) 0 832) (slice (mfSig (manifest sAshEnd 1) 0) 16 512) = true → slotReason sAshEnd 1 = 0) := by
  refine ⟨rfl, by decide +kernel, fun h => ?_⟩
  have hm : manifest sAshEnd 1 = exImage := flashRead_second _ _ slotSize _ [] _ _ rfl (by decide) exImage_length
  exact slot_passes _ 1 _ hm (by decide +kernel) (by decide +kernel) (by decide +kernel) (by decide +kernel)
    (by decide +kernel) (by decide +kernel) (empty_comps _ _ _ (by decide +kernel) (by decide +kernel)) (hm ▸ h)

/-- POWER with each OP: shades 0 to 3 on a free and a busy part, a limit, and tiles at the grid's corner, beyond it and of
the other world. -/
def pwOps (op a : Byte) (r : Bytes) : Bytes := [op, a, 1, 2] ++ r ++ zeroBytes 40

theorem test_wit_PowerCommands :
    (upTo 4).all (fun k => decide (pwOp (pwOps 1 (BitVec.ofNat 8 k) [0, 0, 0, 0]) = 1)
      && decide (pwShade (pwOps 1 (BitVec.ofNat 8 k) [0, 0, 0, 0]) = k)) = true
    ∧ (let s := sCmd 0x0070 (pwOps 1 2 [0, 0, 0, 0])
       shadeBusy s (some 1) = false ∧ (getIssued s 1).map (cplRoom s) = some true
        ∧ shadeBusy { s with nmu := some { world := .ns, addr := 0 } } (some 1) = true)
    ∧ pwOp (pwOps 2 0 [0, 0, 0, 0]) = 2
    ∧ [(3, [47, 31, 1, 1]), (4, [47, 31, 1, 1])].all (fun p =>
        let s := sCmd 0x0070 (pwOps p.1 0 p.2)
        (getIssued s 1).map (gateStatus s) == some stOk && !(gtTiles (pwOps p.1 0 p.2)).any (underTest s) && !olderHeld s 1 gateOps)
      = true
    ∧ (let s := sCmd 0x0070 (pwOps 3 0 [47, 31, 1, 2]); (getIssued s 1).map (gateStatus s) = some stOutOfRange)
    ∧ (let s := (sCmd 0x0070 (pwOps 4 0 [47, 31, 1, 1])).wr .secWorldTile 23 0 (2 ^ 63)
       (getIssued s 1).map (gateStatus s) = some stAccessDenied) := by decide +kernel

theorem test_wit_PointsFollowLimits :
    awake s0 = true ∧ limitW (s0.wrf .pwcStatus 0 0 43 32 0) ≤ 2400
    ∧ (let l := limitW s0
       l < l + 1 ∧ l - 101 < l - 100 ∧ l - 100 ≤ l - 100 ∧ s0.plat.lowReads + 1 < 50
        ∧ 50 ≤ ({ s0 with plat := { lowReads := 49 } } : State).plat.lowReads + 1)
    ∧ running s0 = true ∧ s0.plat.tripped = false
    ∧ (canonical s0 = true ∧ s0.plat.ceil.getD 3 0 < 5 ∧ s0.plat.power < 5 ∧ s0.plat.therm.getD 3 0 < 5) := by decide +kernel

/-- Sensors 95, 96 and 31 (which brings derived sensors), with four and with five readings. -/
theorem test_wit_AmberSamplesFilter :
    running s0 = true ∧ (96 : Fin 101).val ≥ 96 ∧ (32 ≤ (95 : Fin 101).val) ∧ (30 : Fin 101).val % 8 ≠ 7
    ∧ ((senVal 95 0 :: ([1, 2, 3] : List Int)).take 5).length < 5 ∧ ((senVal 95 0 :: ([1, 2, 3, 4] : List Int)).take 5).length = 5 := by
  decide +kernel

/-- A state in a rule 0 that is active and holds a shade. -/
def sHold (k : Nat) : State := s0.wr .ambRule 0 0 (2 ^ 63 + 2 ^ 62 + 2 * 2 ^ 58 + k * 2 ^ 46)

theorem test_wit_AmberEventsAct :
    (let w := s0.wr .ambWdog 0 0 (2 ^ 31 + 5)
     awake w = true ∧ bit (w.rd .ambWdog) 31 = true ∧ w.plat.wdogAt + 1000000 * orElse0 (bits (w.rd .ambWdog) 15 0) 1 = 5000000
      ∧ 5000000 ≤ ({ w with time := 5000000 } : State).time ∧ w.time < 5000000)
    ∧ [2 ^ 63, 2 ^ 63 + 2 ^ 62].all (fun x => let a := s0.wr .ambAlarm 0 0 x
        running a && bit (a.rd .ambAlarm) 63 && decide (a.plat.alarmHi * 2 ^ 48 + bits (a.rd .ambAlarm) 47 0 ≤ timeBase a)) = true
    ∧ (let g := s0.wr .pwcCtl 0 0 (2 ^ 31); running g = true ∧ bit (g.rd .pwcCtl) 31 = true ∧ shade g = 0 ∧ quiet g = true)
    ∧ (shade (sHold 1) < amberHeld (sHold 1) ∧ amberHeld (sHold 1) = 1)
    ∧ (amberHeld (sHold 2) = 2 ∧ shadeBusy (sHold 2) none = false
        ∧ shadeBusy { sHold 2 with hqe := { issued := [cmd 1 []] } } none = true)
    ∧ tripHolds s0 = false ∧ tripHolds ({ s0 with plat := { tripped := true } }.wr .ambRule 4 0 (2 ^ 62)) = true := by
  decide +kernel

theorem test_wit_ShadesWake :
    shade s0 = 0 ∧ shade (inShade s0 1) = 1 ∧ greyWakes .nudge = true ∧ greyWakes .wakePin = false
    ∧ shade (inShade s0 2) = 2 ∧ wireLatch .alarm = some 4
    ∧ (let w := ((inShade s0 2).wr .evcWatch 255 0 (2 ^ 31 + 9)).wr .evcSrc 9 0 (2 ^ 61); watched w 9 = true ∧ srcReady w 9 = true)
    ∧ (let b := inShade s0 3
       shade b = 3 ∧ running b = true ∧ (wireWake b 0).plat.wakeDue = true ∧ tripHolds (wireWake b 0) = false
        ∧ amberHeld (wireWake b 0) = 0 ∧ b.plat.wakeDue = false) := by decide +kernel

def noFail : BringUp := { tileFail := [], portFail := [], chanFail := [], resetLow := false }

theorem test_wit_ResetsByScope :
    499 < 500 ∧ running s0 = true ∧ bit ((s0.wr .rscCfg 0 0 (2 ^ 30)).rd .rscCfg) 30 = true ∧ bit ((s0.wr .rscCfg 0 0 0).rd .rscCfg) 30 = false
    ∧ (s0.plat.powered = true ∧ s0.plat.waitHigh = false ∧ s0.lhl.st ≠ .down)
    ∧ resetOperand 0 = some (0, 0) ∧ resetOperand 1 = some (1, 0) ∧ resetOperand 0x32 = some (2, 3) ∧ resetOperand 3 = none
    ∧ lhlActive s0 = true ∧ resetAllowed (s0.wr .rscCfg 0 0 0) .s = true ∧ resetAllowed (s0.wr .rscCfg 0 0 0) .ns = false := by
  decide +kernel

theorem test_wit_ResetsKeep : canonical sQueue = true
    ∧ regDecode (regOff .rasChan 63 0) = some (.rasChan, 63, 0) ∧ regDecode (regOff .ambRule 63 0) = some (.ambRule, 63, 0) := by
  decide +kernel

/-- The last block of each kind, and the first number beyond it. -/
theorem test_wit_BlockResets :
    [(1, 63, World.ns), (2, 31, .ns), (3, 15, .ns), (4, 68, .s)].all (fun p =>
      blockOk p.1 p.2.1 && !blockOk p.1 (p.2.1 + 1) && blockWorldOk s0 p.2.2 p.1 p.2.1) = true ∧ blockOk 0 0 = false ∧ blockWorldOk s0 .s 1 63 = false ∧ brBusy s0 = false
    ∧ (let b := s0.wr .rscBlkrst 0 0 (2 ^ 31 + 2 ^ 29 + 1 * 2 ^ 16); brBusy b = true ∧ brState b = 1)
    ∧ bit (1 : W32).toNat 0 = true ∧ bit (0 : W32).toNat 0 = false := by decide +kernel

/-- Key slots 0 and 1 usable, with slot 0 the one that verified the running manifest; a debug response of level 1 from slot 2,
whose signature verifies or not as the free value has it (log 11); a response of a level that does not exist. -/
def sKeys : State := s0.wr .secBootStatus 0 0 (3 * 2 ^ 44 + 2 ^ 46)
def sDbg : State := sKeys.wr .secDbgResp 128 0 0x0201

theorem test_wit_SecurityCommands :
    revokeRefused sKeys 0 = true ∧ revokeRefused sKeys 1 = false ∧ canonical sKeys = true
    ∧ bit (sKeys.rd .secAttest) 31 = false ∧ bit ((sKeys.wr .secAttest 0 0 (2 ^ 31)).rd .secAttest) 31 = true
    ∧ sKeys.plat.reloaded = false ∧ ({ sKeys with plat := { reloaded := true } } : State).plat.reloaded = true
    ∧ ({ sKeys with plat := { dbgLock := true } } : State).plat.dbgLock = true ∧ sDbg.plat.dbgLock = false
    ∧ dbgSlotOk (s0.wr .secDbgResp 131 0 0) (fld (dbgResp (s0.wr .secDbgResp 131 0 0)) 512 1) 0 = false := by decide +kernel

theorem test_wit_SecurityCommands_response :
    let s1 := sDbg.wr .secDbgResp 131 0 0
    Config.sigVerifies 2 (dbgNonce s1 ++ sha512 Config.deviceCert ++ natLe 1 1) (slice (dbgResp s1) 0 512) = true →
    dbgPass s1 = true := by
  intro s1 h
  have h1 : fld (dbgResp s1) 512 1 = 1 := by decide +kernel
  have h2 : fld (dbgResp s1) 513 1 = 2 := by decide +kernel
  have h3 : dbgSlotOk s1 1 2 = true := by decide +kernel
  simp only [dbgPass, h1, h2, h3, h, Bool.and_self]

theorem test_wit_SecurityCommands_response_fails : dbgPass (s0.wr .secDbgResp 131 0 0) = false := by
  have h1 : fld (dbgResp (s0.wr .secDbgResp 131 0 0)) 512 1 = 0 := by decide +kernel
  simp [dbgPass, h1, dbgSlotOk]

/-- The sideband and the mailbox, in White, in Charcoal, in a restart and in Ash mode. -/
theorem test_wit_SpdmAnswers :
    let u := (s0.wr .rscBoot 0 0 (8 * 2 ^ 4)).wr .secSpdmCtl 0 0 (2 ^ 31)
    (sidebandUp u = true ∧ running u = true ∧ bit (u.rd .secSpdmCtl) 31 = true) ∧ (inAsh u = false ∧ shade u < 2 ∧ u.plat.restart = none)
    ∧ 2 ≤ shade (inShade u 2) ∧ sidebandUp (inShade u 2) = true
    ∧ (let a := u.wr .rscBoot 0 0 (2 ^ 31); inAsh a = true ∧ sidebandUp a = true) := by decide +kernel

theorem test_wit_SidebandAnswers : sidebandUp (s0.wr .rscBoot 0 0 (5 * 2 ^ 4)) = true ∧ sidebandUp (s0.wr .rscBoot 0 0 (4 * 2 ^ 4)) = false
    ∧ (101 : BitVec 16).toNat ≤ 101 ∧ 101 < (102 : BitVec 16).toNat := by decide +kernel

/-! Memory, NMU jobs, mesh and fabric. -/

theorem test_wit_MemoryMaintenance :
    (let s := s0.wr .mctScrub 0 0 (2 ^ 16 + 2 ^ 8)
     s.rdf .mctScrub 0 0 31 16 ≠ 0 ∧ tileGated s 1535 = false ∧ s.rdf .mctScrub 0 0 15 8 ≠ 0 ∧ retired s 127 = false)
    ∧ (scrubAt s0 1535).2 = 0 ∧ (scrubAt s0 (1536 + 127)).2 = 0
    ∧ (let s := s0.wr .mctScrub 0 0 0; s.rdf .mctScrub 0 0 31 16 = 0 ∧ s.rdf .mctScrub 0 0 15 8 = 0)
    ∧ dataBursts + dataBursts / 16 - 1 < dataBursts + dataBursts / 16
    ∧ (chState s0 127 ≠ 1 ∧ evacuating s0 127 = false) ∧ chState (s0.wrf .mctChstat 127 0 31 29 1) 127 = 1
    ∧ (let r := (s0.wrf .mctChstat 127 0 31 29 1).wr .mctRetrain 0 0 (2 ^ 31 + 127 * 2 ^ 8)
       bit (r.rd .mctRetrain) 31 = true ∧ r.rdf .mctRetrain 0 0 14 8 = 127) := by decide +kernel

/-- MCT_EVAC: a start on an idle part, while BUSY, where the limit leaves no room for a channel less, of a retired channel,
beside eight evacuated ones; a running evacuation. The limit's bound itself is the last value that leaves room. -/
theorem test_wit_MemoryMaintenance_evacuation :
    bit (0x7F01 : W32).toNat 0 = true ∧ bit (s0.rd .mctEvac) 31 = false
    ∧ bit ((s0.wr .mctEvac 0 0 (2 ^ 31)).rd .mctEvac) 31 = true ∧ bit (0x7F01 : W32).toNat 30 = false
    ∧ (let s := s0.wr .mctLimit 0 0 (limitBound 1 + 1); limitBound (retiredCount s + 1) < s.rdf .mctLimit 0 0 19 0)
    ∧ (let s := s0.wr .mctLimit 0 0 (limitBound 1)
       s.rdf .mctLimit 0 0 19 0 ≤ limitBound (retiredCount s + 1) ∧ retired s 127 = false ∧ retiredCount s < 8 ∧ s.evacs = []
       ∧ ({ s with plat := { s.plat with evac := some 127 }, evacs := [(127, 0)] } : State).plat.evac = some 127)
    ∧ (let s := s0.wr .mctLimit 0 0 (limitBound 2) |>.wr .mctRetire 1 0 (2 ^ 63)
       s.rdf .mctLimit 0 0 19 0 ≤ limitBound (retiredCount s + 1) ∧ retired s 127 = true) := by decide +kernel

/-- Job records of each OP for three elements at 0x4100000 and on, one with a reserved OP (ERR 1), one beyond memory (2). -/
def jobRec (op : Nat) : Bytes :=
  [natLe 1 op, zeroBytes 7, natLe 8 3].flatten
    ++ ((upTo 7).flatMap fun i => natLe 8 (if (jobUses op).contains i then 0x4100000 + 64 * i else 0)) ++ zeroBytes 56

def sJob (op a : Nat) : State := setMem { s0 with nmu := some { world := .ns, addr := a } } 0x4000000 (jobRec op)

theorem test_wit_NmuJobsRun :
    (List.range' 1 6).all (fun op => let s := sJob op 0x4000000
      let b := memBytes s 0x4000000 128
      decide (jobOp b = op) && decide (jobErr s { world := .ns, addr := 0x4000000 } b = 0)) = true
    ∧ jobErr (sJob 0 0x4000000) { world := .ns, addr := 0x4000000 } (jobRec 0) = 1
    ∧ jobErr s0 { world := .ns, addr := 0 } (jobRec 1) = 2
    ∧ (let s := s0.wr .secRegion 5 0 0x9800100000004000; jobErr s { world := .ns, addr := 0x40000000 } (jobRec 1) = 3)
    ∧ (let s := { s0 with flips := [(0x4000000, 3)] }; jobErr s { world := .ns, addr := 0x4000000 } (jobRec 1) = 4) := by decide +kernel

/-- A WRITE packet from tile 0 to the last tile, in the open and with router 47 on its way, or its destination, fenced. -/
def exMesh : MeshPacket :=
  let p : MeshPacket := { noMesh with dest := 1535, src := 0, typ := 1, addr := 0x4000000, payload := [1] }
  { p with hpar := BitVec.ofNat 32 (xorWords 7 (meshHead p)) }

theorem test_wit_MeshPacketsTravel :
    endpointTile exMesh.src.toNat = some 0 ∧ endpointTile exMesh.dest.toNat = some 1535 ∧ meshPacketOk exMesh = true
    ∧ meshParity exMesh = true ∧ meshParity { exMesh with hpar := exMesh.hpar + 1 } = false
    ∧ (routePath s0 0 0 0 1535).1.all (fun q => !routerDown s0 q) = true ∧ tileOut s0 1535 = false
    ∧ tileOut (bankSet s0 .mshFenceTile 1535 true) 1535 = true
    ∧ (let s := bankSet s0 .mshFenceRtr 47 true; (routePath s 0 0 0 1535).1.any (routerDown s)) = true := by decide +kernel

/-- A multicast to two tiles of which one is missing, with and without tries left. -/
def exMc : Multicast :=
  { id := 7, pkt := { noMesh with src := 0, key := 7, typ := 6 }, ctx := .other, left := [1535], missing := [1], tries := 0,
    held := [(1534, 1535)] }

theorem test_wit_MulticastsComplete :
    let p : MeshPacket := { noMesh with src := 0, key := 7, typ := 6, x0 := 47, y0 := 31, w := 1, h := 1, payload := [1] }
    let p := { p with hpar := BitVec.ofNat 32 (xorWords 7 (meshHead p)) }
    let s := { s0 with mcs := [exMc], time := 1000000 }
    meshParity p = true ∧ mcFull s0 0 [1535] = false ∧ (mcTiles p).filter (fun t => !tileOut s0 t) = [1535]
    ∧ ((1534, 1535) ∈ exMc.held ∧ exMc.since + mcHoldLimit s 1534 ≤ s.time ∧ (0, 1) ∉ exMc.held ∧ exMc.ctx = .other)
    ∧     endpointTile p.src.toNat = some 0 ∧ rectOk p.x0.toNat p.y0.toNat p.w.toNat p.h.toNat = true ∧ p.payload.length ≤ 1152
    ∧ s.mcs.find? (fun m => m.id == 7) = some exMc
    ∧ takeFirst (fun m : Multicast => m.id == 7) s.mcs = some (exMc, []) ∧ exMc.missing ≠ []
    ∧ (let t := s.wr .mshCtl 0 0 (2 ^ 24); exMc.tries < bits (blockVal t (.routers 0) .mshCtl 0 0) 31 24)
    ∧ (let t := s.wr .mshCtl 0 0 0; bits (blockVal t (.routers 0) .mshCtl 0 0) 31 24 ≤ exMc.tries) := by decide +kernel

theorem test_wit_BridgesReplay :
    let d := zeroBytes 64
    d.length = 64 ∧ bridgeFlitGood { seq := 0, data := d, crc := BitVec.ofNat 16 (crc16 (d ++ [0])) } = true
    ∧ bridgeFlitGood { seq := 0, data := d, crc := BitVec.ofNat 16 (crc16 (d ++ [0]) + 1) } = false
    ∧ (getBridge s0 0).training = false ∧ (getBridge s0 0).tries < 4
    ∧ (getBridge (setBridge s0 0 { tries := 4 }) 0).tries = 4 ∧ (getBridge (setBridge s0 0 { training := true }) 0).training = true := by
  decide +kernel

/-- A good packet of a TYPE from peer 8 to this part, 7, and a part that knows the peer. -/
def mkPkt (typ : Byte) (dst : DeviceId) : FabPacket :=
  let x : FabPacket := { noFab with dst := dst, src := 8, typ := typ, flags := 0x20, hops := 2, msg := 5, len := 64, addr := 0x4000000,
                                    payload := zeroBytes 64 }
  let x := { x with pres := BitVec.ofNat 8 (residue x.payload) }
  { x with hpar := BitVec.ofNat 32 (xorWords 7 (pktHead x)) }

def sFab : State := setMem (s0.wr .qxfDevid 0 0 (2 ^ 31 + 7)) (peerAddr 8 + 2) [3]

theorem test_wit_FabricMessagesPerformed :
    ([0x01, 0x02, 0x04, 0x06, 0x07] : List Byte).all (fun t => pktsWellFormed [mkPkt t 7] && forUs sFab (mkPkt t 7).dst.toNat
      && segsGood 0 [mkPkt t 7] && peerValid sFab 8 && peerAttested sFab 8 && decide ((mkPkt t 7).typ = t)) = true
    ∧ segsGood 0 [{ mkPkt 1 7 with hpar := 0 }] = false
    ∧ windowAt { s0 with fab := { windows := [(63, { base := 0x4000000, size := 16, valid := true, ncontrib := 1 })] } } 0x4000000 ≠ none
    ∧ (mkPkt 1 9).payload.length ≤ 2048 ∧ forUs sFab (mkPkt 1 9).dst.toNat = false ∧ sFab.seq.train = none
    ∧ ({ mkPkt 1 9 with hops := 1 } : FabPacket).hops.toNat - 1 = 0 ∧ (mkPkt 1 9).hops.toNat - 1 ≠ 0
    ∧ pickPort sFab none (mkPkt 1 9) = none
    ∧ (let s := setLink (sFab.wr .qxfPortCfg 63 0 (2 ^ 27)) (.port 63) { st := .active }
       pickPort { s with fab := { routes := [(9, 2 ^ 15)] } } none (mkPkt 1 9) = some 63) := by decide +kernel

/-- Messages to peer 8 that are out: of a command, of a plan, a MIRROR, marked RETRY and probed. -/
def exOut : OutMsg := { peer := 8, msg := 5, packets := [mkPkt 2 8], ctx := .cmd 1 }
def sOut (o : OutMsg) : State := { sFab with fab := { out := [o] } }

theorem test_wit_FabricAnswersAndSeeds_answers :
    (forUs (sOut exOut) (mkPkt 3 7).dst.toNat = true ∧ segsGood 0 [mkPkt 3 7] = true ∧ findOut (peerSeen (sOut exOut) 8) 8 5 = some exOut)
    ∧ findOut (sOut { exOut with retry := true }) 8 5 = some { exOut with retry := true }
    ∧ findOut (sOut { exOut with probing := true }) 8 5 = some { exOut with probing := true }
    ∧ findOut (sOut { exOut with mirror := true }) 8 5 = some { exOut with mirror := true }
    ∧ findOut (sOut { exOut with ctx := .plan .training }) 8 5 = some { exOut with ctx := .plan .training }
    ∧ (ownId sFab ≠ none ∧ peerValid sFab 8 = true ∧ peerUnreachable (peerSeen sFab 8) 8 = false ∧ (peerSeen sFab 8).fab.out = []
        ∧ peerValid sFab 9 = false ∧ peerUnreachable (peerSeen (setPeerFlag sFab 8 3 true) 8) 8 = true)
    ∧ (sOut { exOut with probing := true }).fab.out.find? (fun m => m.peer == 8 && m.probing) = some { exOut with probing := true }
    ∧ (let s := { sFab with fab := { queued := [exOut] } }; 8 ∉ s.fab.cache ∧ ∃ m ∈ s.fab.queued, m.peer = 8)
    ∧ (let s := { sPh ph0 with fab := { windows := [(63, { base := 0x4000000, size := 16, valid := true, ncontrib := 1 })] } }
       (getPlan s .training).isSome = true ∧ (mapGet (fun _ => {}) s.fab.windows 63).valid = true
        ∧ winCount s (mapGet (fun _ => {}) s.fab.windows 63) 0 ≠ (mapGet (fun _ => {}) s.fab.windows 63).ncontrib) := by decide +kernel

/-- Mirror entry 63 of two pages, seeded from its first page and from its last; the entry as it is before the page goes out. -/
def sSeed (k : Nat) : State :=
  { setMem (((s0.wr .mirCtl 0 0 (2 ^ 31)).wr .mirRegCfg 63 0 (2 ^ 31 + 2)).wr .qxfTwin 0 0 (2 ^ 31 + 8)) (peerAddr 8 + 2) [5] with
    mir := { seeding := [(63, k)] } }

theorem test_wit_FabricAnswersAndSeeds_seeds :
    bit ((sSeed 1).rd .mirCtl) 31 = true ∧ bit ((sSeed 1).rd .mirStatus) 63 = false ∧ mirOut (sSeed 1) 63 = true ∧ twinId (sSeed 1) = some 8
    ∧ (sSeed 0).mir.seeding.find? (fun p => p.1 == 63) = some (63, 0) ∧ 0 + 1 < bits (mirCfg (sSeed 0) 63) 22 0
    ∧ (sSeed 1).mir.seeding.find? (fun p => p.1 == 63) = some (63, 1) ∧ bits (mirCfg (sSeed 1) 63) 22 0 ≤ 1 + 1
    ∧ s0.mir.seeding.find? (fun p => p.1 == 63) = none ∧ mirOut s0 63 = false := by decide +kernel

/-! Plans: a plan of one phase at 0x4000000 whose dense operation has no kind. -/

def planOps (step : Nat) (flags : Byte) : Bytes :=
  [natLe 8 0x4000000, natLe 8 step, natLe 8 0, natLe 8 0, [flags], zeroBytes 15].flatten

def planHead (fence : Nat) : Bytes :=
  [natLe 4 0x4E414C50, natLe 2 (s0.rdf .gblId 0 0 15 0), natLe 2 1, natLe 8 0, natLe 8 fence, natLe 4 1, natLe 4 136, natLe 4 128,
    natLe 2 1, zeroBytes 10, natLe 8 512, zeroBytes 8, List.replicate 64 0xFF].flatten

/-- A phase record with one descriptor. -/
def phaseImg (queueOps free : Byte) : Bytes :=
  [natLe 2 0, [2, 0, 0, 1], natLe 2 0xFFFF, natLe 2 0xFFFF, [1, 0, 0, 0, 0, free, queueOps, 0], zeroBytes 46, tdB 0x4100000 false, [0xFF], zeroBytes 7,
    [0, 0, 0, 0xFF], zeroBytes 60].flatten

def planImg (fence : Nat) : Bytes :=
  [planHead fence, zeroBytes 8, natLe 5 192, natLe 3 200, zeroBytes 48, phaseImg 0 0].flatten

/-- The memory that holds an image. -/
def imgMem (img : Bytes) : NMap Byte := (img.zipIdx.map fun x => (0x4000000 + x.2, x.1)).filter fun e => e.2 != 0

def sPlan (flags : Byte) (fence : Nat) : State :=
  { s0 with hqe := { issued := [cmd 0x0020 (planOps ((s0.rd .seqStep + 1) % 2 ^ 64) flags)] }, mem := imgMem (planImg fence) }

/-- The reads of PlansStartOrWait's last part, and what they give. -/
def planHyp (s : State) : List Bool :=
  match getIssued s 1 with
  | none => []
  | some c =>
    let k := planKindOf c
    let a := rpPlan c.ops
    let h := devRead s c.world (.cmd c.iid) a 128
    let p := planOf c h.2
    let m := planRead h.1 c.world k (a + p.mbTab) (8 * p.nmb)
    let q := planRead m.1 c.world k (a + fld h.2 40 4) (32 * fld h.2 38 2)
    let qs := (entries q.2 0 (fld h.2 38 2) 32).map parseQueue
    let z := scanPhases k (upTo p.nphase) (q.1, { p with queues := qs }, false)
    [decide (planAddrStatus s a 128 = stOk), headerBad h.1 c h.2,
      decide (planAddrStatus h.1 a p.total = stOk) && decide (mbTabBad z.2.1.nmb m.2 = false) && qs.all (fun x => !queueBad z.1 qs x)
        && qidsOk z.1 qs && !z.2.2 && decide (z.2.1.streams.length ≤ 160),
      decide (worst [planAddrStatus s a 128, stepStatus s k (rpStep c.ops)] = stOk),
      decide (z.2.1.fence ≠ 0 → z.2.1.fence = fenceHash z.1), allTiles.any (testFenced z.1)]

/-- Good headers of a training plan and an eval; another fence map; a bad MAGIC; a phase record beyond the plan; another step. -/
theorem test_wit_PlansStartOrWait_start : planHyp (sPlan 0 0) = [true, false, true, true, true, false] := by decide +kernel

theorem test_wit_PlansStartOrWait_start2 : planHyp (sPlan 1 0) = [true, false, true, true, true, false] := by decide +kernel

theorem test_wit_PlansStartOrWait_start3 : planHyp (sPlan 0 1) = [true, false, true, true, false, false] := by decide +kernel

theorem test_wit_PlansStartOrWait_start4 :
    (planHyp (setMem (sPlan 0 0) 0x4000000 [0]))[1]? = some true ∧ (planHyp (setMem (sPlan 0 0) 0x4000088 (natLe 8 600)))[2]? = some false := by
  decide +kernel

theorem test_wit_PlansStartOrWait_wait :
    [0, 1, 2].all (fun f => match getIssued (sPlan f 0) 1 with
      | some c => c.op == 0x0020 && c.st != .running && kindFree (sPlan f 0) (planKindOf c) && (sPlan f 0).seq.held.isEmpty
          && noOlderHold (sPlan f 0) 1 && !kindFree { sPlan f 0 with seq := { train := some plan0, eval := some plan0 } } (planKindOf c)
      | none => false) = true
    ∧ (let h : HeldPlan := { iid := 1, kind := .training }
       let s := { sPlan 0 0 with seq := { held := [h] } }
       s.seq.held.find? (fun h => kindFree s h.kind) = some h ∧ noOlderHold s 1 = true ∧ (getIssued s 1).isSome = true) := by decide +kernel

/-- A recomputation whose log record, all zeros, agrees: step 0, position 0 and no answer in force. -/
def sRecompute : State :=
  { ((sPlan 2 0).wr .snpLogBase 0 0 0x10001).wr .snpLogCfg 0 0 1 with
    hostAns := [{ use := .cmd 1, addr := 0x10000, len := 4096, status := 0 }] }

theorem test_wit_PlansStartOrWait_recompute :
    hostRead sRecompute .ns (.cmd 1) 0x10000 4096 = (sRecompute, .ok (hostBytes sRecompute 0x10000 4096))
    ∧ (getIssued sRecompute 1).any (fun c =>
      let r := hostBytes sRecompute 0x10000 4096
      rpRecompute c.ops && decide (logSlot (applyMoment .step sRecompute) (rpStep c.ops) = some 0x10000)
        && decide (fld r 8 8 = rpStep c.ops) && decide (fld r 16 8 = fld c.ops 16 8)
        && decide (fld r 32 4 = stepAnswerId sRecompute (rpStep c.ops))
        && decide (rpStep c.ops = (sRecompute.rd .seqStep + 1) % 2 ^ 64)) = true := ⟨rfl, by decide +kernel⟩

/-- An answer of one section for a step; a record that is too short. -/
def ansImg (step : Nat) : Bytes :=
  [natLe 8 step, natLe 4 7, natLe 2 1, zeroBytes 18, natLe 2 0, natLe 2 1, natLe 4 1, zeroBytes 8, zeroBytes 16].flatten

def sAns (step : Nat) (t : Option PlanRun) : State :=
  { sCmd 0x0021 (natLe 8 0x1000 ++ natLe 4 64 ++ zeroBytes 36) with
    tkr := { ctxs := [(0, { k := 1, spare := 0, next := false, renorm := false, world := .ns, valid := true, nexp := 1, h := 1, flush := 1, slots := 1 })] }
    hostAns := [{ use := .cmd 1, addr := 0x1000, len := 64, status := 0 }], host := (setHost s0 0x1000 (ansImg step)).host
    seq := { train := t } }

def ansHyp (step : Nat) (t : Option PlanRun) : Option (Nat × Bool) :=
  (gotHost (hostRead (sAns step t) .ns (.cmd 1) 0x1000 64) (sAns step t)).bind fun b =>
    (parseAnswer (sAns step t) 1 b).map fun a => (a.step, a.sections.all fun x => (getCtx (sAns step t) x.ctx).world == .ns)

theorem test_wit_AnswersAndCancels :
    fld (natLe 8 0x1001 ++ zeroBytes 40) 0 8 % 64 ≠ 0 ∧ ansHyp 5 none = some (5, true) ∧ ansHyp 5 (some plan0) = some (5, true)
    ∧ (parseAnswer (sAns 5 none) 1 (zeroBytes 31)).isNone = true ∧ (sAns 5 none).tkr.waiting = []
    ∧ ((sAns 5 none).rd .seqStep = 2 ^ 64 - 1 ∨ (sAns 5 none).rd .seqStep < 5)
    ∧ (let s := (sAns 5 none).wr .seqStep 0 0 5; s.rd .seqStep ≠ 2 ^ 64 - 1 ∧ 5 ≤ s.rd .seqStep)
    ∧ (plan0.step = 5 ∧ plan0.took = false ∧ plan0.ansWait = false ∧ 4 < plan0.step ∧ { plan0 with took := true }.took = true)
    ∧ { plan0 with ansWait := true }.ansWait = true
    ∧ (let s := { sCmd 0x0022 (natLe 4 (tkrEpoch s0) ++ zeroBytes 44) with seq := { train := some plan0 } }
       (getIssued s 1).map (fun c => decide (fld c.ops 0 4 = tkrEpoch s)) = some true ∧ committing plan0 = false
        ∧ committing { plan0 with st := .commit } = true) := by decide +kernel

/-- A plan between phases: of that one phase, of a phase that does not load, and of one that begins an update boundary; its
turn after a phase of the other plan; executions left and used up. -/
def planB : PlanRun := { plan0 with phaseTab := 136, total := 512, st := .between }
def sBetween (p : PlanRun) (img : Bytes) : State := { s0 with seq := { train := some p }, mem := imgMem img }

def freeImg : Bytes := [planHead 0, zeroBytes 8, natLe 5 192, natLe 3 216, zeroBytes 48, phaseImg 0 1, zeroBytes 6, natLe 6 64, [0, 2, 0, 2]].flatten

def sFree : State :=
  setRegion (sBetween planB freeImg) 0 { base0 := 0x4200000, base1 := 0x4210000, size := 1, valid := true, v0 := some 0 }

theorem test_wit_PhasesRun_start :
    (let s := sBetween planB (planImg 0)
     phaseFree s = true ∧ applyGates (applyDieResets s) = s ∧ getPlan s .training = some planB ∧ planB.st = .between
      ∧ otherReady s .training = false ∧ planB.executed < phaseLimit s ∧ (loadPhase s .training planB planB.nextPhase).2.2.map (fun f => f.free)
        = some [] ∧ s.seq.copies = [])
    ∧ (loadPhase (sBetween plan0 []) .training plan0 0).2.2 = none
    ∧ ((loadPhase sFree .training planB planB.nextPhase).2.2.map (fun f => f.free) = some [0] ∧ planB.boundary = none
        ∧ planB.cleared = false ∧ planOut sFree .training = false)
    ∧ { planB with cleared := true }.cleared = true
    ∧ (let p := { planB with executed := 64 * 65535 }; phaseLimit (sBetween p []) ≤ p.executed) := by decide +kernel

/-- A phase that waits for the pins of regions 0 and 1, with pins on region 0 and without. -/
theorem test_wit_PhasesRun_free :
    let f := { ph0 with waits := [0, 1] }
    let s := sPh f
    s.seq.train.map (fun p => p.phase) = some (some f) ∧ 0 ∈ f.waits ∧ freePins (getRegion s 0) = 0
    ∧ freePins (getRegion (setRegion s 0 { pins1 := 1 }) 0) ≠ 0
    ∧ f.waits.filter (· != 0) ≠ [] ∧ ({ ph0 with waits := [0] }.waits.filter (· != 0)) = [] := by decide +kernel

/-- A die that has nothing left of a phase of dies 0 and 3, and of one of die 0; a fault to end the plan at once. -/
theorem test_wit_PhasesRun_end :
    let f := { ph0 with left := [0, 3], dies := [0, 3] }
    let g := { ph0 with left := [0] }
    (curOf (sPh f) .training).map (fun c => (c.p.atOnce, c.f.left, dieIdle (sPh f) c 3, c.f.passes.all (passDone (sPh f) c)))
      = some (false, [0, 3], true, true) ∧ f.left.filter (· != 3) ≠ []
    ∧ (curOf (sPh g) .training).map (fun c => (phaseIdle (sPh g) c, (upTo 4).all (dieIdle (sPh g) c),
        (getPlan (runCopies (sPh g) c) .training).isSome)) = some (true, true, true) ∧ g.left.filter (· != 0) = [] := by decide +kernel

def planSt (st : PlanSt) : PlanRun := { plan0 with st := st }
def sSt (st : PlanSt) : State := { s0 with seq := { train := some (planSt st) } }

theorem test_wit_PhasesRun_branch : getPlan (sSt .branch) .training = some (planSt .branch) ∧ (planSt .branch).st = .branch := by decide +kernel

/-- A recomputation whose digest is the log's, and one whose digest is not; results that pass, fail and fail at once; replays
left and used up; a drain with and without mirrored writes out; granules with and without a twin. -/
theorem test_wit_ChecksCommitAndReplay :
    (getPlan (sSt .commit) .training = some (planSt .commit) ∧ planOut (sSt .commit) .training = false ∧ (planSt .commit).recompute = false)
    ∧ (let p := { planSt .commit with recompute := true }
       let s := { sCmd 0x0020 [] with seq := { train := some p } }
       recomputeOk s p = true ∧ recomputeOk s { p with digest := [1, 0, 0, 0, 0, 0, 0, 0] } = false
        ∧ planMembers s p = [] ∧ ownPass p = true)
    ∧ (let t := fun (r : Bool × Bool) => takeResults [8] [(8, r.1, r.2)]
       (t (true, false)).1.all (fun r => r.2.1) = true ∧ (t (true, false)).1.any (fun r => r.2.2) = false
        ∧ (t (false, false)).1.all (fun r => r.2.1) = false ∧ (t (false, true)).1.any (fun r => r.2.2) = true)
    ∧ (let s := s0.wr .rasCtl 0 0 2; 1 < s.rdf .rasCtl 0 0 2 0 ∧ s.rdf .rasCtl 0 0 2 0 ≤ 2)
    ∧ (mirrorOut (sSt .drain) = false ∧ mirrorOut { sSt .drain with fab := { out := [{ exOut with mirror := true }] } } = true
        ∧ bit ((sSt .drain).rd .mirStatus) 63 = false)
    ∧ (let u : Queue := { parseQueue [] with peer := 8 }
       let p := { planSt .members with queues := [u], members := [8] }
       let s := { s0 with seq := { train := some p } }
       resultPlan s 8 = some .training ∧ resultsIn { p with results := [(8, true, false)] } = true
        ∧ resultsIn { p with members := [8, 9], results := [(8, true, false)] } = false ∧ (planSt .phase).st ≠ .members)
    ∧ (getPlan (sSt .replay) .training = some (planSt .replay) ∧ readsOut (sSt .replay) .training = false
        ∧ readsOut (sSt .retry) .training = false ∧ mirEntry s0 0x4000000 = none
        ∧ mirEntry ((s0.wr .mirRegCfg 0 0 (2 ^ 31 + 2)).wr .mirRegSrc 0 0 0x4000000) 0x4000000 = some 0) := by decide +kernel

/-- Queue operation 0 of a phase, with the queue's ends on this device (7), or its peer 8. -/
def exQueue (recv : Bool) (peer : Nat) : Queue :=
  { parseQueue [] with qid := 1, recv := recv, nt := 1, peer := peer, size := 64, spillable := false }

def sQ (send : Bool) (u : Queue) (us : List Queue) : State :=
  { sFab with seq := { train := some { plan0 with queues := u :: us, phase := some { ph0 with
      tds := [parseTd (tdB 0x4000000 false)], qops := [{ send := send, q := 0, td := 0, seq := 0, bad := false }] } } } }

theorem test_wit_QueueEntriesFlow :
    (let s := sQ true (exQueue false 7) [exQueue true 7]
     (queueAt s .training 0).any (fun x => x.2.1.send && decide (x.2.2.next = x.2.1.seq) && tdReady s x.1.f (tdOf x.1.f x.2.1.td)
        && decide (some x.2.2.peer = ownId s) && (localEnd x.1.p x.2.2).any fun e => decide (roomFor e.2 0 = .ring)) = true)
    ∧ roomFor { exQueue true 7 with inRing := [1] } 0 = .none
    ∧ (let s := sQ true (exQueue false 8) []
       (queueAt s .training 0).map (fun x => decide (some x.2.2.peer = ownId s)) = some false
        ∧ (sendMsg s { peer := 8, typ := 0x08, vc := 2, key := 1, addr := 0, world := .ns, ctx := .plan .training, payload := [] }).2 = .ok
        ∧ (sendMsg (setPeerFlag s 8 3 true)
            { peer := 8, typ := 0x08, vc := 2, key := 1, addr := 0, world := .ns, ctx := .plan .training, payload := [] }).2 = .unreachable)
    ∧ (queueAt (sQ true { exQueue false 7 with next := 1, stall := true } []) .training 0).map (fun x => (x.2.2.next, x.2.2.stall))
      = some (1, true)
    ∧ (queueAt (sQ false { exQueue true 8 with inRing := [0] } []) .training 0).map (fun x => (x.2.1.send, x.2.2.next, x.2.2.inRing))
      = some (false, 0, [0])
    ∧ (queueAt (sQ false (exQueue true 8) []) .training 0).map (fun x => (x.2.1.send, x.2.2.inRing, x.2.2.stall)) = some (false, [], false)
    ∧ (let u := { exQueue true 8 with next := 1, inRing := [2] }
       let s := sQ false u []
       (planOfStep s 5).any (fun x => decide (x.1 = .training) && decide (x.2.attempt = 0) && (recvEntry x.2 1).any fun y => decide (y.2 = u)) = true
        ∧ 0 < u.next ∧ 2 ∈ u.inRing ∧ ¬(3 < u.next ∨ 3 ∈ u.inRing ∨ 3 ∈ u.inSpill) ∧ roomFor u 3 = .none
        ∧ roomFor { u with nt := 2 } 3 = .ring
        ∧ ownId s = some 7 ∧ ownId s0 = none ∧ peerValid (peerSeen s 8) 8 = true ∧ peerAttested (peerSeen s 8) 8 = true
        ∧ peerValid (peerSeen (setPeerFlag s 8 0 false) 8) 8 = false
        ∧ (let t := modPlan (setPeerFlag s 8 1 false) .training fun p => { p with world := .s }
           peerValid (peerSeen t 8) 8 = true ∧ peerAttested (peerSeen t 8) 8 = false
            ∧ (planOfStep t 5).any (fun x => decide (x.2.world = .s) && (recvEntry x.2 1).isSome) = true)) := by decide +kernel

/-! Snapshots. -/

def snapOps (dest : Nat) : Bytes :=
  [natLe 8 0x1000, natLe 4 1, natLe 4 0, natLe 8 dest, natLe 8 0x5000000, natLe 4 1, zeroBytes 12].flatten

/-- A list of one page at 0x4000000, and of one below memory's range. -/
def sSnap (a : Nat) : State :=
  { sCmd 0x0030 (snapOps 0x10000) with
    hostAns := [{ use := .cmd 1, addr := 0x1000, len := 16, status := 0 }]
    host := (setHost s0 0x1000 (natLe 8 a ++ natLe 4 1)).host }

def exSnap (captured : Bool) : Snap :=
  { iid := some 9, auto := false, world := .ns, kind := 0, peer := 0, dest := 0x10000, cowBuf := 0x5000000, cowPages := 1,
    list := [{ addr := 0x4000000, pages := 1, region := none, version := 0, bytes := [] }], captured := captured }

def sCur (n : Snap) : State := { s0 with snp := { cur := some n } }

theorem test_wit_SnapshotsRunAndRestore_snapshot :
    snapOperandsOk (snapOps 0x10000) = true ∧ snapOperandsOk (snapOps 0x8000) = false
    ∧ ([(0x4000000, true), (0x3FF0000, false)] : List (Nat × Bool)).all (fun p =>
        let s1 := unholdCmd (sSnap p.1) 1
        (gotHost (hostRead s1 .ns (.cmd 1) 0x1000 16) s1).any fun bs =>
          decide (snapStatus s1 .ns (snapOps 0x10000) ((entries bs 0 1 16).map (snapEntry s1 false)) = stOk) == p.2) = true
    ∧ (getIssued (sSnap 0x4000000) 1).isSome = true ∧ (sSnap 0x4000000).snp.cur = none
    ∧ olderHeld (sSnap 0x4000000) 1 [0x0030, 0x0031] = false
    ∧ (let s := sCur (exSnap false); quiet s = true ∧ (exSnap false).captured = false)
    ∧ (let n := exSnap true; nextPage (sCur n) n = none ∧ n.buffered = [] ∧ nextPage (setTracked (sCur n) 0x400 true) n = some 0x400
        ∧ tracked (setTracked (sCur n) 0x400 true) (0x400FFFF / 65536) = true)
    ∧ { exSnap true with buffered := [(0x400, 0)] }.buffered ≠ [] := by decide +kernel

theorem test_wit_SnapshotsRunAndRestore_auto :
    let a := { (s0.wr .snpAuto 0 0 (2 ^ 63 + 2 ^ 32)).wr .snpAutoTpl 0 0 0x2000 with
      hostAns := [{ use := .template, addr := 0x2000, len := 64, status := 0 }] }
    bit (s0.rd .snpAuto) 63 = false ∧ bit (a.rd .snpAuto) 63 = true ∧ a.snp.since < autoInterval a
    ∧ (let b := { a with snp := { since := 1 } }
       autoInterval b ≤ b.snp.since ∧ b.snp.cur = none
        ∧ (gotHost (hostRead b (ringWorld b (b.rdf .snpAuto 0 0 13 0)) .template (b.rd .snpAutoTpl / 64 * 64) 64) b).isSome = true) := by
  decide +kernel

/-- A RESTORE from an image of no entries at 0x10000 in host memory, and from one that is none. -/
def sRestore (magic : Nat) : State :=
  { sCmd 0x0031 (zeroBytes 16 ++ natLe 8 0x10000 ++ zeroBytes 24) with
    hostAns := (upTo 32).map fun i => { use := .cmd 1, addr := 0x10000 + 4096 * i, len := 4096, status := 0 }
    host := (setHost s0 0x10000 (natLe 4 magic ++ natLe 2 (s0.rdf .gblId 0 0 15 0))).host }

theorem test_wit_SnapshotsRunAndRestore_restore :
    imageOk (zeroBytes 16 ++ natLe 8 0x10000 ++ zeroBytes 24) = true ∧ snKind (zeroBytes 16 ++ natLe 8 0x10000 ++ zeroBytes 24) = 0
    ∧ restoreRow.quietBut (sRestore 0) 1 = true ∧ (sRestore 0).snp.cur = none ∧ olderHeld (sRestore 0) 1 [0x0030, 0x0031] = false
    ∧ restoreRow.quietBut { sRestore 0 with seq := { train := some plan0 } } 1 = false
    ∧ (let s1 := holdCmd (sRestore 0x534E4150) 1
       let h := hostBytes s1 0x10000 0x20000
       (entries h 0x1000 (fld h 6 2 % 257) 16).map (snapEntry s1 true) = [] ∧ restoreStatus s1 .ns h [] = stOk)
    ∧ (let s := modIssued (sRestore 0x534E4150) 1 fun c => { c with stage := 3 }
       (getIssued s 1).any (fun c => decide (c.stage = 3)) = true ∧ cmdOut s 1 = false
        ∧ cmdOut { s with fab := { out := [{ exOut with ctx := .cmd 1, mirror := true, sync := true }] } } 1 = true)
    ∧ (let s1 := holdCmd (sRestore 0) 1; restoreStatus s1 .ns (hostBytes s1 0x10000 0x20000) [] ≠ stOk) := by decide +kernel

theorem test_wit_SnapshotsRunAndRestore_image :
    let s1 := holdCmd (sRestore 0x534E4150) 1
    hostRead s1 .ns (.cmd 1) (0x10000 + 0) 0x20000 = (s1, .ok (hostBytes s1 0x10000 0x20000))
    ∧ hostRead s1 .ns (.cmd 1) (0x10000 + 0x20000) 0 = (s1, .ok []) := ⟨rfl, rfl⟩

/-! Tasks of a phase. -/

/-- Tensors 0 to 2 of one BF16 block, 3 and 4 lists of 32 integers, 5 and 6 rows of 32 integers. -/
def tdW (n fmt : Nat) (ext : List Nat) : Td :=
  { base := 0x4100000 + 0x100000 * n, fmt := fmt, ndim := 2, ext := ext ++ [1, 1, 1], stride := [1, 1, 0, 0, 0] }
def exTds : List Td :=
  [tdW 0 0x04 [32, 32], tdW 1 0x04 [32, 32], tdW 2 0x04 [32, 32], tdW 3 0x20 [32, 1], tdW 4 0x20 [32, 1], tdW 5 0x20 [32, 1],
    tdW 6 0x20 [32, 1]]

def exDense (c part : Nat) : Task :=
  { die := 0, bytes := [mkDense 0 0 0 1 c 0xFF 0 0 0 0 0 |>.take 23, natLe 1 part, natLe 3 (b2n (part != 1)), zeroBytes 5].flatten }

def phD (x : Task) : PhaseRun := { ph0 with tds := exTds, denseQ := [x] }

theorem test_wit_DenseWorkRuns_tasks :
    let s := sPh (phD (exDense 2 1))
    let next := fun (s : State) (x : Task) (bad : Bool) => (curPhase s).any fun c => tileWorks s c 0 &&
      (curOf (daResume s c 0) c.k).any fun d => decide (denseTask (daResume s c 0) d.f 0 = some x) && denseBad d x == bad
    next s (exDense 2 1) false = true ∧ takeArray s 0 (exDense 2 1) = some (0, true)
    ∧ next (sPh (phD (exDense 9 1))) (exDense 9 1) true = true := by
  decide +kernel

/-- Array 3 of tile 0 with a folded whole task, and with a folded part; one that waits for a GROUP round. -/
def sDa (f : PhaseRun) (part : Nat) (folded : Bool) : State :=
  { sPh f with das := [(6, { k := .training, task := exDense 2 part, slot := 6, folded := folded })] }

theorem test_wit_DenseWorkRuns_folded :
    ([1, 2] : List Nat).all (fun p => let s := sDa (phD (exDense 2 1)) p true
      (curPhase s).any fun c => (daOldest (daResume s c 0) 0 3).any fun q => decide (dtPart q.2.task.bytes = p)) = true
    ∧ (let f := { phD (exDense 2 1) with dense := { anchor := 1, group := 63 } }
       let s := { sDa f 1 false with das := [(6, { k := .training, task := exDense 2 1, slot := 6, folded := false })] }
       let t := { s with fab := { groups := [(63, { n := 2, rank := 0, valid := true, members := [7, 8, 0, 0, 0, 0, 0, 0] })] } }
       (curOf t .training).any (fun c => decide (c.f.dense.anchor = 1) && decide (c.f.dense.group = 63)
        && t.das.any fun p => !p.2.folded && decide (p.2.k = .training) && (daGroup t c p.2).isNone) = true) := by decide +kernel

theorem test_wit_DenseWorkRuns_sheets :
    (let f := { phD (exDense 2 1) with sheet := true }
     let s := sPh f
     f.sheet = true ∧ tileWorks s (curT f) 0 = true ∧ expectedSlot f 0 true (sheetKb f) = 0 ∧ expectedSlot f 0 true (sheetKb f) ≠ 1)
    ∧ (let x : PackedBlk := { tile := 0, sel := .dense, spot := ⟨2, 0, 0, 0, 0, 0⟩, blk := zeroBlk (tdW 2 0x04 [32, 32]) }
       let f := { ph0 with tds := exTds, packed := [x] }
       f.packed.find? (fun x => x.tile == 0 && opEnded (sPh f) f x.sel) = some x)
    ∧ (let f := { ph0 with dense := { flags := 4, gfill := 32, gflush := 16, gtile := 1535 } }
       gathOpen f = true ∧ gathOk f 0 15 = true ∧ 0 ∈ f.dies ∧ heldLaunches (sPh f) (curT f) 0 < 2
        ∧ tileFenced (bankSet (sPh f) .mshFenceTile 1535 true) 1535 = true ∧ tileFenced (sPh f) 1535 = false
        ∧ (getGath (sPh f) 0 15).rows.length + 32 ≤ 32
        ∧ (let s := { sPh f with gath := [(15, { rows := [gathRow 0], since := 0 })] }
           f.dense.gflush ≠ 0 ∧ (getGath s 0 15).rows ≠ [] ∧ s.time < (getGath s 0 15).since + 1000 * f.dense.gflush
            ∧ (getGath s 0 15).since + 1000 * f.dense.gflush ≤ { s with time := 16000 }.time)) := by decide +kernel

theorem test_wit_GmeWorkRuns_merge :
    let td := [natLe 8 0x4100000, [0x04, 0, 2, 0], zeroBytes 4, natLe 4 32, natLe 4 32, natLe 4 1, natLe 4 1, natLe 4 1, natLe 4 1, natLe 4 1,
      zeroBytes 20].flatten
    td.length = 64 ∧ tdOk (parseTd td) true false = true ∧ (parseTd td).packed = false ∧ (parseTd td).linear = false := by decide +kernel

/-- A GME record of each operation code; codes 1 and 7 turned bad, and a code-7 record of a format it does not sort. -/
def mkG (op flags a b idx aux dst par : Nat) : Task :=
  { die := 0, bytes := [natLe 1 op, natLe 1 flags, natLe 1 a, natLe 1 b, natLe 1 idx, natLe 1 aux, natLe 1 dst, natLe 1 par, natLe 4 0, natLe 4 1,
    zeroBytes 6, [0xFF], zeroBytes 9].flatten }

def exG : List Task :=
  [mkG 1 0 0 1 255 255 2 0, mkG 2 0 0 255 3 255 2 0, mkG 3 0 0 255 3 255 2 0, mkG 4 0 0 255 3 255 2 0, mkG 5 0 0 255 3 255 2 0,
    mkG 6 0 0 1 3 4 2 0, mkG 7 0 5 3 255 4 6 0, mkG 8 0 5 3 3 4 6 2, mkG 9 0 0 255 255 3 2 1]

def sG (x : Task) : State := sPh { ph0 with tds := exTds, gme := some {}, gmeQ := [x] }

def gHyp (x : Task) (bad desc : Bool) : Bool :=
  (curPhase (sG x)).any fun c0 =>
    let c : Cur := { c0 with sel := .gme }
    tileWorks (sG x) c 0 && decide (headTask (sG x) c.f .gme 0 = some x) && gmeBad c x == bad
      && (bad || (gmeDescOk c.f x.bytes == desc && (!desc || (gmeReady (sG x) c x.bytes && (curOf (popTask (sG x) c.k .gme x) c.k).isSome))))

theorem test_wit_GmeWorkRuns_tasks : exG.map (fun x => gtOp x.bytes) = [1, 2, 3, 4, 5, 6, 7, 8, 9] ∧ exG.all (gHyp · false true) = true
    ∧ gHyp (mkG 1 0 0 1 255 255 9 0) true false = true ∧ gHyp (mkG 7 0 0 3 255 4 6 0) false false = true := by decide +kernel

/-- Contributions, owners, held producers and partitioned products. -/
theorem test_wit_GmeWorkRuns_owners :
    (let x : Contrib := { owner := 0, sel := .gme, kind := .data, spot := ⟨2, 0, 0, 0, 0, 0⟩ }
     let f := { ph0 with tds := exTds, fly := [x] }
     nextFor f .gme 0 = some x ∧ gmeClosed f = false)
    ∧ (let f := { ph0 with tds := exTds, gmeOwn := [(mkG 4 0 0 255 3 255 2 0).bytes] }
       gmeClosed f = true ∧ (upTo 1536).any (fun t => (ownSpots f t).length == 1) = true ∧ plan0.atOnce = false)
    ∧ (let f := { ph0 with tds := exTds, gmeHeld := [{ tile := 0, task := mkG 4 0 0 255 3 255 2 0 }] }
       f.gmeHeld.filter heldAcc ≠ [] ∧ f.gmeQ = [] ∧ f.fly = [])
    ∧ (let h : GmeHeld := { tile := 0, task := mkG 1 4 0 1 255 255 2 0 }
       let f := { ph0 with tds := exTds, gmeHeld := [h] }
       (f.gmeHeld.filter fun h => gtPart h.task.bytes).head? = some h ∧ gtHi h.task.bytes = 1 ∧ gtLo h.task.bytes = 0) := by decide +kernel

/-! The vector engine. -/

/-- A shape for each group of VeElementsCompute: element-wise, transcendental, lane-moving and MOV, good and bad. -/
theorem test_wit_VeElementsCompute :
    (vw 30 24 25 26 0).prec.val ≠ 7 ∧ (vw 30 24 25 26 0).rnd.val ≠ 3 ∧ (getVe (sVe ve0) 0).task ≠ none
    ∧ (curOf (sVe ve0) (getVe (sVe ve0) 0).k).isSome = true ∧ (getVe (sVe ve0) 0).xch = none
    ∧ shapeOk (vw 30 24 25 26 0) [24, 25] = true ∧ shapeOk (vw 0 15 31 16 0) [15, 31, 16] = true ∧ shapeOk (vw 16 0 0 0 0) [0, 0] = false
    ∧ shapeOk (vw 30 24 0 0 0) [24] = true ∧ shapeOk (vw 31 24 0 0 0) [24] = false
    ∧ (isV 15 = true ∧ ([0, 15] : List Nat).all isV = true ∧ isV 16 = false ∧ ([0, 24] : List Nat).all isV = false)
    ∧ (shapeOk (vw 23 16 0 0 0) [16] = true ∧ isP 23 = true ∧ isP 16 = true ∧ isP 24 = false) := by decide +kernel

/-- A VE task record: input 0, output 2, one part or one of two. -/
def mkV (kern split part parts : Nat) : Task :=
  { die := 0, bytes := [natLe 1 kern, natLe 1 split, [0, 0xFF, 0xFF, 0xFF, 2, 0xFF], natLe 3 0, natLe 1 part, natLe 3 0, natLe 1 parts, natLe 3 1,
    zeroBytes 13].flatten }

def phV (l : List Task) : PhaseRun := { ph0 with tds := exTds, ve := some {}, kernels := [{ bad := false }], veQ := l }

theorem test_wit_VeTasksReduceAndEmit_take :
    ([(0, false), (1, true)] : List (Nat × Bool)).all (fun q =>
      let s := sPh (phV [mkV q.1 0 0 1])
      (curPhase s).any fun c0 =>
        let c : Cur := { c0 with sel := .ve }
        tileWorks s c 0 && (getVe s 0).task.isNone && decide (headTask s c.f .ve 0 = some (mkV q.1 0 0 1)) && veBad c (mkV q.1 0 0 1) == q.2
          && (upTo 4).all fun i => vtIn (mkV q.1 0 0 1).bytes i == 0xFF || veRowReady s c.f (veView c.f (mkV q.1 0 0 1).bytes i) 0) = true := by
  decide +kernel

/-- A VE at work on such a task. -/
def sVk (y : Task) (f : PhaseRun) : State := { sPh f with ves := [(0, { ve0 with task := some y })] }

theorem test_wit_VeTasksReduceAndEmit :
    (let s := sVk (mkV 0 0 0 1) (phV [])
     (getVe s 0).task = some (mkV 0 0 0 1) ∧ (curOf s (getVe s 0).k).isSome = true ∧ (getVe s 0).xch = none
      ∧ (isV 15 = true ∧ vtIn (mkV 0 0 0 1).bytes (4 % 4) ≠ 0xFF
        ∧ veBlkReady s (phV []) (veView (phV []) (mkV 0 0 0 1).bytes 0) (vtBrow (mkV 0 0 0 1).bytes) (getVe s 0).col = true)
      ∧ (vtOut (mkV 0 0 0 1).bytes (2 % 2) ≠ 0xFF ∧ blkIn (tdOf (phV []) 2) ⟨0, 0, 0, 0, 0⟩ 0 = true))
    ∧ isP 16 = true ∧ isP 23 = true ∧ (24 : Nat) ≠ 31 ∧ vtParts (mkV 0 0 0 1).bytes ≤ 1 ∧ 1 < vtParts (mkV 0 2 0 2).bytes
    ∧ (8 ≤ 8 % 16 ∧ 12 % 16 ≤ 12 ∧ 1 ≤ 1 % 32 ∧ 16 % 32 ≤ 16) ∧ (phV []).passes = []
    ∧ (let p : Pass := { ctx := 0, ent := [] }; vtBrow (mkV 0 0 0 1).bytes < p.next + 64) := by decide +kernel

/-- Two parts of a task that wait in XCH, and one alone. -/
def sXch (two : Bool) : State :=
  { sPh (phV []) with
    ves := [(0, { task := some (mkV 0 2 0 2), xch := some (32 * 16 + 17) })] ++
      (if two then [(1, { task := some (mkV 0 2 1 2), xch := some (32 * 16 + 17) })] else []) }

theorem test_wit_VeTasksReduceAndEmit_xch :
    (xchMembers (sXch false) .training 0 0).map (fun m => (m.1, vtParts m.2.2)) = [(0, 2)]
    ∧ (xchMembers (sXch true) .training 0 0).map (fun m => (m.1, vtParts m.2.2)) = [(0, 2), (1, 2)]
    ∧ (xchAll 0 (fun _ => false) ((xchMembers (sXch true) .training 0 0).map fun q => pReg q.2.1 (q.2.1.xch.getD 0 / 32))).2.1 = 0 := by
  decide +kernel

/-! The token router: context 1 with one expert, owned here, in a running phase; frames from peer 8. -/

def exEnt : Bytes := [1, 0, 1, 2, 7, 7, 7, 7] ++ zeroBytes 8
def exPass : Pass := { ctx := 1, ent := exEnt, took := true, rows := [0] }
def lnTd : Td := { base := 0x4800000, fmt := 0x04, linear := true, ndim := 3, ext := [32, 32, 1, 1, 1], stride := [1, 32, 1024, 0, 0] }
def exArr : Expert := { dev := 7, loc := 0, qbase := 0, quota := 32, cap := 32 }

def sRt (p : Pass) : State :=
  { sFab with
    seq := { train := some { plan0 with phase := some { ph0 with tds := exTds ++ [lnTd], routes := [exEnt], passes := [p] } } }
    tkr := { ctxs := [(1, { k := 1, spare := 0, next := false, renorm := false, world := .ns, valid := true, nexp := 1, h := 32, flush := 1, slots := 32 })]
             answer := some { iid := 2, step := 5, id := 3, hash := 0, sections := [{ ctx := 1, nsrc := 1, experts := [exArr] }] } } }

/-- A frame of peer 8 under the answer in force. -/
def mkF (typ epoch attempt answer : Nat) (count : Nat) (pay : Bytes) : Frame :=
  let f : Frame := { noFrame with
    typ := BitVec.ofNat 8 typ, attempt := BitVec.ofNat 8 attempt, ctx := 1, format := 4, epoch := BitVec.ofNat 32 epoch, src := 8, dst := 7,
    count := BitVec.ofNat 16 count, h := 32, answerId := BitVec.ofNat 32 answer, step := 5, plen := BitVec.ofNat 32 pay.length,
    pres := BitVec.ofNat 8 (residue pay), rsvd := zeroBytes 15, payload := pay }
  { f with hpar := BitVec.ofNat 32 (xorWords 15 (frameHead f)) }

def rtPass : Pass := { exPass with arrs := [(0, { arrived := [(0, (8, 0))], since := [(0, 0)] })], stall := some 0 }
def getT (s : State) : Option (Cur × Pass) := getPass s .training 1
def okAt (s : State) (typ : Nat) (f : Frame) : Bool :=
  match frameAt s typ f with
  | .ok _ _ => true
  | _ => false

/-- A row accepted and one not listed yet; every outcome of a DISPATCH and of a CLOSE frame, and the fields of an accepted one. -/
theorem test_wit_RouterRuns_frames :
    (getT (sRt exPass)).any (fun x => x.2.took && decide (x.2.next < passRows x.1 x.2) && rowListed (sRt exPass) x.1 x.2 x.2.next) = true
    ∧ (let s := sRt { exPass with rows := [] }
       (getT s).any (fun x => x.2.took && decide (x.2.next < passRows x.1 x.2) && !rowListed s x.1 x.2 x.2.next) = true)
    ∧ ([(1, 64), (3, 16)] : List (Nat × Nat)).all (fun y =>
      let s := sRt exPass
      let b := zeroBytes y.2
      frameFormed (mkF y.1 0 0 3 1 b) && okAt s y.1 (mkF y.1 0 0 3 1 b)
        && decide (frameAt s y.1 { mkF y.1 0 0 3 1 b with hpar := 0 } = .bad)
        && decide (frameAt (setTkr s fun t => { t with epochs := [(8, 3)] }) y.1 (mkF y.1 0 0 3 1 b) = .stale)
        && decide (frameAt (sRt { exPass with took := false }) y.1 (mkF y.1 0 0 3 1 b) = .wait)
        && decide (frameAt s y.1 (mkF y.1 0 0 4 1 b) = .mismatch .training)) = true
    ∧ (fromPeer (setPeerFlag (sRt exPass) 8 0 false) (mkF 1 0 0 3 1 (zeroBytes 64))).2 = false
    ∧ (fromPeer s0 (mkF 1 0 0 3 1 (zeroBytes 64))).2 = false
    ∧ ownId (sRt exPass) = some 7 ∧ (mkF 1 0 0 3 1 (zeroBytes 64)).src.toNat = 8 ∧ ownId s0 = none
    ∧ (fromPeer (sRt exPass) { mkF 1 0 0 3 1 (zeroBytes 64) with src := 7 }).2 = true
    ∧ (fromPeer (sRt exPass) (mkF 1 0 0 3 1 (zeroBytes 64))).2 = true ∧ (getT (sRt exPass)).any (fun x =>
      let f := mkF 1 0 0 3 1 (zeroBytes 64)
      let s := (fromPeer (sRt exPass) f).1
      let e := expertOf s x.2.ctx f.expert.toNat
      f.format.toNat == (passTd x.1 x.2 3).fmt && f.h.toNat == (getCtx s x.2.ctx).h && f.count.toNat == 1
        && f.payload.length == rowLen (passTd x.1 x.2 3) (getCtx s x.2.ctx).h && some e.dev == ownId s && e.loc == f.loc.toNat
        && decide (f.firstSlot.toNat + f.count.toNat ≤ e.cap) && decide (e.cap ≤ (getCtx s x.2.ctx).slots)) = true := by decide +kernel

/-- An EPOCH frame that is news and one that is not; a RETURN frame for a ticket; an arrival block before and after its
FLUSH; a due return whose rows are ready or not; a stalled pass with replays left and without. -/
def tk0 : Ticket := { k := .training, epoch := tkrEpoch s0, attempt := 0, ctx := 1, expert := 0, dst := 8, count := 1, first := 0, brow := 0, mask := 1 }
def sTk : State := setTkr (sRt exPass) fun t => { t with tickets := [(0, tk0)] }
def dueF : Frame := mkF 1 0 0 3 1 (zeroBytes 64)
def sDue (l : List Nat) : State :=
  modPhase (sRt { exPass with due := [dueF], arrs := [(0, { launched := l })] }) .training fun f => { f with ready := blockHdrs f 7 0 0 }

theorem test_wit_RouterRuns :
    ([0, 1] : List Nat).all (fun e => let f := mkF 4 e 0 0 0 []
      let r := fromPeer (sRt exPass) f
      frameFormed f && frameGood f && f.typ == 0x04 && r.2 && decide (epochOf r.1 f.src.toNat < f.epoch.toNat) == (e == 1)) = true
    ∧ (let f := mkF 2 0 0 3 1 (zeroBytes 64)
       let r := fromPeer sTk f
       let sTk := r.1
       frameGood f && f.typ == 0x02 && r.2 && decide (sTk.tkr.tickets.find? (fun q => q.1 == f.ticket.toNat % 2 ^ 17) = some (0, tk0))
        && tk0.epoch == tkrEpoch sTk && decide (curAttempt sTk tk0.k = some (tk0.attempt % 8)) && ticketMatches tk0 f
        && (getPass sTk tk0.k tk0.ctx).any fun x => f.payload.length == f.count.toNat * rowLen (passTd x.1 x.2 5) f.h.toNat) = true
    ∧ ([500, 5000] : List Nat).all (fun t => let s := { sRt rtPass with time := t }
      (localExpert s 1 0).isSome && (getT s).any fun x =>
        ((getArr x.2 0).since.find? (fun q => q.1 == 0)).any fun q =>
          decide (s.time < q.2 + 1000 * (getCtx s 1).flush) == (t == 500) && (unlaunched (getArr x.2 0) 0 == [0])) = true
    ∧ ([[], [0]] : List (List Nat)).all (fun l => (curOf (sDue l) .training).any fun c => c.f.passes.any fun p =>
      c.f.passes == [p] && decide (p.due.find? (fun f => f.src == 8 && f.ticket.toNat % 2 ^ 17 == 0) = some dueF)
        && returnReady { c with sel := .route } p dueF == !l.isEmpty) = true
    ∧ ([0, 2] : List Nat).all (fun n => let s := (sRt rtPass).wr .rasCtl 0 0 n
      (getT s).any fun x => x.2.stall.isSome && decide (x.1.p.retries < s.rdf .rasCtl 0 0 2 0) == (n == 2)) = true := by decide +kernel

/-! The last statements. -/

theorem test_wit_CommandsThatStoreNothing :
    ([.hqeScan, .add 0 (vw 0 1 2 0 0)] : List Instr).all (fun c => storesNothing c && match exec c (sVe ve0) with
      | .next _ => true
      | _ => false) = true
    ∧ veRegisterRow (.add 0 (vw 0 1 2 0 0)) = some 0 ∧ keysRise (sVe ve0).ves = true := by decide +kernel

theorem test_wit_SentPacketsPassChecks :
    let q : MsgReq := { peer := 8, typ := 1, vc := 3, world := .ns, ctx := .plan .training, payload := zeroBytes 2050 }
    q.vc < 4 ∧ ownBank (sPh ph0) < 4 ∧ q.payload.length ≤ 65536 ∧ (zeroBytes 64 : Bytes).length < 2 ^ 32 := by decide +kernel

theorem test_wit_SramWorlds :
    (0 < 64 ∧ 0x5FFFC0 + 64 ≤ 0x600000) ∧ tileWorld s0 3 = .ns ∧ tileWorld (s0.wr .secWorldTile 0 0 8) 3 = .s := by decide +kernel

theorem test_wit_RegionsSwitch :
    let s := { s0 with seq := { regions := [(2, { comm := 1 }), (4, {})] }, hqe := { issued := [cmd 0x0020 (planOps 5 0)] } }
    let p := { plan0 with written := [2, 4] }
    (getIssued s p.iid).isSome = true ∧ p.written.Nodup ∧ keysRise s.seq.regions = true
    ∧ (getRegion s 2).comm = 1 ∧ (getRegion s 4).comm = 0 ∧ (7 : Nat) ∉ p.written := by decide +kernel

/-- A plan image of the wrong member, as training plan and as eval. -/
theorem test_wit_PlanOfAnotherMemberRefused :
    ([0, 1] : List Byte).all (fun fl => let s := setMem (sPlan fl 0) 0x4000004 [0xEE]
      (getIssued s 1).any fun c =>
        let h := devRead s c.world (.cmd c.iid) (rpPlan c.ops) 128
        decide (planAddrStatus s (rpPlan c.ops) 128 = stOk) && fld h.2 4 2 != h.1.rdf .gblId 0 0 15 0 && c.op == 0x0020
          && c.st != .running && !rpRecompute c.ops && s.seq.held.isEmpty && s.seq.heldCmds.isEmpty && kindFree s (planKindOf c)
          && decide (planKindOf c = if fl = 0 then .training else .eval)) = true := by decide +kernel


/-! Further clauses of the statements above. -/

/-- An answer that names a secure context; one for the step that waits for it. -/
theorem test_wit_AnswersAndCancels_takeUp :
    (let s := setTkr (sAns 5 none) fun t => { t with ctxs := t.ctxs.map fun x => (x.1, { x.2 with world := World.s }) }
     (gotHost (hostRead s .ns (.cmd 1) 0x1000 64) s).bind (fun b => (parseAnswer s 1 b).map fun a =>
       a.sections.any fun x => (getCtx s x.ctx).world == .s)) = some true
    ∧ (let w := { plan0 with ansWait := true }
       (parseAnswer (sAns 5 (some w)) 1 (hostBytes (sAns 5 (some w)) 0x1000 64)).map (fun a =>
         decide (a.step = w.step) && !w.took && w.ansWait)) = some true := by
  decide +kernel

def ccOps (n : Nat) : Bytes := natLe 4 n ++ zeroBytes 44
def sCc : State := sCmd 0x0023 (ccOps 1)

/-- A commit that waits for another; a bad shadow; one that retires a channel under evacuation; one that differs in a Quiesce
field while a plan runs; markers that are not there yet; a transition with blocks left and with a link that trains. -/
theorem test_wit_EpochsCommit_waits :
    (let s := { sCc with seq := { trans := some { iid := 2, world := .ns, vals := [], left := [] } } }
     s.seq.trans.map (fun t => decide (t.iid ≠ 1)) = some true)
    ∧ limitBad (unholdCmd { sCc with shadNs := [(regOff .mctLimit 0 0, some 0xFFFFF)] } 1) .ns = true
    ∧ (let s := { sCc with shadNs := [(regOff .mctLimit 0 0, some 0x78000), (regOff .mctRetire 0 0, some 1)], plat := { sCc.plat with evac := some 0 }, evacs := [(0, 0)] }
       retiresEvacuating s .ns = true ∧ retiresEvacuating (unholdCmd s 1) .ns = true ∧ limitBad (unholdCmd s 1) .ns = false)
    ∧ (let s := { sCc with shadNs := [(regOff .mctCfg 0 0, some 0x6000400A)], seq := { train := some plan0 } }
       quiesceDiffers (unholdCmd s 1) .ns = true ∧ quiet (unholdCmd s 1) = false ∧ limitBad (unholdCmd s 1) .ns = false
        ∧ retiresEvacuating (unholdCmd s 1) .ns = false)
    ∧ (let t : Transition := { iid := 1, world := .ns, vals := [], left := [.lhl] }
       t.left ≠ [] ∧ (epochBlocks.any fun b => !atMarker { sPh { ph0 with left := [3] } with seq := { (sPh { ph0 with left := [3] }).seq with trans := some t } } b) = true) := by decide +kernel


/-- A ring copy that fetches its descriptors; messages of the plan that are out; a plan that ends at once. -/
def sFetch : State :=
  { sBetween planB (planImg 0) with
    hqe := { issued := [cmd 0x10 []] }, hostAns := [{ use := .cmd 1, addr := 0x1000, len := 64, status := 0 }] }

theorem test_wit_PhasesRun_held :
    (let r := loadPhase sFetch .training planB planB.nextPhase
     r.2.2.any fun f => copiesStop r.1 f) = true
    ∧ planOut { sFree with fab := { out := [{ exOut with ctx := .plan .training }] } } .training = true
    ∧ (curOf { s0 with seq := { train := some { plan0 with atOnce := true, phase := some ph0 } } } .training).any (fun c => c.p.atOnce) = true
    ∧ (let s := { sPh { ph0 with left := [3] } with gath := [(0, { rows := [gathRow 0], since := 0 })] }
       gathHolds s ≠ [] ∧ (curOf s .training).any (fun c => listsClosed s c) = true)
    ∧ gathHolds (sPh { ph0 with left := [3] }) = [] := by decide +kernel

/-- Branch records on entry 3: one whose entry is not final, one that is true, one that is not. -/
def brEq (imm : Nat) : Branch := { entry := 3, cmp := 0, target := 0xFFFF, imm := imm, bad := false }
def sBr (final : Bool) : PlanRun := { planSt .branch with mail := [(3, { kind := 3, final := final })], branches := [brEq 1, brEq 0] }

theorem test_wit_PhasesRun_branches :
    (sBr true).branches = [brEq 1] ++ brEq 0 :: [] ∧ (sBr false).branches = [] ++ brEq 1 :: [brEq 0]
    ∧ (getMail (sBr false) 3).final = false ∧ (getMail (sBr true) 3).final = true
    ∧ [branchTrue (getMail (sBr true) 3) (brEq 1), branchTrue (getMail (sBr true) 3) (brEq 0)].contains true = true
    ∧ ∃ b ∈ [brEq 0, brEq 1], branchTrue (getMail (sBr true) 3) b = false := by decide +kernel

/-- A check with a member that is reached and one that is not; a result that completes the check. -/
theorem test_wit_ChecksCommitAndReplay_begin :
    let u : Queue := { parseQueue [] with peer := 8 }
    let p := { planSt .commit with queues := [u] }
    let s := { sFab with seq := { train := some p } }
    planMembers s p = [8] ∧ (sendResults .training p (ownPass p) false [8] s).2 = true
    ∧ getPlan (sendResults .training p (ownPass p) false [8] s).1 .training = some p
    ∧ (sendResults .training p (ownPass p) false [8] (setPeerFlag s 8 3 true)).2 = false
    ∧ resultsIn { p with members := [8], atBound := true, st := .members } = false
    ∧ resultsIn { p with members := [8], results := [(8, true, false)], st := .members } = true
    ∧ { p with atOnce := true }.atOnce = true := by decide +kernel

/-- An operation that has sent its entry; a peer that is not attested, in the secure world. -/
theorem test_wit_QueueEntriesFlow_sent :
    (let f := { ph0 with tds := [parseTd (tdB 0x4000000 false)], qops := [{ send := true, q := 0, td := 0, seq := 0, bad := false, sent := true }] }
     let s := { sFab with seq := { train := some { plan0 with queues := [exQueue false 8], phase := some f } } }
     (queueAt s .training 0).map (fun x => (x.2.1.send, x.2.1.sent)) = some (true, true))
    ∧ (let q : MsgReq := { peer := 8, typ := 0x08, vc := 2, key := 1, addr := 0, world := .s, ctx := .plan .training, payload := [] }
       (sendMsg (setPeerFlag sFab 8 1 false) q).2 = .denied) := by decide +kernel

/-- A recomputation with no log, and one whose record is of another step. -/
theorem test_wit_PlansStartOrWait_log :
    logSlot (applyMoment .step (sPlan 2 0)) 5 = none
    ∧ (let s := { sRecompute with host := (setHost s0 0x10008 [9]).host }
       fld (hostBytes s 0x10000 4096) 8 8 ≠ (s.rd .seqStep + 1) % 2 ^ 64) := by decide +kernel


/-- The kernel's word at IP is the one offered, for every OPC of the statements on the vector engine; and one that is not. -/
theorem test_wit_VeElementsCompute_words :
    let x := vw 30 24 25 26 0
    ([0x10, 0x11, 0x12, 0x13, 0x14, 0x15, 0x16, 0x17, 0x18, 0x19, 0x1A, 0x1B, 0x20, 0x21, 0x22, 0x23, 0x24, 0x30, 0x31, 0x32, 0x33,
      0x34, 0x03] : List Nat).all (fun opc =>
      let s := sVw [vwWord opc x] ve0
      (curOf s (getVe s 0).k).any fun c => decide ((vtCode c.f (zeroBytes 32)).words[(getVe s 0).ip]? = some (vwWord opc x))
        && decide ((vtCode c.f (zeroBytes 32)).words[(getVe s 0).ip]? ≠ some (vwWord (opc + 1) x))) = true := by decide +kernel

theorem test_wit_VeTasksReduceAndEmit_words :
    ([(0x01, vw 15 0 0 0 4), (0x02, vw 0 15 0 0 2), (0x40, vw 16 0 0 0 0), (0x41, vw 16 0 1 0 0), (0x42, vw 16 0 0 0 0), (0x43, vw 16 0 0 0 0),
      (0x44, vw 16 0 0 0 0), (0x45, vw 0 0 0 0 8), (0x46, vw 16 17 0 0 0), (0x47, vw 17 16 0 0 0), (0x48, vw 0 0 0 0 16), (0x49, vw 0 0 0 0 0),
      (0x50, vw 0 0 0 0 3)] : List (Nat × VeWord)).all (fun q =>
      let s := sVk (mkV 0 0 0 1) { phV [] with kernels := [{ words := [vwWord q.1 q.2], bad := false }] }
      (curOf s (getVe s 0).k).any fun c =>
        decide ((vtCode c.f (mkV 0 0 0 1).bytes).words[(getVe s 0).ip]? = some (vwWord q.1 q.2))) = true := by decide +kernel

/-- A store of a whole block, and one that leaves padding as it is: without PAD_WRITE (R79). -/
theorem test_wit_VeTasksReduceAndEmit_store :
    let f := phV []
    let a := fun (v : Ve) => ({ c := { curT f with sel := .ve }, v := v, x := mkV 0 0 0 1, t := 0 } : VeAt)
    let td := tdW 2 0x04 [32, 32]
    let p : BlkPos := ⟨0, 0, 0, 0, 0⟩
    let keeps := fun (v : Ve) => (upTo 1024).any fun n => blkIn td p n && (stbAt (a v) (vw 0 15 0 0 2) td n).isKeep
    (blkIn td ⟨1, 0, 0, 0, 0⟩ 0 = false ∧ blkIn td p 0 = true)
    ∧ keeps ve0 = false ∧ keeps { ve0 with mask := [(15, [false])] } = true
    ∧ td.packed = false ∧ { td with packed := true }.packed = true := by decide +kernel

end Sys2Proof.Tests
end

section
/-! PROOFS. The scope statements: what reset leaves, reads after writes of the register file and of memory, and the
configuration window (R9). -/

namespace Sys2Proof.Machine

/-! ### Reset and the tables -/

/-- Settles O2: every table of the reset state is empty, so every read of it is the default. -/
theorem resetState : Obligations.ResetState := by
  refine ⟨rd_reset, rfl, rfl, rfl, ?shade, rfl, rfl, rfl, fun _ => ⟨rfl, rfl⟩, rfl, rfl, rfl, ?link, rfl, rfl⟩
  case shade => simp [shade, State.rdf, regReset, regInfo, bits]
  case link => rintro (_ | p) <;> rfl

/-- Settles O6, by the read-after-write laws of the sparse tables. -/
theorem tablesReadBack : Obligations.TablesReadBack :=
  ⟨fun _ n i j v h => ⟨rd_wr_self n i j v (canonical_regs h), fun _ _ _ hne => rd_wr_ne v (canonical_regs h) hne,
      wr_canonical n i j v h, rfl⟩,
    fun _ a bs h => ⟨memBytes_setMem a bs (canonical_mem h), fun _ hx => mem_setMem_out (canonical_mem h) hx,
      setMem_canonical a bs h, rfl⟩⟩

/-! ### Which register an access reaches (R9) -/

section Access
variable {s : State} {w : World} {off size : Nat} (hash : inAsh s = false)
include hash

/-- An access by an allowed world reaches its register. -/
theorem winAccess_ok {r : WinRef} (hr : winRef off size = some r) (hw : regWorldOk s w r.n r.i = true) :
    winAccess s w off size = (s, some r) := by simp [winAccess, hash, hr, hw]

/-- An access that is not aligned, or of an unassigned offset, is counted as bad. -/
theorem winAccess_bad (hr : winRef off size = none) : winAccess s w off size = (rasBump s 68 0 1, none) := by
  simp [winAccess, hash, hr, countBadAccess]

/-- An access by the other world is counted as denied. -/
theorem winAccess_denied {r : WinRef} (hr : winRef off size = some r) (hw : regWorldOk s w r.n r.i = false) :
    winAccess s w off size = (rasBump s 67 (if (regInfo r.n).world = .tile then tileDie r.i else 0) 1, none) := by
  simp [winAccess, hash, hr, hw, countDenied]

end Access

section Rows
variable {s : State} {w : World} {off : W32} {size : Nat} {tag : Fin 4096} {val : W64} (hup : windowUp s = true)
include hup

theorem exec_registerWrite : exec (.registerWrite w off size val) s = .next (winWrite s w off.toNat size val.toNat) := by
  show execRegisterWrite .. = _
  simp [execRegisterWrite, hup]

variable (hact : lhlActive s = true)
include hact

theorem exec_cfgWr : exec (.cfgWr w tag off size val) s = .next (cplOut (winWrite s w off.toNat size val.toNat) tag none) := by
  show execCfgWr .. = _
  simp [execCfgWr, hup, hact]

theorem exec_cfgRd : exec (.cfgRd w tag off size) s
    = .next (cplOut (winRead s w off.toNat size).1 tag (some (size, (winRead s w off.toNat size).2))) := by
  show execCfgRd .. = _
  simp [execCfgRd, hup, hact]

end Rows

/-! ### Reads and refused accesses -/

section Served
variable {s t : State} {w : World} {off size v : Nat}

theorem winRead_refused (hn : ¬(off = 0xD00100 ∧ size = 8)) (h : winAccess s w off size = (t, none)) :
    winRead s w off size = (t, 0) := by
  rw [winRead, if_neg (by simpa using hn), h]

theorem winRead_reaches {r : WinRef} (hn : ¬(off = 0xD00100 ∧ size = 8)) (h : winAccess s w off size = (t, some r)) :
    winRead s w off size = regRead t w r := by
  rw [winRead, if_neg (by simpa using hn), h]

theorem winWrite_refused (h : winAccess s w off size = (t, none)) : winWrite s w off size v = t := by rw [winWrite, h]

theorem winWrite_reaches {r : WinRef} (h : winAccess s w off size = (t, some r)) :
    winWrite s w off size v = regWrite t w r (v % 2 ^ (8 * size)) := by rw [winWrite, h]

end Served

/-- A read of a register with no side effect. -/
theorem regReadAll_plain {s : State} {w : World} {n : RegName} {i j : Nat} (hc : readClears n = false)
    (hn : n ∉ [RegName.evcClaim, .ckgSync, .secDbgNonce]) : regReadAll s w n i j = (s, regVal s w n i j) := by
  simp only [regReadAll, hc, Bool.false_eq_true, if_false]
  split <;> simp_all

theorem regRead_plain {s : State} {w : World} {r : WinRef} (hc : readClears r.n = false)
    (hn : r.n ∉ [RegName.evcClaim, .ckgSync, .secDbgNonce]) :
    regRead s w r = (s, bits (regVal s w r.n r.i r.j) r.hi r.lo) := by
  simp [regRead, regReadAll_plain hc hn]

/-- A refused access reads 0, and writes nothing but its count. -/
theorem exec_refused {s t : State} {w : World} {off : W32} {size : Nat} {tag : Fin 4096} {val : W64} (hup : windowUp s = true)
    (hact : lhlActive s = true) (hn : ¬(off.toNat = 0xD00100 ∧ size = 8)) (h : winAccess s w off.toNat size = (t, none)) :
    exec (.cfgRd w tag off size) s = .next (cplOut t tag (some (size, 0)))
      ∧ exec (.cfgWr w tag off size val) s = .next (cplOut t tag none)
      ∧ exec (.registerWrite w off size val) s = .next t := by
  rw [exec_cfgRd hup hact, exec_cfgWr hup hact, exec_registerWrite hup, winRead_refused hn h, winWrite_refused h]
  exact ⟨rfl, rfl, rfl⟩

/-- Settles O8: the access either reaches its register, or is refused and counted. -/
theorem windowReadsAnswer : Obligations.WindowReadsAnswer := by
  intro s w off size val tag hup hash hact hn
  refine ⟨fun r hr hw hc hplain => ?_, fun hr => exec_refused hup hact hn (winAccess_bad hash hr),
    fun r hr hw => exec_refused hup hact hn (winAccess_denied hash hr hw)⟩
  rw [exec_cfgRd hup hact, winRead_reaches hn (winAccess_ok hash hr hw), regRead_plain hc hplain]

/-! ### Writes (R9, R255, R438) -/

/-- The bits of a register that an access selects. -/
def WinRef.sel (r : WinRef) : Nat := 2 ^ (r.hi + 1) - 2 ^ r.lo

/-- The value of a write, moved to the bits that it selects. -/
def WinRef.put (r : WinRef) (v : Nat) : Nat := v % 2 ^ (r.hi + 1 - r.lo) * 2 ^ r.lo

section Plain
variable {s : State} {w : World} {r : WinRef} {v : Nat} (hw1c : (regInfo r.n).w1c = 0)
include hw1c

/-- A register without W1C and shadowed fields takes its RW bits at once. -/
theorem plainWrite_now (hsh : (regInfo r.n).sh + (regInfo r.n).qu = 0) (hm : (regInfo r.n).moment = .now)
    (hsel : Nat.land r.sel (regInfo r.n).rw ≠ 0) :
    plainWrite s w r v = s.wr r.n r.i r.j (pickBits (Nat.land r.sel (regInfo r.n).rw) (s.rd r.n r.i r.j) (r.put v)) := by
  simp only [Nat.land_eq, WinRef.sel] at hsel
  simp [plainWrite, hw1c, hsh, hm, hsel, WinRef.sel, WinRef.put]

/-- The same, with a later moment: the value waits. -/
theorem plainWrite_waits (hsh : (regInfo r.n).sh + (regInfo r.n).qu = 0) (hm : (regInfo r.n).moment ≠ .now)
    (hsel : Nat.land r.sel (regInfo r.n).rw ≠ 0) :
    plainWrite s w r v
      = setWaiting s r.n r.i r.j (pickBits (Nat.land r.sel (regInfo r.n).rw) (rdStored s r.n r.i r.j) (r.put v)) := by
  simp only [Nat.land_eq, WinRef.sel] at hsel
  simp [plainWrite, hw1c, hsh, hm, hsel, WinRef.sel, WinRef.put]

/-- A register whose RW bits are all shadowed: the write goes to the world's shadow. -/
theorem plainWrite_shadows (hsh : (regInfo r.n).rw = (regInfo r.n).sh + (regInfo r.n).qu)
    (hsel : Nat.land r.sel ((regInfo r.n).sh + (regInfo r.n).qu) ≠ 0) :
    plainWrite s w r v = setShadow s w r.n r.i r.j
      (pickBits (Nat.land r.sel ((regInfo r.n).sh + (regInfo r.n).qu)) (shadowVal s w r.n r.i r.j) (r.put v)) := by
  simp only [Nat.land_eq, WinRef.sel] at hsel
  simp [plainWrite, hw1c, hsh, hsel, WinRef.sel, WinRef.put]

/-- A register with no bit that a write stores. -/
theorem plainWrite_readOnly (hrw : (regInfo r.n).rw = 0) (hsh : (regInfo r.n).sh + (regInfo r.n).qu = 0) :
    plainWrite s w r v = s := by
  simp [plainWrite, hw1c, hrw, hsh]

end Plain

/-- Registers of the window with fields that act at once, at a later moment, through a shadow, and of none that a write stores. -/
def nowRegs : List RegName := [.nmuJobAddr, .gblBounceBaseNs, .gblBounceBaseS, .ambFilt, .mctScrub, .rscCfg]
def laterRegs : List RegName := [.gblArithCtl, .tilDaCtl, .tkrCtl, .tkrQbufBase, .seqVerCtl, .seqCtl, .rngKey, .rngCfg]
def shadowedRegs : List RegName := [.mshCtl, .mshDetour, .hqeScan, .hqeWrr, .lhlCfg]
def readOnlyRegs : List RegName :=
  [.gblId, .gblCap, .gblSpareMap, .tilDaStatus, .tilDaCnt, .tkrEpoch, .tkrCnt, .mshCnt, .lhlStatus, .lhlCnt, .hqeStatus, .hqeCnt]

/-- A write of a listed register has no effect beyond its fields. -/
theorem regWrite_plain {s : State} {w : World} {r : WinRef} {v : Nat}
    (hn : r.n ∈ nowRegs ++ laterRegs ++ shadowedRegs ++ readOnlyRegs) : regWrite s w r v = plainWrite s w r v := by
  obtain ⟨n, i, j, hi, lo⟩ := r
  fin_cases hn <;> rfl

theorem nowRegs_info : ∀ n ∈ nowRegs,
    (regInfo n).w1c = 0 ∧ (regInfo n).sh + (regInfo n).qu = 0 ∧ (regInfo n).moment = .now := by decide

theorem laterRegs_info : ∀ n ∈ laterRegs,
    (regInfo n).w1c = 0 ∧ (regInfo n).sh + (regInfo n).qu = 0 ∧ (regInfo n).moment ≠ .now := by decide

theorem shadowedRegs_info : ∀ n ∈ shadowedRegs, (regInfo n).w1c = 0 ∧ (regInfo n).rw = (regInfo n).sh + (regInfo n).qu := by
  decide

theorem readOnlyRegs_info : ∀ n ∈ readOnlyRegs,
    (regInfo n).w1c = 0 ∧ (regInfo n).rw = 0 ∧ (regInfo n).sh + (regInfo n).qu = 0 := by decide

/-- A write that reaches a listed register, by either row, does what the plain write does. -/
theorem exec_plainWrite {s t : State} {w : World} {off : W32} {size : Nat} {val : W64} {tag : Fin 4096} {r : WinRef}
    (hup : windowUp s = true) (hash : inAsh s = false) (hr : winRef off.toNat size = some r) (hw : regWorldOk s w r.n r.i = true)
    (hn : r.n ∈ nowRegs ++ laterRegs ++ shadowedRegs ++ readOnlyRegs)
    (ht : plainWrite s w r (val.toNat % 2 ^ (8 * size)) = t) :
    exec (.registerWrite w off size val) s = .next t
      ∧ (lhlActive s = true → exec (.cfgWr w tag off size val) s = .next (cplOut t tag none)) := by
  have hwr : winWrite s w off.toNat size val.toNat = t := by
    rw [winWrite_reaches (winAccess_ok hash hr hw), regWrite_plain hn, ht]
  exact ⟨by rw [exec_registerWrite hup, hwr], fun hact => by rw [exec_cfgWr hup hact, hwr]⟩

/-- Settles O7: the listed registers have plain writes only, and each kind of field has its lemma above. -/
theorem windowWritesStore : Obligations.WindowWritesStore := by
  intro s w off size val tag r hup hash hr hw
  have row (k : r.n ∈ nowRegs ++ laterRegs ++ shadowedRegs ++ readOnlyRegs) {t : State} :=
    exec_plainWrite (t := t) (val := val) (tag := tag) hup hash hr hw k
  refine ⟨fun (hn : r.n ∈ nowRegs) hsel => ?now, fun (hn : r.n ∈ laterRegs) hsel => ?later,
    fun (hn : r.n ∈ shadowedRegs) hsel => ?shadowed, fun (hn : r.n ∈ readOnlyRegs) => ?readOnly⟩
  case now =>
    obtain ⟨hc, hs, hm⟩ := nowRegs_info r.n hn
    exact row (by simp [hn]) (plainWrite_now hc hs hm hsel)
  case later =>
    obtain ⟨hc, hs, hm⟩ := laterRegs_info r.n hn
    exact row (by simp [hn]) (plainWrite_waits hc hs hm hsel)
  case shadowed =>
    obtain ⟨hc, hs⟩ := shadowedRegs_info r.n hn
    exact row (by simp [hn]) (plainWrite_shadows hc hs hsel)
  case readOnly =>
    obtain ⟨hc, hr', hs⟩ := readOnlyRegs_info r.n hn
    exact row (by simp [hn]) (plainWrite_readOnly hc hr' hs)

/-! ### The capture registers (R7, R9) -/

/-- An offset of line `g`'s, which is separate from line `m`, is none of `m`'s: `regAt_sep`, for a line that need not be a
register's. -/
theorem regAt_of_sepOk (g : RegInfo) (m : RegName) {i j : Nat} (hm : selfOk (regInfo m) = true) (h : sepOk g (regInfo m) = true)
    (hi : i < g.n1) (hj : j < g.n2) : regAt m (g.base + g.s1 * i + g.s2 * j) = none := by
  have hi' : g.s1 * i ≤ g.s1 * (g.n1 - 1) := Nat.mul_le_mul_left _ (by omega)
  have hj' : g.s2 * j ≤ g.s2 * (g.n2 - 1) := Nat.mul_le_mul_left _ (by omega)
  simp only [sepOk, Bool.or_eq_true, Bool.and_eq_true, decide_eq_true_eq, bne_iff_ne, beq_iff_eq, ne_eq] at h
  rcases h with (below | beyond) | ⟨⟨hs, he⟩, after | before⟩
  · rw [regAt, if_pos (by omega)]
  · exact regAt_beyond m hm (by omega)
  · exact regAt_between m (k := i) (r := g.base - (regInfo m).base + g.s2 * j) hm hs (by rw [he]; omega) (by omega) (by omega)
  · cases i with
    | zero => rw [regAt, if_pos (by simp; omega)]
    | succ k =>
      refine regAt_between m (k := k) (r := (regInfo m).s1 - ((regInfo m).base - g.base) + g.s2 * j) hm hs ?_ (by omega) (by omega)
      rw [he, Nat.mul_add, Nat.mul_one]; omega

theorem findReg_none {o : Nat} {l : List RegName} (h : ∀ m ∈ l, regAt m o = none) : findReg o l = none := by
  induction l with
  | nil => rfl
  | cons m ms ih => simp [findReg, h m (by simp), ih fun n hn => h n (by simp [hn])]

/-- The registers that a read clears. -/
def captureRegs : List RegName := [.gblLayoutErr, .tilSlotErr, .tilGmeErr, .tilVeErr, .tkrErr, .mshErr, .qxfErr]

theorem captureRegs_info : ∀ n ∈ captureRegs, readClears n = true ∧ (regInfo n).wide = true ∧ n ≠ .secDbgNonce
    ∧ (regInfo n).base % 8 = 0 ∧ (regInfo n).s1 % 8 = 0 ∧ (regInfo n).s2 = 0 ∧ (regInfo n).n2 = 1 := by decide

/-- The upper halves of a line's registers, as a line of its own. -/
def upperHalves (g : RegInfo) : RegInfo := { g with base := g.base + 4 }

theorem upperHalves_sep : (captureRegs.all fun n => regNames.all fun m =>
    selfOk (regInfo m) && sepOk (upperHalves (regInfo n)) (regInfo m)) = true := by decide +kernel

/-- No register starts at a capture register's upper half. -/
theorem regDecode_captureUpper {n : RegName} {i : Nat} (hn : n ∈ captureRegs) (hi : i < (regInfo n).n1) :
    regDecode (regOff n i 0 + 4) = none := by
  obtain ⟨-, -, -, -, -, hs2, hn2⟩ := captureRegs_info n hn
  refine findReg_none fun m hm => ?_
  have hsep := List.all_eq_true.1 (List.all_eq_true.1 upperHalves_sep n hn) m hm
  obtain ⟨hself, hsep⟩ := Bool.and_eq_true_iff.1 hsep
  have := regAt_of_sepOk (upperHalves (regInfo n)) m (i := i) (j := 0) hself hsep hi (by simp [upperHalves, hn2])
  rwa [show regOff n i 0 + 4 = (regInfo n).base + 4 + (regInfo n).s1 * i + (regInfo n).s2 * 0 by simp only [regOff]; omega]

section Capture
variable {s : State} {w : World} {n : RegName} {i : Nat} (hn : n ∈ captureRegs) (hi : i < (regInfo n).n1)
include hn

theorem regOff_capture_mod : regOff n i 0 % 8 = 0 := by
  obtain ⟨-, -, -, hb, hs, -, -⟩ := captureRegs_info n hn
  rw [regOff, Nat.mul_zero, Nat.add_zero, Nat.add_mod, hb, Nat.mul_mod, hs]; simp

/-- The upper half alone has no side effect; the lower half and the whole register clear. -/
theorem regRead_capture (hi' lo : Nat) : regRead s w ⟨n, i, 0, hi', lo⟩
    = (if lo = 0 then s.wr n i 0 0 else s, bits (s.rd n i 0) hi' lo) := by
  obtain ⟨hc, -⟩ := captureRegs_info n hn
  simp [regRead, regReadAll, hc]

include hi

theorem regDecode_capture : regDecode (regOff n i 0) = some (n, i, 0) := by
  obtain ⟨-, -, -, -, -, -, hn2⟩ := captureRegs_info n hn
  exact regDecode_regOff n hi (by omega)

/-- A capture register does not lie where the debug nonce is read. -/
theorem regOff_capture_ne : regOff n i 0 ≠ 0xD00100 := by
  intro h
  obtain ⟨-, -, hne, -, -, -, hn2⟩ := captureRegs_info n hn
  exact hne (regOff_inj (m := .secDbgNonce) (k := 0) (l := 0) hi (by omega) (by decide) (by decide) h).1

theorem winRef_capture_full : winRef (regOff n i 0) 8 = some ⟨n, i, 0, 63, 0⟩ := by
  obtain ⟨-, hwide, -⟩ := captureRegs_info n hn
  simp [winRef, regOff_capture_mod hn, regDecode_capture hn hi, hwide]

theorem winRef_capture_low : winRef (regOff n i 0) 4 = some ⟨n, i, 0, 31, 0⟩ := by
  have := regOff_capture_mod (i := i) hn
  simp [winRef, show regOff n i 0 % 4 = 0 by omega, regDecode_capture hn hi]

theorem winRef_capture_high : winRef (regOff n i 0 + 4) 4 = some ⟨n, i, 0, 63, 32⟩ := by
  obtain ⟨-, hwide, -⟩ := captureRegs_info n hn
  have := regOff_capture_mod (i := i) hn
  simp [winRef, show (regOff n i 0 + 4) % 4 = 0 by omega, show (regOff n i 0 + 4) % 8 = 4 by omega,
    regDecode_captureUpper hn hi, regDecode_capture hn hi, hwide]

section Read
variable (hup : windowUp s = true) (hash : inAsh s = false) (hw : regWorldOk s w n i = true)
include hup hash hw

theorem coreRead_capture_full :
    coreRead s w (regOff n i 0) .full = emit (s.wr n i 0 0) (.read (regOff n i 0) (s.rd n i 0)) := by
  simp [coreRead, hup, winRead_reaches (by simp [regOff_capture_ne hn hi]) (winAccess_ok hash (winRef_capture_full hn hi) hw),
    regRead_capture hn, bits_63_0 (rd_lt s n i 0)]

theorem coreRead_capture_low :
    coreRead s w (regOff n i 0) .low = emit (s.wr n i 0 0) (.read (regOff n i 0) (s.rd n i 0 % 2 ^ 32)) := by
  simp [coreRead, hup, winRead_reaches (by simp) (winAccess_ok hash (winRef_capture_low hn hi) hw), regRead_capture hn, bits]

theorem coreRead_capture_high :
    coreRead s w (regOff n i 0) .high = emit s (.read (regOff n i 0 + 4) (s.rd n i 0 / 2 ^ 32)) := by
  have hbits : bits (s.rd n i 0) 63 32 = s.rd n i 0 / 2 ^ 32 := Nat.mod_eq_of_lt (by have := rd_lt s n i 0; omega)
  simp [coreRead, hup, winRead_reaches (by simp) (winAccess_ok hash (winRef_capture_high hn hi) hw), regRead_capture hn, hbits]

end Read

end Capture

/-- Settles O9: each row is a core's read of its capture register. -/
theorem captureReadsClear : Obligations.CaptureReadsClear := by
  intro s w t h c n i hrow hup hash hw
  have ht : t.val < 1536 := t.isLt
  have hread : n ∈ captureRegs ∧ i < (regInfo n).n1 ∧ exec c s = .next (coreRead s w (regOff n i 0) h) := by
    rcases hrow with ⟨rfl, rfl, rfl⟩ | ⟨rfl, rfl, rfl⟩ | ⟨rfl, rfl, rfl⟩ | ⟨rfl, rfl, rfl⟩ | ⟨rfl, rfl, rfl⟩
      | ⟨rfl, rfl, rfl⟩ | ⟨rfl, rfl, rfl⟩ <;> exact ⟨by decide, by simp [regInfo], rfl⟩
  obtain ⟨hn, hi, hexec⟩ := hread
  rw [hexec]
  cases h with
  | full => exact congrArg Host.Outcome.next (coreRead_capture_full hn hi hup hash hw)
  | low => exact congrArg Host.Outcome.next (coreRead_capture_low hn hi hup hash hw)
  | high => exact congrArg Host.Outcome.next (coreRead_capture_high hn hi hup hash hw)

end Sys2Proof.Machine
end

section
/-! PROOFS. What the shared operations leave of the sequencers (R3): counting, events, sends over the links and completion
entries change neither which plans run nor their phases. -/

namespace Sys2Proof.Machine

variable (s : State)

/- A step by definition, `(s.wr n i j v).seq = s.seq` for a register that is named, has the kernel compare two whole states, down
to 64-bit register values; so the lemmas here are used as equations: `(rfl)`, and `simp -implicitDefEqProofs`. -/

/-! ### Counts and events -/

@[simp] theorem State.wrf_seq (n : RegName) (i j hi lo v : Nat) : (s.wrf n i j hi lo v).seq = s.seq := (rfl)
@[simp] theorem cntAdd_seq (n : RegName) (i j k : Nat) : (cntAdd s n i j k).seq = s.seq := (rfl)
@[simp] theorem drawFree_seq : (drawFree s).1.seq = s.seq := (rfl)

@[simp] theorem wakeWhite_seq : (wakeWhite s).seq = s.seq := by
  unfold wakeWhite; split_ifs
  · rfl
  · rfl
  · exact State.wrf_seq ..

@[simp] theorem wakeWatched_seq (n : Nat) : (wakeWatched s n).seq = s.seq := by simp -implicitDefEqProofs [wakeWatched]

@[simp] theorem evcTakeWaiting_seq (n : Nat) : (evcTakeWaiting s n).seq = s.seq := by
  unfold evcTakeWaiting; split
  · rfl
  · simp -implicitDefEqProofs

@[simp] theorem evcFire_seq (n tag : Nat) : (evcFire s n tag).seq = s.seq := by
  simp only [evcFire]; split_ifs <;> simp -implicitDefEqProofs

@[simp] theorem rasWatch_seq (c inc : Nat) : (rasWatch s c inc).seq = s.seq := by
  simp only [rasWatch]; split_ifs <;> simp -implicitDefEqProofs

@[simp] theorem rasBump_seq (cls d k : Nat) : (rasBump s cls d k).seq = s.seq := by
  simp only [rasBump]; split_ifs <;> simp -implicitDefEqProofs

@[simp] theorem rasTileBump_seq (cls t k : Nat) : (rasTileBump s cls t k).seq = s.seq := by
  unfold rasTileBump; split_ifs <;> simp -implicitDefEqProofs

@[simp] theorem rasChanBump_seq (c : Nat) (ue : Bool) : (rasChanBump s c ue).seq = s.seq := by
  cases ue <;> simp -implicitDefEqProofs [rasChanBump]

@[simp] theorem countDenied_seq (d : Nat) : (countDenied s d).seq = s.seq := rasBump_seq ..

/-- An event in a command's work fails the command alone. -/
@[simp] theorem failCtx_cmd_seq (i : Nat) (v : Verdict) (t : Option Nat) (k : Nat) : (failCtx s (.cmd i) v t k).seq = s.seq := by
  cases v <;> rfl

@[simp] theorem tileEvent_cmd_seq (i cls t k : Nat) : (tileEvent s (.cmd i) cls t k).seq = s.seq := by
  unfold tileEvent; split_ifs <;> simp -implicitDefEqProofs

@[simp] theorem dieEvent_cmd_seq (i cls d k : Nat) : (dieEvent s (.cmd i) cls d k).seq = s.seq := by
  unfold dieEvent; split_ifs <;> simp -implicitDefEqProofs

/-! ### A command's read of device memory -/

@[simp] theorem setWord_seq (a : Nat) (bs : Bytes) : (setWord s a bs).seq = s.seq := by
  unfold setWord; split <;> rfl

@[simp] theorem eccCorrected_seq (a : Nat) : (eccCorrected s a).seq = s.seq := by
  unfold eccCorrected; split <;> simp -implicitDefEqProofs

@[simp] theorem eccUncorrectable_cmd_seq (i a : Nat) : (eccUncorrectable s (.cmd i) a).seq = s.seq := by
  unfold eccUncorrectable; split <;> simp -implicitDefEqProofs

@[simp] theorem eccReadWord_cmd_seq (i a : Nat) : (eccReadWord s (.cmd i) a).1.seq = s.seq := by
  simp only [eccReadWord]; split_ifs <;> simp -implicitDefEqProofs [freeBytes]

@[simp] theorem eccReadAll_cmd_seq (i : Nat) (l : List Nat) : (eccReadAll (.cmd i) l s).seq = s.seq := by
  induction l generalizing s with
  | nil => rfl
  | cons a l ih => simp -implicitDefEqProofs [eccReadAll, ih]

@[simp] theorem devRead_cmd_seq (w : World) (i a n : Nat) (b : EpochBlock) : (devRead s w (.cmd i) a n b).1.seq = s.seq := by
  simp only [devRead]; split_ifs <;> simp -implicitDefEqProofs

/-! ### Sends over a link -/

@[simp] theorem injStep_seq (inj d : Nat) : (injStep s inj d).1.seq = s.seq := by
  simp only [injStep]; split_ifs <;> simp -implicitDefEqProofs

@[simp] theorem injected_seq (inj d first len : Nat) (crc : Bytes → Bytes) (body : Bytes) :
    (injected s inj d first len crc body).1.seq = s.seq := by
  simp only [injected]; repeat' split
  all_goals simp -implicitDefEqProofs

@[simp] theorem flitOut_seq (i : LinkId) (kind seq : Nat) (payload : Bytes) : (flitOut s i kind seq payload).seq = s.seq := by
  simp only [flitOut]; repeat' split
  all_goals simp -implicitDefEqProofs

@[simp] theorem linkCount_seq (i : LinkId) (k n : Nat) : (linkCount s i k n).seq = s.seq := by cases i <;> exact cntAdd_seq ..

@[simp] theorem refill_seq (i : LinkId) (n : Nat) : (refill s i n).seq = s.seq := by
  fun_induction refill s i n with
  | case1 | case2 | case4 => rfl
  | case3 s n l f fs hw hc s' ih => exact ih.trans (by simp -implicitDefEqProofs [s'])

@[simp] theorem wentOut_seq (i : LinkId) (m : TxMsg) : (wentOut s i m).seq = s.seq := by
  unfold wentOut; repeat' split
  all_goals simp -implicitDefEqProofs

@[simp] theorem pump_seq (i : LinkId) (n : Nat) : (pump i n s).seq = s.seq := by
  induction n generalizing s with
  | zero => rfl
  | succ n ih =>
    simp only [pump]; repeat' split
    all_goals simp -implicitDefEqProofs [ih]

@[simp] theorem linkSend_seq (i : LinkId) (ms : List TxMsg) : (linkSend s i ms).seq = s.seq := by
  simp -implicitDefEqProofs [linkSend, pumpAll]

/-! ### Completion entries -/

@[simp] theorem sendIntr_seq (w : World) (v : Nat) : (sendIntr s w v).seq = s.seq := by simp -implicitDefEqProofs [sendIntr]

@[simp] theorem signalRing_seq (n : Nat) (irq : Bool) : (signalRing s n irq).seq = s.seq := by
  simp only [signalRing]; split_ifs <;> simp -implicitDefEqProofs

@[simp] theorem putEntry_seq (n : Nat) (bs : Bytes) (irq : Bool) : (putEntry s n bs irq).seq = s.seq := by
  simp -implicitDefEqProofs [putEntry, hostWrite]

@[simp] theorem putCpl_seq (c : Cpl) : (putCpl s c).seq = s.seq := by
  unfold putCpl; split_ifs <;> simp -implicitDefEqProofs

/-- A command that completes leaves the running plans of both kinds as they are. -/
theorem complete_plans (iid status : Nat) :
    (complete s iid status).seq.train = s.seq.train ∧ (complete s iid status).seq.eval = s.seq.eval := by
  unfold complete completeInfo
  split
  · exact ⟨rfl, rfl⟩
  · split
    · exact ⟨rfl, rfl⟩
    · simp -implicitDefEqProofs [dropIssued]

/-! ### RUN_PLAN of another member's plan (R3) -/

variable {s}

/-- A header with another member's code is bad. -/
theorem headerBad_of_member {c : Issued} {h : Bytes} (hm : fld h 4 2 ≠ s.rdf .gblId 0 0 15 0) : headerBad s c h = true := by
  simp [headerBad, hm]

/-- A plan whose header is bad, as it is read, completes BAD_DESCRIPTOR. -/
theorem planBegin_headerBad {c : Issued} (ha : planAddrStatus s (rpPlan c.ops) 128 = stOk)
    (hb : let h := devRead s c.world (.cmd c.iid) (rpPlan c.ops) 128; headerBad h.1 c h.2 = true) :
    planBegin s c = complete (devRead s c.world (.cmd c.iid) (rpPlan c.ops) 128).1 c.iid stBadDescriptor := by
  simp only at hb
  simp [planBegin, ha, hb]

/-- A RUN_PLAN that nothing holds back begins its plan. -/
theorem planRow_begins {c : Issued} (hi : getIssued s c.iid = some c) (hop : c.op = 0x0020) (hst : c.st ≠ .running)
    (hre : rpRecompute c.ops = false) (hh : s.seq.held = []) (hc : s.seq.heldCmds = []) (hk : kindFree s (planKindOf c) = true) :
    planRow s c.iid (planKindOf c) false = planBegin s c := by
  simp [planRow, hi, hop, hst, hre, hh, hk, noOlderHold, hc, planGo]

/-- Settles O60: the header is bad, and a completion leaves the sequencers' plans as they are. -/
theorem planOfAnotherMemberRefused : Obligations.PlanOfAnotherMemberRefused := by
  intro s c ha h t hm
  have hbegin : planBegin s c = t := planBegin_headerBad ha (headerBad_of_member hm)
  have ⟨htrain, heval⟩ := complete_plans h.1 c.iid stBadDescriptor
  have hseq : h.1.seq = s.seq := devRead_cmd_seq ..
  refine ⟨hbegin, hseq ▸ htrain, hseq ▸ heval, fun hi hop hst hre hh hc hk => ?_⟩
  have hrow := (planRow_begins hi hop hst hre hh hc hk).trans hbegin
  exact ⟨fun k => congrArg Host.Outcome.next (k ▸ hrow), fun k => congrArg Host.Outcome.next (k ▸ hrow)⟩

end Sys2Proof.Machine
end

section
/-! PROOFS. The refutation of the frame of the commands that store nothing. -/

namespace Sys2Proof.Machine

/-- A two-dimensional BF16 tensor in LPDDR5X. -/
def bf16Tensor (base cols rows : Nat) : Td :=
  { base := base, fmt := 0x04, ndim := 2, ext := [cols, rows, 1, 1, 1], stride := [1, 4, 0, 0, 0] }

/-- A block that tile 0 forwards to tile 1, its neighbour to the east. -/
def forwardedBlock : SheetBlk :=
  { tile := 1, north := false, slot := 1, oper := { v := { td := bf16Tensor 0x4100000 64 32 }, br := 0, bc := 0 } }

/-- The phase of a dense operation on a sheet of two tiles: 32 rows by 128 columns, with two K-blocks. -/
def sheetPhase : PhaseRun :=
  { index := 0, sheet := true, bank := 0, steal := false, stagingFree := false, dies := [0], mb := 0, next := 0,
    rect := (0, 0, 2, 1), copyRect := (0, 0, 0, 0),
    tds := [bf16Tensor 0x4100000 64 32, bf16Tensor 0x4200000 128 64, bf16Tensor 0x4300000 128 32], binds := [],
    dense := { a := 0, b := 1, c := 2 }, gme := none, ve := none, kernels := [], routes := [], rngs := [], copies := [],
    copiesLeft := [], ranges := [], qops := [], branches := [], left := [0], sheetFly := [forwardedBlock] }

/-- The plan that runs the phase. -/
def sheetPlan : PlanRun :=
  { iid := 1, world := .ns, recompute := false, addr := 0x4000000, step := 0, dataPos := 0, hash := 0, nphase := 1, phaseTab := 0,
    mbTab := 0, nmb := 1, total := 0, summKind := [], st := .phase, phase := some sheetPhase }

/-- Array 0 of tile 1 holds a task of the sheet that has waited for its operand bytes. -/
def waitingTask : Da := { k := .training, task := { die := 0, bytes := mkDense 0 2 0 1 2 0xFF 0 0 0 0 0 }, slot := 0 }

def sheetState : State := { seq := { train := some sheetPlan }, das := [(daKey 1 0, waitingTask)] }

/-- The arriving block has the tile work on (R101): the waiting task begins. -/
theorem sheetBlockArrive_begins_task : ∃ t : State, exec (.sheetBlockArrive 1 false 1) sheetState = .next t
    ∧ (getDa sheetState 1 0).map Da.begun = some false ∧ (getDa t 1 0).map Da.begun = some true := by
  refine ⟨_, rfl, by decide +kernel, by decide +kernel⟩

/-- Refutes O56: SHEET_BLOCK_ARRIVE is among the commands that store nothing, and has the tile's arrays go on. On a sheet of two
tiles, with a task at array 0 of tile 1 that waits for its operand bytes, a block that arrives from the west begins the task, so
the dense arrays are not what they were. -/
theorem not_commandsThatStoreNothing : ¬ Obligations.CommandsThatStoreNothing := by
  intro h
  obtain ⟨t, ht, hwaits, hbegins⟩ := sheetBlockArrive_begins_task
  obtain ⟨-, -, hdas⟩ := (h (.sheetBlockArrive 1 false 1) sheetState t ht).1 rfl
  have hsame : getDa t 1 0 = getDa sheetState 1 0 := by rw [getDa, getDa, hdas]
  simp [hsame, hwaits] at hbegins

end Sys2Proof.Machine
end

section
/-! PROOFS. The die bridges' rows (R12, R303), and the phases of a plan (R19, R216, R245, R248, R249). -/

namespace Sys2Proof.Machine

/-! ### Die bridges -/

section Bridge
variable {s : State} {b : BridgeLink} {k : Nat} {l : Bridge} (hk : bridgeKey b.link.val b.back = k) (hl : getBridge s k = l)
include hk hl

/-- The expected flit is taken. -/
theorem exec_bridgeFlitReceive_taken {f : BridgeFlit} (hlen : f.data.length = 64) (hgood : bridgeFlitGood f = true)
    (hseq : f.seq.val = l.rxSeq) :
    exec (.bridgeFlitReceive b f) s = .next (setBridge s k { l with rxSeq := (l.rxSeq + 1) % 256, naked := false }) := by
  show execBridgeFlitReceive .. = _
  simp [execBridgeFlitReceive, hlen, hk, hl, hgood, hseq]

/-- Any other flit is counted, and answered with a NAK. -/
theorem exec_bridgeFlitReceive_refused {f : BridgeFlit} (hlen : f.data.length = 64)
    (hbad : bridgeFlitGood f = false ∨ f.seq.val ≠ l.rxSeq) : exec (.bridgeFlitReceive b f) s
      = .next (emit (setBridge (rasBump s 4 (bridgeDie b.link.val b.back) 1) k { l with naked := true })
          (.bridge b.link.val b.back true ((l.rxSeq + 255) % 256) [])) := by
  have htaken : (bridgeFlitGood f && f.seq.val == l.rxSeq) = false := by
    rcases hbad with hcrc | hseq
    · rw [hcrc, Bool.false_and]
    · rw [beq_false_of_ne hseq, Bool.and_false]
  show execBridgeFlitReceive .. = _
  simp [execBridgeFlitReceive, hlen, hk, hl, htaken]

/-- What a NAK leaves of the link: the acknowledged flits are gone, and a try is counted, the first one where some were. -/
def Bridge.nak (l : Bridge) (last : Nat) : Bridge :=
  let r := dropAcked last l.replay
  { l with replay := r, tries := if r.length = l.replay.length then l.tries + 1 else 1 }

theorem exec_bridgeNak (n : Fin 256) : exec (.bridgeNak b n) s
    = .next (if l.training then setBridge s k (l.nak n) else bridgeReplay (setBridge s k (l.nak n)) b) := by
  show execBridgeNak .. = _
  subst hk hl
  simp only [execBridgeNak, Bridge.nak]
  split <;> rfl

theorem exec_bridgeRetrain : exec (.bridgeRetrain b) s
    = .next (if 4 ≤ l.tries ∧ l.training = false then setBridge s k { l with training := true } else s) := by
  show execBridgeRetrain .. = _
  subst hk hl
  simp only [execBridgeRetrain, Bool.and_eq_true, decide_eq_true_eq, Bool.not_eq_true']
  split <;> rfl

theorem exec_bridgeRetrainDone : exec (.bridgeRetrainDone b) s
    = .next (if l.training then bridgeReplay (setBridge s k { l with training := false, tries := 0 }) b else s) := by
  show execBridgeRetrainDone .. = _
  subst hk hl
  simp only [execBridgeRetrainDone]
  split <;> rfl

end Bridge

/-- Settles O42: each of the four rows has its lemma above. -/
theorem bridgesReplay : Obligations.BridgesReplay := by
  intro s b k l
  have nak := exec_bridgeNak (s := s) (b := b) (k := k) (l := l) rfl rfl
  have retrain := exec_bridgeRetrain (s := s) (b := b) (k := k) (l := l) rfl rfl
  have retrained := exec_bridgeRetrainDone (s := s) (b := b) (k := k) (l := l) rfl rfl
  refine ⟨fun f hlen => ⟨exec_bridgeFlitReceive_taken rfl rfl hlen, exec_bridgeFlitReceive_refused rfl rfl hlen⟩, ?nak,
    fun htries htrains => ?begins, fun hnot => ?neither, fun htrains => ?ends, fun htrains => ?stays⟩
  case nak =>
    intro n r s1
    exact ⟨fun htrains => by rw [nak, if_pos htrains]; rfl, fun htrains => by rw [nak, if_neg (by simp [htrains])]; rfl⟩
  case begins => rw [retrain, if_pos ⟨htries, htrains⟩]
  case neither => rw [retrain, if_neg (by rcases hnot with h | h <;> simp [h])]
  case ends => rw [retrained, if_pos htrains]
  case stays => rw [retrained, if_neg (by simp [htrains])]

/-! ### The start of a phase (R245) -/

/-- A plan between phases has executions left and its turn has come, with no phase at work. -/
structure PhaseTurn (s : State) (k : PlanKind) (p : PlanRun) : Prop where
  free : phaseFree s = true
  plan : getPlan s k = some p
  between : p.st = .between
  turn : s.seq.lastKind = k → otherReady s k = false
  left : p.executed < phaseLimit s

section Start
variable {s0 s : State} {k : PlanKind} {p : PlanRun}

theorem PhaseTurn.not_held (h : PhaseTurn s k p) :
    (decide (p.st ≠ .between) || !phaseFree s || (s.seq.lastKind == k && otherReady s k) || decide (phaseLimit s ≤ p.executed))
      = false := by
  have hturn : (s.seq.lastKind == k && otherReady s k) = false := by
    by_cases hk : s.seq.lastKind = k
    · rw [h.turn hk, Bool.and_false]
    · rw [beq_false_of_ne hk, Bool.false_and]
  simp [h.between, h.free, hturn, h.left]

variable {r : State × Nat × Option PhaseRun} (h0 : phaseFree s0 = true) (hs : atBoundary s0 = s) (h : PhaseTurn s k p)
  (hr : loadPhase s k p p.nextPhase = r)
include h0 hs h hr

/-- A record that fails ends the plan with its status. -/
theorem exec_phaseStart_fails (hf : r.2.2 = none) : exec (.phaseStart k) s0 = .next (failPlan r.1 k r.2.1) := by
  show execPhaseStart .. = _
  simp only [execPhaseStart, h0, if_true, hs, h.plan, h.not_held, hr, hf, Bool.false_eq_true, if_false]

/-- A record that is good waits for ring copies, or its boundary is checked first, or it is entered. -/
theorem exec_phaseStart_loaded {f : PhaseRun} (hf : r.2.2 = some f) : exec (.phaseStart k) s0
    = .next (if copiesStop r.1 f then s
        else if p.boundary = none ∧ f.free ≠ [] ∧ p.cleared = false then if planOut s k then s else beginCheck s k true
        else phaseEnter r.1 k f) := by
  show execPhaseStart .. = _
  simp only [execPhaseStart, h0, if_true, hs, h.plan, h.not_held, hr, hf, Bool.false_eq_true, if_false, Bool.and_eq_true,
    Option.isNone_iff_eq_none, Bool.not_eq_true', List.isEmpty_eq_false_iff, and_assoc]
  split_ifs <;> rfl

end Start

/-! ### FREE writes that wait (R216) -/

section Waits
variable {s : State} {p : PlanRun} {f : PhaseRun} {r : Fin 256} (hp : s.seq.train = some p) (hf : p.phase = some f)
  (hr : r.val ∈ f.waits)
include hp hf hr

theorem exec_versionStallExpire : exec (.versionStallExpire r) s = .next (failPlan s .training stVersionPinned) := by
  show execVersionStallExpire .. = _
  simp [execVersionStallExpire, hp, hf, hr]

/-- With its pins gone the region waits no more; the phase goes on with the last one. -/
theorem exec_freeWriteUnblock (hpins : freePins (getRegion s r) = 0) :
    let t := modPhase (freeUnstall s r) .training fun f => { f with waits := f.waits.filter (· != r.val) }
    exec (.freeWriteUnblock r) s = .next (if f.waits.filter (· != r.val) = [] then phaseGo t .training else t) := by
  intro t
  show execFreeWriteUnblock .. = _
  simp only [execFreeWriteUnblock, hp, hf, List.contains_iff_mem.2 hr, hpins, bne_self_eq_false, Bool.not_true, Bool.or_self,
    Bool.false_eq_true, if_false, List.isEmpty_iff]
  split <;> rfl

end Waits

/-! ### The end of a phase (R19) -/

/-- A die that is quarantined or idle does not hold the phase. -/
theorem not_dieHolds {s : State} {c : Cur} {d : Nat} (hidle : dieQuar s d = true ∨ dieIdle s c d = true) :
    (!dieQuar s d && !dieIdle s c d) = false := by
  rcases hidle with hquar | hidle
  · rw [hquar, Bool.not_true, Bool.false_and]
  · rw [hidle, Bool.not_true, Bool.and_false]

section End
variable {s : State} {k : PlanKind} {d : Die} {c : Cur} (hc : curOf s k = some c)
include hc

/-- An at-once failure ends the plan first. -/
theorem exec_phaseEnd_atOnce (honce : c.p.atOnce = true) : exec (.phaseEnd k d) s = .next (failAtOnce s k) := by
  show execPhaseEnd .. = _
  simp [execPhaseEnd, hc, honce]

variable (honce : c.p.atOnce = false) (hd : d.val ∈ c.f.left) (hpasses : c.f.passes.all (passDone s c) = true)
  (hlists : listsClosed s c = true)
include honce hd hpasses hlists

/-- What the gatherers still hold is launched. -/
theorem exec_phaseEnd_launches (hg : gathOpen c.f = true) : exec (.phaseEnd k d) s = .next (gathClose s c) := by
  show execPhaseEnd .. = _
  simp [execPhaseEnd, hc, honce, hd, hpasses, hlists, hg]

variable (hg : gathOpen c.f = false) (hidle : dieQuar s d = true ∨ dieIdle s c d = true)
include hg hidle

/-- A die that holds nothing of the phase leaves it, and others stay. -/
theorem exec_phaseEnd_leaves (hleft : c.f.left.filter (· != d.val) ≠ []) : exec (.phaseEnd k d) s
    = .next (modPhase s k fun f => { f with left := c.f.left.filter (· != d.val) }) := by
  show execPhaseEnd .. = _
  simp [execPhaseEnd, hc, honce, hd, hpasses, hlists, hg, not_dieHolds hidle, List.isEmpty_eq_false_iff.2 hleft]

/-- With the last die the phase's copies run, which may fail the plan; else it is done. -/
theorem exec_phaseEnd_ends (hleft : c.f.left.filter (· != d.val) = []) (hphase : phaseIdle s c = true)
    (hdies : (upTo 4).all (dieIdle s c) = true) {p : PlanRun} (hp : getPlan (runCopies s c) k = some p) :
    exec (.phaseEnd k d) s
      = .next (if p.atOnce then failAtOnce (runCopies s c) k else phaseDone (runCopies s c) k c.f) := by
  show execPhaseEnd .. = _
  simp only [execPhaseEnd, hc, honce, List.contains_iff_mem.2 hd, hpasses, hlists, hg, not_dieHolds hidle, hleft, hphase, hdies, hp,
    Bool.false_eq_true, if_false, Bool.not_true, Bool.or_self, List.isEmpty_nil]
  split <;> rfl

end End

/-! ### The choice of the next phase (R248, R249) -/

theorem modPlan_of_getPlan {s : State} {k : PlanKind} {p : PlanRun} (hp : getPlan s k = some p) (g : PlanRun → PlanRun) :
    modPlan s k g = setPlan s k (some (g p)) := by rw [modPlan, hp, Option.map_some]

/-- Records that are final and not true are passed over. -/
theorem branchPick_append {p : PlanRun} {dflt : Nat} {pre : List Branch} (post : List Branch)
    (hpre : ∀ x ∈ pre, (getMail p x.entry).final = true ∧ branchTrue (getMail p x.entry) x = false) :
    branchPick p dflt (pre ++ post) = branchPick p dflt post := by
  induction pre with
  | nil => rfl
  | cons x xs ih =>
    obtain ⟨hfinal, hfalse⟩ := hpre x (by simp)
    simp [branchPick, hfinal, hfalse, ih fun y hy => hpre y (by simp [hy])]

section Decide
variable {s : State} {k : PlanKind} {p : PlanRun} (hp : getPlan s k = some p)
include hp

section Branches
variable (hst : p.st = .branch)
include hst

theorem exec_branchDecide_waits (hpick : branchPick p p.nextPhase p.branches = none) : exec (.branchDecide k) s = .next s := by
  show execBranchDecide .. = _
  simp [execBranchDecide, hp, hst, hpick]

theorem exec_branchDecide_selects {n : Nat} (hpick : branchPick p p.nextPhase p.branches = some n) : exec (.branchDecide k) s
    = .next (setPlan s k (some { p with nextPhase := n, branches := [], st := if n = 0xFFFF then .commit else .between })) := by
  show execBranchDecide .. = _
  simp [execBranchDecide, hp, hst, hpick, modPlan_of_getPlan hp]

end Branches

theorem exec_phaseLimitExceeded (hst : p.st = .between) : exec (.phaseLimitExceeded k) s
    = .next (if phaseLimit s ≤ p.executed then failPlan s k stTimeout else s) := by
  show execPhaseLimitExceeded .. = _
  simp only [execPhaseLimitExceeded, hp, hst, beq_self_eq_true, Bool.true_and, decide_eq_true_eq]
  split <;> rfl

end Decide

/-- Settles O47: a row's lemma above for each of its outcomes. -/
theorem phasesRun : Obligations.PhasesRun := by
  refine ⟨?start, ?waits, ?atOnce, ?ends, ?branch, ?limit⟩
  case start =>
    intro s0 k p h0 s hfree hp hst hturn hleft r
    have turn : PhaseTurn s k p := ⟨hfree, hp, hst, hturn, hleft⟩
    have loaded {f : PhaseRun} (hf : r.2.2 = some f) := exec_phaseStart_loaded h0 rfl turn rfl hf
    refine ⟨exec_phaseStart_fails h0 rfl turn rfl, fun f hf hstop => ?stops,
      fun f hf hstop => ⟨fun hclear => ?enters, fun hb hfr hcl => ?checks⟩⟩
    case stops => rw [loaded hf, if_pos hstop]
    case enters =>
      have hno : ¬(p.boundary = none ∧ f.free ≠ [] ∧ p.cleared = false) := fun ⟨hb, hfr, hcl⟩ =>
        hclear.elim (fun h => h hb) fun h => h.elim hfr fun h => ne_true_of_eq_false hcl h
      rw [loaded hf, if_neg (ne_true_of_eq_false hstop), if_neg hno]
    case checks => rw [loaded hf, if_neg (ne_true_of_eq_false hstop), if_pos ⟨hb, hfr, hcl⟩]
  case waits =>
    intro s p f r hp hf hr
    refine ⟨exec_versionStallExpire hp hf hr, fun hpins => ?_⟩
    have unblock := exec_freeWriteUnblock hp hf hr hpins
    exact ⟨fun hlast => unblock.trans (by rw [if_pos hlast]), fun hmore => unblock.trans (by rw [if_neg hmore])⟩
  case atOnce => exact fun s k d c hc honce => exec_phaseEnd_atOnce hc honce
  case ends =>
    intro s k d c hc honce hd hpasses hlists left idle
    refine ⟨exec_phaseEnd_launches hc honce hd hpasses hlists, exec_phaseEnd_leaves hc honce hd hpasses hlists,
      fun hg hidle hleft hphase hdies p hp => ?_⟩
    have ends := exec_phaseEnd_ends hc honce hd hpasses hlists hg hidle hleft hphase hdies hp
    exact ⟨fun h => by rw [ends, if_neg (by simp [h])], fun h => by rw [ends, if_pos h]⟩
  case branch =>
    intro s k p hp hst
    refine ⟨fun pre b post hb hpre => ⟨fun hopen => ?waits, fun hfinal htrue => ?first⟩, fun hall => ?none⟩
    case waits => exact exec_branchDecide_waits hp hst (by simp [hb, branchPick_append _ hpre, branchPick, hopen])
    case first => exact exec_branchDecide_selects hp hst (by simp [hb, branchPick_append _ hpre, branchPick, hfinal, htrue])
    case none =>
      refine exec_branchDecide_selects hp hst ?_
      simpa [branchPick] using branchPick_append (dflt := p.nextPhase) [] hall
  case limit =>
    intro s k p hp hst
    have limit := exec_phaseLimitExceeded hp hst
    exact ⟨fun hover => by rw [limit, if_pos hover], fun hin => by rw [limit, if_neg (by omega)]⟩

end Sys2Proof.Machine
end

section
/-! PROOFS. The end of a step: its checks over the replay group, the commit, the replay and the update retry (R250, R390 to
R395). -/

namespace Sys2Proof.Machine

/-! ### What the operations before a new attempt leave of the plans -/

/-- A fold whose every step leaves a part of the state leaves that part. -/
theorem foldl_leaves {α β : Type} {part : State → β} {f : State → α → State} (hf : ∀ s x, part (f s x) = part s) (l : List α)
    (s : State) : part (l.foldl f s) = part s :=
  (List.foldl_hom part (g₂ := fun b _ => b) fun t x => (hf t x).symm).symm.trans (List.foldl_fixed l)

@[simp] theorem accClear_seq (s : State) (t n : Nat) : (accClear s t n).seq = s.seq := rfl

@[simp] theorem dropEngines_seq (s : State) (k : PlanKind) : (dropEngines s k).seq = s.seq := by
  refine (foldl_leaves (part := State.seq) ?_ _ _).trans (foldl_leaves (part := State.seq) ?_ _ _)
  · intro t o
    split <;> simp
  · intro t e
    split <;> simp

@[simp] theorem clearWindows_seq (s : State) (w : World) : (clearWindows s w).seq = s.seq :=
  foldl_leaves (part := State.seq) (fun t _ => setMem_seq t _ _) _ _

@[simp] theorem ctrRestore_seq (s : State) (eval : Bool) (snap : NMap W64) : (ctrRestore s eval snap).seq = s.seq := rfl

@[simp] theorem pinDrop_train (s : State) (n copy : Nat) : (pinDrop s n copy).seq.train = s.seq.train := rfl

@[simp] theorem pinsDrop_train (s : State) (l : List (Nat × Nat × Nat)) : (pinsDrop s l).seq.train = s.seq.train := by
  refine foldl_leaves (part := fun t => t.seq.train) ?_ l s
  exact fun t x => pinDrop_train t x.2.1 x.2.2

theorem attemptPins_train {s : State} {p : PlanRun} (hp : s.seq.train = some p) (q : PlanRun) :
    (attemptPins s .training q).seq.train = some { p with pins := [] } := by
  simp [attemptPins, modPlan, setPlan, getPlan, hp]

/-! ### The check begins and is decided (R390, R391) -/

section Check
variable {s : State} {k : PlanKind} {p : PlanRun} (hp : getPlan s k = some p)
include hp

/-- Compute has ended: a recomputation that disagrees with its log record counts, and the check begins. -/
theorem exec_stepCommit (hst : p.st = .commit) (hout : planOut s k = false) : exec (.stepCommit k) s
    = .next (beginCheck (if p.recompute && !recomputeOk s p then dieEvent s (.plan k) 40 0 1 else s) k false) := by
  show execStepCommit .. = _
  simp [execStepCommit, hp, hst, hout]

theorem beginCheck_of_atOnce (bound : Bool) (honce : p.atOnce = true) : beginCheck s k bound = failAtOnce s k := by
  simp [beginCheck, hp, honce]

section Results
variable {bound : Bool} (honce : p.atOnce = false) {r : State × Bool}
  (hr : sendResults k p (ownPass p) false (planMembers s p) s = r)
include honce hr

/-- A member that cannot be reached ends the plan. -/
theorem beginCheck_of_unreachable (hsent : r.2 = false) : beginCheck s k bound = failPlan r.1 k stPeerUnreachable := by
  simp [beginCheck, hp, honce, hr, hsent]

/-- With the result sent, the plan waits for its members', or is decided at once. -/
theorem beginCheck_of_sent (hsent : r.2 = true) (hkept : getPlan r.1 k = some p) {q : PlanRun}
    (hq : { p with members := planMembers s p, atBound := bound, st := .members } = q) :
    beginCheck s k bound = if resultsIn q then decideChecks (setPlan r.1 k (some q)) k else setPlan r.1 k (some q) := by
  subst hq
  simp only [beginCheck, hp, honce, hr, hsent, modPlan_of_getPlan hkept, getPlan_setPlan_self, Bool.not_true, Bool.false_eq_true,
    if_false]

end Results

section Outcomes
variable {t : List (Nat × Bool × Bool) × List (Nat × Bool × Bool)} (ht : takeResults p.members p.results = t)
  {s1 : State} (hs1 : setPlan s k (some { p with results := t.2 }) = s1)
include ht hs1

/-- A failure at once, the plan's own or a member's, ends the plan. -/
theorem decideChecks_of_atOnce (honce : (p.atOnce || t.1.any fun r => r.2.2) = true) :
    decideChecks s k = failPlan (setLastDelta s1 p.tileEv) k stCheckFailed := by
  simp only [decideChecks, hp, ht, hs1, if_pos honce]

variable (honce : (p.atOnce || t.1.any fun r => r.2.2) = false)
include honce

/-- All of the group passed after the plan's last phase: the step commits. -/
theorem decideChecks_of_pass (hpass : (ownPass p && t.1.all fun r => r.2.1) = true) (hbound : p.atBound = false) :
    decideChecks s k = commitGo s1 k := by
  simp only [decideChecks, hp, ht, hs1, if_neg (ne_true_of_eq_false honce), if_pos hpass, if_neg (ne_true_of_eq_false hbound)]

/-- A member failed: the attempt is run again where the replay limit allows, else the plan ends. -/
theorem decideChecks_of_fail (hpass : (ownPass p && t.1.all fun r => r.2.1) = false) {s2 : State}
    (hs2 : setLastDelta s1 p.tileEv = s2) :
    decideChecks s k = if p.retries < s2.rdf .rasCtl 0 0 2 0
      then modPlan s2 k fun p => { p with st := if p.boundary.isSome then .retry else .replay, atBound := false }
      else failPlan s2 k (if p.ovf then stAnchorOverflow else stCheckFailed) := by
  simp only [decideChecks, hp, ht, hs1, hs2, if_neg (ne_true_of_eq_false honce), if_neg (ne_true_of_eq_false hpass)]

end Outcomes

/-- A member's result is kept with the plan; the last one that the plan waits for decides. -/
theorem exec_checkResultMessage {d : DeviceId} (hd : resultPlan s d.toNat = some k) (pass once : Bool) {q : PlanRun}
    (hq : { p with results := p.results ++ [(d.toNat, pass, once)] } = q) : exec (.checkResultMessage d pass once) s
      = .next (if q.st = .members ∧ resultsIn q = true then decideChecks (setPlan s k (some q)) k else setPlan s k (some q)) := by
  show execCheckResultMessage .. = _
  simp only [execCheckResultMessage, hd, modPlan_of_getPlan hp, hq, getPlan_setPlan_self, Bool.and_eq_true, beq_iff_eq]
  split <;> rfl

end Check

/-! ### The mirror drain (R395) -/

theorem exec_mirrorDrainDone {s : State} {p : PlanRun} (hp : s.seq.train = some p) (hst : p.st = .drain) : exec .mirrorDrainDone s
    = .next (if mirrorOut s = false ∨ bit (s.rd .mirStatus) 63 = true then commitEnd s p else s) := by
  show execMirrorDrainDone s = _
  simp only [execMirrorDrainDone, hp, hst, beq_self_eq_true, Bool.true_and, Bool.or_eq_true, Bool.not_eq_true']
  split <;> rfl

/-! ### Replays and update retries (R54, R224, R392, R393) -/

/-- The test of both rows for a granule to repair. -/
theorem badGran_any_iff (s : State) (p : PlanRun) :
    (p.badGran.any fun g => (mirEntry s (4096 * g)).isSome) = true ↔ ∃ g ∈ p.badGran, mirEntry s (4096 * g) ≠ none := by
  simp only [List.any_eq_true, Option.isSome_iff_ne_none]

theorem not_badGran_any {s : State} {p : PlanRun} (hclean : ∀ g ∈ p.badGran, mirEntry s (4096 * g) = none) :
    ¬(p.badGran.any fun g => (mirEntry s (4096 * g)).isSome) = true := by
  rw [badGran_any_iff]
  exact fun ⟨g, hg, hmir⟩ => hmir (hclean g hg)

section Replay
variable {s : State} {k : PlanKind} {p : PlanRun} (hp : getPlan s k = some p) (hst : p.st = .replay) (hreads : readsOut s k = false)
include hp hst hreads

/-- Granules with a twin are repaired first (R393). -/
theorem exec_replayStart_repairs (hbad : ∃ g ∈ p.badGran, mirEntry s (4096 * g) ≠ none) :
    exec (.replayStart k) s = .next (repairGranules s k p) := by
  show execReplayStart .. = _
  simp only [execReplayStart, hp, hst, hreads, ne_eq, not_true, decide_false, Bool.or_self, Bool.false_eq_true, if_false,
    if_pos ((badGran_any_iff s p).2 hbad)]

/-- Without one, the attempt begins. -/
theorem exec_replayStart_begins (hclean : ∀ g ∈ p.badGran, mirEntry s (4096 * g) = none) : exec (.replayStart k) s
    = .next (startAttempt (modPlan (ctrRestore (attemptPins (dropEngines s k) k p) (k == .eval) p.ctr0) k
        fun q => { q with attempt := q.attempt + 1, retries := q.retries + 1, raises := raiseAnchors s p }) k) := by
  show execReplayStart .. = _
  simp only [execReplayStart, hp, hst, hreads, ne_eq, not_true, decide_false, Bool.or_self, Bool.false_eq_true, if_false,
    if_neg (not_badGran_any hclean)]

end Replay

/-- The plan as an update retry finds it: from its boundary on, with PINNED anchors at `raises`, the queues as they stood at
the boundary and no mailbox entry posted since (R392). -/
def PlanRun.fromBoundary (p : PlanRun) (raises : List ((Nat × OpSel) × Nat)) : PlanRun :=
  { p with
    st := .between, nextPhase := p.boundary.getD 0, phase := none, executed := 0, atOnce := false, replay := false
    ovf := false, tileEv := [], ovfOps := [], attempt := p.attempt + 1, retries := p.retries + 1
    raises := raises, digest := [0, 0, 0, 0, 0, 0, 0, 0], queues := p.queuesB
    mail := p.mail.filter fun q => !p.postEnts.contains q.1, badGran := [] }

section Retry
variable {s : State} {p : PlanRun} (hp : s.seq.train = some p) (hst : p.st = .retry) (hreads : readsOut s .training = false)
include hp hst hreads

/-- Granules with a twin are repaired first. -/
theorem exec_updateRetryStart_repairs (hbad : ∃ g ∈ p.badGran, mirEntry s (4096 * g) ≠ none) :
    exec .updateRetryStart s = .next (repairGranules s .training p) := by
  show execUpdateRetryStart s = _
  simp only [execUpdateRetryStart, hp, hst, hreads, ne_eq, not_true, decide_false, Bool.or_self, Bool.false_eq_true, if_false,
    if_pos ((badGran_any_iff s p).2 hbad)]

/-- Without one, the attempt begins: the anchors that rise are those of the plan that the row found, which has lost its pins alone. -/
theorem exec_updateRetryStart_begins (hclean : ∀ g ∈ p.badGran, mirEntry s (4096 * g) = none) : exec .updateRetryStart s
    = .next (anchorsOld (modPlan (ctrRestore (clearWindows (attemptPins (dropEngines s .training) .training p) p.world) false p.ctrB)
        .training fun q => q.fromBoundary (raiseAnchors s q)) .training) := by
  show execUpdateRetryStart s = _
  have hback : getPlan (ctrRestore (clearWindows (attemptPins (dropEngines s .training) .training p) p.world) false p.ctrB)
      .training = some { p with pins := [] } := by
    simpa [getPlan] using attemptPins_train (by simpa using hp) p
  simp only [execUpdateRetryStart, hp, hst, hreads, ne_eq, not_true, decide_false, Bool.or_self, Bool.false_eq_true, if_false,
    if_neg (not_badGran_any hclean), modPlan_of_getPlan hback]
  rfl

end Retry

/-- Settles O48: a row's or a check's lemma above for each of its outcomes. -/
theorem checksCommitAndReplay : Obligations.ChecksCommitAndReplay := by
  refine ⟨?commit, ?begins, ?decides, ?drain, ?result, ?replay, ?retry⟩
  case commit =>
    intro s k p hp hst hout
    have row := exec_stepCommit hp hst hout
    refine ⟨fun hagrees => ?agrees, fun hrec hdiff => ?differs⟩
    case agrees => rw [row, if_neg (by rcases hagrees with hrec | hok <;> simp [*])]
    case differs => rw [row, if_pos (by simp [hrec, hdiff])]
  case begins =>
    intro s k p bound hp
    refine ⟨beginCheck_of_atOnce hp bound, fun honce => ⟨beginCheck_of_unreachable hp honce rfl, fun hsent hkept => ?sent⟩⟩
    have sent := beginCheck_of_sent (bound := bound) hp honce rfl hsent hkept rfl
    exact ⟨fun hin => sent.trans (if_pos hin), fun hmore => sent.trans (if_neg (ne_true_of_eq_false hmore))⟩
  case decides =>
    intro s k p hp
    refine ⟨decideChecks_of_atOnce hp rfl rfl, decideChecks_of_pass hp rfl rfl, fun honce hpass => ?fails⟩
    have fails := decideChecks_of_fail hp rfl rfl honce hpass rfl
    exact ⟨fun hleft => fails.trans (if_pos hleft), fun hspent => fails.trans (if_neg (Nat.not_lt.2 hspent))⟩
  case drain =>
    intro s p hp hst
    have row := exec_mirrorDrainDone hp hst
    exact ⟨fun hdone => by rw [row, if_pos hdone], fun hout hon => by rw [row, if_neg (by simp [hout, hon])]⟩
  case result =>
    intro s d pass once k p hd hp q
    have row := exec_checkResultMessage hp hd pass once rfl
    refine ⟨fun hwaits => ?kept, fun hst hin => by rw [row, if_pos ⟨hst, hin⟩]⟩
    case kept =>
      have hno : ¬(q.st = .members ∧ resultsIn q = true) := fun ⟨hst, hin⟩ =>
        hwaits.elim (fun h => h hst) fun h => ne_true_of_eq_false h hin
      rw [row, if_neg hno]
  case replay =>
    exact fun s k p hp hst hreads => ⟨exec_replayStart_repairs hp hst hreads, exec_replayStart_begins hp hst hreads⟩
  case retry =>
    exact fun s p hp hst hreads => ⟨exec_updateRetryStart_repairs hp hst hreads, exec_updateRetryStart_begins hp hst hreads⟩

end Sys2Proof.Machine
end

section
/-! PROOFS. The dense arrays, the owners of split-K blocks, the row gatherers and the block writers (R82, R83, R90, R91, R99 to R105),
and the time limit of a GROUP round (R367). -/

namespace Sys2Proof.Machine

/-! ### Taking tasks (R99, R103) -/

section Take
variable {s s1 : State} {t : Tile} {c d : Cur} {x : Task} (hc : curPhase s = some c) (hworks : tileWorks s c t = true)
  (hs : daResume s c t = s1) (hd : curOf s1 c.k = some d) (hx : denseTask s1 d.f t = some x)
include hc hworks hs hd hx

theorem exec_denseTaskTake_bad (hbad : denseBad d x = true) :
    exec (.denseTaskTake t) s = .next (discardTask s1 d t .dense x) := by
  show execDenseTaskTake .. = _
  simp [execDenseTaskTake, hc, hworks, hs, hd, hx, hbad]

/-- A good record waits for an array, or is taken by one. -/
theorem exec_denseTaskTake_good (hgood : denseBad d x = false) : exec (.denseTaskTake t) s
    = .next ((takeArray s1 t x).elim s1 (denseTake s1 d t x)) := by
  show execDenseTaskTake .. = _
  simp only [execDenseTaskTake, hc, hworks, hs, hd, hx, hgood, Bool.not_true, Bool.false_eq_true, if_false]
  cases takeArray s1 t x <;> rfl

end Take

/-! ### The oldest folded block of an array (R91, R104) -/

section Oldest
variable {s s1 : State} {t : Tile} {a : Fin 4} {c : Cur} {n : Nat} {d : Da} (hc : curPhase s = some c)
  (hs : daResume s c t = s1) (hd : daOldest s1 t a = some (n, d))
include hc hs hd

/-- A whole task's block is finished, and its slot is released. -/
theorem exec_outputBlockFinish {l : State × List Lp} (hl : accRead s1 (.plan c.k) t n = l) : exec (.outputBlockFinish t a) s
    = .next (if dtPart d.task.bytes ≠ 1 then s1 else daRelease (finishLps l.1 c t d.task l.2) c t n) := by
  show execOutputBlockFinish .. = _
  simp only [execOutputBlockFinish, hc, hs, hd, hl]
  split <;> rfl

/-- A part's row pieces and its CLOSE go to the owner, and its slot is released. -/
theorem exec_splitkPartDone {l : State × List Lp} (hl : accRead s1 (.plan c.k) t n = l) : exec (.splitkPartDone t a) s
    = .next (if dtPart d.task.bytes = 1 then s1 else daRelease (sendFly l.1 c.k t (partPieces
        (denseOwner c.f t (dtSpot d.task.bytes)) (dtSpot d.task.bytes) l.2 (taskKbs c.f d.task.bytes).length
        (dtPart d.task.bytes))) c t n) := by
  show execSplitkPartDone .. = _
  simp only [execSplitkPartDone, hc, hs, hd, hl]
  split <;> rfl

end Oldest

/-! ### Owners, sheets and packed superblocks (R83, R101, R104) -/

section Tile
variable {s : State} {t : Tile} {c : Cur} (hc : curPhase s = some c)
include hc

theorem exec_splitkClose : exec (.splitkClose t) s = .next (splitFinish (takePieces c t 33 s) c t) := by
  show execSplitkClose .. = _
  rw [execSplitkClose, hc]

/-- A block that comes for another slot than its own is captured; the tile works on with it all the same. -/
theorem exec_sheetBlockArrive (hsheet : c.f.sheet = true) (hworks : tileWorks s c t = true) (north : Bool) (slot : BitVec 16)
    {want : Nat} (hwant : expectedSlot c.f t north (sheetKb c.f) = want) : exec (.sheetBlockArrive t north slot) s
    = .next (daResume (modPhase (if want = slot.toNat then s else slotErr s c t north want slot.toNat) c.k
        fun f => sheetTaken f t north) c t) := by
  show execSheetBlockArrive .. = _
  simp [execSheetBlockArrive, hc, hsheet, hworks, hwant]

theorem exec_packedSuperblockWrite {x : PackedBlk}
    (hx : c.f.packed.find? (fun x => x.tile == t.val && opEnded s c.f x.sel) = some x) :
    exec (.packedSuperblockWrite t) s = .next (packedWrite s c x) := by
  show execPackedSuperblockWrite .. = _
  simp only [execPackedSuperblockWrite, hc, hx]

end Tile

/-! ### Row gatherers (R105) -/

section Gather
variable {s : State} {d : Die} {g : Fin 16} {c : Cur}

/-- Rows that find a staging block-row free join those gathered, and launch at the fill count. -/
theorem gathAdd_of_free (hfree : heldLaunches s c d < 2) (rows : List (Nat × Bytes)) {x y : Gatherer} (hx : getGath s d g = x)
    (hy : { rows := x.rows ++ rows, since := if x.rows.isEmpty then s.time else x.since } = y) {s1 : State}
    (hs : modPhase (setGath s d g y) c.k (fun f => { f with gathOf := mapIns f.gathOf d g }) = s1) :
    gathAdd s c d g rows = if c.f.dense.gfill ≤ y.rows.length then gathLaunch s1 c d g else s1 := by
  subst hx hy hs
  simp only [gathAdd, if_neg (Nat.not_le.2 hfree)]

section Posting
variable {p : Posting} (hp : postingOk p = true) (hc : curPhase s = some c) (hopen : gathOpen c.f = true) (hd : d.val ∈ c.f.dies)
  (hg : gathOk c.f d g = true) (hfree : heldLaunches s c d < 2)
include hp hc hopen hd hg hfree

theorem exec_gatherPosting_fenced (hf : tileFenced s c.f.dense.gtile = true) :
    exec (.gatherPosting d g p) s = .next (fencedDrop s c.k (0xB00 + d.val) c.f.dense.gtile 1) := by
  show execGatherPosting .. = _
  simp [execGatherPosting, hp, hc, hopen, hd, hg, hfree, hf]

/-- The gathered rows launch first where the posting's find no room beside them. -/
theorem exec_gatherPosting_adds (hf : tileFenced s c.f.dense.gtile = false) {s1 : State}
    (hs : (if 32 < (getGath s d g).rows.length + p.rows.length then gathLaunch s c d g else s) = s1) {c1 : Cur}
    (hc1 : curOf s1 c.k = some c1) : exec (.gatherPosting d g p) s = .next (gathAdd s1 c1 d g p.rows) := by
  show execGatherPosting .. = _
  simp [execGatherPosting, hp, hc, hopen, hd, hg, hfree, hf, hs, hc1]

end Posting

/-- With a flush time set, rows that have been gathered for so long launch. -/
theorem exec_gatherFlushExpire (hc : curPhase s = some c) (hflush : c.f.dense.gflush ≠ 0) (hrows : (getGath s d g).rows ≠ []) :
    exec (.gatherFlushExpire d g) s
      = .next (if (getGath s d g).since + 1000 * c.f.dense.gflush ≤ s.time then gathLaunch s c d g else s) := by
  show execGatherFlushExpire .. = _
  simp only [execGatherFlushExpire, hc, hflush, List.isEmpty_eq_false_iff.2 hrows, ne_eq, not_false_eq_true, decide_true, Bool.not_false,
    Bool.and_self, Bool.true_and, decide_eq_true_eq]
  split <;> rfl

end Gather

/-! ### Partial blocks (R82) and late rounds (R367) -/

theorem exec_blockMerge {s : State} {w : World} {td : Bytes} {a b c d e : Nat} {els : List (Fin 1024 × BitVec 152)}
    (hlen : td.length = 64) (hok : tdOk (parseTd td) true false = true) (hpacked : (parseTd td).packed = false)
    (hlinear : (parseTd td).linear = false) : exec (.blockMerge w td [a, b, c, d, e] els) s
    = .next (mergeBlock s { w := w, ctx := phaseCtx s } (parseTd td) ⟨a, b, c, d, e⟩ (els.map fun e => (e.1.val, e.2.toNat))) := by
  show execBlockMerge .. = _
  simp [execBlockMerge, hlen, hok, hpacked, hlinear]

theorem exec_anchorRoundTimeout {s : State} {k : PlanKind} {c : Cur} (hc : curOf s k = some c) (g : Fin 64) :
    exec (.anchorRoundTimeout k g) s = .next (if roundLate s c g then failPlan s k stTimeout else s) := by
  show execAnchorRoundTimeout .. = _
  simp only [execAnchorRoundTimeout, hc]
  split <;> rfl

/-- Settles O51: a row's lemma above for each of its outcomes. -/
theorem denseWorkRuns : Obligations.DenseWorkRuns := by
  refine ⟨?takes, ?folded, ?tile, ?posting, ?flush, ?merge, ?round⟩
  case takes =>
    intro s t c d x hc hworks s1 hd hx
    have good := exec_denseTaskTake_good hc hworks rfl hd hx
    exact ⟨exec_denseTaskTake_bad hc hworks rfl hd hx, fun hgood hnone => by rw [good hgood, hnone]; rfl,
      fun a hgood hstart => by rw [good hgood, hstart]; rfl, fun a hgood hreserve => by rw [good hgood, hreserve]; rfl⟩
  case folded =>
    intro s t a c n d hc s1 release l hd
    have finish := exec_outputBlockFinish hc rfl hd rfl
    have part := exec_splitkPartDone hc rfl hd rfl
    exact ⟨fun hwhole => ⟨by rw [finish, if_neg (not_not_intro hwhole)]; rfl, by rw [part, if_pos hwhole]⟩,
      fun hpart => ⟨by rw [part, if_neg hpart]; rfl, by rw [finish, if_pos hpart]⟩⟩
  case tile =>
    intro s t c hc
    refine ⟨exec_splitkClose hc, fun north slot hsheet hworks => ?arrives, fun x => exec_packedSuperblockWrite hc⟩
    intro want take
    have arrive := exec_sheetBlockArrive hc hsheet hworks north slot rfl
    exact ⟨fun heq => by rw [arrive, if_pos heq], fun hne => by rw [arrive, if_neg hne]⟩
  case posting =>
    intro s d g p c hp hc hopen hd hg hfree
    refine ⟨exec_gatherPosting_fenced hp hc hopen hd hg hfree, fun hf hroom c1 hc1 hfree1 => ?room,
      fun hf hfull _ => exec_gatherPosting_adds hp hc hopen hd hg hfree hf (if_pos hfull)⟩
    intro x y s1
    have adds := exec_gatherPosting_adds hp hc hopen hd hg hfree hf (if_neg (Nat.not_lt.2 hroom)) hc1
    rw [gathAdd_of_free hfree1 p.rows rfl rfl rfl] at adds
    exact ⟨fun hless => adds.trans (by rw [if_neg (Nat.not_le.2 hless)]), fun hfill => adds.trans (by rw [if_pos hfill])⟩
  case flush =>
    intro s d g c hc hflush hrows
    have flush := exec_gatherFlushExpire hc hflush hrows
    exact ⟨fun hlate => by rw [flush, if_pos hlate], fun hearly => by rw [flush, if_neg (Nat.not_le.2 hearly)]⟩
  case merge => exact fun s w td a b c d e els => exec_blockMerge
  case round =>
    intro s k g c hc
    have late := exec_anchorRoundTimeout hc g
    exact ⟨fun hlate => by rw [late, if_pos hlate], fun hin => by rw [late, if_neg (ne_true_of_eq_false hin)]⟩

end Sys2Proof.Machine
end

section
/-! PROOFS. The gather and merge engine: taking a task (R132, R134), contributions and owners (R119 to R121), and the two rows
that all producers of an operation wait for (R120, R126). -/

namespace Sys2Proof.Machine

/-! ### Taking tasks (R132, R134) -/

/-- No task that the tile holds waits, for a ready bit or for a GROUP round: the GME is free to take the next one. -/
def GmeFree (f : PhaseRun) (t : Nat) : Prop :=
  ∀ h ∈ f.gmeHeld, h.tile = t → h.waits = false ∧ (gtOp h.task.bytes = 0x01 → gtPart h.task.bytes = true)

theorem GmeFree.heldWait_eq_none {f : PhaseRun} {t : Nat} (hfree : GmeFree f t) : heldWait f t = none := by
  rw [heldWait, List.find?_eq_none]
  intro h hmem
  by_cases htile : h.tile = t
  · simp [(hfree h hmem htile).1]
  · simp [htile]

theorem GmeFree.find?_heldGroup {f : PhaseRun} {t : Nat} (hfree : GmeFree f t) :
    f.gmeHeld.find? (fun h => h.tile == t && heldGroup h) = none := by
  rw [List.find?_eq_none]
  intro h hmem
  by_cases htile : h.tile = t
  · have hpart := (hfree h hmem htile).2
    by_cases hop : gtOp h.task.bytes = 0x01
    · simp [heldGroup, hpart hop]
    · simp [heldGroup, hop]
  · simp [htile]

/-- What a free GME does with the next task of its list, for a row of operation code `op`. -/
theorem gmeTake_of_headTask {s : State} {t : Nat} {c0 c : Cur} {x : Task} (hc : curPhase s = some c0)
    (hg : { c0 with sel := .gme } = c) (hworks : tileWorks s c t = true) (hfree : GmeFree c0.f t)
    (hx : headTask s c0.f .gme t = some x) (op : Nat) (run : State → Cur → Task → State) :
    gmeTake s t op run
      = if gtOp x.bytes ≠ op then s
        else if gmeBad c x = true then gmeFail (popTask s c.k .gme x) c.k t 3 x.bytes
        else if gmeDescOk c.f x.bytes = false then failPlan s c.k stBadDescriptor
        else if gmeReady s c x.bytes = false then modPhase (popTask s c.k .gme x) c.k fun g =>
          { g with gmeHeld := g.gmeHeld ++ [{ tile := t, task := x, waits := true }] }
        else (curOf (popTask s c.k .gme x) c.k).elim (popTask s c.k .gme x) fun d =>
          run (popTask s c.k .gme x) { d with sel := .gme } x := by
  subst hg
  simp only [gmeTake, hc, hworks, hfree.heldWait_eq_none, hx, Bool.not_true, Bool.not_eq_true', Bool.false_eq_true, if_false]
  cases curOf (popTask s c0.k .gme x) c0.k <;> rfl

/-- The rows that take tasks, each with its operation code and what runs a task of that code. -/
def gmeRows (t : Tile) : List (Nat × Instr × (State → Cur → Task → State)) :=
  [(0x01, .gmeSpprod t, gmeSpRun t), (0x02, .gmeGather t, gmeGatherRun t), (0x03, .gmeScatter t, gmeScatterRun t),
    (0x04, .gmeScatterAcc t, gmeAccRun t), (0x05, .gmeSegsum t, gmeAccRun t), (0x06, .gmeRaggedCat t, gmeRaggedRun t),
    (0x07, .gmeSortKey t, gmeSortRun t), (0x08, .gmeMergeKey t, gmeMergeRun t), (0x09, .gmeTopk t, gmeTopkRun t)]

/-- GME_SPPROD first resumes a product that waits for its GROUP round; a free GME has none. -/
theorem exec_gmeSpprod {s : State} {t : Tile} {c : Cur} (hc : curPhase s = some c) (hfree : GmeFree c.f t) :
    exec (.gmeSpprod t) s = .next (gmeTake s t 0x01 (gmeSpRun t)) := by
  show execGmeSpprod .. = _
  simp only [execGmeSpprod, hc, hfree.find?_heldGroup]

theorem exec_gmeRow {s : State} {t : Tile} {c : Cur} (hc : curPhase s = some c) (hfree : GmeFree c.f t)
    {q : Nat × Instr × (State → Cur → Task → State)} (hq : q ∈ gmeRows t) : exec q.2.1 s = .next (gmeTake s t q.1 q.2.2) := by
  simp only [gmeRows, List.mem_cons, List.not_mem_nil, or_false] at hq
  obtain rfl | rfl | rfl | rfl | rfl | rfl | rfl | rfl | rfl := hq
  · exact exec_gmeSpprod hc hfree
  all_goals rfl

/-! ### Contributions and owners (R119 to R121) -/

/-- An owner finishes a block unless it is finished already, or its plan has ended meanwhile. -/
def ownerFinishSpot (k : PlanKind) (t : Nat) (s : State) (x : Bytes × Spot) : State :=
  match curOf s k with
  | some d => if d.f.fin.contains x.2 then s else ownerFinishBlock s d t x.1 x.2
  | none => s

section Owner
variable {s : State} {t : Tile} {c : Cur} (hc : curPhase s = some c)
include hc

theorem exec_ownerContribution {x : Contrib} (hx : nextFor c.f .gme t = some x) :
    exec (.ownerContribution t) s = .next (ownerTake s { c with sel := .gme } t x) := by
  show execOwnerContribution .. = _
  simp only [execOwnerContribution, hc, hx]

theorem exec_ownerFinish_open (hopen : gmeClosed c.f = false) : exec (.ownerFinish t) s = .next s := by
  show execOwnerFinish .. = _
  simp [execOwnerFinish, hc, hopen]

variable (hclosed : gmeClosed c.f = true)
include hclosed

theorem exec_ownerFinish_closed (hwhole : tileFenced s t = false) :
    exec (.ownerFinish t) s = .next ((ownSpots c.f t).foldl (ownerFinishSpot c.k t) s) := by
  show execOwnerFinish .. = _
  simp only [execOwnerFinish, hc, hclosed, hwhole, Bool.not_true, Bool.false_eq_true, if_false]
  rfl

/-- A fenced owner with blocks left is missed, once, unless the plan fails at once already (R305). -/
theorem exec_ownerFinish_fenced (hfenced : tileFenced s t = true) : exec (.ownerFinish t) s
    = .next (if c.p.atOnce = true ∨ ownSpots c.f t = [] then s else fencedDrop s c.k (0xB00 + tileDie t) t 1) := by
  show execOwnerFinish .. = _
  simp [execOwnerFinish, hc, hclosed, hfenced]

end Owner

/-! ### What all producers of an operation close (R120, R126) -/

section Close
variable {s : State} {k : PlanKind} {c : Cur} (hc : curOf s k = some c)
include hc

/-- The anchor pass ends once no producer is left to take, to wait or on its way. -/
theorem exec_anchorPassClose {hs : List GmeHeld} (hhs : c.f.gmeHeld.filter heldAcc = hs) (hsome : hs ≠ []) (hq : c.f.gmeQ = [])
    (hwait : ∀ h ∈ c.f.gmeHeld, h.waits = false) (hfly : ∀ x ∈ c.f.fly, x.sel ≠ .gme) : exec (.anchorPassClose k) s
      = .next (accSecond hs { c with sel := .gme }
          (modPhase s k fun f => { f with pass2 := true, gmeHeld := f.gmeHeld.filter fun h => !heldAcc h })) := by
  have hnone : (hs.isEmpty || !c.f.gmeQ.isEmpty || c.f.gmeHeld.any GmeHeld.waits || c.f.fly.any fun x => x.sel == .gme) = false := by
    simpa [hsome, hq] using ⟨hwait, hfly⟩
  show execAnchorPassClose .. = _
  simp only [execAnchorPassClose, hc, hhs, hnone, Bool.false_eq_true, if_false]

/-- With every part there, all are scanned and each runs its segment between the cuts. -/
theorem exec_partCutsReady {hs : List GmeHeld} {h : GmeHeld} (hhs : c.f.gmeHeld.filter heldPart = hs) (hhead : hs.head? = some h)
    (hall : ∀ p < gtHi h.task.bytes, ∃ q ∈ hs, gtLo q.task.bytes = p) {sc : State × List (Nat × Nat × Nat)}
    (hsc : scanAll { c with sel := .gme } (gViewA c.f h.task.bytes) (gtHi h.task.bytes) hs s = sc) : exec (.partCutsReady k) s
      = .next (modPhase (hs.foldl (fun s q => segRun s { c with sel := .gme } (withOrdinals sc.2 0)
          (sc.2.map fun p => p.2.2).sum q) sc.1) k fun f => { f with gmeHeld := f.gmeHeld.filter fun q => !heldPart q }) := by
  have hthere : ((upTo (gtHi h.task.bytes)).all fun p => hs.any fun q => gtLo q.task.bytes == p) = true := by
    simpa [upTo] using hall
  show execPartCutsReady .. = _
  simp only [execPartCutsReady, hc, hhs, hhead, hthere, hsc, Bool.not_true, Bool.false_eq_true, if_false]

end Close

/-- Settles O52: every row of a task code takes as `gmeTake` does, and each outcome of the others has its lemma above. -/
theorem gmeWorkRuns : Obligations.GmeWorkRuns := by
  refine ⟨?tasks, ?owners, ?anchors, ?parts⟩
  case tasks =>
    intro s t c0 x hc hworks hx hfree c rows q hq
    rw [exec_gmeRow hc hfree hq]
    have takes := gmeTake_of_headTask hc rfl hworks hfree hx q.1 q.2.2
    refine ⟨fun hop => ?other, fun hop => ⟨fun hbad => ?bad, fun hgood hdesc => ?formats, fun hgood hdesc hready d hd => ?runs,
      fun hgood hdesc hready => ?held⟩⟩ <;> refine congrArg Host.Outcome.next (takes.trans ?_)
    case other => rw [if_pos hop]
    all_goals rw [if_neg (not_not_intro hop)]
    case bad => rw [if_pos hbad]
    all_goals rw [if_neg (ne_true_of_eq_false hgood)]
    case formats => rw [if_pos hdesc]
    all_goals rw [if_neg (ne_false_of_eq_true hdesc)]
    case runs => rw [if_neg (ne_false_of_eq_true hready), hd]; rfl
    case held => rw [if_pos hready]
  case owners =>
    intro s t c hc
    refine ⟨fun x => exec_ownerContribution hc, exec_ownerFinish_open hc, exec_ownerFinish_closed hc,
      fun hclosed hfenced honce hleft => ?fenced⟩
    case fenced => rw [exec_ownerFinish_fenced hc hclosed hfenced, if_neg (by simp [honce, hleft])]
  case anchors => exact fun s k c hc => exec_anchorPassClose hc rfl
  case parts =>
    intro s k c0 h hc hhead c hs hall
    exact exec_partCutsReady hc rfl hhead hall rfl

end Sys2Proof.Machine
end

section
/-! PROOFS. The vector engine: a word of a kernel runs where it is the VE's next, and what the element-wise, transcendental,
lane and move words leave (R137 to R144). -/

namespace Sys2Proof.Machine

/-! ### A word at its place in the kernel (R141, R142) -/

section VeWords
variable {s : State} {t : Tile} {x : VeWord} {y : Task} {c : Cur} (hprec : x.prec.val ≠ 7) (hrnd : x.rnd.val ≠ 3)
  (htask : (getVe s t).task = some y) (hcur : curOf s (getVe s t).k = some c) (hxch : (getVe s t).xch = none)
include hprec hrnd htask hcur hxch

/-- A VE at work runs the word that its instruction pointer is at, and no other. -/
theorem veRun_atWork (opc : Nat) (f : State → VeAt → State) : veRun s t opc x f
    = .next (if (vtCode c.f y.bytes).words[(getVe s t).ip]? = some (vwWord opc x)
        then f s { c := { c with sel := .ve }, v := getVe s t, x := y, t := t } else s) := by
  have hcodes : (x.prec.val = 7 || x.rnd.val = 3) = false := by simp [hprec, hrnd]
  simp only [veRun, hcodes, htask, hcur, hxch, Option.isSome_none, Bool.false_or, Bool.false_eq_true, if_false]
  by_cases hword : (vtCode c.f y.bytes).words[(getVe s t).ip]? = some (vwWord opc x) <;> simp [hword]

/-- What a row whose operands `ok` checks does with a VE at work: `f` where its word is the next one, nothing where another is,
and a refusal where the check fails. -/
theorem exec_veRow_atWork {opc : Nat} {row : Instr} {ok : Bool} {f : State → VeAt → State} {done : State}
    (hrow : exec row s = if !ok then .refused .illFormed else veRun s t opc x f)
    (hdone : f s { c := { c with sel := .ve }, v := getVe s t, x := y, t := t } = done) :
    ((vtCode c.f y.bytes).words[(getVe s t).ip]? = some (vwWord opc x) → ok = true → exec row s = .next done)
      ∧ ((vtCode c.f y.bytes).words[(getVe s t).ip]? ≠ some (vwWord opc x) → ok = true → exec row s = .next s)
      ∧ (ok = false → exec row s = .refused .illFormed) := by
  rw [veRun_atWork hprec hrnd htask hcur hxch, hdone] at hrow
  refine ⟨fun hword hok => ?here, fun hword hok => ?elsewhere, fun hok => ?shape⟩
  case here => simpa only [hok, hword, if_true, Bool.not_true, Bool.false_eq_true, if_false] using hrow
  case elsewhere => simpa only [hok, hword, if_false, Bool.not_true, Bool.false_eq_true] using hrow
  case shape => simpa only [hok, Bool.not_false, if_true] using hrow

end VeWords

/-- Settles O53: every row is its group's operand check before `veRun`, and a VE at work runs the word it is at. -/
theorem veElementsCompute : Obligations.VeElementsCompute := by
  intro s t x y c0 hprec hrnd htask hcur hxch a d turn one draw elem trans lanes s1 s2 s3 im
  have atWork {opc : Nat} {row : Instr} {ok : Bool} {f : State → VeAt → State} {done : State}
      (hrow : exec row s = if !ok then .refused .illFormed else veRun s t opc x f) (hdone : f s a = done) :
      turn opc row ok done := exec_veRow_atWork hprec hrnd htask hcur hxch hrow hdone
  have elementWise {opc : Nat} {row : Instr} {srcs : List Nat} {f : List Val → Val}
      (hrow : exec row s = veElem s t opc x srcs f) : elem opc row srcs f := atWork hrow rfl
  have transcendental {opc : Nat} {row : Instr} {f : Nat → Nat}
      (hrow : exec row s = veTrans s t opc x f) : trans opc row f := atWork hrow rfl
  have kernelLanes {opc : Nat} {row : Instr} {srcs : List Nat} (f : Kernel → Nat → Nat × Nat)
      (hrow : exec row s = veLanes s t opc x srcs f) : lanes opc row srcs (f (vtCode a.c.f y.bytes)) := by
    rw [veLanes, ← Bool.not_and] at hrow
    exact atWork hrow rfl
  have fixedLanes {opc : Nat} {row : Instr} {srcs : List Nat} {f : Nat → Nat × Nat}
      (hrow : exec row s = veLanes s t opc x srcs fun _ => f) : lanes opc row srcs f := kernelLanes (fun _ => f) hrow
  -- From here the groups are known by the lemmas above alone, so that no row unfolds them.
  clear_value turn one elem trans lanes
  refine ⟨?add, ?sub, ?mul, ?fma, ?max, ?min, ?abs, ?neg, ?cvt, ?cmplt, ?cmpeq, ?sel, ?exp, ?log, ?rsqrt, ?tanh, ?rcp,
    ?perm, ?shuf, ?pack, ?unpack, ?trb, ?mov⟩
  case add | sub | mul | fma | max | min | abs | neg | cvt | cmplt | cmpeq | sel => exact elementWise rfl
  case exp | log | rsqrt | tanh | rcp => exact transcendental rfl
  case perm => exact kernelLanes (fun k n => (s1, n / 64 * 64 + (k.perms.getD (im % 16) []).getD (n % 64) 0)) rfl
  case shuf | pack | unpack | trb => exact fixedLanes rfl
  case mov =>
    have hrow : exec (.mov t x) s = execMov t x s := rfl
    rw [execMov] at hrow
    exact atWork hrow (apply_ite (veRetire s a) ..).symm

end Sys2Proof.Machine
end

section
/-! PROOFS. Ring copies: a copy at its turn whose descriptors are here and pass every check enters the table and starts or is
held (R162 to R168), and a copy of the table starts by its own row (R173, R174). -/

namespace Sys2Proof.Machine

/-! ### Acceptance (R162, R163, R166) -/

/-- The entry of the table that command k makes with operands c and plan ov for its overlap. -/
def copyEntry (k : Issued) (c : CopyOp) (a d : Td) (i : Option Td) (ov : OvPlan) : CopyRun :=
  { iid := k.iid, world := k.world, op := c, src := a, dst := d, idx := i, bounce := k.bounce,
    staged := ov == .staged, bounced := ov == .bounced }

/-- A new entry stands in the table. -/
def addCopy (s : State) (r : CopyRun) : State := { s with seq := { s.seq with copies := s.seq.copies ++ [r] } }

/-- A copy that passes its checks enters the table, and starts unless something holds it there. -/
theorem copyAccept_of_checks {s : State} {k : Issued} {c : CopyOp} {a d : Td} {i : Option Td} {ov : OvPlan} {r : CopyRun}
    (hov : overlapPlan s k.world c a d k.bounce (copyXtiles c) = ov) (hr : copyEntry k c a d i ov = r)
    (hchecks : copyChecks s k c a d i = stOk) (hpeer : copyPeerStatus s c a d = stOk) (hfits : ∀ st, ov ≠ .refuse st)
    (hwhole : c.kind = 3 ∨ copyPartial c a d [] = false) :
    copyAccept s k c a d i = if copyHeld (addCopy s r) r then addCopy s r else copyStart (addCopy s r) r := by
  have hpacked : (decide (c.kind ≠ 3) && copyPartial c a d []) = false := by
    rcases hwhole with hscatter | hfull
    · simp [hscatter]
    · simp [hfull]
  subst hr
  unfold copyAccept
  rw [if_neg (not_not_intro hchecks), if_neg (not_not_intro hpeer), hov, hpacked]
  cases ov with
  | refuse st => exact absurd rfl (hfits st)
  | direct | staged | bounced => rfl

/-! ### The copy rows (R162, R164, R173) -/

/-- The three copy rows are one operation, which acts on a command of the row's own code. -/
theorem exec_copyRow {s : State} {iid : Nat} {k : Issued} {row : Instr}
    (hrow : (k.op = 0x10 ∧ row = .copyIn iid) ∨ (k.op = 0x11 ∧ row = .copyOut iid) ∨ (k.op = 0x12 ∧ row = .copyDev iid)) :
    exec row s = .next (copyRow s iid k.op) := by
  rcases hrow with ⟨hop, rfl⟩ | ⟨hop, rfl⟩ | ⟨hop, rfl⟩ <;> rw [hop] <;> rfl

/-- A copy at its turn goes on to its checks once its descriptors, with that of an index list, have come. -/
theorem copyRow_of_fetched {s : State} {iid : Nat} {k : Issued} {c : CopyOp} {a d : Bytes} {i : Option Td}
    (hk : getIssued s iid = some k) (hc : parseCopy k.ops = c) (hturn : copyTurn s iid = true)
    (hnew : ∀ e ∈ s.seq.copies, e.iid ≠ iid) (hfields : copyFieldsOk c = true) (halign : c.src % 64 = 0)
    (hsrc : fetchTd s k c.src = (s, .ok a)) (hdst : fetchTd s k c.dst = (s, .ok d))
    (hidx : (c.idx = 0 ∧ i = none) ∨ (c.idx ≠ 0 ∧ ∃ b, fetchTd s k c.idx = (s, .ok b) ∧ i = some (parseTd b))) :
    copyRow s iid k.op = copyAccept s k c (parseTd a) (parseTd d) i := by
  have hturn' : ¬(decide (k.op ≠ k.op) || !copyTurn s iid) = true := by simp [hturn]
  have hnew' : ¬(s.seq.copies.any fun e => e.iid == iid) = true := by simpa using hnew
  have hops : ¬(!copyFieldsOk c || c.src % 64 != 0) = true := by simp [hfields, halign]
  subst hc
  unfold copyRow
  simp only [hk, if_neg hturn', if_neg hnew', if_neg hops, hsrc, hdst]
  rcases hidx with ⟨hnone, rfl⟩ | ⟨hsome, b, hfetch, rfl⟩
  · rw [if_pos hnone]
  · rw [if_neg hsome, hfetch]

/-! ### A copy of the table (R173, R174) -/

theorem exec_heldCopyStart {s : State} {iid : Nat} {r : CopyRun} (hr : s.seq.copies.find? (fun e => e.iid == iid) = some r) :
    exec (.heldCopyStart iid) s = .next (if r.running || copyHeld s r then s else copyStart s r) := by
  show Host.Outcome.next (copyTry s iid) = _
  simp only [copyTry, hr]

/-- Settles O20: the row of a copy whose fetches are in is its acceptance, which holds the new entry or starts it; the row of a
held copy is the start of its entry. -/
theorem ringCopiesRun : Obligations.RingCopiesRun := by
  intro s iid k a d i row hk hrow
  refine ⟨?issued, ?table⟩
  case issued =>
    intro c ov r s1 hturn hnew hfields halign hsrc hdst hidx hchecks hpeer hfits hwhole
    have enters : exec row s = .next (if copyHeld s1 r then s1 else copyStart s1 r) := by
      rw [exec_copyRow hrow, copyRow_of_fetched hk rfl hturn hnew hfields halign hsrc hdst hidx]
      exact congrArg _ (copyAccept_of_checks rfl rfl hchecks hpeer hfits hwhole)
    exact ⟨fun hfree => by rw [enters, if_neg (ne_true_of_eq_false hfree)], fun hheld => by rw [enters, if_pos hheld]⟩
  case table =>
    intro r hr
    refine ⟨fun hidle hfree => ?starts, fun hstays => ?left⟩
    case starts => rw [exec_heldCopyStart hr, hidle, hfree]; rfl
    case left => rw [exec_heldCopyStart hr, if_pos (Bool.or_eq_true_iff.2 hstays)]

end Sys2Proof.Machine
end

section
/-! PROOFS. Table loads (R336, R501): a load that something holds is held, and one whose records are here and pass their checks is
stored. -/

namespace Sys2Proof.Machine

section Load
variable {s : State} {iid kind : Nat} {c : Issued} {held : State → Issued → Bool} {status : State → Issued → List (Nat × Bytes) → Nat}
  {load : State → Issued → List (Nat × Bytes) → State}
  (hc : getIssued s iid = some c) (hop : c.op = 0x0050) (hok : ltOk c.ops = true) (hkind : ltKind c.ops = kind)
include hc hop hok hkind

/-- A load that a running plan or an older load stands in the way of is held. -/
theorem loadRow_of_held (hheld : held s c = true ∨ olderHeld s iid [0x0050] = true) : loadRow s iid kind held status load = holdCmd s iid := by
  simp [loadRow, hc, hop, hok, hkind, hheld]

/-- One that nothing holds, with its records here and good, is loaded. -/
theorem loadRow_of_good (hfree : held s c = false) (hfirst : olderHeld s iid [0x0050] = false) {n len : Nat} {bs : Bytes}
    (hshape : tableShape kind = some (n, len))
    (hread : hostRead (unholdCmd s iid) c.world (.cmd iid) (ltAddr c.ops) (len * ltCount c.ops) = (unholdCmd s iid, .ok bs))
    (hgood : status (unholdCmd s iid) c ((ltNums c.ops).zip (entries bs 0 (ltCount c.ops) len)) = stOk) :
    loadRow s iid kind held status load
      = complete (load (unholdCmd s iid) c ((ltNums c.ops).zip (entries bs 0 (ltCount c.ops) len))) iid stOk := by
  simp [loadRow, hc, hop, hok, hkind, hfree, hfirst, hshape, hread, hgood]

end Load

/-- Settles O21: each of the six rows is a load of its own kind, with the record length of its table. -/
theorem tableLoadsTakeEffect : Obligations.TableLoadsTakeEffect := by
  intro s iid c bs hc hop hok go
  have row {r : Instr} {kind n len : Nat} {held : State → Issued → Bool} {status : State → Issued → List (Nat × Bytes) → Nat}
      {load : State → Issued → List (Nat × Bytes) → State} (hrow : exec r s = .next (loadRow s iid kind held status load))
      (hshape : tableShape kind = some (n, len)) : go r kind len (held s c) status load := fun hkind =>
    ⟨fun hheld => hrow.trans (congrArg _ (loadRow_of_held hc hop hok hkind hheld)),
      fun hfree hfirst hread hgood => hrow.trans (congrArg _ (loadRow_of_good hc hop hok hkind hfree hfirst hshape hread hgood))⟩
  exact ⟨row (held := fun s c => (plans s).any fun p => (ltNums c.ops).any fun n => p.nCtxs.contains n) rfl rfl,
    row (held := fun s c => (ltNums c.ops).any (regionInUse s)) rfl rfl,
    row (held := fun s c => (plans s).any fun p => p.nBanks.contains (ltBank c.ops)) rfl rfl, row (held := fun _ _ => false) rfl rfl,
    row (held := fun s c => (plans s).any fun p => (ltNums c.ops).any fun n => p.nGroups.contains n) rfl rfl,
    row (held := fun _ _ => false) rfl rfl⟩

end Sys2Proof.Machine
end

section
/-! PROOFS. The router frames that the part makes, and the checks of their receiver (R188, R358). -/

namespace Sys2Proof.Machine

theorem xorWords_lt (n : Nat) (bs : Bytes) : xorWords n bs < 2 ^ 32 := by
  induction n generalizing bs with
  | zero => exact Nat.two_pow_pos 32
  | succ n ih =>
    have hword : fld bs 0 4 < 2 ^ 32 := by simpa [fld] using leNat_lt (slice bs 0 4)
    exact Nat.xor_lt_two_pow hword (ih _)

/-- Of a frame sealed with its own parity, the receiver has the other fields to check. -/
theorem frameGood_sealed (f : Frame) : frameGood { f with hpar := BitVec.ofNat 32 (xorWords 15 (frameHead f)) }
    = (f.pres.toNat == residue f.payload && f.plen.toNat == f.payload.length && f.attempt.toNat / 8 == 0
        && f.ticket.toNat / 2 ^ 17 == 0 && zeros f.rsvd 0 15) := by
  have hparity : (BitVec.ofNat 32 (xorWords 15 (frameHead f))).toNat = xorWords 15 (frameHead f) :=
    Nat.mod_eq_of_lt (xorWords_lt ..)
  show ((BitVec.ofNat 32 (xorWords 15 (frameHead f))).toNat == xorWords 15 (frameHead f) && f.pres.toNat == residue f.payload
    && f.plen.toNat == f.payload.length && f.attempt.toNat / 8 == 0 && f.ticket.toNat / 2 ^ 17 == 0 && zeros f.rsvd 0 15) = _
  rw [hparity, beq_self_eq_true, Bool.true_and]

/-- A frame that this device makes passes exactly where its ticket lies within the 17 bits that the ticket field has. -/
theorem frameGood_mkFrame_iff (s : State) (c : Cur) (typ ctx fmt dst expert loc first count h ticket : Nat) {pay : Bytes}
    (hpay : pay.length < 2 ^ 32) :
    frameGood (mkFrame s c typ ctx fmt dst expert loc first count h ticket pay) = true ↔ ticket % 2 ^ 32 < 2 ^ 17 := by
  have hattempt : c.p.attempt % 8 % 2 ^ 8 / 8 = 0 := by omega
  have hres : residue pay % 2 ^ 8 = residue pay := by unfold residue; omega
  have hrsvd : zeros (zeroBytes 15) 0 15 = true := by decide
  rw [mkFrame, frameGood_sealed]
  simp only [BitVec.toNat_ofNat, hres, hattempt, hrsvd, Nat.mod_eq_of_lt hpay, beq_self_eq_true, Bool.true_and, Bool.and_true,
    beq_iff_eq, Nat.div_eq_zero_iff]
  omega

/-- Refutes O57: the statement bounds no ticket. A RETURN frame with an empty payload that is made with ticket 2^17, one beyond
the last, fails its receiver's checks, for the ticket field's bits 31:17 are reserved. -/
theorem not_sentPacketsPassChecks : ¬ Obligations.SentPacketsPassChecks := by
  intro h
  obtain ⟨-, hframes⟩ := h
  let c : Cur := { k := .training, p := sendEpochs.blank, f := sendEpochs.blankF }
  have hempty : ([] : Bytes).length < 2 ^ 32 := by decide
  obtain ⟨hgood, -⟩ := hframes .reset c 0x02 0 0 0 0 0 0 0 0 (2 ^ 17) [] hempty
  exact absurd ((frameGood_mkFrame_iff .reset c 0x02 0 0 0 0 0 0 0 0 (2 ^ 17) hempty).1 hgood) (by decide)

end Sys2Proof.Machine
end

section
/-! PROOFS. The parts of the state that a completion entry leaves alone (R338). -/

namespace Sys2Proof.Machine

/-- A part of the state that depends on none of the fields that a completion entry reaches on its way to the host: it counts events
and fires sources, and it changes queues, links, their injectors and the part's outputs and view of host memory. -/
structure ApartFromLinks {β : Type} (part : State → β) : Prop where
  regs : ∀ s x, part { s with regs := x } = part s
  waiting : ∀ s x, part { s with waiting := x } = part s
  host : ∀ s x, part { s with host := x } = part s
  hqe : ∀ s x, part { s with hqe := x } = part s
  lhl : ∀ s x, part { s with lhl := x } = part s
  ports : ∀ s x, part { s with ports := x } = part s
  plat : ∀ s x, part { s with plat := x } = part s
  fij : ∀ s x, part { s with fij := x } = part s
  rasSum : ∀ s x, part { s with rasSum := x } = part s
  out : ∀ s x, part { s with out := x } = part s

namespace ApartFromLinks

variable {β : Type} {part : State → β} (h : ApartFromLinks part) (s : State)
include h

theorem wr (n : RegName) (i j v : Nat) : part (s.wr n i j v) = part s := h.regs s _
theorem wrf (n : RegName) (i j hi lo v : Nat) : part (s.wrf n i j hi lo v) = part s := h.wr s n i j _
theorem cntAdd (n : RegName) (i j k : Nat) : part (cntAdd s n i j k) = part s := h.wr s n i j _
theorem emit (o : Output) : part (emit s o) = part s := h.out s _
theorem setRing (n : Nat) (r : Ring) : part (setRing s n r) = part s := h.hqe s _

theorem setLink (i : LinkId) (l : Link) : part (setLink s i l) = part s := by
  cases i with
  | lhl => exact h.lhl s _
  | port p => exact h.ports s _

/-! ### Events -/

theorem wakeWhite : part (wakeWhite s) = part s := by
  unfold Machine.wakeWhite; split_ifs
  · rfl
  · exact h.plat s _
  · exact h.wrf ..

theorem wakeWatched (n : Nat) : part (wakeWatched s n) = part s := (h.wakeWhite _).trans (h.wr ..)

theorem evcTakeWaiting (n : Nat) : part (evcTakeWaiting s n) = part s := by
  unfold Machine.evcTakeWaiting; split
  · rfl
  · exact (h.waiting _ _).trans (h.wr ..)

theorem evcFire (n tag : Nat) : part (evcFire s n tag) = part s := by
  simp only [Machine.evcFire]; split_ifs <;> simp only [h.wakeWhite, h.wakeWatched, h.wr, h.evcTakeWaiting]

theorem rasWatch (c inc : Nat) : part (rasWatch s c inc) = part s := by
  simp only [Machine.rasWatch]; split_ifs
  · rw [h.evcFire, h.wr, h.rasSum]
  · exact h.rasSum s _
  · rfl

theorem rasBump (cls d k : Nat) : part (rasBump s cls d k) = part s := by
  simp only [Machine.rasBump]; split_ifs
  · rfl
  · rw [h.rasWatch, h.wr]

/-! ### Sends over a link -/

theorem injStep (inj d : Nat) : part (injStep s inj d).1 = part s := by
  simp only [Machine.injStep]; split_ifs <;> simp only [h.rasBump, h.cntAdd, h.fij]

theorem injected (inj d first len : Nat) (crc : Bytes → Bytes) (body : Bytes) :
    part (injected s inj d first len crc body).1 = part s := by
  simp only [Machine.injected]; repeat' split
  all_goals exact h.injStep ..

theorem flitOut (i : LinkId) (kind seq : Nat) (payload : Bytes) : part (flitOut s i kind seq payload) = part s := by
  simp only [Machine.flitOut]; repeat' split
  all_goals simp only [h.emit, h.setLink, h.injected]

theorem linkCount (i : LinkId) (k n : Nat) : part (linkCount s i k n) = part s := by cases i <;> exact h.cntAdd ..

theorem refill (i : LinkId) (n : Nat) : part (refill s i n) = part s := by
  fun_induction Machine.refill s i n with
  | case1 | case2 | case4 => rfl
  | case3 s n l f fs hw hc s' ih => rw [ih, h.flitOut, h.linkCount, h.setLink]

theorem wentOut (i : LinkId) (m : TxMsg) : part (wentOut s i m) = part s := by
  unfold Machine.wentOut; repeat' split
  · exact h.host s _
  all_goals simp only [h.emit, h.cntAdd]

theorem pump (i : LinkId) (n : Nat) : part (pump i n s) = part s := by
  induction n generalizing s with
  | zero => rfl
  | succ n ih =>
    simp only [Machine.pump]; repeat' split
    all_goals simp only [ih, h.refill, h.wentOut, h.setLink]

theorem linkSend (i : LinkId) (ms : List TxMsg) : part (linkSend s i ms) = part s := by
  simp only [Machine.linkSend, pumpAll, h.pump, h.refill, h.setLink]

/-! ### Completion entries -/

theorem signalRing (n : Nat) (irq : Bool) : part (signalRing s n irq) = part s := by
  simp only [Machine.signalRing, sendIntr]; split_ifs <;> simp only [h.linkSend, h.cntAdd, h.setRing]

theorem putCpl (c : Cpl) : part (putCpl s c) = part s := by
  unfold Machine.putCpl; split
  · exact h.hqe s _
  · simp only [putEntry, hostWrite, h.cntAdd, h.signalRing, h.setRing, h.linkSend]

/-- A command that completes leaves such a part, if dropping an issued command does. -/
theorem complete (hdrop : ∀ s i, part (dropIssued s i) = part s) (iid status : Nat) : part (complete s iid status) = part s := by
  unfold Machine.complete completeInfo; repeat' split
  all_goals simp only [h.putCpl, hdrop]

end ApartFromLinks

@[simp] theorem complete_tkr (s : State) (iid status : Nat) : (complete s iid status).tkr = s.tkr := by
  have htkr : ApartFromLinks State.tkr := by constructor <;> exact fun _ _ => rfl
  exact htkr.complete s (fun _ _ => rfl) iid status

end Sys2Proof.Machine
end

section
/-! PROOFS. Step answers and cancelled batches (R178, R195 to R197, R416). -/

namespace Sys2Proof.Machine

/-! ### Answers of a step (R195, R196) -/

/-- The step that an answer is for is over, or runs and has taken its answer already. -/
def Answer.past (s : State) (a : Answer) : Prop :=
  (∃ p : PlanRun, s.seq.train = some p ∧ ((a.step = p.step ∧ p.took = true) ∨ a.step < p.step))
    ∨ (s.seq.train = none ∧ s.rd .seqStep ≠ 2 ^ 64 - 1 ∧ a.step ≤ s.rd .seqStep)

/-- A non-secure ring's answer names a secure context. -/
def Answer.foreign (s : State) (c : Issued) (a : Answer) : Prop :=
  c.world = .ns ∧ ∃ x ∈ a.sections, (getCtx s x.ctx).world = .s

theorem foreign_iff {s : State} {c : Issued} {a : Answer} :
    (c.world == .ns && a.sections.any fun x => (getCtx s x.ctx).world == .s) = true ↔ a.foreign s c := by
  simp [Answer.foreign]

/-- The answer waits for its step, and its command's fetches are done with. -/
def answerWaits (s : State) (iid : Nat) (a : Answer) : State :=
  setTkr (clearAns s (.cmd iid)) fun t => { t with waiting := t.waiting ++ [a] }

section Answer
variable {s : State} {iid : Nat} {c : Issued} (hc : getIssued s iid = some c)
  (hgo : ¬(decide (c.op ≠ 0x0021) || s.tkr.waiting.any fun a => a.iid == iid) = true)
include hc hgo

theorem stepAnswerRow_of_misaligned (haddr : fld c.ops 0 8 % 64 ≠ 0) : stepAnswerRow s iid = complete s iid stBadDescriptor := by
  simp only [stepAnswerRow, hc, if_neg hgo, if_pos haddr]

section Record
variable {bs : Bytes} (haddr : fld c.ops 0 8 % 64 = 0)
  (hread : hostRead s c.world (.cmd iid) (fld c.ops 0 8) (fld c.ops 8 4) = (s, .ok bs))
include haddr hread

theorem stepAnswerRow_of_malformed (hrec : parseAnswer s iid bs = none) : stepAnswerRow s iid = complete s iid stBadDescriptor := by
  simp only [stepAnswerRow, hc, if_neg hgo, if_neg (not_not_intro haddr), hread, hrec]

variable {a : Answer} (hrec : parseAnswer s iid bs = some a)
include hrec

theorem stepAnswerRow_of_foreign (hforeign : a.foreign s c) : stepAnswerRow s iid = complete s iid stAccessDenied := by
  simp only [stepAnswerRow, hc, if_neg hgo, if_neg (not_not_intro haddr), hread, hrec, if_pos (foreign_iff.2 hforeign)]

variable (hown : ¬ a.foreign s c)
include hown

theorem stepAnswerRow_of_past (hpast : a.past s) : stepAnswerRow s iid = complete s iid stTimeout := by
  simp only [stepAnswerRow, hc, if_neg hgo, if_neg (not_not_intro haddr), hread, hrec, if_neg (mt foreign_iff.1 hown)]
  obtain ⟨p, hp, hstep⟩ | ⟨hnone, hlast, hstep⟩ := hpast
  · simp only [hp]
    exact if_pos (by simpa using hstep)
  · simp only [hnone]
    exact if_pos (by simpa using And.intro hlast hstep)

/-- An answer for a step to come waits for it; where the running step waits for one, the take-up point follows. -/
theorem stepAnswerRow_of_coming (hcoming : ¬ a.past s) : stepAnswerRow s iid
    = if s.seq.train.any fun p => p.ansWait then takeUp (answerWaits s iid a) .training else answerWaits s iid a := by
  simp only [stepAnswerRow, hc, if_neg hgo, if_neg (not_not_intro haddr), hread, hrec, if_neg (mt foreign_iff.1 hown)]
  cases htrain : s.seq.train with
  | none =>
    refine (if_neg fun hlate => hcoming (.inr ⟨htrain, by simpa using hlate⟩)).trans ?_
    simp only [answerWaits, setTkr, clearAns, htrain]; rfl
  | some p =>
    refine (if_neg fun hlate => hcoming (.inl ⟨p, htrain, by simpa using hlate⟩)).trans ?_
    simp only [answerWaits, setTkr, clearAns, htrain]; rfl

end Record
end Answer

/-- The answer that has just come is the newest of its step: it is the one applied. -/
theorem applyAnswers_of_last {s : State} {l : List Answer} {a : Answer} (hlast : s.tkr.waiting = l ++ [a]) :
    (applyAnswers s a.step).2 = true ∧ (applyAnswers s a.step).1.tkr.answer = some a := by
  have hnewest : (s.tkr.waiting.filter fun b => b.step == a.step).getLast? = some a := by simp [hlast]
  have hkept (l : List Answer) (t : State) : (l.foldl (fun t b => complete t b.iid stOk) t).tkr = t.tkr :=
    foldl_leaves (part := State.tkr) (fun t b => complete_tkr t b.iid stOk) l t
  simp [applyAnswers, hnewest, hkept, setTkr]

/-- At the take-up point an answer that is applied is in force, and the blocks that it lands in are open. -/
theorem takeUp_of_applied {s : State} {k : PlanKind} {p : PlanRun} (hp : getPlan s k = some p) (htook : p.took = false)
    (happlied : (applyAnswers s p.step).2 = true) : takeUp s k
      = openArrivals (modPlan (applyAnswers s p.step).1 k fun p => { p with took := true, ansWait := false }) k := by
  simp [takeUp, hp, htook, happlied]

theorem exec_answerTimeout {s : State} {p : PlanRun} (hp : s.seq.train = some p) : exec .answerTimeout s
    = .next (if p.ansWait then openArrivals (modPlan s .training fun p => { p with took := true, ansWait := false, reused := true }) .training
        else s) := by
  show execAnswerTimeout s = _
  cases hwait : p.ansWait <;> simp [execAnswerTimeout, hp, hwait]

/-! ### Cancelled batches (R197) -/

section Cancel
variable {s : State} {iid : Nat} {c : Issued} (hc : getIssued s iid = some c) (hop : c.op = 0x0022)
include hc hop

theorem exec_cancelBatch_of_late
    (hlate : fld c.ops 0 4 ≠ tkrEpoch s ∨ ∃ p : PlanRun, s.seq.train = some p ∧ committing p = true) :
    exec (.cancelBatch iid) s = .next (completeInfo s iid stOk ([1, 0, 0, 0] ++ natLe 4 (tkrEpoch s))) := by
  show execCancelBatch iid s = _
  obtain hother | ⟨p, hp, hcommits⟩ := hlate
  · simp [execCancelBatch, hc, hop, hother]
  · simp [execCancelBatch, hc, hop, hp, hcommits]

theorem exec_cancelBatch_of_current (hepoch : fld c.ops 0 4 = tkrEpoch s)
    (hrun : ∀ p : PlanRun, s.seq.train = some p → committing p = false) {e : Nat} (he : (tkrEpoch s + 1) % 2 ^ 32 = e) :
    exec (.cancelBatch iid) s = .next (completeInfo
      (cancelPlan (cancelPlan (sendEpochs (dropUnsent (s.wr .tkrEpoch 0 0 e)) c.world) .training) .eval)
      iid stOk ([0, 0, 0, 0] ++ natLe 4 e)) := by
  show execCancelBatch iid s = _
  subst he
  cases htrain : s.seq.train with
  | none => simp [execCancelBatch, hc, hop, hepoch, htrain]
  | some p => simp [execCancelBatch, hc, hop, hepoch, htrain, hrun p htrain]

end Cancel

/-- Settles O46: a lemma above for each outcome of the three rows. -/
theorem answersAndCancels : Obligations.AnswersAndCancels := by
  refine ⟨?answer, ?timeout, ?cancel⟩
  case answer =>
    intro s iid c hc hop hnew
    have row {t : State} (h : stepAnswerRow s iid = t) : exec (.stepAnswer iid) s = .next t := congrArg _ h
    have hgo : ¬(decide (c.op ≠ 0x0021) || s.tkr.waiting.any fun a => a.iid == iid) = true := by
      simpa [hop] using hnew
    refine ⟨fun haddr => row (stepAnswerRow_of_misaligned hc hgo haddr), fun bs haddr hread =>
      ⟨fun hrec => row (stepAnswerRow_of_malformed hc hgo haddr hread hrec), fun a hrec => ?record⟩⟩
    refine ⟨fun hforeign => row (stepAnswerRow_of_foreign hc hgo haddr hread hrec hforeign),
      fun hown hpast => row (stepAnswerRow_of_past hc hgo haddr hread hrec hown hpast), fun hown hcoming hgoes => ?waits,
      fun hown hcoming p hp hwait => ?takenUp⟩
    case waits =>
      have hnone : ¬(s.seq.train.any fun p => p.ansWait) = true := by
        rw [Option.any_eq_true]
        exact fun ⟨p, hp, hwait⟩ => ne_true_of_eq_false (hgoes p hp) hwait
      rw [row (stepAnswerRow_of_coming hc hgo haddr hread hrec hown hcoming), if_neg hnone]; rfl
    case takenUp =>
      refine ⟨?_, fun hstep => ?inForce⟩
      · rw [row (stepAnswerRow_of_coming hc hgo haddr hread hrec hown hcoming), if_pos (by simp [hp, hwait])]; rfl
      case inForce =>
        have htook : p.took = false := by
          by_contra htook
          exact hcoming (.inl ⟨p, hp, .inl ⟨hstep, by simpa using htook⟩⟩)
        have ⟨happlied, hforce⟩ := applyAnswers_of_last (s := answerWaits s iid a) rfl
        rw [hstep] at happlied hforce
        exact ⟨hforce, takeUp_of_applied (s := answerWaits s iid a) hp htook happlied⟩
  case timeout =>
    intro s p hp
    have row := exec_answerTimeout hp
    exact ⟨fun hwait => by rw [row, if_pos hwait], fun hgoes => by rw [row, if_neg (ne_true_of_eq_false hgoes)]⟩
  case cancel =>
    exact fun s iid c hc hop => ⟨exec_cancelBatch_of_late hc hop, fun hepoch hrun => exec_cancelBatch_of_current hc hop hepoch hrun rfl⟩

end Sys2Proof.Machine
end

section
/-! PROOFS. The token router (R182 to R203): the accept stage and its quotas, frames that arrive, launches, returns and the
ticket limit. -/

namespace Sys2Proof.Machine

/-! ### The accept stage (R182) -/

theorem exec_acceptBlockRow {s : State} {k : PlanKind} {ctx : Fin 256} {c : Cur} {p : Pass} (hp : getPass s k ctx = some (c, p))
    (htook : p.took = true) (hnext : p.next < passRows c p) :
    exec (.acceptBlockRow k ctx) s = .next (if rowListed s c p p.next then gathEnds (acceptStage s c p) else s) := by
  show execAcceptBlockRow k ctx s = _
  cases hlisted : rowListed s c p p.next <;> simp [execAcceptBlockRow, hp, htook, hnext, hlisted]

/-- A token keeps at most K choices, and each lies in the quota of an expert of the context that some device owns. -/
def keptWithinQuota (cx : TkCtx) (xs : Nat → Expert) (ks : List Kept) : Prop :=
  ks.length ≤ cx.k ∧ ∀ q ∈ ks, q.e < cx.nexp ∧ (xs q.e).dev ≠ 0xFFFF
    ∧ (xs q.e).qbase ≤ q.slot ∧ q.slot < (xs q.e).qbase + (xs q.e).quota

theorem keptWithinQuota_append {cx : TkCtx} {xs : Nat → Expert} {ks : List Kept} (hks : keptWithinQuota cx xs ks) {q : Kept}
    (hroom : ks.length < cx.k) (he : q.e < cx.nexp) (hdev : (xs q.e).dev ≠ 0xFFFF) (hfrom : (xs q.e).qbase ≤ q.slot)
    (hto : q.slot < (xs q.e).qbase + (xs q.e).quota) : keptWithinQuota cx xs (ks ++ [q]) := by
  obtain ⟨hlen, hall⟩ := hks
  refine ⟨by simpa using hroom, fun r hr => ?_⟩
  obtain hr | hr := List.mem_append.1 hr
  · exact hall r hr
  · rw [List.mem_singleton.1 hr]
    exact ⟨he, hdev, hfrom, hto⟩

/-- A candidate is kept only while its token has a choice left and an expert that some device owns a slot. -/
theorem acceptCand_keptWithinQuota {cx : TkCtx} {xs : Nat → Expert} {a : AccSt} (ha : keptWithinQuota cx xs a.kept) (r : Nat)
    (q : Nat × Nat) : keptWithinQuota cx xs (acceptCand cx xs a r q).kept := by
  simp only [acceptCand]
  split
  · exact ha
  next hroom =>
    split
    · exact ha
    next hexpert =>
      split
      · exact ha
      · split
        next hdisabled =>
          rw [if_neg (Nat.not_lt_zero _)]
          exact ha
        next hdev =>
          split
          next hslot =>
            exact keptWithinQuota_append ha (Nat.lt_of_not_le hroom) (Nat.lt_of_not_le hexpert) hdev (Nat.le_add_right ..)
              (Nat.add_lt_add_left hslot _)
          · exact ha

theorem acceptToken_keptWithinQuota (cx : TkCtx) (xs : Nat → Expert) (used : NMap Nat) (st : QStat) (cs : List (Nat × Nat)) :
    keptWithinQuota cx xs (acceptToken cx xs used st cs).kept :=
  List.foldlRecOn (motive := fun a : AccSt => keptWithinQuota cx xs a.kept) _ _ ⟨Nat.zero_le _, by simp⟩
    fun _ ha q _ => acceptCand_keptWithinQuota ha q.2 q.1

/-! ### The source of a frame (R359, R363) -/

section Source
variable {s s1 : State} {f : Frame}

theorem fromPeer_of_noId (hown : ownId s = none) : fromPeer s f = (s, false) := by simp [fromPeer, hown]

theorem fromPeer_of_own (hown : ownId s = some f.src.toNat) : fromPeer s f = (s, true) := by simp [fromPeer, hown]

theorem fromPeer_of_other {v : Verdict2} (hid : ownId s ≠ none) (hother : ownId s ≠ some f.src.toNat)
    (hcheck : peerCheck s 0 0x05 f.src.toNat f.dst.toNat (frameWorld s f) = (s1, v)) :
    fromPeer s f = if v = .perform then (cntAdd s1 .qxfCnt 1 0 1, true) else (s1, false) := by
  have hother' : (some f.src.toNat == ownId s) = false := beq_eq_false_iff_ne.2 hother.symm
  cases v <;> simp [fromPeer, hid, hother', hcheck]

theorem ifFrom_of_dropped (hfrom : fromPeer s f = (s1, false)) (act : State → State) : ifFrom s f act = s1 := by
  simp [ifFrom, hfrom]

theorem ifFrom_of_taken (hfrom : fromPeer s f = (s1, true)) (act : State → State) : ifFrom s f act = act s1 := by
  simp [ifFrom, hfrom]

end Source

/-! ### DISPATCH and CLOSE frames (R190) -/

section Arrive
variable {s s1 : State} {f : Frame} (hf : frameFormed f = true)
include hf

section Shared
variable {row : Instr} {typ : Nat} (hrow : (row = .dispatchFrame f ∧ typ = 0x01) ∨ (row = .closeFrame f ∧ typ = 0x03))
include hrow

/-- The two rows share what they do with a frame that is not accepted. -/
theorem exec_sharedFrame_of_bad (hat : frameAt s typ f = .bad) : exec row s = .next (frameBad s f) := by
  obtain ⟨rfl, rfl⟩ | ⟨rfl, rfl⟩ := hrow
  · simp [exec, execDispatchFrame, hf, hat]
  · simp [exec, execCloseFrame, hf, hat]

theorem exec_sharedFrame_of_wait (hat : frameAt s typ f = .wait) : exec row s = .next s := by
  obtain ⟨rfl, rfl⟩ | ⟨rfl, rfl⟩ := hrow
  · simp [exec, execDispatchFrame, hf, hat]
  · simp [exec, execCloseFrame, hf, hat]

/-- For every other frame the source's checks come first. -/
theorem exec_sharedFrame_of_checked (hbad : frameAt s typ f ≠ .bad) (hwait : frameAt s typ f ≠ .wait) :
    ∃ act : State → State, exec row s = .next (ifFrom s f act) ∧ (frameAt s typ f = .stale → act = fun s => frameStale s f)
      ∧ ∀ k : PlanKind, frameAt s typ f = .mismatch k → act = fun s => answerMismatch s k f := by
  obtain ⟨rfl, rfl⟩ | ⟨rfl, rfl⟩ := hrow
  · cases hat : frameAt s 0x01 f with
    | bad => exact absurd hat hbad
    | wait => exact absurd hat hwait
    | stale | mismatch k | ok c p => simp [exec, execDispatchFrame, hf, hat]
  · cases hat : frameAt s 0x03 f with
    | bad => exact absurd hat hbad
    | wait => exact absurd hat hwait
    | stale | mismatch k | ok c p => simp [exec, execCloseFrame, hf, hat]

theorem exec_sharedFrame_of_dropped (hfrom : fromPeer s f = (s1, false)) (hbad : frameAt s typ f ≠ .bad) (hwait : frameAt s typ f ≠ .wait) :
    exec row s = .next s1 := by
  obtain ⟨act, hact, -, -⟩ := exec_sharedFrame_of_checked hf hrow hbad hwait
  rw [hact, ifFrom_of_dropped hfrom]

theorem exec_sharedFrame_of_stale (hfrom : fromPeer s f = (s1, true)) (hat : frameAt s typ f = .stale) :
    exec row s = .next (frameStale s1 f) := by
  obtain ⟨act, hact, hstale, -⟩ := exec_sharedFrame_of_checked (s := s) hf hrow (by simp [hat]) (by simp [hat])
  rw [hact, ifFrom_of_taken hfrom, hstale hat]

theorem exec_sharedFrame_of_mismatch (hfrom : fromPeer s f = (s1, true)) {k : PlanKind} (hat : frameAt s typ f = .mismatch k) :
    exec row s = .next (answerMismatch s1 k f) := by
  obtain ⟨act, hact, -, hmismatch⟩ := exec_sharedFrame_of_checked (s := s) hf hrow (by simp [hat]) (by simp [hat])
  rw [hact, ifFrom_of_taken hfrom, hmismatch k hat]

end Shared

theorem exec_dispatchFrame_of_accepted (hfrom : fromPeer s f = (s1, true)) {c : Cur} {p : Pass} (hat : frameAt s 0x01 f = .ok c p)
    {cx : TkCtx} (hcx : getCtx s1 p.ctx = cx) {td : Td} (htd : passTd c p 3 = td) {e : Expert} (he : expertOf s1 p.ctx f.expert.toNat = e)
    (hfmt : f.format.toNat = td.fmt) (hh : f.h.toNat = cx.h) (hsome : 1 ≤ f.count.toNat) (hmax : f.count.toNat ≤ 32)
    (hlen : f.payload.length = f.count.toNat * rowLen td cx.h) (hdev : some e.dev = ownId s1) (hloc : e.loc = f.loc.toNat)
    (hcap : f.firstSlot.toNat + f.count.toNat ≤ e.cap) (hslots : e.cap ≤ cx.slots) :
    exec (.dispatchFrame f) s = .next (gathEnds (landFrame s1 c p f)) := by
  show execDispatchFrame f s = _
  subst hcx htd he
  simp [execDispatchFrame, hf, hat, ifFrom_of_taken hfrom, hfmt, hh, Nat.ne_of_gt hsome, Nat.not_lt.2 hmax, hlen, hdev, hloc,
    Nat.not_lt.2 hcap, Nat.not_lt.2 hslots]

theorem exec_closeFrame_of_accepted (hfrom : fromPeer s f = (s1, true)) {c : Cur} {p : Pass} (hat : frameAt s 0x03 f = .ok c p)
    (hlen : f.payload.length = 16 * f.count.toNat) : exec (.closeFrame f) s
      = .next (gathEnds (((upTo f.count.toNat).map fun i => parseClose f.src.toNat f.epoch.toNat (slice f.payload (0 + 16 * i) 16)).foldl
          (takeClose c.k p.ctx f) (joinDevice s1 c.k f.src.toNat))) := by
  show execCloseFrame f s = _
  simp only [execCloseFrame, hf, hat, ifFrom_of_taken hfrom, hlen, execCloseFrame.entries, List.map_map, ne_eq, not_true, if_false,
    Bool.not_true, Bool.false_eq_true]
  rfl

/-! ### EPOCH and RETURN frames (R194, R197) -/

theorem exec_epochFrame (hfrom : fromPeer s f = (s1, true)) (hgood : frameGood f = true) (htyp : f.typ = 0x04) :
    exec (.epochFrame f) s = .next (if f.epoch.toNat ≤ epochOf s1 f.src.toNat then s1 else modPhase (modPhase
      (setTkr s1 fun t => { t with epochs := mapIns t.epochs f.src.toNat f.epoch.toNat }) .training
      fun g => { g with passes := g.passes.map (dropSource f.src.toNat f.epoch.toNat) }) .eval
      fun g => { g with passes := g.passes.map (dropSource f.src.toNat f.epoch.toNat) }) := by
  show execEpochFrame f s = _
  simp [execEpochFrame, hf, hgood, htyp, ifFrom_of_taken hfrom]

section Return
variable (hfrom : fromPeer s f = (s1, true)) (hgood : frameGood f = true) (htyp : f.typ = 0x02)
include hfrom hgood htyp

theorem exec_returnFrame_of_free (hfree : ∀ q ∈ s1.tkr.tickets, q.1 ≠ f.ticket.toNat % 2 ^ 17) : exec (.returnFrame f) s
    = .next (dieEvent (tkrErrSet s1 2 f.ctx.toNat (f.ticket.toNat % 2 ^ 17) f.src.toNat f.expert.toNat)
        (if s1.seq.train.isSome then .plan .training else if s1.seq.eval.isSome then .plan .eval else .other)
        31 (sliceOf f.ctx.toNat / 4) 1) := by
  show execReturnFrame f s = _
  have hnone : s1.tkr.tickets.find? (fun q => q.1 == f.ticket.toNat % 2 ^ 17) = none := by simpa using hfree
  simp only [execReturnFrame, hf, hgood, htyp, ifFrom_of_taken hfrom, hnone]
  rfl

variable {n : Nat} (hn : f.ticket.toNat % 2 ^ 17 = n) {tk : Ticket} (htk : s1.tkr.tickets.find? (fun q => q.1 == n) = some (n, tk))
include hn htk

theorem exec_returnFrame_of_stale (hstale : tk.epoch ≠ tkrEpoch s1 ∨ curAttempt s1 tk.k ≠ some (tk.attempt % 8)) :
    exec (.returnFrame f) s = .next (releaseTicket (frameStale s1 f) n) := by
  show execReturnFrame f s = _
  have hstale' : (decide (tk.epoch ≠ tkrEpoch s1) || curAttempt s1 tk.k != some (tk.attempt % 8)) = true := by simpa using hstale
  subst hn
  simp only [execReturnFrame, hf, hgood, htyp, ifFrom_of_taken hfrom, htk, Option.map_some, hstale', if_true]
  rfl

theorem exec_returnFrame_of_match {c : Cur} {p : Pass} (hepoch : tk.epoch = tkrEpoch s1)
    (hattempt : curAttempt s1 tk.k = some (tk.attempt % 8)) (hmatch : ticketMatches tk f = true) (hp : getPass s1 tk.k tk.ctx = some (c, p))
    (hlen : f.payload.length = f.count.toNat * rowLen (passTd c p 5) f.h.toNat) : exec (.returnFrame f) s
      = .next (finishComb (cntAdd (releaseTicket (combineFrame s1 c p tk n f) n) .tkrCnt (sliceOf tk.ctx) 2 1) tk.k tk.ctx) := by
  show execReturnFrame f s = _
  have hcurrent : ¬(decide (tk.epoch ≠ tkrEpoch s1) || curAttempt s1 tk.k != some (tk.attempt % 8)) = true := by
    simp [hepoch, hattempt]
  subst hn
  simp only [execReturnFrame, hf, hgood, htyp, ifFrom_of_taken hfrom, htk, Option.map_some, if_neg hcurrent, hmatch, hp,
    if_neg (not_not_intro hlen)]
  rfl

end Return
end Arrive

/-! ### Flushed blocks and due returns (R191, R193) -/

theorem exec_arrivalFlush {s : State} {ctx : Fin 256} {loc : BitVec 16} {blk : Nat} {c : Cur} {p : Pass} {e : Expert} {q : Nat × Nat}
    (hp : (getPass s .training ctx).or (getPass s .eval ctx) = some (c, p)) (he : localExpert s ctx loc.toNat = some e)
    (hq : (getArr p loc.toNat).since.find? (fun q => q.1 == blk) = some q) : exec (.arrivalFlush ctx loc blk) s
      = .next (if s.time < q.2 + 1000 * (getCtx s ctx).flush ∨ unlaunched (getArr p loc.toNat) blk = [] then s
          else gathEnds (launchBlock (modStat (cntAdd s .tkrCnt (sliceOf ctx) 7 1) c.k ctx fun q => { q with flush := q.flush + 1 })
            c p loc.toNat blk)) := by
  show execArrivalFlush ctx loc blk s = _
  simp only [execArrivalFlush, hp, he, hq, Bool.or_eq_true, decide_eq_true_eq, List.isEmpty_iff]
  split <;> rfl

section Due
variable {src : DeviceId} {n : Fin 131072} {s : State}

/-- The return to a source and a ticket that a phase has due first, with its pass. -/
def dueReturn (src : DeviceId) (n : Fin 131072) (f : PhaseRun) : Option (Pass × Frame) :=
  f.passes.findSome? fun p => (p.due.find? fun f => f.src == src && f.ticket.toNat % 2 ^ 17 == n.val).map fun f => (p, f)

/-- What RETURN_SEND pairs with the return that it looks up makes no difference to which one it finds. -/
theorem dueReturn_map {α : Type} (g : Pass → Frame → α) (f : PhaseRun) :
    (f.passes.findSome? fun p => (p.due.find? fun f => f.src == src && f.ticket.toNat % 2 ^ 17 == n.val).map fun f => g p f)
      = (dueReturn src n f).map fun q => g q.1 q.2 := by
  simp [dueReturn, List.map_findSome?, Function.comp_def]

/-- A return frame under the epoch of the frame that it answers. -/
def returnUnder (epoch : W32) (r : Frame) : Frame :=
  { r with epoch := epoch, hpar := BitVec.ofNat 32 (xorWords 15 (frameHead { r with epoch := epoch })) }

theorem next_ite_not (b : Bool) (t u : State) :
    (if !b then Host.Outcome.next t else .next u : Host.Outcome State Fault Refusal) = .next (if b then u else t) := by
  cases b <;> rfl

/-- RETURN_SEND acts on the training plan's due return, or on the eval's where the training plan has none. -/
theorem exec_returnSend {k : PlanKind} {c : Cur} {p : Pass} {f : Frame} (hc : curOf s k = some c) (hdue : dueReturn src n c.f = some (p, f))
    (hfirst : k = .eval → ∀ d : Cur, curOf s .training = some d → dueReturn src n d.f = none) {c1 : Cur} (hc1 : { c with sel := .route } = c1)
    {td : Td} (htd : passTd c1 p 5 = td) {h : Nat} (hh : (getCtx s p.ctx).h = h) {b : State × Bytes}
    (hb : readRowsBytes (rEng c1 td) td h f.loc.toNat ((upTo f.count.toNat).map (f.firstSlot.toNat + ·)) s [] = b) {s1 : State}
    (hs1 : modPass b.1 c1.k p.ctx (fun p => { p with due := p.due.erase f }) = s1) : exec (.returnSend src n) s
      = .next (if returnReady c1 p f then sendStepFrame c1.k c1.p.world s1 (returnUnder f.epoch
          (mkFrame s1 c1 0x02 p.ctx td.fmt f.src.toNat f.expert.toNat f.loc.toNat f.firstSlot.toNat f.count.toNat h n b.2)) else s) := by
  show execReturnSend src n s = _
  subst hc1 htd hh hb hs1
  have hsend : (dueReturn src n c.f).map (fun q => (({ c with sel := .route } : Cur), q.1, q.2)) = some ({ c with sel := .route }, p, f) := by
    rw [hdue]; rfl
  cases k with
  | training =>
    simp only [execReturnSend, hc, dueReturn_map, hsend, Option.some_or]
    exact next_ite_not ..
  | eval =>
    cases ht : curOf s .training with
    | none =>
      simp only [execReturnSend, hc, ht, dueReturn_map, hsend, Option.none_or]
      exact next_ite_not ..
    | some d =>
      simp only [execReturnSend, hc, ht, dueReturn_map, hsend, hfirst rfl d ht, Option.map_none, Option.none_or]
      exact next_ite_not ..

end Due

/-! ### The ticket limit (R189, R391) -/

theorem exec_ticketStallLimit {s : State} {k : PlanKind} {ctx : Fin 256} {c : Cur} {p : Pass} (hp : getPass s k ctx = some (c, p))
    (hfirst : k = .eval → getPass s .training ctx = none) : exec (.ticketStallLimit ctx) s
      = .next (if p.stall = none then s
          else abortAttempt (dieEvent (tkrErrSet s 3 p.ctx 0 0 0) (.plan c.k) 39 (sliceOf p.ctx / 4) 1) k stTimeout) := by
  show execTicketStallLimit ctx s = _
  cases k with
  | training => cases hstall : p.stall <;> simp [execTicketStallLimit, hp, hstall]
  | eval => cases hstall : p.stall <;> simp [execTicketStallLimit, hfirst rfl, hp, hstall]

theorem abortAttempt_of_running {s : State} {k : PlanKind} {p : PlanRun} (hp : getPlan s k = some p) (honce : p.atOnce = false) (st : Nat) :
    abortAttempt s k st = if s.rdf .rasCtl 0 0 2 0 ≤ p.retries then failPlan s k st
      else beginCheck (modPlan (dropEngines s k) k fun p => { p with phase := none }) k false := by
  simp [abortAttempt, hp, honce]

/-- Settles O55: a row's lemma above for each of its outcomes, and the quotas of a token's choices. -/
theorem routerRuns : Obligations.RouterRuns := by
  refine ⟨?accept, ?quota, ?frames, ?flush, ?send, ?stall, ?abort⟩
  case accept =>
    intro s k ctx c p hp htook hnext
    have row := exec_acceptBlockRow hp htook hnext
    exact ⟨fun hlisted => by rw [row, if_pos hlisted], fun hmissing => by rw [row, if_neg (ne_true_of_eq_false hmissing)]⟩
  case quota => exact acceptToken_keptWithinQuota
  case frames =>
    intro s f hf
    refine ⟨fun row hrow => ?shared, fromPeer_of_noId, fromPeer_of_own, fun s1 v => fromPeer_of_other, fun s1 hfrom =>
      ⟨fun c p hat => ?lands, fun c p => exec_closeFrame_of_accepted hf hfrom, fun hgood htyp => ?epoch,
        exec_returnFrame_of_free hf hfrom, fun tk c p hgood htyp => ?ticket⟩⟩
    case shared =>
      have hrow : (row.1 = .dispatchFrame f ∧ row.2 = 0x01) ∨ (row.1 = .closeFrame f ∧ row.2 = 0x03) := by
        simpa [Prod.ext_iff] using hrow
      exact ⟨exec_sharedFrame_of_bad hf hrow, exec_sharedFrame_of_wait hf hrow, fun s1 => exec_sharedFrame_of_dropped hf hrow,
        fun s1 hfrom => ⟨exec_sharedFrame_of_stale hf hrow hfrom, fun k => exec_sharedFrame_of_mismatch hf hrow hfrom⟩⟩
    case lands => exact exec_dispatchFrame_of_accepted hf hfrom hat rfl rfl rfl
    case ticket =>
      intro n htk
      exact ⟨exec_returnFrame_of_stale hf hfrom hgood htyp rfl htk, exec_returnFrame_of_match hf hfrom hgood htyp rfl htk⟩
    case epoch =>
      have row := exec_epochFrame hf hfrom hgood htyp
      exact ⟨fun hold => by rw [row, if_pos hold], fun hnew => by rw [row, if_neg (Nat.not_le.2 hnew)]⟩
  case flush =>
    intro s ctx loc blk c p e q hp he hq
    have row := exec_arrivalFlush hp he hq
    refine ⟨fun hearly => by rw [row, if_pos (.inl hearly)], fun hlate hrows => ?launches⟩
    rw [row, if_neg fun h => h.elim (Nat.not_lt.2 hlate) hrows]
  case send =>
    intro s k src n c p f mine hc hdue hfirst c1
    have hnone : k = .eval → ∀ d : Cur, curOf s .training = some d → dueReturn src n d.f = none := fun hk d hd =>
      List.findSome?_eq_none_iff.2 fun q hq => Option.map_eq_none_iff.2 (hfirst hk d hd q hq)
    have row := exec_returnSend hc hdue hnone rfl rfl rfl rfl rfl
    exact ⟨fun hwaits => by rw [row, if_neg (ne_true_of_eq_false hwaits)], fun hready => by rw [row, if_pos hready]; rfl⟩
  case stall =>
    intro s k ctx c p hp hfirst
    have row := exec_ticketStallLimit hp hfirst
    exact ⟨fun hgoes => by rw [row, if_pos hgoes], fun hstalls => by rw [row, if_neg hstalls]⟩
  case abort =>
    intro s k p st hp honce
    have aborts := abortAttempt_of_running hp honce st
    exact ⟨fun hspent => by rw [aborts, if_pos hspent], fun hleft => by rw [aborts, if_neg (Nat.not_le.2 hleft)]⟩

end Sys2Proof.Machine
end

section
/-! PROOFS. The regions' switch at a commit (R217). -/

namespace Sys2Proof.Machine

/-! ### What the commit's other steps leave of the regions -/

@[simp] theorem completeInfo_regions (s : State) (iid status : Nat) (info : Bytes) :
    (completeInfo s iid status info).seq.regions = s.seq.regions := by
  unfold completeInfo
  split
  · rfl
  · rw [putCpl_seq]; rfl

@[simp] theorem complete_regions (s : State) (iid status : Nat) : (complete s iid status).seq.regions = s.seq.regions := by
  unfold complete
  split
  · rfl
  · exact completeInfo_regions ..

@[simp] theorem applyAnswers_regions (s : State) (step : Nat) : (applyAnswers s step).1.seq.regions = s.seq.regions := by
  simp only [applyAnswers]
  split
  · rfl
  · exact List.foldlRecOn (motive := fun t : State => t.seq.regions = s.seq.regions) _ _ rfl
      fun t ht b _ => (complete_regions t b.iid stOk).trans ht

@[simp] theorem lateAnswer_regions (s : State) (p : PlanRun) : (lateAnswer s p).seq.regions = s.seq.regions := by
  unfold lateAnswer
  split
  · rfl
  · exact applyAnswers_regions ..

@[simp] theorem postQuestion_regions (s : State) (p : PlanRun) (c : Issued) : (postQuestion s p c).seq.regions = s.seq.regions := by
  simp only [postQuestion]
  split_ifs
  · rfl
  · rw [countDropped, rasBump_seq]
  · rw [putCpl_seq, setTkr_seq, hostWrite, linkSend_seq]

@[simp] theorem dropEngines_regions (s : State) (k : PlanKind) : (dropEngines s k).seq.regions = s.seq.regions := by
  let same (t : State) := t.seq.regions = s.seq.regions
  unfold dropEngines
  refine List.foldlRecOn (motive := same) _ _ (List.foldlRecOn (motive := same) _ _ rfl ?_) ?_
  · intro t ht o _; split_ifs <;> exact ht
  · intro t ht o _; split <;> exact ht

theorem keysRise_setRegion {s : State} (h : keysRise s.seq.regions = true) (n : Nat) (r : Region) :
    keysRise (setRegion s n r).seq.regions = true := keysRise_mapSet (fun _ => ({} : Region)) n r h

/-! ### A plan's leave changes the use of regions alone -/

/-- A region without its use by plans: what a pin or a stall leaves of it. -/
def Region.unused (r : Region) : Region := { r with pins0 := 0, pins1 := 0, stall := false }

theorem Region.of_unused_eq {r q : Region} (h : r.unused = q.unused) :
    r.comm = q.comm ∧ r.v0 = q.v0 ∧ r.v1 = q.v1 ∧ r.base0 = q.base0 ∧ r.base1 = q.base1 ∧ r.size = q.size := by
  simp only [unused, mk.injEq] at h
  simp [h]

/-- t has the regions of s but for their use. -/
structure SameRegions (s t : State) : Prop where
  keys : keysRise t.seq.regions = true
  unused : ∀ n, (getRegion t n).unused = (getRegion s n).unused

namespace SameRegions
variable {s t u : State}

theorem refl (h : keysRise s.seq.regions = true) : SameRegions s s := ⟨h, fun _ => rfl⟩

/-- Another part of the state changes. -/
theorem elsewhere (h : SameRegions s t) (hu : u.seq.regions = t.seq.regions) : SameRegions s u :=
  ⟨hu ▸ h.keys, fun n => by rw [← h.unused n, getRegion, getRegion, hu]⟩

/-- The use of one region changes. -/
theorem use (h : SameRegions s t) (n : Nat) {r : Region} (hr : r.unused = (getRegion t n).unused) : SameRegions s (setRegion t n r) where
  keys := keysRise_setRegion h.keys n r
  unused m := by
    by_cases hm : m = n
    · rw [hm, getRegion_setRegion_self n r h.keys, hr, h.unused]
    · rw [getRegion_setRegion_ne r h.keys hm, h.unused]

theorem pinsDrop (h : SameRegions s t) (l : List (Nat × Nat × Nat)) : SameRegions s (pinsDrop t l) :=
  List.foldlRecOn (motive := SameRegions s) l _ h fun _ hu x _ => hu.use x.2.1 (by split_ifs <;> rfl)

theorem clearStalls (h : SameRegions s t) (l : List Nat) : SameRegions s (clearStalls t l) :=
  List.foldlRecOn (motive := SameRegions s) l _ h fun _ hu n _ => hu.use n rfl

theorem leavePlan (h : SameRegions s t) (k : PlanKind) (p : PlanRun) : SameRegions s (leavePlan t k p) := by
  refine ((h.elsewhere (dropEngines_regions t k)).pinsDrop p.pins).clearStalls (match p.phase with | some f => f.waits | none => [])
    |>.elsewhere ?_
  cases k <;> simp only [Machine.leavePlan, setPlan] <;> split_ifs <;> rfl

end SameRegions

/-! ### The switch -/

/-- The region that a step wrote through FREE role, as its commit leaves it. -/
def Region.switched (step : Nat) (r : Region) : Region :=
  if r.comm = 0 then { r with comm := 1, v1 := some step } else { r with comm := 0, v0 := some step }

theorem Region.switched_place (step : Nat) (r : Region) :
    (r.switched step).base0 = r.base0 ∧ (r.switched step).base1 = r.base1 ∧ (r.switched step).size = r.size := by
  unfold switched; split_ifs <;> exact ⟨rfl, rfl, rfl⟩

/-- Each region of a list without repeats switches once, and no other. -/
theorem getRegion_foldl_switched (step : Nat) {l : List Nat} (hl : l.Nodup) {s : State} (hs : keysRise s.seq.regions = true) :
    let t := l.foldl (fun s n => setRegion s n ((getRegion s n).switched step)) s
    keysRise t.seq.regions = true ∧ ∀ n, getRegion t n = if n ∈ l then (getRegion s n).switched step else getRegion s n := by
  induction l generalizing s with
  | nil => exact ⟨hs, fun n => by simp⟩
  | cons m l ih =>
    obtain ⟨hm, hl⟩ := List.nodup_cons.1 hl
    obtain ⟨hkeys, hget⟩ := ih hl (keysRise_setRegion hs m _)
    refine ⟨hkeys, fun n => (hget n).trans ?_⟩
    by_cases hn : n = m
    · subst hn; simp [hm, getRegion_setRegion_self _ _ hs]
    · simp [hn, getRegion_setRegion_ne _ hs hn]

theorem getRegion_switchRegions {s : State} {p : PlanRun} (hp : p.written.Nodup) (hs : keysRise s.seq.regions = true) :
    keysRise (switchRegions s p).seq.regions = true
      ∧ ∀ n, getRegion (switchRegions s p) n = if n ∈ p.written then (getRegion s n).switched p.step else getRegion s n :=
  getRegion_foldl_switched p.step hp hs

/-- After the switch, what is left of the commit changes the use of regions alone. -/
theorem commitEnd_sameRegions {s t : State} {p : PlanRun} {c : Issued} (hc : getIssued s p.iid = some c)
    (ht : switchRegions (lateAnswer s p) p = t) (hkeys : keysRise t.seq.regions = true) : SameRegions t (commitEnd s p) := by
  have numbered : SameRegions t (t.wr .seqStep 0 0 p.step) := (SameRegions.refl hkeys).elsewhere rfl
  have completed {u : State} (hu : SameRegions t u) (status : Nat) (info : Bytes) :
      SameRegions t (completeInfo (leavePlan (noteStep u p) .training p) p.iid status info) :=
    ((hu.elsewhere (u := noteStep u p) rfl).leavePlan .training p).elsewhere (completeInfo_regions ..)
  simp only [commitEnd, hc, ht]
  cases hre : p.recompute with
  | true => exact completed numbered _ _
  | false =>
    cases hslot : logSlot (t.wr .seqStep 0 0 p.step) p.step with
    | none => exact (completed numbered _ _).elsewhere (postQuestion_regions ..)
    | some a =>
      have logged := numbered.elsewhere (u := hostWrite _ p.world a (sepiaRecord (t.wr .seqStep 0 0 p.step) p))
        (congrArg Seq.regions (linkSend_seq ..))
      exact (completed logged _ _).elsewhere (postQuestion_regions ..)

/-- A region after a commit is as it was, or switched, but for its use. -/
theorem getRegion_commitEnd {s : State} {p : PlanRun} {c : Issued} (hc : getIssued s p.iid = some c) (hp : p.written.Nodup)
    (hs : keysRise s.seq.regions = true) (n : Nat) : (getRegion (commitEnd s p) n).unused
      = (if n ∈ p.written then (getRegion s n).switched p.step else getRegion s n).unused := by
  have hlate : (lateAnswer s p).seq.regions = s.seq.regions := lateAnswer_regions s p
  obtain ⟨hkeys, hswitch⟩ := getRegion_switchRegions hp (s := lateAnswer s p) (hlate ▸ hs)
  rw [(commitEnd_sameRegions hc rfl hkeys).unused n, hswitch n, getRegion, getRegion, hlate]

/-- Settles O59: after the commit a region is as it was, or switched, but for its pins and stalls. -/
theorem regionsSwitch : Obligations.RegionsSwitch := by
  intro s p c hc hp hs t
  have region := getRegion_commitEnd hc hp hs
  refine ⟨fun n hn => ?written, fun n hn => ?other, fun n => ?place⟩
  case written =>
    have switched := region n
    rw [if_pos hn, Region.switched] at switched
    refine ⟨fun h0 => ?second, fun h1 => ?first⟩
    case second =>
      obtain ⟨hcomm, hv0, hv1, -⟩ := Region.of_unused_eq (if_pos h0 ▸ switched)
      exact ⟨hcomm, hv1, hv0⟩
    case first =>
      have h0 : (getRegion s n).comm ≠ 0 := by simp [h1]
      obtain ⟨hcomm, hv0, hv1, -⟩ := Region.of_unused_eq (if_neg h0 ▸ switched)
      exact ⟨hcomm, hv0, hv1⟩
  case other =>
    obtain ⟨hcomm, hv0, hv1, -⟩ := Region.of_unused_eq (if_neg hn ▸ region n)
    exact ⟨hcomm, hv0, hv1⟩
  case place =>
    obtain ⟨-, -, -, hplace⟩ := Region.of_unused_eq (region n)
    split_ifs at hplace
    · simpa only [Region.switched_place] using hplace
    · exact hplace

end Sys2Proof.Machine
end

section
/-! PROOFS. The register jobs of the near-memory units (R227 to R230). -/

namespace Sys2Proof.Machine

/-! ### The rows of the OPs (R228) -/

/-- The rows of register jobs, each with its OP. -/
def jobRows : List (Nat × Instr) :=
  [(1, .nmuFill), (2, .nmuInitUniform), (3, .nmuSgdm), (4, .nmuAdamw), (5, .nmuScale), (6, .nmuCompare)]

theorem exec_jobRow {q : Nat × Instr} (hq : q ∈ jobRows) (s : State) : exec q.2 s = .next (nmuRow s q.1) := by
  fin_cases hq <;> rfl

theorem nmuRow_of_none {s : State} (hs : s.nmu = none) (op : Nat) : nmuRow s op = s := by simp only [nmuRow, hs]

/-- A job that has not run is run by the row of its OP, where its record is in order. -/
theorem nmuRow_of_given {s : State} {j : Nmu} (hs : s.nmu = some j) (hran : j.ran = false) {b : Bytes}
    (hb : memBytes s j.addr 128 = b) (op : Nat) : nmuRow s op
      = if jobOp b = op ∧ jobErr s j b = 0 then jobDo (devRead s j.world .other j.addr 128 (nmuBlock s j.addr)).1 j b else s := by
  subst hb
  by_cases hrow : jobOp (memBytes s j.addr 128) = op ∧ jobErr s j (memBytes s j.addr 128) = 0
  · obtain ⟨hop, herr⟩ := hrow
    simp [nmuRow, hs, hran, hop, herr]
  · have hskip : (decide (jobOp (memBytes s j.addr 128) ≠ op) || decide (jobErr s j (memBytes s j.addr 128) ≠ 0)) = true := by
      simpa only [Bool.or_eq_true, decide_eq_true_eq] using not_and_or.1 hrow
    simp only [nmuRow, hs, hran, hskip, if_neg hrow, Bool.false_eq_true, if_false, if_true]

/-! ### The end of a job (R230) -/

theorem exec_nmuJobEnd_of_none {s : State} (hs : s.nmu = none) : exec .nmuJobEnd s = .next s := by
  show execNmuJobEnd s = _
  simp only [execNmuJobEnd, hs]

/-- A job that has run ends with its result and its count. -/
theorem exec_nmuJobEnd_of_ran {s : State} {j : Nmu} (hs : s.nmu = some j) (hran : j.ran = true) :
    exec .nmuJobEnd s = .next (nmuEnd (s.wr .nmuJobProg 0 0 j.count) j.err) := by
  show execNmuJobEnd s = _
  simp only [execNmuJobEnd, hs, hran, if_true]

/-- A job whose record is out of order ends with the record's result; the record is read where its own place is good. -/
theorem exec_nmuJobEnd_of_bad {s : State} {j : Nmu} (hs : s.nmu = some j) (hran : j.ran = false) {e : Nat}
    (he : jobErr s j (memBytes s j.addr 128) = e) (hbad : e ≠ 0) : exec .nmuJobEnd s
      = .next (nmuEnd (if e = 3 ∨ e = 4 then (devRead s j.world .other j.addr 128 (nmuBlock s j.addr)).1 else s) e) := by
  show execNmuJobEnd s = _
  simp only [execNmuJobEnd, hs, hran, he, if_neg hbad, Bool.false_eq_true, if_false, Bool.or_eq_true, decide_eq_true_eq]

theorem nmuEnd_nmu (s : State) (err : Nat) : (nmuEnd s err).nmu = none := rfl

/-- Settles O39: the six rows are one operation with an OP each, and the end has its lemma for each outcome above. -/
theorem nmuJobsRun : Obligations.NmuJobsRun := by
  intro s
  refine ⟨fun j hs hran => ?given, fun j hs hran => ?ran, fun hs => ?none⟩
  case given =>
    intro b rows
    have row (q : Nat × Instr) (hq : q ∈ rows) : exec q.2 s = .next (nmuRow s q.1) := exec_jobRow hq s
    have given := nmuRow_of_given hs hran (b := b) rfl
    refine ⟨fun hgood q hq => ⟨fun hop => ?runs, fun hop => ?other⟩,
      fun hbad => ⟨fun q hq => ?bad, fun he => ?early, fun he => ?read⟩⟩
    case runs => rw [row q hq, given, if_pos ⟨hop, hgood⟩]
    case other => rw [row q hq, given, if_neg fun h => hop h.1]
    case bad => rw [row q hq, given, if_neg fun h => hbad h.2]
    case early =>
      have hread : ¬(jobErr s j b = 3 ∨ jobErr s j b = 4) := by omega
      rw [exec_nmuJobEnd_of_bad hs hran rfl hbad, if_neg hread]
    case read => rw [exec_nmuJobEnd_of_bad hs hran rfl hbad, if_pos he]
  case ran => exact ⟨_, exec_nmuJobEnd_of_ran hs hran, nmuEnd_nmu .., rfl⟩
  case none =>
    have row (q : Nat × Instr) (hq : q ∈ jobRows) : exec q.2 s = .next s := by rw [exec_jobRow hq, nmuRow_of_none hs]
    exact ⟨row (1, .nmuFill) (by simp [jobRows]), row (6, .nmuCompare) (by simp [jobRows]), exec_nmuJobEnd_of_none hs⟩

end Sys2Proof.Machine
end

section
/-! PROOFS. The start of a RUN_PLAN, and its hold (R235 to R239, R308, R409, R497, R501). -/

namespace Sys2Proof.Machine

/-! ### The three rows (R237, R501) -/

/-- An issued RUN_PLAN that neither runs nor is held begins where its kind is free and nothing older is held; else it is held. -/
theorem planRow_of_issued {s : State} {iid : Nat} {c : Issued} (hc : getIssued s iid = some c) (hop : c.op = 0x0020)
    (hst : c.st ≠ .running) (hnew : ∀ h ∈ s.seq.held, h.iid ≠ iid) : planRow s iid (planKindOf c) (rpRecompute c.ops)
      = if kindFree s (planKindOf c) = true ∧ s.seq.held = [] ∧ noOlderHold s iid = true then planGo s c
        else holdPlan s iid (planKindOf c) := by
  have hheld : ¬(s.seq.held.any fun h => h.iid == iid) = true := by simpa using hnew
  simp only [planRow, hc, hop, if_neg hheld, ne_eq, not_true, decide_false, Bool.false_or, beq_eq_false_iff_ne.2 hst,
    Bool.false_eq_true, if_false, Bool.and_eq_true, List.isEmpty_iff, and_assoc]

/-- Only a training plan recomputes. -/
theorem planKindOf_of_recompute {c : Issued} (hre : rpRecompute c.ops = true) : planKindOf c = .training := by
  simp only [rpRecompute, Bool.and_eq_true, Bool.not_eq_true'] at hre
  simp only [planKindOf, hre.2, Bool.false_eq_true, if_false]

/-- A RUN_PLAN's row is that of its kind, or that of recomputations. -/
theorem exec_planRow (s : State) (iid : Nat) (c : Issued) :
    exec (if rpRecompute c.ops then .runPlanRecompute iid else if planKindOf c = .eval then .runPlanEval iid else .runPlan iid) s
      = .next (planRow s iid (planKindOf c) (rpRecompute c.ops)) := by
  cases hre : rpRecompute c.ops with
  | true => rw [planKindOf_of_recompute hre]; rfl
  | false => cases planKindOf c <;> rfl

/-! ### Recomputations (R409) -/

theorem planGo_of_plain {s : State} {c : Issued} (hre : rpRecompute c.ops = false) : planGo s c = planBegin s c := by
  simp [planGo, hre]

section Recompute
variable {s : State} {c : Issued} (hre : rpRecompute c.ops = true)
include hre

theorem planGo_of_noLog (hlog : logSlot (applyMoment .step s) (rpStep c.ops) = none) : planGo s c = complete s c.iid stBadDescriptor := by
  simp [planGo, hre, hlog]

/-- A recomputation whose log record has come begins where the record agrees with it. -/
theorem planGo_of_fetched {a : Nat} {r : Bytes} (hlog : logSlot (applyMoment .step s) (rpStep c.ops) = some a)
    (hread : hostRead s c.world (.cmd c.iid) a 4096 = (s, .ok r)) : planGo s c
      = if fld r 8 8 = rpStep c.ops ∧ fld r 16 8 = fld c.ops 16 8 ∧ fld r 32 4 = stepAnswerId s (rpStep c.ops)
            ∧ rpStep c.ops = (s.rd .seqStep + 1) % 2 ^ 64 then
          planBegin (modIssued s c.iid fun x => { x with fetched := putBytes x.fetched 0 r }) c
        else complete s c.iid stBadDescriptor := by
  simp only [planGo, hre, hlog, hread, Bool.not_true, Bool.false_eq_true, if_false, Bool.or_eq_true, decide_eq_true_eq]
  rw [← ite_not]
  congr 1
  simp only [not_or, not_not, and_assoc]

end Recompute

/-! ### A held plan's turn (R237) -/

/-- The first held plan whose kind is free begins, where no older command is held. -/
theorem exec_heldPlanStart {s s1 : State} {h : HeldPlan} {c : Issued} (hh : s.seq.held.find? (fun h => kindFree s h.kind) = some h)
    (hold : noOlderHold s h.iid = true) (hs1 : { s with seq := { s.seq with held := s.seq.held.filter fun x => x.iid != h.iid } } = s1)
    (hc : getIssued s1 h.iid = some c) : exec (.heldPlanStart h.kind) s
      = .next (planGo (modIssued s1 h.iid fun x => { x with st := .issued }) { c with st := .issued }) := by
  show execHeldPlanStart h.kind s = _
  subst hs1
  simp only [execHeldPlanStart, hh, hold, ne_eq, not_true, decide_false, Bool.not_true, Bool.or_self, Bool.false_eq_true, if_false, hc]

/-! ### What a RUN_PLAN reads of its plan (R236, R238, R252) -/

section Reads
variable (s : State) (c : Issued)

/-- The header, as RUN_PLAN c reads it in state s. -/
def planHeader : State × Bytes := devRead s c.world (.cmd c.iid) (rpPlan c.ops) 128

/-- The plan that the header names. -/
def headerPlan : PlanRun := planOf c (planHeader s c).2

/-- The micro-batch table, read behind the header. -/
def mbTable : State × Bytes :=
  planRead (planHeader s c).1 c.world (planKindOf c) (rpPlan c.ops + (headerPlan s c).mbTab) (8 * (headerPlan s c).nmb)

/-- The queue table, read behind the micro-batch table. -/
def queueTable : State × Bytes :=
  planRead (mbTable s c).1 c.world (planKindOf c) (rpPlan c.ops + fld (planHeader s c).2 40 4) (32 * fld (planHeader s c).2 38 2)

def planQueues : List Queue := (entries (queueTable s c).2 0 (fld (planHeader s c).2 38 2) 32).map parseQueue

/-- The scan of the phase records, behind both tables. -/
def planScan : State × PlanRun × Bool :=
  scanPhases (planKindOf c) (upTo (headerPlan s c).nphase)
    ((queueTable s c).1, { headerPlan s c with queues := planQueues s c }, false)

/-- The tables and the phase records pass their checks. -/
def TablesGood : Prop :=
  mbTabBad (planScan s c).2.1.nmb (mbTable s c).2 = false
    ∧ (∀ x ∈ planQueues s c, queueBad (planScan s c).1 (planQueues s c) x = false)
    ∧ qidsOk (planScan s c).1 (planQueues s c) = true ∧ (planScan s c).2.2 = false
    ∧ (planKindOf c = .training → (planScan s c).2.1.streams.length ≤ 160)

/-- The same checks as the begin of a plan makes them. -/
def tablesBad : Bool :=
  mbTabBad (planScan s c).2.1.nmb (mbTable s c).2 || (planQueues s c).any (queueBad (planScan s c).1 (planQueues s c))
    || !qidsOk (planScan s c).1 (planQueues s c) || (planScan s c).2.2
    || (planKindOf c == .training && decide (160 < (planScan s c).2.1.streams.length))

theorem tablesBad_eq_false_iff : tablesBad s c = false ↔ TablesGood s c := by
  simp only [tablesBad, TablesGood, Bool.or_eq_false_iff, List.any_eq_false, Bool.not_eq_true, Bool.not_eq_false',
    Bool.and_eq_false_imp, beq_iff_eq, decide_eq_false_iff_not, Nat.not_lt, and_assoc]

end Reads

/-! ### The begin of a plan (R236, R239, R308, R497) -/

section Begin
variable {s : State} {c : Issued} (haddr : planAddrStatus s (rpPlan c.ops) 128 = stOk)
  (hhead : headerBad (planHeader s c).1 c (planHeader s c).2 = false)
  (htotal : planAddrStatus (planHeader s c).1 (rpPlan c.ops) (headerPlan s c).total = stOk)
include haddr hhead htotal

/-- With its header good a plan is refused for its tables, its step number or its fence map, or held, or it starts. -/
theorem planBegin_of_header : planBegin s c
    = if tablesBad s c then complete (planScan s c).1 c.iid stBadDescriptor
      else if worst [planAddrStatus s (rpPlan c.ops) 128, stepStatus s (planKindOf c) (rpStep c.ops)] ≠ stOk then
        complete (planScan s c).1 c.iid (worst [planAddrStatus s (rpPlan c.ops) 128, stepStatus s (planKindOf c) (rpStep c.ops)])
      else if (planScan s c).2.1.fence ≠ 0 && (planScan s c).2.1.fence ≠ fenceHash (planScan s c).1 then
        complete (planScan s c).1 c.iid stFenceMismatch
      else if (allTiles.any (testFenced (planScan s c).1))
          && (planTiles (planScan s c).1 (planKindOf c) (planScan s c).2.1).any (testFenced (planScan s c).1) then
        holdPlan (planScan s c).1 c.iid (planKindOf c)
      else runStart (modIssued (planScan s c).1 c.iid fun x => { x with st := .running }) (planKindOf c) (planScan s c).2.1 := by
  unfold planBegin
  rw [if_neg (not_not_intro haddr)]
  extract_lets h s1 p m q qs z s2 p2
  have hm : m = mbTable s c := rfl
  have hqs : qs = planQueues s c := rfl
  have hz : z = planScan s c := rfl
  have hheader : ¬headerBad s1 c h.2 = true := ne_true_of_eq_false hhead
  have hlength : ¬planAddrStatus s1 (rpPlan c.ops) p.total ≠ stOk := not_not_intro htotal
  rw [if_neg hheader, if_neg hlength]
  simp only [s2, p2, hm, hqs, hz]
  rfl

theorem planBegin_of_badTables (hbad : ¬TablesGood s c) : planBegin s c = complete (planScan s c).1 c.iid stBadDescriptor := by
  have htables : tablesBad s c = true := Bool.of_not_eq_false fun h => hbad ((tablesBad_eq_false_iff s c).1 h)
  rw [planBegin_of_header haddr hhead htotal, if_pos htables]

variable (hgood : TablesGood s c)
  (hstep : worst [planAddrStatus s (rpPlan c.ops) 128, stepStatus s (planKindOf c) (rpStep c.ops)] = stOk)
include hgood hstep

theorem planBegin_of_otherFence (hfence : (planScan s c).2.1.fence ≠ 0)
    (hother : (planScan s c).2.1.fence ≠ fenceHash (planScan s c).1) :
    planBegin s c = complete (planScan s c).1 c.iid stFenceMismatch := by
  have htables : ¬tablesBad s c = true := ne_true_of_eq_false ((tablesBad_eq_false_iff s c).2 hgood)
  rw [planBegin_of_header haddr hhead htotal, if_neg htables, if_neg (not_not_intro hstep), if_pos (by simp [hfence, hother])]

/-- A plan starts where its fence map is the one in force, or none, and no tile is test-fenced. -/
theorem planBegin_starts (hfence : (planScan s c).2.1.fence = 0 ∨ (planScan s c).2.1.fence = fenceHash (planScan s c).1)
    (htested : allTiles.any (testFenced (planScan s c).1) = false) : planBegin s c
      = runStart (modIssued (planScan s c).1 c.iid fun x => { x with st := .running }) (planKindOf c) (planScan s c).2.1 := by
  have htables : ¬tablesBad s c = true := ne_true_of_eq_false ((tablesBad_eq_false_iff s c).2 hgood)
  have hmap : ¬(decide ((planScan s c).2.1.fence ≠ 0) && decide ((planScan s c).2.1.fence ≠ fenceHash (planScan s c).1)) = true := by
    obtain hnone | hsame := hfence
    · simp [hnone]
    · simp [hsame]
  rw [planBegin_of_header haddr hhead htotal, if_neg htables, if_neg (not_not_intro hstep), if_neg hmap, if_neg (by simp [htested])]

end Begin

/-- Settles O45: the rows, a recomputation's log record, a held plan's turn and a plan's checks have their lemmas above. -/
theorem plansStartOrWait : Obligations.PlansStartOrWait := by
  refine ⟨fun s iid c hc hop hst _ hnew => ?rows, fun s c => ⟨planGo_of_plain, fun hre => ?log⟩,
    fun s h c hh hold => exec_heldPlanStart hh hold rfl, fun s c => ?begins⟩
  case rows =>
    have row := (exec_planRow s iid c).trans (congrArg _ (planRow_of_issued hc hop hst hnew))
    exact ⟨fun hheld => by rw [row, if_neg hheld], fun hfree => by rw [row, if_pos hfree]⟩
  case log =>
    refine ⟨planGo_of_noLog hre, fun a r hlog hread => ?_⟩
    have go := planGo_of_fetched hre hlog hread
    exact ⟨fun hagrees => by rw [go, if_pos hagrees], fun hdiffers => by rw [go, if_neg hdiffers]⟩
  case begins =>
    intro k a h p m q qs z tables haddr
    have hm : m = mbTable s c := rfl
    have hqs : qs = planQueues s c := rfl
    have hz : z = planScan s c := rfl
    have good : tables = TablesGood s c := by
      simp only [tables, hm, hqs, hz]
      rfl
    refine ⟨planBegin_headerBad haddr, fun hhead htotal => ?_⟩
    rw [good, hz]
    exact ⟨planBegin_of_badTables haddr hhead htotal, fun hgood hstep =>
      ⟨planBegin_of_otherFence haddr hhead htotal hgood hstep, planBegin_starts haddr hhead htotal hgood hstep⟩⟩

end Sys2Proof.Machine
end

section
/-! PROOFS. Configuration epochs: commits, markers and the end of a transition (R255 to R259, R263). -/

namespace Sys2Proof.Machine

/-! ### CONFIG_COMMIT and CONFIG_DISCARD (R255 to R257) -/

/-- A commit or discard waits: a transition runs, or an older one is held. -/
def commitWaits (s : State) (iid : Nat) : Prop := s.seq.trans ≠ none ∨ olderHeld s iid [0x0023] = true

theorem commitWaits_iff {s : State} {iid : Nat} :
    (s.seq.trans.isSome || olderHeld s iid [0x0023]) = true ↔ commitWaits s iid := by
  simp [commitWaits, Option.isSome_iff_ne_none]

section CommitRow
variable {s : State} {iid : Nat} {c : Issued} {discard : Bool} {act : State → Issued → State}
  (hc : getIssued s iid = some c) (hop : c.op = 0x0023) (hown : ∀ t : Transition, s.seq.trans = some t → t.iid ≠ iid)
  (hdiscard : ccDiscard c.ops = discard)
include hc hop hown hdiscard

/-- The command's own transition, which `commitRow` looks for, does not run. -/
theorem commitRow_eq : commitRow s iid discard act
    = if s.seq.trans.isSome || olderHeld s iid [0x0023] then holdCmd s iid
      else if ccEpoch c.ops ≠ (s.seq.epoch + 1) % 2 ^ 32 then completeInfo s iid stBadDescriptor (natLe 4 s.seq.epoch)
      else act (unholdCmd s iid) c := by
  simp only [commitRow, hc]
  refine if_neg ?_
  cases htrans : s.seq.trans with
  | none => simp [hop, hdiscard]
  | some t => simp [hop, hdiscard, hown t htrans]

/-- During a transition, or behind an older commit, the command is held. -/
theorem commitRow_of_busy (hbusy : commitWaits s iid) :
    commitRow s iid discard act = holdCmd s iid := by
  rw [commitRow_eq hc hop hown hdiscard, if_pos (commitWaits_iff.2 hbusy)]

variable (hfree : ¬ commitWaits s iid)
include hfree

theorem commitRow_of_otherEpoch (hepoch : ccEpoch c.ops ≠ (s.seq.epoch + 1) % 2 ^ 32) :
    commitRow s iid discard act = completeInfo s iid stBadDescriptor (natLe 4 s.seq.epoch) := by
  rw [commitRow_eq hc hop hown hdiscard, if_neg (mt commitWaits_iff.1 hfree), if_pos hepoch]

theorem commitRow_of_nextEpoch (hepoch : ccEpoch c.ops = (s.seq.epoch + 1) % 2 ^ 32) :
    commitRow s iid discard act = act (unholdCmd s iid) c := by
  rw [commitRow_eq hc hop hown hdiscard, if_neg (mt commitWaits_iff.1 hfree), if_neg (not_not_intro hepoch)]

end CommitRow

/-! ### What either does once its epoch has passed -/

section NextEpoch
variable {s : State} {iid : Nat} {c : Issued} (hc : getIssued s iid = some c) (hop : c.op = 0x0023)
  (hown : ∀ t : Transition, s.seq.trans = some t → t.iid ≠ iid)
include hc hop hown

theorem exec_configCommit_of_nextEpoch {t : State} (hdiscard : ccDiscard c.ops = false)
    (hfree : ¬ commitWaits s iid) (hepoch : ccEpoch c.ops = (s.seq.epoch + 1) % 2 ^ 32)
    (ht : t = unholdCmd s iid) : exec (.configCommit iid) s = .next (
      if limitBad t c.world = true ∨ detoursBad t c.world = true ∨ regionsBad t c.world = true then
        completeInfo t iid stBadDescriptor (natLe 4 t.seq.epoch)
      else if retiresEvacuating t c.world = true then holdCmd t iid
      else if quiesceDiffers t c.world = true ∧ quiet t = false then completeInfo t iid stNeedsQuiesce (natLe 4 t.seq.epoch)
      else transitionStart t c) := by
  show execConfigCommit .. = _
  rw [execConfigCommit, commitRow_of_nextEpoch hc hop hown hdiscard hfree hepoch, ← ht]
  simp only [Bool.or_eq_true, or_assoc, Bool.and_eq_true, Bool.not_eq_true']

/-- The shadows of the command's world are listed no longer, so each follows its active register. -/
theorem exec_configDiscard_of_nextEpoch (hdiscard : ccDiscard c.ops = true)
    (hfree : ¬ commitWaits s iid) (hepoch : ccEpoch c.ops = (s.seq.epoch + 1) % 2 ^ 32)
    {w : World} (hw : c.world = w) : exec (.configDiscard iid) s = .next (completeInfo
      { unholdCmd s iid with
        shadNs := if w = .ns then [] else (unholdCmd s iid).shadNs
        shadS := if w = .s then [] else (unholdCmd s iid).shadS } iid stOk (natLe 4 (unholdCmd s iid).seq.epoch)) := by
  show execConfigDiscard .. = _
  rw [execConfigDiscard, commitRow_of_nextEpoch hc hop hown hdiscard hfree hepoch, hw]
  cases w <;> rfl

end NextEpoch

/-! ### Markers (R258) -/

section Marker
variable {s : State} {t : Transition} {b : EpochBlock} (ht : s.seq.trans = some t)
include ht

theorem exec_epochMarker_of_passes (hleft : b ∈ t.left) (hat : atMarker s b = true) :
    exec (.epochMarker b) s = .next (
      let u := { s with seq := { s.seq with trans := some { t with left := t.left.filter (· != b) } } }
      match b with
      | .mct i => rateTrain u i
      | .qxf p => portEnable u p
      | _ => u) := by
  show execEpochMarker .. = _
  simp only [execEpochMarker, ht]
  rw [if_pos (by simp [hleft, hat])]
  cases b <;> rfl

theorem exec_epochMarker_of_not (h : ¬ (b ∈ t.left ∧ atMarker s b = true)) : exec (.epochMarker b) s = .next s := by
  show execEpochMarker .. = _
  simp only [execEpochMarker, ht]
  rw [if_neg (by simpa using h)]

end Marker

/-! ### The end of a transition (R258) -/

/-- No register write reaches the sequencer. -/
theorem takeVals_seq (s : State) (vals : NMap W64) : (takeVals s vals).seq = s.seq := by
  unfold takeVals
  refine List.foldlRecOn (motive := fun t : State => t.seq = s.seq) _ _ rfl fun t ht p _ => ?_
  split
  · exact ht
  · exact ht

@[simp] theorem completeInfo_trans (s : State) (iid status : Nat) (info : Bytes) :
    (completeInfo s iid status info).seq.trans = s.seq.trans := by
  unfold completeInfo
  split
  · rfl
  · rw [putCpl_seq]; rfl

@[simp] theorem completeInfo_epoch (s : State) (iid status : Nat) (info : Bytes) :
    (completeInfo s iid status info).seq.epoch = s.seq.epoch := by
  unfold completeInfo
  split
  · rfl
  · rw [putCpl_seq]; rfl

/-- The end of a transition makes the next epoch the one in force. -/
theorem transitionEnd_seq (s : State) (t : Transition) :
    (transitionEnd s t).seq.epoch = (s.seq.epoch + 1) % 2 ^ 32 ∧ (transitionEnd s t).seq.trans = none := by
  cases hw : t.world with
  | ns => simp [transitionEnd, hw, takeVals_seq]
  | s => simp [transitionEnd, hw, takeVals_seq]

/-- Something trains for a committed rate, ENABLE or width (R276, R323, R356). -/
def trainsOn (s : State) : Prop :=
  ratePending s = true ∨ linkPending s .lhl = true ∨ ∃ p : Nat, p < 64 ∧ linkPending s (.port p) = true

section Ends
variable {s : State} {t : Transition} (ht : s.seq.trans = some t)
include ht

theorem drained_iff :
    (drainCount s = 0 && !ratePending s && !linkPending s .lhl && !(upTo 64).any (fun p => linkPending s (.port p))) = true
      ↔ t.left = [] ∧ oldTagged s = 0 ∧ ¬ trainsOn s := by
  simp [drainCount, ht, trainsOn, upTo, and_assoc]

theorem exec_transitionEnd_of_drained (hdrained : t.left = [] ∧ oldTagged s = 0 ∧ ¬ trainsOn s) :
    exec .transitionEnd s = .next (transitionEnd s t) := by
  show execTransitionEnd s = _
  simp only [execTransitionEnd, ht]
  exact if_pos ((drained_iff ht).2 hdrained)

theorem exec_transitionEnd_of_not (hmore : ¬ (t.left = [] ∧ oldTagged s = 0 ∧ ¬ trainsOn s)) : exec .transitionEnd s = .next s := by
  show execTransitionEnd s = _
  simp only [execTransitionEnd, ht]
  exact if_neg (mt (drained_iff ht).1 hmore)

end Ends

/-- Settles O22: the rows of CONFIG_COMMIT, the markers, and the end of a transition each have their lemma above. -/
theorem epochsCommit : Obligations.EpochsCommit := by
  refine ⟨?commit, ?marker, ?ends⟩
  case commit =>
    intro s iid c hc hop hown busy s1 bad
    refine ⟨fun hbusy => ?held, fun hfree hepoch => ?otherEpoch, fun hfree hepoch hd => ?commits, fun hfree hepoch hd => ?discards⟩
    case held =>
      exact ⟨fun hd => congrArg _ (commitRow_of_busy hc hop hown hd hbusy), fun hd => congrArg _ (commitRow_of_busy hc hop hown hd hbusy)⟩
    case otherEpoch =>
      exact ⟨fun hd => congrArg _ (commitRow_of_otherEpoch hc hop hown hd hfree hepoch),
        fun hd => congrArg _ (commitRow_of_otherEpoch hc hop hown hd hfree hepoch)⟩
    case commits =>
      have row := exec_configCommit_of_nextEpoch hc hop hown hd hfree hepoch (t := s1) rfl
      refine ⟨fun hbad => ?_, fun hgood hret => ?_, fun hgood hret hdiff hquiet => ?_, fun hgood hret hquiet => ?_⟩
      · rw [row, if_pos hbad]
      · rw [row, if_neg hgood, if_pos hret]
      · rw [row, if_neg hgood, if_neg (ne_true_of_eq_false hret), if_pos ⟨hdiff, hquiet⟩]
      · rw [row, if_neg hgood, if_neg (ne_true_of_eq_false hret), if_neg (by rcases hquiet with h | h <;> simp [h])]
        rfl
    case discards =>
      have row {w : World} := exec_configDiscard_of_nextEpoch (w := w) hc hop hown hd hfree hepoch
      exact ⟨row, row⟩
  case marker =>
    intro s t b ht s1
    refine ⟨fun hleft hat => ?_, fun _ hat => exec_epochMarker_of_not ht (by simp [hat]),
      fun hleft => exec_epochMarker_of_not ht (by simp [hleft])⟩
    have row := exec_epochMarker_of_passes ht hleft hat
    refine ⟨?_, ?_, fun hmct hqxf => ?_⟩
    · rintro i rfl; exact row
    · rintro p rfl; exact row
    · cases b with
      | mct i => exact absurd rfl (hmct i)
      | qxf p => exact absurd rfl (hqxf p)
      | die | hqe | nmu | routers | lhl => exact row
  case ends =>
    intro s t ht trains
    refine ⟨fun hleft hold hdone => ⟨exec_transitionEnd_of_drained ht ⟨hleft, hold, hdone⟩, transitionEnd_seq s t⟩,
      fun hmore => exec_transitionEnd_of_not ht ?_⟩
    rintro ⟨hleft, hold, hdone⟩
    exact hmore.elim (· hleft) fun h => h.elim (· hold) hdone

end Sys2Proof.Machine
end

section
/-! PROOFS. What a Warm reset leaves of the ports (R466). -/

namespace Sys2Proof.Machine

/-- A table of ports that lists port 0 twice, as it is after reset and ACTIVE behind that. Canonical form speaks of memory, the view
of host memory and the registers, and asks nothing of this table. -/
def portTwice : State := { State.reset with ports := [(0, {}), (0, { st := .active })] }

theorem portTwice_canonical : canonical portTwice = true := by decide +kernel

/-- The port comes up anew: its first listing is removed, and reads of the port find the second. -/
theorem warmClear_portTwice : (getLink (warmClear portTwice) (.port 0)).st = .active := by decide +kernel

/-- Refutes O33: the clause of the ports lacks the hypothesis that the keys of their table rise. A port that is as after reset is one
that the table does not list, so where the table lists a port twice, a Warm reset removes the first listing and leaves the port as the
second has it. -/
theorem not_resetsKeep : ¬ Obligations.ResetsKeep := by
  intro h
  obtain ⟨-, -, -, -, -, -, -, -, -, -, -, -, -, hports, -⟩ := h portTwice portTwice_canonical
  have hdown : (getLink (warmClear portTwice) (.port 0)).st = .down := by rw [hports 0 (by decide)]
  exact absurd (warmClear_portTwice.symm.trans hdown) (by decide)

end Sys2Proof.Machine
end

section
/-! PROOFS. Block resets (R467, R468, R480). -/

namespace Sys2Proof.Machine

/-! ### A write of RSC_BLKRST (R467) -/

/-- KIND and INDEX of a write of RSC_BLKRST are stored. -/
def storeBlock (s : State) (kind index : Nat) : State :=
  s.wr .rscBlkrst 0 0 (setBits (setBits (s.rd .rscBlkrst) 19 16 kind) 15 8 index)

/-- Storing them leaves BUSY as it is. -/
theorem brBusy_storeBlock {s : State} (h : canonical s = true) (kind index : Nat) : brBusy (storeBlock s kind index) = brBusy s := by
  rw [brBusy, storeBlock, rd_wr_self _ _ _ _ (canonical_regs h), bit_eq_testBit, Nat.testBit_mod_two_pow, ← bit_eq_testBit,
    bit_setBits_ne (by decide) (by decide), bit_setBits_ne (by decide) (by decide)]
  rfl

section BlockReset
variable {s : State} {w : World} {v : W32}

/-- A GO that names a block of the other world is dropped whole. -/
theorem exec_blockReset_of_otherWorld (hgo : bit v.toNat 0 = true)
    (hworld : blockWorldOk s w (bits v.toNat 19 16) (bits v.toNat 15 8) = false) :
    exec (.blockReset w v) s = .next (countDropped s 0) := by
  show execBlockReset .. = _
  simp [execBlockReset, blockReset, hgo, hworld]

/-- Without GO a write stores KIND and INDEX. -/
theorem exec_blockReset_of_noGo (hgo : bit v.toNat 0 = false) :
    exec (.blockReset w v) s = .next (storeBlock s (bits v.toNat 19 16) (bits v.toNat 15 8)) := by
  show execBlockReset .. = _
  simp [execBlockReset, blockReset, hgo, storeBlock]

theorem exec_blockReset_of_go (hgo : bit v.toNat 0 = true)
    (hworld : blockWorldOk s w (bits v.toNat 19 16) (bits v.toNat 15 8) = true) : exec (.blockReset w v) s
      = .next (blockGo (storeBlock s (bits v.toNat 19 16) (bits v.toNat 15 8)) (bits v.toNat 19 16) (bits v.toNat 15 8)) := by
  show execBlockReset .. = _
  simp [execBlockReset, blockReset, hgo, hworld, storeBlock]

end BlockReset

/-! ### The end of the quiesce (R468, R480) -/

/-- What fails with the requests of a block that a quiesce aborts: each counts as PATH_PAR, and the work it belongs to. -/
def abortRequests (s : State) (n : Nat) : State :=
  (abortCtxs s (brKind s) (brIndex s)).foldl (fun s c => failCtx s c .replay none)
    (rasBump s 19 (blockDie (brKind s) (brIndex s)) n)

section Quiesce
variable {s : State}

theorem exec_blockQuiesceDone (hbusy : brBusy s = true) (hst : brState s = 1) :
    exec .blockQuiesceDone s = .next (if blockIdle s (brKind s) (brIndex s) then blockEnd s 1 0 else s) := by
  show execBlockQuiesceDone s = _
  simp only [execBlockQuiesceDone, hbusy, hst, decide_true, Bool.true_and]
  split <;> rfl

theorem exec_blockQuiesceTimeout (hbusy : brBusy s = true) (hst : brState s = 1) (n : Nat) :
    exec (.blockQuiesceTimeout n) s = .next (blockEnd (if n = 0 then s else abortRequests s n) 2 n) := by
  show execBlockQuiesceTimeout n s = _
  simp only [execBlockQuiesceTimeout, hbusy, hst, decide_true, Bool.true_and, if_true]
  rfl

/-- With no quiesce under way neither row does anything. -/
theorem exec_blockQuiesce_of_idle (hbusy : brBusy s = false) (n : Nat) :
    exec .blockQuiesceDone s = .next s ∧ exec (.blockQuiesceTimeout n) s = .next s := by
  constructor
  · show execBlockQuiesceDone s = _
    simp [execBlockQuiesceDone, hbusy]
  · show execBlockQuiesceTimeout n s = _
    simp [execBlockQuiesceTimeout, hbusy]

end Quiesce

/-- Settles O34: storing KIND and INDEX leaves BUSY as it is, so GO acts on the BUSY of before the write. -/
theorem blockResets : Obligations.BlockResets := by
  refine ⟨fun s w v => ?write, fun s n => ?ends⟩
  case write =>
    intro k i s1
    have hstay (h : canonical s = true) : brBusy s1 = brBusy s := brBusy_storeBlock h k i
    refine ⟨fun hgo hcan hbusy hok hworld => ?quiesces, fun hgo hcan hno hworld => ?dropped, exec_blockReset_of_otherWorld,
      exec_blockReset_of_noGo⟩
    case quiesces =>
      have hgoes : ¬ (brBusy s1 || !blockOk k i) = true := by simp [hstay hcan, hbusy, hok]
      exact (exec_blockReset_of_go hgo hworld).trans (congrArg _ (if_neg hgoes))
    case dropped =>
      have hdrops : (brBusy s1 || !blockOk k i) = true := by simpa [hstay hcan] using hno
      exact (exec_blockReset_of_go hgo hworld).trans (congrArg _ (if_pos hdrops))
  case ends =>
    refine ⟨fun hbusy hst => ⟨exec_blockQuiesceDone hbusy hst, ?_, fun hn => ?_⟩, fun hbusy => exec_blockQuiesce_of_idle hbusy n⟩
    · rw [exec_blockQuiesceTimeout hbusy hst, if_pos rfl]
    · rw [exec_blockQuiesceTimeout hbusy hst, if_neg hn]
      rfl

end Sys2Proof.Machine
end

section
/-! PROOFS. Packets over the on-die mesh (R294, R295, R305 to R307). -/

namespace Sys2Proof.Machine

/-! ### Packets over the mesh (R294, R305 to R307) -/

section Path
variable {s : State} {l : List Nat}

/-- With every router up, the path is clear to its end. -/
theorem clearPath_of_up (hup : ∀ x ∈ l, routerDown s x = false) : clearPath s l = l :=
  List.takeWhile_eq_self_iff.2 fun x hx => by rw [hup x hx]; rfl

/-- With a router down, the path is clear for a part of its length only. -/
theorem clearPath_length_lt (hdown : ∃ x ∈ l, routerDown s x = true) : (clearPath s l).length < l.length := by
  obtain ⟨x, hx, hd⟩ := hdown
  refine Nat.lt_of_le_of_ne (List.takeWhile_sublist _).length_le fun hlen => ?_
  have hall := (List.takeWhile_eq_self_iff (p := fun r => !routerDown s r)).1 ((List.takeWhile_sublist _).eq_of_length hlen) x hx
  simp [hd] at hall

end Path

/-- Only a reduction packet finds one to be added to (R298). -/
theorem meshPartner_eq_none {s : State} {path : List Nat} {p : MeshPacket} (h4 : p.typ ≠ 0x04) (h5 : p.typ ≠ 0x05) :
    meshPartner s path p = none := by
  have hmatch (q : MeshPacket) : redMatch q p = false := by
    rw [Bool.eq_false_iff]
    intro h
    simp only [redMatch, Bool.and_eq_true, Bool.or_eq_true, beq_iff_eq] at h
    obtain ⟨⟨⟨⟨hq, htyp⟩, -⟩, -⟩, -⟩ := h
    rcases hq with hq | hq
    · exact h4 (htyp.trans hq)
    · exact h5 (htyp.trans hq)
  unfold meshPartner
  split
  next q _ => simp [hmatch]
  next => rfl

section Travel
variable {s : State} {ctx : Ctx} {r : List Nat × Bool} {p : MeshPacket}

/-- The routers of a path, as the packet's flits pass them. -/
def meshWay (s : State) (ctx : Ctx) (p : MeshPacket) (l : List Nat) : State :=
  passRouters ctx (if bit p.ctl.toNat 5 then 1 else 0) (meshFlits p) l s

theorem meshTravel_of_down (hdown : ∃ x ∈ r.1, routerDown s x = true) :
    meshTravel s ctx r p = meshDiscard (meshWay s ctx p (clearPath s r.1)) ctx 33 3 (stopRouter s r.1) p := by
  simp only [meshTravel]
  exact if_pos (clearPath_length_lt hdown)

variable (hup : ∀ x ∈ r.1, routerDown s x = false)
include hup

theorem meshTravel_of_tileOut (hdest : p.dest.toNat < 1536) (hout : tileOut s p.dest.toNat = true) :
    meshTravel s ctx r p = meshDiscard (meshWay s ctx p r.1) ctx 32 4 (stopRouter s r.1) p := by
  simp only [meshTravel, clearPath_of_up hup, Nat.lt_irrefl, if_false]
  exact if_pos (by simp [hdest, hout])

theorem meshTravel_of_arrives (hin : p.dest.toNat < 1536 → tileOut s p.dest.toNat = false) (h4 : p.typ ≠ 0x04) (h5 : p.typ ≠ 0x05) :
    meshTravel s ctx r p = meshDeliver (meshWay s ctx p r.1) ctx (meshOn r.2 p) := by
  simp only [meshTravel, clearPath_of_up hup, Nat.lt_irrefl, if_false, meshPartner_eq_none h4 h5]
  exact if_neg (by simpa using hin)

end Travel

/-- A WRITE is performed at its endpoint. -/
theorem meshDeliver_write {s : State} {ctx : Ctx} {p : MeshPacket} (h : p.typ = 0x01) :
    meshDeliver s ctx p = devWrite s (worldOf (bit p.ctl.toNat 0)) ctx p.addr.toNat p.payload := if_pos h

/-- Any other packet is the endpoint's. -/
theorem meshDeliver_other {s : State} {ctx : Ctx} {p : MeshPacket} (h : p.typ ≠ 0x01) :
    meshDeliver s ctx p = emit s (.mesh p.dest.toNat p) := if_neg h

section Route
variable {s : State} {p : MeshPacket} {a b : Nat} (ha : endpointTile p.src.toNat = some a) (hok : meshPacketOk p = true)
include ha hok

theorem exec_meshPacketRoute_of_badParity (hpar : meshParity p = false) :
    exec (.meshPacketRoute p) s = .next (tileEvent s (meshCtx s p.src.toNat) 19 a 1) := by
  show execMeshPacketRoute p s = _
  simp [execMeshPacketRoute, hok, hpar, ha]

theorem exec_meshPacketRoute (hpar : meshParity p = true) (hb : endpointTile p.dest.toNat = some b) {r : List Nat × Bool}
    (hr : r = if bit p.ctl.toNat 5 then (meshPath a b, false) else routePath s (b2n (bit p.ctl.toNat 1)) (bits p.ctl.toNat 3 2) a b) :
    exec (.meshPacketRoute p) s = .next (meshTravel (if r.2 then cntAdd s .mshCnt (tileDie a) 5 1 else s) (meshCtx s p.src.toNat) r
      (meshOn false p)) := by
  subst hr
  show execMeshPacketRoute p s = _
  simp [execMeshPacketRoute, hok, hpar, ha, hb, meshRoute]

end Route

/-- Settles O40: a packet that enters takes its way by one of three lemmas: a router of it is down, its tile is out, or it arrives. -/
theorem meshPacketsTravel : Obligations.MeshPacketsTravel := by
  intro s p a b ha hb hok r s1 q ctx way
  have enters (hpar : meshParity p = true) : exec (.meshPacketRoute p) s = .next (meshTravel s1 ctx r q) :=
    exec_meshPacketRoute ha hok hpar hb rfl
  refine ⟨fun hpar hup => ⟨fun hin => ?arrives, fun hdest hout => ?fenced⟩, fun hpar hdown => ?unroutable,
    exec_meshPacketRoute_of_badParity ha hok⟩
  case arrives =>
    have arrives (h4 : p.typ ≠ 0x04) (h5 : p.typ ≠ 0x05) : exec (.meshPacketRoute p) s = .next (meshDeliver (way r.1) ctx (meshOn r.2 q)) :=
      (enters hpar).trans (congrArg _ (meshTravel_of_arrives hup hin h4 h5))
    exact ⟨fun hwrite => (arrives (by simp [hwrite]) (by simp [hwrite])).trans (congrArg _ (meshDeliver_write hwrite)),
      fun h1 h4 h5 => (arrives h4 h5).trans (congrArg _ (meshDeliver_other h1))⟩
  case fenced => exact (enters hpar).trans (congrArg _ (meshTravel_of_tileOut hup hdest hout))
  case unroutable => exact (enters hpar).trans (congrArg _ (meshTravel_of_down hdown))

end Sys2Proof.Machine
end

section
/-! PROOFS. Queues between pipeline stages (R252 to R254, R264). -/

namespace Sys2Proof.Machine

/-! ### Queue operations of a phase (R253) -/

section QueueOp
variable {s : State} {k : PlanKind} {q : Fin 16} {c : Cur} {o : QOp} {u : Queue} (hq : queueAt s k q = some (c, o, u))
include hq

/-- An entry that has gone to its peer is done when the peer answers. -/
theorem exec_qsend_of_sent (hsend : o.send = true) (hsent : o.sent = true) : exec (.qsend k q) s = .next s := by
  show execQsend k q s = _
  simp [execQsend, hq, hsend, hsent]

section Send
variable (hsend : o.send = true) (hsent : o.sent = false)
include hsend hsent

theorem exec_qsend_of_waits (hwaits : u.next ≠ o.seq ∨ tdReady s c.f (tdOf c.f o.td) = false) :
    exec (.qsend k q) s = .next (qStall s k o.q) := by
  show execQsend k q s = _
  simp [execQsend, hq, hsend, hsent, hwaits]

theorem exec_qsend_of_turn (hturn : u.next = o.seq) (hready : tdReady s c.f (tdOf c.f o.td) = true) :
    exec (.qsend k q) s = .next (sendEntry s c q o u) := by
  show execQsend k q s = _
  simp [execQsend, hq, hsend, hsent, hturn, hready]

end Send

section Recv
variable (hrecv : o.send = false)
include hrecv

theorem exec_qrecv_of_waits (hwaits : u.next ≠ o.seq ∨ o.seq ∉ u.inRing) : exec (.qrecv k q) s = .next (qStall s k o.q) := by
  show execQrecv k q s = _
  simp [execQrecv, hq, hrecv, hwaits]

theorem exec_qrecv_of_present (hturn : u.next = o.seq) (hring : o.seq ∈ u.inRing) :
    exec (.qrecv k q) s = .next (takeEntry s c q o u) := by
  show execQrecv k q s = _
  simp [execQrecv, hq, hrecv, hturn, hring]

end Recv

theorem exec_queueLimitExpire : exec (.queueLimitExpire k q) s = .next (if u.stall then failPlan s k stTimeout else s) := by
  show execQueueLimitExpire k q s = _
  simp only [execQueueLimitExpire, hq]
  split <;> rfl

end QueueOp

/-! ### Where an entry goes (R252, R253) -/

section SendEntry
variable {s : State} {c : Cur} {q : Nat} {o : QOp} {u : Queue}

section Local
variable {n : Nat} {v : Queue} (hpeer : some u.peer = ownId s) (hend : localEnd c.p u = some (n, v))
include hpeer hend

theorem sendEntry_of_full (hroom : roomFor v o.seq = .none) : sendEntry s c q o u = qStall s c.k o.q := by
  simp [sendEntry, hpeer, hend, hroom]

/-- On this device an entry is stored at the queue's other end, and the operation is done. -/
theorem sendEntry_of_room (hroom : roomFor v o.seq ≠ .none) {e : State × Bytes} (he : e = entryBytes s c.k (tdOf c.f o.td) u.size) :
    sendEntry s c q o u = qopDone (modQueue (placeEntry e.1 c.k c.p.world n v o.seq e.2) c.k o.q
      fun u => { u with next := u.next + 1, stall := false }) c.k q := by
  simp [sendEntry, hpeer, hend, hroom, he]

end Local

/-- What comes of an entry that goes to a peer, by the outcome of the send. -/
def sentToPeer (s : State) (k : PlanKind) (q : Nat) : SendRes → State
  | .ok => qopSent s k q
  | .unreachable => failPlan s k stPeerUnreachable
  | .denied => failPlan s k stAccessDenied

theorem sendEntry_of_peer (hpeer : some u.peer ≠ ownId s) {e : State × Bytes} (he : e = entryBytes s c.k (tdOf c.f o.td) u.size)
    {r : State × SendRes} (hr : r = sendMsg e.1
      { peer := u.peer, typ := 0x08, vc := 2, key := u.qid, addr := o.seq, world := c.p.world, ctx := .plan c.k, payload := e.2 }) :
    sendEntry s c q o u = sentToPeer r.1 c.k q r.2 := by
  subst he
  obtain ⟨t, v⟩ := r
  simp only [sendEntry, if_neg hpeer, ← hr]
  cases v <;> rfl

end SendEntry

/-! ### Entries that come (R253, R254, R359, R363) -/

section Receive
variable {s : State} {qid : Fin 256} {step : W64} {att : Fin 8} {seq msg : W32} {data : Bytes} {k : PlanKind} {p : PlanRun} {n : Nat}
  {u : Queue} (hlen : data.length ≤ 2 ^ 21) (hstep : planOfStep s step.toNat = some (k, p)) (hend : recvEntry p qid = some (n, u))
include hlen hstep hend

/-- A device with no ID of its own receives nothing. -/
theorem exec_queueEntryReceive_of_noId (hown : ownId s = none) : exec (.queueEntryReceive qid step att seq msg data) s = .next s := by
  show execQueueEntryReceive .. = _
  simp only [execQueueEntryReceive, hstep, hend, hown, if_neg (Nat.not_lt.2 hlen), Option.isNone_none, if_true]

/-- What comes of an entry, by what the checks of its peer decide. -/
def entryChecked (s : State) (k : PlanKind) (p : PlanRun) (n : Nat) (u : Queue) (att seq msg : Nat) (data : Bytes) : Verdict2 → State
  | .drop => s
  | .refuse => sendDone s u.peer .ns msg doneDenied
  | .perform =>
    if att < p.attempt then staleEntry s
    else if p.attempt < att then entryRetry s p u msg
    else entryCame s k p n u seq msg data

theorem exec_queueEntryReceive {own : Nat} (hown : ownId s = some own) : exec (.queueEntryReceive qid step att seq msg data) s
    = .next (entryChecked (peerCheck s 0 0x08 u.peer own p.world).1 k p n u att seq.toNat msg.toNat data
        (peerCheck s 0 0x08 u.peer own p.world).2) := by
  show execQueueEntryReceive .. = _
  simp only [execQueueEntryReceive, hstep, hend, hown, if_neg (Nat.not_lt.2 hlen), Option.isNone_some, Option.getD_some,
    Bool.false_eq_true, if_false]
  obtain ⟨t, v⟩ := peerCheck s 0 0x08 u.peer own p.world
  cases v with
  | drop => rfl
  | refuse => rfl
  | perform =>
    simp only [entryChecked]
    split_ifs <;> rfl

end Receive

section PeerCheck
variable {s t : State} {typ src dst : Nat} {w : World} (ht : t = peerSeen s src)
include ht

/-- A message's source that fails a check: captured and counted. -/
def badSource (t : State) (why cls typ src dst : Nat) : State := rasBump (cntAdd (qxfErrSet t why 0 typ src dst) .qxfCnt 7 0 1) cls 0 1

theorem peerCheck_of_invalid (hvalid : peerValid t src = false) :
    peerCheck s 0 typ src dst w = (badSource t 6 72 typ src dst, .drop) := by
  simp [peerCheck, ← ht, hvalid, badSource]

theorem peerCheck_of_unattested (hvalid : peerValid t src = true) (hw : w = .s) (hatt : peerAttested t src = false) :
    peerCheck s 0 typ src dst w = (badSource t 3 71 typ src dst, .refuse) := by
  simp [peerCheck, ← ht, hvalid, hw, hatt, badSource]

theorem peerCheck_of_passes (hvalid : peerValid t src = true) (hw : w = .ns ∨ peerAttested t src = true) :
    peerCheck s 0 typ src dst w = (t, .perform) := by
  rcases hw with hw | hw <;> simp [peerCheck, ← ht, hvalid, hw]

end PeerCheck

section EntryCame
variable {s : State} {k : PlanKind} {p : PlanRun} {n : Nat} {u : Queue} {seq msg : Nat} {bs : Bytes}

/-- An entry that has come before is a duplicate. -/
theorem entryCame_of_old (hold : seq < u.next ∨ seq ∈ u.inRing ∨ seq ∈ u.inSpill) : entryCame s k p n u seq msg bs = staleEntry s :=
  if_pos (by simpa [or_assoc] using hold)

variable (hnew : ¬ (seq < u.next ∨ seq ∈ u.inRing ∨ seq ∈ u.inSpill))
include hnew

theorem entryCame_of_full (hroom : roomFor u seq = .none) : entryCame s k p n u seq msg bs = entryRetry s p u msg := by
  rw [entryCame, if_neg (by simpa [or_assoc] using hnew), if_pos (by rw [hroom]; rfl)]

theorem entryCame_of_room (hroom : roomFor u seq ≠ .none) : entryCame s k p n u seq msg bs
    = sendDone (cntAdd (placeEntry s k p.world n u seq (slice bs 0 u.size)) .qxfCnt 1 0 1) u.peer p.world msg doneOk := by
  rw [entryCame, if_neg (by simpa [or_assoc] using hnew), if_neg (by simpa using hroom)]

end EntryCame

/-- Settles O49: the operations by their rows' lemmas; an entry that comes, by its peer's check, its attempt and its number. -/
theorem queueEntriesFlow : Obligations.QueueEntriesFlow := by
  refine ⟨fun s k q c o u hq => ?ops, fun s qid step att seq msg data k p n u hlen hstep hend => ?comes⟩
  case ops =>
    refine ⟨exec_qsend_of_sent hq, exec_qsend_of_waits hq, fun hsend hsent hturn hready hpeer n v hend => ?here,
      fun hsend hsent hturn hready hpeer => ?away, exec_qrecv_of_waits hq, exec_qrecv_of_present hq, fun hstall => ?_, fun hstall => ?_⟩
    case here =>
      have row := exec_qsend_of_turn hq hsend hsent hturn hready
      exact ⟨fun hroom => row.trans (congrArg _ (sendEntry_of_full hpeer hend hroom)),
        fun hroom => row.trans (congrArg _ (sendEntry_of_room hpeer hend hroom rfl))⟩
    case away =>
      intro e r
      have row : exec (.qsend k q) s = .next (sentToPeer r.1 c.k q r.2) :=
        (exec_qsend_of_turn hq hsend hsent hturn hready).trans (congrArg _ (sendEntry_of_peer hpeer rfl rfl))
      exact ⟨fun hres => by rw [row, hres]; rfl, fun hres => by rw [row, hres]; rfl, fun hres => by rw [row, hres]; rfl⟩
    · rw [exec_queueLimitExpire hq, if_pos hstall]
    · rw [exec_queueLimitExpire hq, if_neg (ne_true_of_eq_false hstall)]
  case comes =>
    intro row
    refine ⟨exec_queueEntryReceive_of_noId hlen hstep hend, fun own hown => ?_⟩
    intro s1 bad
    have checked {t : State} {v : Verdict2} (hcheck : peerCheck s 0 0x08 u.peer own p.world = (t, v)) :
        exec row s = .next (entryChecked t k p n u att seq.toNat msg.toNat data v) := by
      rw [exec_queueEntryReceive hlen hstep hend hown, hcheck]
    refine ⟨fun hvalid => checked (peerCheck_of_invalid rfl hvalid),
      fun hvalid hw hatt => checked (peerCheck_of_unattested rfl hvalid hw hatt), fun hvalid hw => ?_⟩
    have performed := checked (peerCheck_of_passes rfl hvalid hw)
    intro retry
    refine ⟨fun hstale => ?_, fun hnewer => ?_, fun hsame => ?_⟩
    · exact performed.trans (congrArg _ (if_pos hstale))
    · exact performed.trans (congrArg _ ((if_neg (Nat.lt_asymm hnewer)).trans (if_pos hnewer)))
    · have came : exec row s = .next (entryCame s1 k p n u seq.toNat msg.toNat data) :=
        performed.trans (congrArg _ ((if_neg hsame.not_lt).trans (if_neg hsame.not_gt)))
      exact ⟨fun hold => came.trans (congrArg _ (entryCame_of_old hold)),
        fun hnew hroom => came.trans (congrArg _ (entryCame_of_full hnew hroom)),
        fun hnew hroom => came.trans (congrArg _ (entryCame_of_room hnew hroom))⟩

end Sys2Proof.Machine
end

section
/-! PROOFS. Every command keeps the queue of commands and the canonical form of device memory, the view of host memory and
the register table (log 4, log 6): each row is followed operation by operation, by the lemmas of Laws/Keeps. A row that is
one such operation is left to the case split over the commands at the end. -/

namespace Sys2Proof.Machine

/-- An outcome keeps the queue of commands and the tables of s: a next state keeps them, and a stop leaves no state. -/
def OutKeeps (s : State) : Host.Outcome State Fault Refusal → Prop
  | .next t => Keeps s t
  | .fault _ => True
  | .refused _ => True

namespace OutKeeps

theorem stays {s : State} : OutKeeps s (.next s) := Keeps.refl s

theorem refuses {s : State} {r : Refusal} : OutKeeps s (.refused r) := trivial

theorem ite {s : State} {c : Prop} [Decidable c] {a b : Host.Outcome State Fault Refusal} (ha : OutKeeps s a) (hb : OutKeeps s b) :
    OutKeeps s (if c then a else b) := by
  split <;> assumption

end OutKeeps

variable {s : State}

/-! ### Commands, copies, rings -/

theorem keeps_execDescriptorFetch (n : RingNo) : OutKeeps s (execDescriptorFetch n s) :=
  .ite (keeps_fetchFrom (keeps_takeGrant (.ite (keeps_mk.2 (.refl s)) (.refl s)) ..) ..) .stays

theorem keeps_execDescriptorSeqRecheck (n : RingNo) : OutKeeps s (execDescriptorSeqRecheck n s) := by
  unfold execDescriptorSeqRecheck
  refine .ite .stays ?_
  split
  · exact .stays
  · exact keeps_hostAsk (.refl s) ..

theorem keeps_execCqSpacePoll (n : RingNo) : OutKeeps s (execCqSpacePoll n s) := by
  unfold execCqSpacePoll
  refine .ite .stays ?_
  split
  · exact .stays
  · exact keeps_hostAsk (.refl s) ..

theorem keeps_execCoalesceTimer (n : RingNo) : OutKeeps s (execCoalesceTimer n s) :=
  .ite (keeps_sendIntr (keeps_setRing (.refl s) ..) ..) .stays

theorem keeps_execRingDrained (n : RingNo) : OutKeeps s (execRingDrained n s) :=
  .ite (keeps_ringOff (.refl s) ..) .stays

theorem keeps_execNop (iid : Nat) : OutKeeps s (execNop iid s) := by
  unfold execNop
  split
  · exact .ite (keeps_complete (.refl s) ..) .stays
  · exact .stays

/-! ### The dense engine -/

theorem keeps_execDenseTaskTake (t : Tile) : OutKeeps s (execDenseTaskTake t s) := by
  unfold execDenseTaskTake
  split
  · exact .stays
  · refine .ite .stays ?_
    extract_lets u
    have hu : Keeps s u := keeps_daResume (.refl s) ..
    split
    · exact hu
    · split
      · exact hu
      · refine .ite (keeps_discardTask hu ..) ?_
        split
        · exact hu
        · exact keeps_denseTake hu ..

theorem keeps_execOutputBlockFinish (t : Tile) (a : Fin 4) : OutKeeps s (execOutputBlockFinish t a s) := by
  unfold execOutputBlockFinish
  split
  · exact .stays
  · extract_lets u
    have hu : Keeps s u := keeps_daResume (.refl s) ..
    split
    · exact hu
    · exact .ite hu (keeps_daRelease (keeps_finishLps (keeps_accRead hu ..) ..) ..)

theorem keeps_execSplitkPartDone (t : Tile) (a : Fin 4) : OutKeeps s (execSplitkPartDone t a s) := by
  unfold execSplitkPartDone
  split
  · exact .stays
  · extract_lets u
    have hu : Keeps s u := keeps_daResume (.refl s) ..
    split
    · exact hu
    · exact .ite hu (keeps_daRelease (keeps_sendFly (keeps_accRead hu ..) ..) ..)

theorem keeps_execSplitkClose (t : Tile) : OutKeeps s (execSplitkClose t s) := by
  unfold execSplitkClose
  split
  · exact .stays
  · exact keeps_splitFinish (keeps_takePieces (.refl s) ..) ..

theorem keeps_execSheetBlockArrive (t : Tile) (north : Bool) (slot : BitVec 16) : OutKeeps s (execSheetBlockArrive t north slot s) := by
  unfold execSheetBlockArrive
  split
  · exact .stays
  · exact .ite .stays (keeps_daResume (keeps_modPhase (.ite (.refl s) (keeps_slotErr (.refl s) ..)) ..) ..)

theorem keeps_execGatherPosting (d : Die) (g : Fin 16) (p : Posting) : OutKeeps s (execGatherPosting d g p s) := by
  unfold execGatherPosting
  refine .ite .refuses ?_
  split
  · exact .stays
  · refine .ite .stays (.ite (keeps_fencedDrop (.refl s) ..) ?_)
    extract_lets u
    have hu : Keeps s u := .ite (keeps_gathLaunch (.refl s) ..) (.refl s)
    split
    · exact hu
    · exact keeps_gathAdd hu ..

theorem keeps_execGatherFlushExpire (d : Die) (g : Fin 16) : OutKeeps s (execGatherFlushExpire d g s) := by
  unfold execGatherFlushExpire
  split
  · exact .stays
  · exact .ite (keeps_gathLaunch (.refl s) ..) .stays

theorem keeps_execPackedSuperblockWrite (t : Tile) : OutKeeps s (execPackedSuperblockWrite t s) := by
  unfold execPackedSuperblockWrite
  split
  · exact .stays
  · split
    · exact .stays
    · exact keeps_packedWrite (.refl s) ..

theorem keeps_execBlockMerge (w : World) (td : Bytes) (pos : List Nat) (els : List (Fin 1024 × BitVec 152)) :
    OutKeeps s (execBlockMerge w td pos els s) :=
  .ite .refuses (.ite .stays (keeps_mergeBlock (.refl s) ..))

/-! ### Events and the fabric -/

theorem keeps_execEventRecordWrite (n : RingNo) : OutKeeps s (execEventRecordWrite n s) := by
  unfold execEventRecordWrite
  refine .ite .stays ?_
  split
  · exact .stays
  · exact keeps_endService (keeps_putEvent (keeps_takeSource (.refl s) ..) ..) ..

theorem keeps_execFabricWrite (p : PortNo) (m : List FabPacket) : OutKeeps s (execFabricWrite p m s) :=
  .ite (keeps_deliver (.refl s) _ _ _ fun _ _ h => keeps_performWriteMsg h ..) .refuses

theorem keeps_execFabricRead (p : PortNo) (m : List FabPacket) : OutKeeps s (execFabricRead p m s) :=
  .ite (keeps_deliver (.refl s) _ _ _ fun _ _ h => keeps_performReadMsg h ..) .refuses

theorem keeps_execAnchorMessage (p : PortNo) (m : List FabPacket) : OutKeeps s (execAnchorMessage p m s) :=
  .ite (keeps_deliver (.refl s) _ _ _ fun _ _ h => keeps_performAnchors h ..) .refuses

theorem keeps_execMirrorMessage (p : PortNo) (m : List FabPacket) : OutKeeps s (execMirrorMessage p m s) :=
  .ite (keeps_deliver (.refl s) _ _ _ fun _ _ h => keeps_performed (keeps_engWrite h ..) ..) .refuses

theorem keeps_execFabricTransit (p : PortNo) (x : FabPacket) : OutKeeps s (execFabricTransit p x s) :=
  .ite .refuses (.ite .stays (.ite (keeps_unroutable (.refl s) ..)
    (.ite (keeps_routeOut (keeps_cntAdd (.refl s) ..) ..) (keeps_unroutable (.refl s) ..))))

theorem keeps_execReductionContribution (w : World) (own : Bool) (m : List FabPacket) :
    OutKeeps s (execReductionContribution w own m s) := by
  unfold execReductionContribution
  refine .ite .refuses (.ite ?_ (keeps_deliver (.refl s) _ _ _ fun _ _ h => keeps_performRed h ..))
  split
  · exact .stays
  · exact .ite (keeps_putBlockMsg (.refl s) ..) .stays

theorem keeps_execReductionWaitTimeout (k : PlanKind) (win : Fin 64) (blk : Nat) :
    OutKeeps s (execReductionWaitTimeout k win blk s) :=
  .ite (keeps_failPlan (.refl s) ..) .stays

theorem keeps_execMirrorSeedPage (n : Fin 64) : OutKeeps s (execMirrorSeedPage n s) := by
  unfold execMirrorSeedPage
  refine .ite .stays ?_
  split
  · exact .stays
  · exact keeps_seedPage (.refl s) ..

theorem keeps_execRetryResend (peer : DeviceId) (msg : W32) : OutKeeps s (execRetryResend peer msg s) := by
  unfold execRetryResend
  split
  · exact .stays
  · exact .ite .stays (keeps_routeAll (keeps_modOut (.refl s) ..) ..)

theorem keeps_execProbeReceive (src : DeviceId) : OutKeeps s (execProbeReceive src s) := by
  unfold execProbeReceive
  refine .ite .stays ?_
  split
  · rename_i u hu
    have h : Keeps s u := .pair hu (keeps_peerCheck (.refl s) ..)
    exact .ite (keeps_probeAnswered h ..) (keeps_sendProbe h ..)
  · rename_i u _ _ hu
    exact .pair hu (keeps_peerCheck (.refl s) ..)

theorem keeps_execMsgTimeoutExpire (peer : DeviceId) (msg : W32) : OutKeeps s (execMsgTimeoutExpire peer msg s) := by
  unfold execMsgTimeoutExpire
  split
  · split
    · exact keeps_resultTimeout (.refl s) ..
    · exact .stays
  · exact .ite .stays (keeps_msgTimeout (.refl s) ..)

theorem keeps_execProbeAnswerTimeout (peer : DeviceId) : OutKeeps s (execProbeAnswerTimeout peer s) := by
  unfold execProbeAnswerTimeout
  split
  · exact .stays
  · exact keeps_failWork (keeps_mk.2 (keeps_setPeerFlag (.refl s) ..)) ..

theorem keeps_execProbeInterval : OutKeeps s (execProbeInterval s) :=
  Keeps.foldl (fun _ _ h => keeps_sendProbe h ..) _ (.refl s)

theorem keeps_execPeerCacheFill (peer : DeviceId) : OutKeeps s (execPeerCacheFill peer s) :=
  .ite .stays (keeps_cacheFill (.refl s) ..)

theorem keeps_execFabricResponse (p : PortNo) (m : List FabPacket) : OutKeeps s (execFabricResponse p m s) := by
  unfold execFabricResponse
  refine .ite ?_ .refuses
  show Keeps s _
  split
  · exact keeps_responseTake (.refl s) ..
  · exact keeps_ctxOn (keeps_responseTake (.refl s) ..) ..

theorem keeps_execDoneReceive (src : DeviceId) (msg : W32) (status : Fin 3) : OutKeeps s (execDoneReceive src msg status s) := by
  refine keeps_mirOn ?_
  split
  · exact keeps_doneTake (.refl s) ..
  · exact keeps_ctxOn (keeps_doneTake (.refl s) ..) ..

/-! ### The gather and merge engine -/

theorem keeps_execGmeGather (t : Tile) : OutKeeps s (execGmeGather t s) :=
  keeps_gmeTake (.refl s) _ _ fun _ _ _ h => keeps_gmeGatherRun h ..

theorem keeps_execGmeScatter (t : Tile) : OutKeeps s (execGmeScatter t s) :=
  keeps_gmeTake (.refl s) _ _ fun _ _ _ h => keeps_gmeScatterRun h ..

theorem keeps_execGmeScatterAcc (t : Tile) : OutKeeps s (execGmeScatterAcc t s) :=
  keeps_gmeTake (.refl s) _ _ fun _ _ _ h => keeps_gmeAccRun h ..

theorem keeps_execGmeSegsum (t : Tile) : OutKeeps s (execGmeSegsum t s) :=
  keeps_gmeTake (.refl s) _ _ fun _ _ _ h => keeps_gmeAccRun h ..

theorem keeps_execGmeRaggedCat (t : Tile) : OutKeeps s (execGmeRaggedCat t s) :=
  keeps_gmeTake (.refl s) _ _ fun _ _ _ h => keeps_gmeRaggedRun h ..

theorem keeps_execGmeSortKey (t : Tile) : OutKeeps s (execGmeSortKey t s) :=
  keeps_gmeTake (.refl s) _ _ fun _ _ _ h => keeps_gmeSortRun h ..

theorem keeps_execGmeMergeKey (t : Tile) : OutKeeps s (execGmeMergeKey t s) :=
  keeps_gmeTake (.refl s) _ _ fun _ _ _ h => keeps_gmeMergeRun h ..

theorem keeps_execGmeTopk (t : Tile) : OutKeeps s (execGmeTopk t s) :=
  keeps_gmeTake (.refl s) _ _ fun _ _ _ h => keeps_gmeTopkRun h ..

theorem keeps_execGmeSpprod (t : Tile) : OutKeeps s (execGmeSpprod t s) := by
  unfold execGmeSpprod
  split
  · exact .stays
  · split
    · exact keeps_spResume (.refl s) ..
    · exact keeps_gmeTake (.refl s) _ _ fun _ _ _ h => keeps_gmeSpRun h ..

theorem keeps_execAnchorPassClose (k : PlanKind) : OutKeeps s (execAnchorPassClose k s) := by
  unfold execAnchorPassClose
  split
  · exact .stays
  · exact .ite .stays (keeps_accSecond (keeps_modPhase (.refl s) ..) ..)

theorem keeps_execOwnerContribution (t : Tile) : OutKeeps s (execOwnerContribution t s) := by
  unfold execOwnerContribution
  split
  · exact .stays
  · extract_lets c
    split
    · exact .stays
    · exact keeps_ownerTake (.refl s) ..

theorem keeps_execPartCutsReady (k : PlanKind) : OutKeeps s (execPartCutsReady k s) := by
  unfold execPartCutsReady
  split
  · exact .stays
  · extract_lets c hs
    split
    · exact .stays
    · exact .ite .stays (keeps_modPhase (.foldl (fun _ _ h => keeps_segRun h ..) _ (keeps_scanAll (.refl s) ..)) ..)

theorem keeps_execOwnerFinish (t : Tile) : OutKeeps s (execOwnerFinish t s) := by
  unfold execOwnerFinish
  split
  · exact .stays
  · refine .ite .stays (.ite (Keeps.ite (.refl s) (keeps_fencedDrop (.refl s) ..)) (Keeps.foldl ?_ _ (.refl s)))
    intro u x hu
    split
    · exact .ite hu (keeps_ownerFinishBlock hu ..)
    · exact hu

theorem keeps_execAnchorRoundTimeout (k : PlanKind) (g : Fin 64) : OutKeeps s (execAnchorRoundTimeout k g s) := by
  unfold execAnchorRoundTimeout
  split
  · exact .stays
  · exact .ite (keeps_failPlan (.refl s) ..) .stays

/-! ### The vector engine -/

theorem keeps_execVeTaskTake (t : Tile) : OutKeeps s (execVeTaskTake t s) := by
  unfold execVeTaskTake
  split
  · exact .stays
  · refine .ite .stays ?_
    split
    · exact .stays
    · exact .ite (keeps_taskBad (keeps_veErr (keeps_popTask (.refl s) ..) ..) ..)
        (.ite .stays (keeps_veSet (keeps_vePre (keeps_popTask (.refl s) ..) ..) ..))

/-- A vector-engine row keeps what its instruction keeps. -/
theorem keeps_veRun {t opc : Nat} {x : VeWord} {f : State → VeAt → State} (hf : ∀ a : VeAt, Keeps s (f s a)) :
    OutKeeps s (veRun s t opc x f) := by
  unfold veRun
  refine .ite .refuses ?_
  extract_lets v
  split
  · exact .ite .stays (hf _)
  · exact .stays

theorem keeps_veElem {t opc : Nat} {x : VeWord} {srcs : List Nat} {f : List Val → Val} : OutKeeps s (veElem s t opc x srcs f) :=
  .ite .refuses (keeps_veRun fun _ => keeps_veRetire (keeps_cntAdd (keeps_countSubst (.refl s) ..) ..) ..)

theorem keeps_veTrans {t opc : Nat} {x : VeWord} {f : Nat → Nat} : OutKeeps s (veTrans s t opc x f) :=
  .ite .refuses (keeps_veRun fun _ => keeps_veRetire (keeps_cntAdd (keeps_countSubst (.refl s) ..) ..) ..)

theorem keeps_veLanes {t opc : Nat} {x : VeWord} {srcs : List Nat} {f : Kernel → Nat → Nat × Nat} :
    OutKeeps s (veLanes s t opc x srcs f) :=
  .ite .refuses (keeps_veRun fun _ => keeps_veRetire (.refl s) ..)

theorem keeps_execShuf (t : Tile) (x : VeWord) : OutKeeps s (execShuf t x s) := by
  unfold execShuf
  extract_lets i
  exact keeps_veLanes

theorem keeps_execPack (t : Tile) (x : VeWord) : OutKeeps s (execPack t x s) := by
  unfold execPack
  extract_lets o
  exact keeps_veLanes

theorem keeps_execUnpack (t : Tile) (x : VeWord) : OutKeeps s (execUnpack t x s) := by
  unfold execUnpack
  extract_lets o
  exact keeps_veLanes

theorem keeps_veRowSum {t opc : Nat} {x : VeWord} {srcs : List Nat} {f : List Val → Val × Sp} :
    OutKeeps s (veRowSum s t opc x srcs f) :=
  .ite .refuses (keeps_veRun fun _ =>
    keeps_veRetire (keeps_overflowed (keeps_cntAdd (.ite (.refl s) (keeps_veErr (.refl s) ..)) ..) ..) ..)

theorem keeps_veRowExt {t opc : Nat} {x : VeWord} {kind : Nat} {lim : Val} {f : Val → Val → Val} :
    OutKeeps s (veRowExt s t opc x kind lim f) :=
  .ite .refuses (keeps_veRun fun _ => keeps_veRetire (keeps_cntAdd (.refl s) ..) ..)

theorem keeps_execMov (t : Tile) (x : VeWord) : OutKeeps s (execMov t x s) :=
  .ite .refuses (keeps_veRun fun _ => .ite (keeps_veRetire (.refl s) ..) (keeps_veRetire (.refl s) ..))

theorem keeps_execLdb (t : Tile) (x : VeWord) : OutKeeps s (execLdb t x s) :=
  .ite .refuses (keeps_veRun fun _ => .ite (.refl s) (keeps_veRetire (keeps_readOper (.refl s) ..) ..))

theorem keeps_execStb (t : Tile) (x : VeWord) : OutKeeps s (execStb t x s) :=
  keeps_veRun fun _ => .ite (.refl s) (.ite (keeps_veRetire (keeps_rasBump (.refl s) ..) ..)
    (.ite (keeps_veRetire (keeps_finishBlock (keeps_countSubst (.refl s) ..) ..) ..) (.ite (keeps_failPlan (.refl s) ..)
      (keeps_veRetire (keeps_setReady (keeps_writeElts (.refl s) ..) ..) ..))))

theorem keeps_execRowcnt (t : Tile) (x : VeWord) : OutKeeps s (execRowcnt t x s) :=
  .ite .refuses (keeps_veRun fun _ => keeps_veRetire (keeps_cntAdd (.refl s) ..) ..)

theorem keeps_execColsum (t : Tile) (x : VeWord) : OutKeeps s (execColsum t x s) := by
  refine .ite .refuses (keeps_veRun fun a => ?_)
  exact keeps_veRetire (keeps_cntAdd (keeps_overflowed (keeps_accSet (keeps_accRead
    (.ite1 (keeps_pinnedAnchor (.refl s) ..) (.refl s)) ..) ..) ..) ..) ..

theorem keeps_execDivn (t : Tile) (x : VeWord) : OutKeeps s (execDivn t x s) :=
  .ite .refuses (keeps_veRun fun _ => keeps_veRetire (keeps_cntAdd (keeps_countSubst (.refl s) ..) ..) ..)

theorem keeps_execXch (t : Tile) (x : VeWord) : OutKeeps s (execXch t x s) :=
  .ite .refuses (keeps_veRun fun _ => .ite (keeps_veRetire (.refl s) ..) (keeps_setVe (.refl s) ..))

theorem keeps_execXchCombine (brow : BitVec 24) (idx2 : BitVec 16) : OutKeeps s (execXchCombine brow idx2 s) := by
  unfold execXchCombine
  split
  · exact .stays
  · extract_lets ms
    clear_value ms
    cases ms with
    | nil => exact .stays
    | cons m ms =>
      exact .ite .stays (Keeps.foldl (fun _ _ h => keeps_xchLeave h ..) _ (keeps_overflowed (keeps_tileEvent
        (.ite (.refl s) (.foldl (fun _ _ h => keeps_veErr h ..) _ (.refl s))) ..) ..))

theorem keeps_execRowtopk (t : Tile) (x : VeWord) : OutKeeps s (execRowtopk t x s) :=
  .ite .refuses (keeps_veRun fun _ => keeps_veRetire (.refl s) ..)

theorem keeps_execSumm (t : Tile) (x : VeWord) : OutKeeps s (execSumm t x s) :=
  keeps_veRun fun _ => keeps_veRetire (keeps_cntAdd (keeps_modPlan (.refl s) ..) ..) ..

theorem keeps_execTkemit (t : Tile) (x : VeWord) : OutKeeps s (execTkemit t x s) := by
  refine keeps_veRun fun a => ?_
  extract_lets r
  split
  · exact keeps_veRetire (.refl s) ..
  · exact .ite (.refl s) (keeps_veRetire (keeps_modPass (.refl s) ..) ..)

/-! ### The token router -/

theorem keeps_execAcceptBlockRow (k : PlanKind) (ctx : Fin 256) : OutKeeps s (execAcceptBlockRow k ctx s) := by
  unfold execAcceptBlockRow
  split
  · exact .stays
  · exact .ite .stays (keeps_gathEnds (keeps_acceptStage (.refl s) ..) ..)

theorem keeps_execDispatchFrame (f : Frame) : OutKeeps s (execDispatchFrame f s) := by
  unfold execDispatchFrame
  refine .ite .refuses ?_
  split
  · exact .stays
  · exact keeps_frameBad (.refl s) ..
  · exact keeps_ifFrom (.refl s) _ fun _ h => keeps_frameStale h ..
  · exact keeps_ifFrom (.refl s) _ fun _ h => keeps_answerMismatch h ..
  · exact keeps_ifFrom (.refl s) _ fun _ h => .ite (keeps_frameBad h ..)
      (.ite (keeps_answerMismatch h ..) (keeps_gathEnds (keeps_landFrame h ..) ..))

theorem keeps_execCloseFrame (f : Frame) : OutKeeps s (execCloseFrame f s) := by
  unfold execCloseFrame
  refine .ite .refuses ?_
  split
  · exact .stays
  · exact keeps_frameBad (.refl s) ..
  · exact keeps_ifFrom (.refl s) _ fun _ h => keeps_frameStale h ..
  · exact keeps_ifFrom (.refl s) _ fun _ h => keeps_answerMismatch h ..
  · exact keeps_ifFrom (.refl s) _ fun _ h => .ite (keeps_frameBad h ..)
      (keeps_gathEnds (.foldl (fun _ _ h => keeps_takeClose h ..) _ (keeps_joinDevice h ..)) ..)

theorem keeps_execEpochFrame (f : Frame) : OutKeeps s (execEpochFrame f s) :=
  .ite .refuses (.ite (keeps_frameBad (.refl s) ..)
    (keeps_ifFrom (.refl s) _ fun _ h => .ite h (keeps_modPhase (keeps_modPhase (keeps_setTkr h ..) ..) ..)))

theorem keeps_execReturnFrame (f : Frame) : OutKeeps s (execReturnFrame f s) := by
  refine .ite .refuses (.ite (keeps_frameBad (.refl s) ..) (keeps_ifFrom (.refl s) _ fun u h => ?_))
  extract_lets n unknown
  have hunknown : Keeps s unknown := keeps_dieEvent (keeps_tkrErrSet h ..) ..
  split
  · exact hunknown
  · refine .ite (keeps_releaseTicket (keeps_frameStale h ..) ..) (.ite hunknown ?_)
    split
    · exact h
    · exact .ite (keeps_frameBad h ..)
        (keeps_finishComb (keeps_cntAdd (keeps_releaseTicket (keeps_combineFrame h ..) ..) ..) ..)

theorem keeps_execArrivalFlush (ctx : Fin 256) (loc : BitVec 16) (blk : Nat) : OutKeeps s (execArrivalFlush ctx loc blk s) := by
  unfold execArrivalFlush
  split
  · extract_lets a
    split
    · exact .stays
    · exact .ite .stays (keeps_gathEnds (keeps_launchBlock (keeps_modStat (keeps_cntAdd (.refl s) ..) ..) ..) ..)
  · exact .stays

theorem keeps_execReturnSend (src : DeviceId) (ticket : Fin 131072) : OutKeeps s (execReturnSend src ticket s) := by
  unfold execReturnSend
  extract_lets hit
  split
  · exact .stays
  · exact .ite .stays (keeps_sendStepFrame (keeps_modPass (keeps_readRowsBytes (.refl s) ..) ..) ..)

theorem keeps_execAnswerTimeout : OutKeeps s (execAnswerTimeout s) := by
  unfold execAnswerTimeout
  split
  · exact .stays
  · exact .ite .stays (keeps_openArrivals (keeps_modPlan (.refl s) ..) ..)

theorem keeps_execCancelBatch (iid : Nat) : OutKeeps s (execCancelBatch iid s) := by
  unfold execCancelBatch
  split
  · exact .stays
  · exact .ite .stays (.ite (keeps_completeInfo (.refl s) ..) (keeps_completeInfo (keeps_cancelPlan (keeps_cancelPlan
      (keeps_sendEpochs (keeps_dropUnsent (keeps_wr (.refl s) ..) ..) ..) ..) ..) ..))

/-! ### Plans -/

theorem keeps_execHeldPlanStart (k : PlanKind) : OutKeeps s (execHeldPlanStart k s) := by
  unfold execHeldPlanStart
  split
  · exact .stays
  · refine .ite .stays ?_
    extract_lets q u
    have hu : Keeps s u := keeps_mk.2 (.refl s)
    split
    · exact hu
    · exact keeps_planGo (keeps_modIssued hu ..) ..

theorem keeps_execStepCommit (k : PlanKind) : OutKeeps s (execStepCommit k s) := by
  unfold execStepCommit
  split
  · exact .stays
  · exact .ite .stays (keeps_beginCheck (.ite (keeps_dieEvent (.refl s) ..) (.refl s)) ..)

theorem keeps_execTicketStallLimit (ctx : Fin 256) : OutKeeps s (execTicketStallLimit ctx s) := by
  unfold execTicketStallLimit
  extract_lets go
  have hgo (k : PlanKind) (c : Cur) (p : Pass) : OutKeeps s (go k c p) :=
    .ite .stays (keeps_abortAttempt (keeps_dieEvent (keeps_tkrErrSet (.refl s) ..) ..) ..)
  split
  · exact hgo ..
  · split
    · exact hgo ..
    · exact .stays

theorem keeps_execMirrorDrainDone : OutKeeps s (execMirrorDrainDone s) := by
  unfold execMirrorDrainDone
  split
  · exact .stays
  · exact .ite (keeps_commitEnd (.refl s) ..) .stays

theorem keeps_execCheckResultMessage (src : DeviceId) (pass atOnce : Bool) :
    OutKeeps s (execCheckResultMessage src pass atOnce s) := by
  unfold execCheckResultMessage
  split
  · exact .stays
  · extract_lets u
    have hu : Keeps s u := keeps_modPlan (.refl s) ..
    split
    · exact hu
    · exact .ite (keeps_decideChecks hu ..) hu

theorem keeps_execReplayStart (k : PlanKind) : OutKeeps s (execReplayStart k s) := by
  unfold execReplayStart
  split
  · exact .stays
  · exact .ite .stays (.ite (keeps_repairGranules (.refl s) ..) (keeps_startAttempt (keeps_modPlan (keeps_ctrRestore
      (keeps_attemptPins (keeps_dropEngines (.refl s) ..) ..) ..) ..) ..))

theorem keeps_execUpdateRetryStart : OutKeeps s (execUpdateRetryStart s) := by
  unfold execUpdateRetryStart
  split
  · exact .stays
  · exact .ite .stays (.ite (keeps_repairGranules (.refl s) ..) (keeps_anchorsOld (keeps_modPlan (keeps_ctrRestore
      (keeps_clearWindows (keeps_attemptPins (keeps_dropEngines (.refl s) ..) ..) ..) ..) ..) ..))

theorem keeps_execPhaseStart (k : PlanKind) : OutKeeps s (execPhaseStart k s) := by
  unfold execPhaseStart
  extract_lets u
  have hu : Keeps s u := .ite (keeps_atBoundary (.refl s) ..) (.refl s)
  split
  · exact hu
  · refine .ite hu ?_
    extract_lets r
    have hr : Keeps s r.1 := keeps_loadPhase hu ..
    split
    · exact keeps_failPlan hr ..
    · exact .ite hu (.ite (.ite hu (keeps_beginCheck hu ..)) (keeps_phaseEnter hr ..))

theorem keeps_execFreeWriteUnblock (r : Fin 256) : OutKeeps s (execFreeWriteUnblock r s) := by
  unfold execFreeWriteUnblock
  split
  · exact .stays
  · split
    · exact .stays
    · have h : Keeps s (modPhase (freeUnstall s r) .training fun f => { f with waits := f.waits.filter (· != r.val) }) :=
        keeps_modPhase (keeps_freeUnstall (.refl s) ..) ..
      exact .ite .stays (Keeps.ite (keeps_phaseGo h ..) h)

theorem keeps_execVersionStallExpire (r : Fin 256) : OutKeeps s (execVersionStallExpire r s) := by
  unfold execVersionStallExpire
  split
  · exact .stays
  · split
    · exact .stays
    · exact .ite (keeps_failPlan (.refl s) ..) .stays

theorem keeps_execPhaseLimitExceeded (k : PlanKind) : OutKeeps s (execPhaseLimitExceeded k s) := by
  unfold execPhaseLimitExceeded
  split
  · exact .stays
  · exact .ite (keeps_failPlan (.refl s) ..) .stays

theorem keeps_execPhaseEnd (k : PlanKind) (d : Die) : OutKeeps s (execPhaseEnd k d s) := by
  unfold execPhaseEnd
  split
  · exact .stays
  · refine .ite (keeps_failAtOnce (.refl s) ..) (.ite .stays (.ite (keeps_gathClose (.refl s) ..) (.ite .stays ?_)))
    refine .ite (keeps_modPhase (.refl s) ..) (.ite .stays ?_)
    extract_lets u
    have hu : Keeps s u := keeps_runCopies (.refl s) ..
    split
    · exact hu
    · exact .ite (keeps_failAtOnce hu ..) (keeps_phaseDone hu ..)

theorem keeps_execBranchDecide (k : PlanKind) : OutKeeps s (execBranchDecide k s) := by
  unfold execBranchDecide
  split
  · exact .stays
  · refine .ite .stays ?_
    split
    · exact .stays
    · exact keeps_modPlan (.refl s) ..

/-! ### Fences and tests -/

theorem keeps_execFenceTiles (iid : Nat) : OutKeeps s (execFenceTiles iid s) :=
  keeps_fenceRow (.refl s) _ _ _ _ fun _ _ h => keeps_fenceNow h ..

theorem keeps_execUnfenceTiles (iid : Nat) : OutKeeps s (execUnfenceTiles iid s) :=
  keeps_fenceRow (.refl s) _ _ _ _ fun _ _ h => keeps_unfenceNow h ..

theorem keeps_execDieQuarantine (iid : Nat) : OutKeeps s (execDieQuarantine iid s) :=
  keeps_quarRow (.refl s) _ _ _ _ fun _ _ h => keeps_quarantine h ..

theorem keeps_execDieUnquarantine (iid : Nat) : OutKeeps s (execDieUnquarantine iid s) :=
  keeps_quarRow (.refl s) _ _ _ _ fun _ _ h => keeps_unquarantine h ..

theorem keeps_execSelfTest (iid : Nat) : OutKeeps s (execSelfTest iid s) := by
  unfold execSelfTest
  have hdone (st : Nat) : Keeps s (complete s iid st) := keeps_complete (.refl s) ..
  have hheld : Keeps s (holdCmd s iid) := keeps_holdCmd (.refl s) ..
  split
  · exact .stays
  · exact .ite .stays (.ite (hdone _) (.ite (hdone _) (.ite (hdone _) (.ite hheld (.ite (Keeps.ite hheld (hdone _))
      (keeps_testAccept (keeps_unholdCmd (.refl s) ..) ..))))))

theorem keeps_execTestFenceStart (t : Tile) : OutKeeps s (execTestFenceStart t s) :=
  .ite (keeps_testFence (.refl s) ..) .stays

theorem keeps_execTileTestEnd (t : Tile) (sramFail accFail logicFail layer : Bool) (granule : Fin 131072) :
    OutKeeps s (execTileTestEnd t sramFail accFail logicFail layer granule s) := by
  unfold execTileTestEnd
  refine .ite .stays ?_
  split
  · exact .stays
  · exact keeps_testEnd (keeps_testResult (.refl s) ..) ..

/-! ### Memory maintenance -/

theorem keeps_execSramScrubRead (t : Tile) (g : Fin 196608) : OutKeeps s (execSramScrubRead t g s) :=
  .ite .stays (keeps_scrubTime (keeps_rawRead (.refl s) ..) ..)

theorem keeps_execDramPatrolRead (c : ChanNo) (burst : Nat) : OutKeeps s (execDramPatrolRead c burst s) :=
  .ite .stays (keeps_scrubTime (keeps_eccReadAll (.refl s) ..) ..)

theorem keeps_execWckTracking (c : ChanNo) (inWindow : Bool) : OutKeeps s (execWckTracking c inWindow s) :=
  .ite .stays (keeps_retrainStart (.refl s) ..)

theorem keeps_execChannelRetrainDone (c : ChanNo) : OutKeeps s (execChannelRetrainDone c s) :=
  .ite .stays (.ite (keeps_retrainEnd (keeps_wr (.refl s) ..) ..) (keeps_wr (.refl s) ..))

theorem keeps_execEvacuationStart (w : World) (val : W32) : OutKeeps s (execEvacuationStart w val s) :=
  .ite (keeps_evacWrite (.refl s) ..) .stays

theorem keeps_execEvacGranuleMove : OutKeeps s (execEvacGranuleMove s) := by
  unfold execEvacGranuleMove
  split
  · exact keeps_moveGranule (.refl s) ..
  · exact .stays

/-! ### The mesh and the bridges -/

theorem keeps_execMeshPacketRoute (p : MeshPacket) : OutKeeps s (execMeshPacketRoute p s) :=
  .ite .refuses (.ite (keeps_tileEvent (.refl s) ..) (keeps_meshTravel (.ite (keeps_cntAdd (.refl s) ..) (.refl s)) ..))

theorem keeps_execMcWrite (p : MeshPacket) : OutKeeps s (execMcWrite p s) := by
  unfold execMcWrite
  split
  · exact .refuses
  · exact .ite .refuses (.ite (keeps_tileEvent (.refl s) ..) (.ite .stays (keeps_mcStart (.refl s) ..)))

theorem keeps_execMcBranchPrune (id : Nat) (b : McBranch) : OutKeeps s (execMcBranchPrune id b s) := by
  unfold execMcBranchPrune
  split
  · exact .stays
  · exact .ite (keeps_cntAdd (keeps_mk.2 (.refl s)) ..) .stays

theorem keeps_execMcDone (id : Nat) : OutKeeps s (execMcDone id s) := by
  unfold execMcDone
  split
  · exact .stays
  · extract_lets u a v
    have hu : Keeps s u := keeps_emit (keeps_mcDeliver (keeps_mk.2 (.refl s)) ..) ..
    refine .ite hu (.ite (keeps_mcResend hu ..) ?_)
    have hv : Keeps s v := keeps_tileEvent (keeps_meshErrSet hu ..) ..
    show Keeps s _
    split
    · exact keeps_complete hv ..
    · exact hv

theorem keeps_execBridgeFlitReceive (b : BridgeLink) (f : BridgeFlit) : OutKeeps s (execBridgeFlitReceive b f s) :=
  .ite .refuses (.ite (keeps_setBridge (.refl s) ..) (keeps_emit (keeps_setBridge (keeps_rasBump (.refl s) ..) ..) ..))

theorem keeps_execBridgeNak (b : BridgeLink) (last : Fin 256) : OutKeeps s (execBridgeNak b last s) :=
  .ite (keeps_setBridge (.refl s) ..) (keeps_bridgeReplay (keeps_setBridge (.refl s) ..) ..)

theorem keeps_execBridgeRetrain (b : BridgeLink) : OutKeeps s (execBridgeRetrain b s) :=
  .ite (keeps_setBridge (.refl s) ..) .stays

theorem keeps_execBridgeRetrainDone (b : BridgeLink) : OutKeeps s (execBridgeRetrainDone b s) :=
  .ite (keeps_bridgeReplay (keeps_setBridge (.refl s) ..) ..) .stays

theorem keeps_execNmuJobEnd : OutKeeps s (execNmuJobEnd s) := by
  unfold execNmuJobEnd
  split
  · exact .stays
  · exact .ite (keeps_nmuEnd (keeps_wr (.refl s) ..) ..)
      (.ite .stays (keeps_nmuEnd (.ite (keeps_devRead (.refl s) ..) (.refl s)) ..))

/-! ### Queues -/

theorem keeps_execQsend (k : PlanKind) (q : Fin 16) : OutKeeps s (execQsend k q s) := by
  unfold execQsend
  split
  · exact .stays
  · exact .ite .stays (.ite .stays (.ite (keeps_qStall (.refl s) ..) (keeps_sendEntry (.refl s) ..)))

theorem keeps_execQrecv (k : PlanKind) (q : Fin 16) : OutKeeps s (execQrecv k q s) := by
  unfold execQrecv
  split
  · exact .stays
  · exact .ite .stays (.ite (keeps_qStall (.refl s) ..) (keeps_takeEntry (.refl s) ..))

theorem keeps_execQueueEntryReceive (qid : Fin 256) (step : W64) (attempt : Fin 8) (seq msg : W32) (data : Bytes) :
    OutKeeps s (execQueueEntryReceive qid step attempt seq msg data s) := by
  unfold execQueueEntryReceive
  refine .ite .refuses ?_
  split
  · exact keeps_entryEarly (.refl s) ..
  · split
    · exact .stays
    · refine .ite .stays ?_
      split <;> rename_i u hu <;> have h : Keeps s u := .pair hu (keeps_peerCheck (.refl s) ..)
      · exact h
      · exact keeps_sendDone h ..
      · exact .ite (keeps_staleEntry h ..) (.ite (keeps_entryRetry h ..) (keeps_entryCame h ..))

theorem keeps_execQueueLimitExpire (k : PlanKind) (q : Fin 16) : OutKeeps s (execQueueLimitExpire k q s) := by
  unfold execQueueLimitExpire
  split
  · exact .stays
  · exact .ite (keeps_failPlan (.refl s) ..) .stays

/-! ### Links and configuration epochs -/

theorem keeps_execLhlFlitReceive (f : Flit) : OutKeeps s (execLhlFlitReceive f s) :=
  .ite (keeps_receiveFlit (.refl s) ..) .refuses

theorem keeps_execQxfFlitReceive (p : PortNo) (f : Flit) : OutKeeps s (execQxfFlitReceive p f s) :=
  .ite (keeps_receiveFlit (.refl s) ..) .refuses

theorem keeps_execPortDownTimeout (p : PortNo) : OutKeeps s (execPortDownTimeout p s) :=
  .ite .stays (Keeps.foldl (fun _ _ h => keeps_packetLost h ..) _ (keeps_setLink (.refl s) ..))

theorem keeps_execConfigCommit (iid : Nat) : OutKeeps s (execConfigCommit iid s) :=
  keeps_commitRow (.refl s) _ _ fun _ _ h => .ite (keeps_completeInfo h ..) (.ite (keeps_holdCmd h ..)
    (.ite (keeps_completeInfo h ..) (keeps_transitionStart h ..)))

theorem keeps_execConfigDiscard (iid : Nat) : OutKeeps s (execConfigDiscard iid s) := by
  refine keeps_commitRow (.refl s) _ _ fun _ c h => keeps_completeInfo ?_ ..
  cases c.world <;> exact keeps_mk.2 h

theorem keeps_execEpochMarker (b : EpochBlock) : OutKeeps s (execEpochMarker b s) := by
  unfold execEpochMarker
  split
  · exact .stays
  · refine .ite ?_ .stays
    extract_lets q u
    have hu : Keeps s u := keeps_mk.2 (.refl s)
    split
    · exact keeps_rateTrain hu ..
    · exact keeps_portEnable hu ..
    · exact hu

theorem keeps_execTransitionEnd : OutKeeps s (execTransitionEnd s) := by
  unfold execTransitionEnd
  split
  · exact .stays
  · exact .ite (keeps_transitionEnd (.refl s) ..) .stays

/-! ### Snapshots -/

theorem keeps_execSnapshotCapture : OutKeeps s (execSnapshotCapture s) := by
  unfold execSnapshotCapture
  split
  · exact .stays
  · exact .ite (keeps_capture (.refl s) ..) .stays

theorem keeps_execCowCopy (w : World) (addr : DevAddr) (data : Bytes) : OutKeeps s (execCowCopy w addr data s) := by
  unfold execCowCopy
  refine .ite .refuses ?_
  split
  · exact .stays
  · exact .ite (keeps_devWriteL (.refl s) ..) .stays

/-! ### Resets -/

theorem keeps_execModResetN (lowNs : Nat) (b : BringUp) : OutKeeps s (execModResetN lowNs b s) := by
  refine .ite .stays ?_
  extract_lets r
  have hr : Keeps s r.1 := .ite1 (keeps_drawFree (.refl s)) (.refl s)
  exact .ite hr (.ite (keeps_warmReset hr ..) (keeps_coldReset hr ..))

theorem keeps_execModResetNRelease (b : BringUp) : OutKeeps s (execModResetNRelease b s) :=
  .ite (keeps_bringUp (.refl s) ..) .stays

theorem keeps_execInputPowerRise (b : BringUp) : OutKeeps s (execInputPowerRise b s) :=
  .ite .stays (keeps_coldReset (keeps_modPlat (keeps_wrf (keeps_wrf (.refl s) ..) ..) ..) ..)

theorem keeps_execInputPowerLoss : OutKeeps s (execInputPowerLoss s) :=
  keeps_modPlat (keeps_coldClear (.refl s) ..) ..

theorem keeps_execRscSwrstCold (w : World) (b : BringUp) : OutKeeps s (execRscSwrstCold w b s) :=
  keeps_swrstOk (.refl s) _ fun _ h => keeps_coldReset h ..

theorem keeps_execRscSwrstWarm (w : World) (b : BringUp) : OutKeeps s (execRscSwrstWarm w b s) :=
  keeps_swrstOk (.refl s) _ fun _ h => keeps_warmReset h ..

theorem keeps_execRscSwrstDie (w : World) (d : Die) : OutKeeps s (execRscSwrstDie w d s) :=
  keeps_swrstOk (.refl s) _ fun _ h => keeps_dieReset (keeps_wr h ..) ..

theorem keeps_execBlockQuiesceDone : OutKeeps s (execBlockQuiesceDone s) :=
  .ite (keeps_blockEnd (.refl s) ..) .stays

theorem keeps_execBlockQuiesceTimeout (aborted : Nat) : OutKeeps s (execBlockQuiesceTimeout aborted s) :=
  .ite (keeps_blockEnd (.ite (.refl s) (.foldl (fun _ _ h => keeps_failCtx h ..) _ (keeps_rasBump (.refl s) ..))) ..) .stays

/-! ### Power -/

theorem keeps_execSetShade (iid : Nat) : OutKeeps s (execSetShade iid s) := by
  unfold execSetShade
  split
  · exact keeps_setShadeGo (.refl s) ..
  · exact .stays

theorem keeps_execSetPoint (iid : Nat) : OutKeeps s (execSetPoint iid s) := by
  unfold execSetPoint
  split
  · exact .stays
  · exact keeps_settlePoints (.ite (keeps_refreshPoints (keeps_setCeil (keeps_modIssued (.refl s) ..) ..) ..) (.refl s)) ..

theorem keeps_execGate (iid : Nat) : OutKeeps s (execGate iid s) := by
  unfold execGate
  split
  · exact .stays
  · exact Keeps.ite (keeps_gateRow (.refl s) _ fun _ h => keeps_gateStep h ..) (.refl s)

theorem keeps_execUngate (iid : Nat) : OutKeeps s (execUngate iid s) := by
  unfold execUngate
  split
  · exact .stays
  · exact keeps_gateRow (.refl s) _ fun _ h => keeps_complete (keeps_ungateTiles h ..) ..

theorem keeps_execPowerReading (watts : Fin 4096) : OutKeeps s (execPowerReading watts s) :=
  Keeps.ite (keeps_powerPoint (keeps_wrf (.refl s) ..) ..) (.refl s)

theorem keeps_execTclkSwitchUp (d : Die) : OutKeeps s (execTclkSwitchUp d s) :=
  Keeps.ite (keeps_settlePoints (keeps_setPointOf (.refl s) ..) ..) (.refl s)

theorem keeps_execAmberSample (sensor : Fin 101) (raw : BitVec 16) : OutKeeps s (execAmberSample sensor raw s) :=
  Keeps.ite (keeps_sampleOne (.refl s) ..) (.refl s)

theorem keeps_execThermalStepRepeat : OutKeeps s (execThermalStepRepeat s) :=
  Keeps.ite (.foldl (fun _ _ h => keeps_stepDown h ..) _ (.refl s)) (.refl s)

theorem keeps_execThermalPointRise : OutKeeps s (execThermalPointRise s) :=
  Keeps.ite (keeps_refreshPoints (keeps_modPlat (.refl s) ..) ..) (.refl s)

theorem keeps_execAmberShadeEntry : OutKeeps s (execAmberShadeEntry s) :=
  Keeps.ite (.refl s) (.ite (keeps_enterGrey (.refl s) ..) (.ite (.refl s) (keeps_enterDark (.refl s) ..)))

theorem keeps_execRegulatorAlert (st : RegStatus) : OutKeeps s (execRegulatorAlert st s) :=
  Keeps.ite (.refl s) (.ite (keeps_modPlat (keeps_wireWake (keeps_trip (.refl s) ..) ..) ..) (keeps_wireWake (.refl s) ..))

theorem keeps_execAmbWdogKick (w : World) : OutKeeps s (execAmbWdogKick w s) :=
  Keeps.ite (keeps_wdogKick (.refl s) ..) (keeps_countDenied (.refl s) ..)

theorem keeps_execWatchdogExpire (b : BringUp) : OutKeeps s (execWatchdogExpire b s) :=
  Keeps.ite (keeps_warmReset (.refl s) ..) (.refl s)

theorem keeps_execAmberCoreUe (b : BringUp) : OutKeeps s (execAmberCoreUe b s) :=
  Keeps.ite (.refl s) (.ite (keeps_rasBump (.refl s) ..) (keeps_warmReset (keeps_mk.2 (keeps_rasBump (.refl s) ..)) ..))

theorem keeps_execAmberAlarm : OutKeeps s (execAmberAlarm s) := by
  unfold execAmberAlarm
  extract_lets x u r v
  have hu : Keeps s u := keeps_wireWake (.refl s) ..
  refine .ite ?_ .stays
  exact keeps_wr (.ite (keeps_evcFire (keeps_drawFree hu) ..) hu) ..

theorem keeps_execTimeAlignPulse (skew : Byte) : OutKeeps s (execTimeAlignPulse skew s) :=
  Keeps.ite (keeps_wrf (.refl s) ..) (.refl s)

theorem keeps_execAutoGreyEntry : OutKeeps s (execAutoGreyEntry s) :=
  Keeps.ite (keeps_enterGrey (.refl s) ..) (.refl s)

theorem keeps_execShadeWake (x : WakeTrigger) : OutKeeps s (execShadeWake x s) :=
  Keeps.ite (.ite (keeps_wakeWhite (.refl s) ..) (.refl s)) (.ite (keeps_charcoalWake (.refl s) ..) (.refl s))

theorem keeps_execBlackWake (x : WakeTrigger) (b : BringUp) : OutKeeps s (execBlackWake x b s) := by
  refine .ite .stays ?_
  extract_lets u
  have hu : Keeps s u := by
    unfold u
    split
    · exact keeps_wireWake (.refl s) ..
    · exact .refl s
  exact Keeps.ite (keeps_leaveBlack hu ..) hu

theorem keeps_execModWakeN : OutKeeps s (execModWakeN s) :=
  Keeps.ite (keeps_wireWake (.refl s) ..) (.refl s)

/-! ### Firmware and security -/

theorem keeps_fwActivate (iid mode : Nat) : Keeps s (fwRow s iid 0x0061 (activateGo mode)) :=
  keeps_fwRow (.refl s) _ _ fun _ _ h => keeps_activateGo h ..

theorem keeps_execFwStage (iid : Nat) : OutKeeps s (execFwStage iid s) :=
  keeps_fwRow (.refl s) _ _ fun _ _ h => keeps_stageGo h ..

theorem keeps_execFwConfirm (iid : Nat) : OutKeeps s (execFwConfirm iid s) :=
  keeps_fwRow (.refl s) _ _ fun _ _ h => keeps_confirmGo h ..

theorem keeps_execActivationCommit (b : BringUp) : OutKeeps s (execActivationCommit b s) := by
  unfold execActivationCommit
  split
  · exact .stays
  · have h : Keeps s (activationRecord s) := keeps_activationRecord (.refl s) ..
    exact .ite .stays (.ite (keeps_modPlat h ..) (.ite .stays
      (Keeps.ite (keeps_warmReset (keeps_fwEnd h ..) ..) (keeps_coldReset (keeps_fwEnd h ..) ..))))

theorem keeps_execInPlaceRestartDone : OutKeeps s (execInPlaceRestartDone s) := by
  unfold execInPlaceRestartDone
  split
  · exact .stays
  · exact keeps_fwEnd (keeps_drainAll (keeps_runFirmware (keeps_wdogKick (keeps_modPlat (.refl s) ..) ..) ..) ..) ..

theorem keeps_execAshBegin (slot : Fin 2) (len : Nat) : OutKeeps s (execAshBegin slot len s) :=
  Keeps.ite (.refl s) (.ite (keeps_ashAnswer (.refl s) ..) (keeps_ashAnswer (keeps_modPlat (keeps_eraseSlot (.refl s) ..) ..) ..))

theorem keeps_execAshData (off : Nat) (data : Bytes) : OutKeeps s (execAshData off data s) := by
  unfold execAshData
  split
  · exact Keeps.ite (keeps_ashAnswer (.refl s) ..) (.refl s)
  · exact Keeps.ite (keeps_ashAnswer (.refl s) ..) (keeps_ashAnswer (keeps_flashPut (.refl s) ..) ..)

theorem keeps_execAshEnd (b : BringUp) : OutKeeps s (execAshEnd b s) := by
  unfold execAshEnd
  split
  · exact Keeps.ite (keeps_ashAnswer (.refl s) ..) (.refl s)
  · extract_lets r u v
    have hu : Keeps s u := keeps_modPlat (.refl s) ..
    have hv : Keeps s v := keeps_wrf (keeps_recWrite (keeps_ashAnswer hu ..) ..) ..
    clear_value r
    exact .ite (keeps_ashAnswer (keeps_eraseSlot hu ..) ..) (keeps_coldReset hv ..)

theorem keeps_execRevokeSlot (w : World) (slot : Fin 4) : OutKeeps s (execRevokeSlot w slot s) :=
  keeps_secureOnly (.refl s) _ fun _ h => keeps_fuseCmd h ..

theorem keeps_execAttestPeer (w : World) (peer : DeviceId) : OutKeeps s (execAttestPeer w peer s) :=
  keeps_secureOnly (.refl s) _ fun _ h => keeps_attestWrite h ..

theorem keeps_execAttestResult (r : AttestEnd) : OutKeeps s (execAttestResult r s) := by
  have h (e : Nat) : Keeps s (attestEnd s e) := keeps_attestEnd (.refl s) ..
  refine Keeps.ite (.refl s) ?_
  cases r with
  | pass i => exact .ite (h _) (keeps_attestPass (h _) ..)
  | noAnswer => exact h _
  | chainFailed => exact h _
  | signatureFailed => exact h _
  | refused => exact h _

theorem keeps_execGetCertificate (t : Transport) (slot : Byte) (req : Bytes) : OutKeeps s (execGetCertificate t slot req s) :=
  .ite (keeps_spdmRow (.refl s) ..) (keeps_spdmNo (.refl s) ..)

theorem keeps_execDbgNonceRead (h : Half) : OutKeeps s (execDbgNonceRead h s) := by
  cases h with
  | high => exact .stays
  | low => exact keeps_emit (keeps_nonceRead (.refl s) ..) ..
  | full => exact keeps_emit (keeps_nonceRead (.refl s) ..) ..

theorem keeps_execSetEndpointId (eid : Byte) : OutKeeps s (execSetEndpointId eid s) :=
  Keeps.ite (keeps_sbAnswer (keeps_modPlat (.refl s) ..) ..) (.refl s)

theorem keeps_execEntdaa (addr : Fin 128) : OutKeeps s (execEntdaa addr s) :=
  Keeps.ite (keeps_modPlat (.refl s) ..) (.refl s)

theorem keeps_execPldmUnsupportedCmd (typ cmd : Byte) : OutKeeps s (execPldmUnsupportedCmd typ cmd s) :=
  Keeps.ite (keeps_emit (.refl s) ..) (.refl s)

/-! ### The configuration window and what the host completes -/

/-- A row that is one write of the window, where the window is up. -/
theorem keeps_windowWrite (w : World) (off size v : Nat) : Keeps s (if windowUp s then winWrite s w off size v else s) :=
  .ite (keeps_winWrite (.refl s) ..) (.refl s)

theorem keeps_execCfgRd (w : World) (tag : Fin 4096) (off : W32) (size : Nat) : OutKeeps s (execCfgRd w tag off size s) :=
  .ite (keeps_cplOut (keeps_winRead (.refl s) ..) ..) .stays

theorem keeps_execCfgWr (w : World) (tag : Fin 4096) (off : W32) (size : Nat) (val : W64) :
    OutKeeps s (execCfgWr w tag off size val s) :=
  .ite (keeps_cplOut (keeps_winWrite (.refl s) ..) ..) .stays

theorem keeps_execNudge (w : World) (operand : W64) : OutKeeps s (execNudge w operand s) :=
  have h : Keeps s (cntAdd s .hqeCnt 5 0 1) := keeps_cntAdd (.refl s) ..
  .ite .stays (.ite (keeps_msgDropped (.refl s) ..)
    (.ite (keeps_mk.2 h) (keeps_nudgeGo (.ite (keeps_wakeWhite h ..) h) ..)))

theorem keeps_execWake (w : World) (operand : W64) : OutKeeps s (execWake w operand s) :=
  .ite .stays (.ite (keeps_msgDropped (.refl s) ..) (keeps_wakeWhite (keeps_setInterval (.refl s) ..) ..))

theorem keeps_execHqeScan : OutKeeps s (execHqeScan s) :=
  .ite (keeps_hqeScanOnce (.refl s) ..) (keeps_hqeScanOnce (.foldl (fun _ _ h => keeps_nudgeGo h ..) _ (keeps_mk.2 (.refl s))) ..)

theorem keeps_execHostCompletion (tag : Fin 4096) (status : Fin 4) (data : Bytes) :
    OutKeeps s (execHostCompletion tag status data s) := by
  unfold execHostCompletion
  refine .ite .refuses ?_
  split
  · exact .stays
  · split
    · exact .ite .stays (keeps_hostData (.refl s) ..)
    · exact keeps_hostFail (.refl s) ..
    · exact keeps_hostFail (.refl s) ..
    · exact .stays

theorem keeps_execCplTimeout (tag : Fin 4096) : OutKeeps s (execCplTimeout tag s) := by
  unfold execCplTimeout
  split
  · exact .stays
  · exact keeps_hostFail (.refl s) ..

theorem keeps_execLhlDownLimit : OutKeeps s (execLhlDownLimit s) :=
  .ite .stays (keeps_failReqs (keeps_cntAdd (keeps_mk.2 (.refl s)) ..) ..)

/-! ### Every command -/

/-- Every command keeps the queue of commands and the tables' canonical form. -/
theorem keeps_exec (i : Instr) (s : State) : OutKeeps s (exec i s) := by
  unfold exec
  cases i with
  | registerWrite => exact keeps_windowWrite ..
  | cfgRd => exact keeps_execCfgRd ..
  | cfgWr => exact keeps_execCfgWr ..
  | gblLayoutErrRead => exact keeps_coreRead (.refl s) ..
  | tilSlotErrRead => exact keeps_coreRead (.refl s) ..
  | tilGmeErrRead => exact keeps_coreRead (.refl s) ..
  | tilVeErrRead => exact keeps_coreRead (.refl s) ..
  | tkrErrRead => exact keeps_coreRead (.refl s) ..
  | mshErrRead => exact keeps_coreRead (.refl s) ..
  | qxfErrRead => exact keeps_coreRead (.refl s) ..
  | ckgSyncRead => exact keeps_coreRead (.refl s) ..
  | ckgTimeWrite => exact keeps_windowWrite ..
  | nop => exact keeps_execNop ..
  | copyIn => exact keeps_copyRow (.refl s) ..
  | copyOut => exact keeps_copyRow (.refl s) ..
  | copyDev => exact keeps_copyRow (.refl s) ..
  | heldCopyStart => exact keeps_copyTry (.refl s) ..
  | runPlan => exact keeps_planRow (.refl s) ..
  | runPlanEval => exact keeps_planRow (.refl s) ..
  | runPlanRecompute => exact keeps_planRow (.refl s) ..
  | heldPlanStart => exact keeps_execHeldPlanStart ..
  | stepAnswer => exact keeps_stepAnswerRow (.refl s) ..
  | cancelBatch => exact keeps_execCancelBatch ..
  | configCommit => exact keeps_execConfigCommit ..
  | configDiscard => exact keeps_execConfigDiscard ..
  | epochMarker => exact keeps_execEpochMarker ..
  | transitionEnd => exact keeps_execTransitionEnd ..
  | snapshot => exact keeps_snapRow (.refl s) ..
  | snapshotCapture => exact keeps_execSnapshotCapture ..
  | cowCopy => exact keeps_execCowCopy ..
  | snapshotPageSend => exact keeps_snapPageSend (.refl s) ..
  | snapshotAuto => exact keeps_autoGo (.refl s) ..
  | restore => exact keeps_restoreRow (.refl s) ..
  | fenceTiles => exact keeps_execFenceTiles ..
  | unfenceTiles => exact keeps_execUnfenceTiles ..
  | dieQuarantine => exact keeps_execDieQuarantine ..
  | dieUnquarantine => exact keeps_execDieUnquarantine ..
  | selfTest => exact keeps_execSelfTest ..
  | testFenceStart => exact keeps_execTestFenceStart ..
  | tileTestEnd => exact keeps_execTileTestEnd ..
  | loadRoutingContexts => exact keeps_contextsRow (.refl s) ..
  | loadVersionedRegions => exact keeps_regionsRow (.refl s) ..
  | loadRouteBank => exact keeps_routesRow (.refl s) ..
  | loadPeerEntries => exact keeps_peersRow (.refl s) ..
  | loadCloseGroups => exact keeps_groupsRow (.refl s) ..
  | loadReductionWindows => exact keeps_windowsRow (.refl s) ..
  | fwStage => exact keeps_execFwStage ..
  | fwActivateAuto => exact keeps_fwActivate ..
  | fwActivateInPlace => exact keeps_fwActivate ..
  | fwActivateWarm => exact keeps_fwActivate ..
  | fwActivateCold => exact keeps_fwActivate ..
  | activationCommit => exact keeps_execActivationCommit ..
  | fwConfirm => exact keeps_execFwConfirm ..
  | setShade => exact keeps_execSetShade ..
  | setPoint => exact keeps_execSetPoint ..
  | gate => exact keeps_execGate ..
  | ungate => exact keeps_execUngate ..
  | phaseStart => exact keeps_execPhaseStart ..
  | freeWriteUnblock => exact keeps_execFreeWriteUnblock ..
  | versionStallExpire => exact keeps_execVersionStallExpire ..
  | phaseEnd => exact keeps_execPhaseEnd ..
  | branchDecide => exact keeps_execBranchDecide ..
  | phaseLimitExceeded => exact keeps_execPhaseLimitExceeded ..
  | stepCommit => exact keeps_execStepCommit ..
  | mirrorDrainDone => exact keeps_execMirrorDrainDone ..
  | checkResultMessage => exact keeps_execCheckResultMessage ..
  | replayStart => exact keeps_execReplayStart ..
  | updateRetryStart => exact keeps_execUpdateRetryStart ..
  | qsend => exact keeps_execQsend ..
  | qrecv => exact keeps_execQrecv ..
  | queueEntryReceive => exact keeps_execQueueEntryReceive ..
  | queueLimitExpire => exact keeps_execQueueLimitExpire ..
  | denseTaskTake => exact keeps_execDenseTaskTake ..
  | outputBlockFinish => exact keeps_execOutputBlockFinish ..
  | sheetBlockArrive => exact keeps_execSheetBlockArrive ..
  | splitkPartDone => exact keeps_execSplitkPartDone ..
  | splitkClose => exact keeps_execSplitkClose ..
  | gatherPosting => exact keeps_execGatherPosting ..
  | gatherFlushExpire => exact keeps_execGatherFlushExpire ..
  | packedSuperblockWrite => exact keeps_execPackedSuperblockWrite ..
  | blockMerge => exact keeps_execBlockMerge ..
  | gmeSpprod => exact keeps_execGmeSpprod ..
  | gmeGather => exact keeps_execGmeGather ..
  | gmeScatter => exact keeps_execGmeScatter ..
  | gmeScatterAcc => exact keeps_execGmeScatterAcc ..
  | gmeSegsum => exact keeps_execGmeSegsum ..
  | gmeRaggedCat => exact keeps_execGmeRaggedCat ..
  | gmeSortKey => exact keeps_execGmeSortKey ..
  | gmeMergeKey => exact keeps_execGmeMergeKey ..
  | gmeTopk => exact keeps_execGmeTopk ..
  | partCutsReady => exact keeps_execPartCutsReady ..
  | ownerContribution => exact keeps_execOwnerContribution ..
  | anchorPassClose => exact keeps_execAnchorPassClose ..
  | ownerFinish => exact keeps_execOwnerFinish ..
  | veTaskTake => exact keeps_execVeTaskTake ..
  | ldb => exact keeps_execLdb ..
  | stb => exact keeps_execStb ..
  | mov => exact keeps_execMov ..
  | add => exact keeps_veElem
  | sub => exact keeps_veElem
  | mul => exact keeps_veElem
  | fma => exact keeps_veElem
  | max => exact keeps_veElem
  | min => exact keeps_veElem
  | abs => exact keeps_veElem
  | neg => exact keeps_veElem
  | cvt => exact keeps_veElem
  | cmplt => exact keeps_veElem
  | cmpeq => exact keeps_veElem
  | sel => exact keeps_veElem
  | exp => exact keeps_veTrans
  | log => exact keeps_veTrans
  | rsqrt => exact keeps_veTrans
  | tanh => exact keeps_veTrans
  | rcp => exact keeps_veTrans
  | perm => exact keeps_veLanes
  | shuf => exact keeps_execShuf ..
  | pack => exact keeps_execPack ..
  | unpack => exact keeps_execUnpack ..
  | trb => exact keeps_veLanes
  | rowsum => exact keeps_veRowSum
  | rowdot => exact keeps_veRowSum
  | rowmax => exact keeps_veRowExt
  | rowmin => exact keeps_veRowExt
  | rowcnt => exact keeps_execRowcnt ..
  | colsum => exact keeps_execColsum ..
  | divn => exact keeps_execDivn ..
  | xch => exact keeps_execXch ..
  | xchCombine => exact keeps_execXchCombine ..
  | rowtopk => exact keeps_execRowtopk ..
  | tkemit => exact keeps_execTkemit ..
  | summ => exact keeps_execSumm ..
  | acceptBlockRow => exact keeps_execAcceptBlockRow ..
  | dispatchFrame => exact keeps_execDispatchFrame ..
  | closeFrame => exact keeps_execCloseFrame ..
  | epochFrame => exact keeps_execEpochFrame ..
  | arrivalFlush => exact keeps_execArrivalFlush ..
  | returnSend => exact keeps_execReturnSend ..
  | returnFrame => exact keeps_execReturnFrame ..
  | answerTimeout => exact keeps_execAnswerTimeout ..
  | ticketStallLimit => exact keeps_execTicketStallLimit ..
  | nmuFill => exact keeps_nmuRow (.refl s) ..
  | nmuInitUniform => exact keeps_nmuRow (.refl s) ..
  | nmuSgdm => exact keeps_nmuRow (.refl s) ..
  | nmuAdamw => exact keeps_nmuRow (.refl s) ..
  | nmuScale => exact keeps_nmuRow (.refl s) ..
  | nmuCompare => exact keeps_nmuRow (.refl s) ..
  | nmuJobEnd => exact keeps_execNmuJobEnd ..
  | sramScrubRead => exact keeps_execSramScrubRead ..
  | dramPatrolRead => exact keeps_execDramPatrolRead ..
  | dramRefresh => exact keeps_wrf (.refl s) ..
  | zqLatch => exact .stays
  | wckTracking => exact keeps_execWckTracking ..
  | channelRetrain => exact keeps_retrainStart (.refl s) ..
  | evacuationStart => exact keeps_execEvacuationStart ..
  | evacGranuleMove => exact keeps_execEvacGranuleMove ..
  | meshPacketRoute => exact keeps_execMeshPacketRoute ..
  | mcWrite => exact keeps_execMcWrite ..
  | mcBranchPrune => exact keeps_execMcBranchPrune ..
  | mcDone => exact keeps_execMcDone ..
  | bridgeFlitReceive => exact keeps_execBridgeFlitReceive ..
  | bridgeNak => exact keeps_execBridgeNak ..
  | bridgeRetrain => exact keeps_execBridgeRetrain ..
  | lhlFlitReceive => exact keeps_execLhlFlitReceive ..
  | lhlNak => exact keeps_takeNak (.refl s) ..
  | lhlReplayTimeout => exact keeps_replayTimeout (.refl s) ..
  | lhlAckDue => exact keeps_sendAck (.refl s) ..
  | lhlSignalDetect => exact keeps_signalDetect (.refl s) ..
  | lhlTrainDone => exact keeps_trainDone (.refl s) ..
  | lhlTrainTimeout => exact keeps_trainTimeout (.refl s) ..
  | lhlRetrainEntry => exact keeps_retrainEntry (.refl s) ..
  | lhlRetrainDone => exact keeps_retrainDone (.refl s) ..
  | lhlRetrainTimeout => exact keeps_retrainTimeout (.refl s) ..
  | lhlDownLimit => exact keeps_execLhlDownLimit ..
  | hostCompletion => exact keeps_execHostCompletion ..
  | cplTimeout => exact keeps_execCplTimeout ..
  | nudge => exact keeps_execNudge ..
  | wake => exact keeps_execWake ..
  | lhlResetCold => exact keeps_lhlReset (.refl s) ..
  | lhlResetWarm => exact keeps_lhlReset (.refl s) ..
  | lhlResetDie => exact keeps_lhlReset (.refl s) ..
  | hqeScan => exact keeps_execHqeScan ..
  | descriptorFetch => exact keeps_execDescriptorFetch ..
  | descriptorSeqRecheck => exact keeps_execDescriptorSeqRecheck ..
  | descriptorIssue => exact keeps_issueNext (.refl s) ..
  | cqSpacePoll => exact keeps_execCqSpacePoll ..
  | coalesceTimer => exact keeps_execCoalesceTimer ..
  | ringEnable => exact keeps_ringRow (.refl s) ..
  | ringDisable => exact keeps_ringRow (.refl s) ..
  | ringDrained => exact keeps_execRingDrained ..
  | ringReset => exact keeps_ringRow (.refl s) ..
  | qxfFlitReceive => exact keeps_execQxfFlitReceive ..
  | qxfNak => exact keeps_takeNak (.refl s) ..
  | qxfReplayTimeout => exact keeps_replayTimeout (.refl s) ..
  | qxfSignalDetect => exact keeps_signalDetect (.refl s) ..
  | qxfTrainDone => exact keeps_trainDone (.refl s) ..
  | qxfTrainTimeout => exact keeps_trainTimeout (.refl s) ..
  | qxfRetrainEntry => exact keeps_retrainEntry (.refl s) ..
  | qxfRetrainDone => exact keeps_retrainDone (.refl s) ..
  | qxfRetrainTimeout => exact keeps_retrainTimeout (.refl s) ..
  | portDownTimeout => exact keeps_execPortDownTimeout ..
  | fabricTransit => exact keeps_execFabricTransit ..
  | fabricWrite => exact keeps_execFabricWrite ..
  | fabricRead => exact keeps_execFabricRead ..
  | fabricResponse => exact keeps_execFabricResponse ..
  | reductionContribution => exact keeps_execReductionContribution ..
  | reductionWaitTimeout => exact keeps_execReductionWaitTimeout ..
  | anchorMessage => exact keeps_execAnchorMessage ..
  | mirrorMessage => exact keeps_execMirrorMessage ..
  | doneReceive => exact keeps_execDoneReceive ..
  | retryResend => exact keeps_execRetryResend ..
  | probeReceive => exact keeps_execProbeReceive ..
  | msgTimeoutExpire => exact keeps_execMsgTimeoutExpire ..
  | probeInterval => exact keeps_execProbeInterval ..
  | peerCacheFill => exact keeps_execPeerCacheFill ..
  | mirrorSeedPage => exact keeps_execMirrorSeedPage ..
  | mirrorReseed => exact keeps_mirReseedAll (.refl s) ..
  | rasWatchRearm => exact keeps_windowWrite ..
  | revokeSlot => exact keeps_execRevokeSlot ..
  | attestPeer => exact keeps_execAttestPeer ..
  | attestResult => exact keeps_execAttestResult ..
  | getVersion => exact keeps_spdmRow (.refl s) ..
  | getCapabilities => exact keeps_spdmRow (.refl s) ..
  | negotiateAlgorithms => exact keeps_spdmRow (.refl s) ..
  | getDigests => exact keeps_spdmRow (.refl s) ..
  | getCertificate => exact keeps_execGetCertificate ..
  | challenge => exact keeps_spdmRow (.refl s) ..
  | getMeasurements => exact keeps_spdmRow (.refl s) ..
  | spdmUnsupportedRequest => exact keeps_spdmNo (.refl s) ..
  | dbgNonceRead => exact keeps_execDbgNonceRead ..
  | dbgResponseCheck => exact keeps_dbgCheck (.refl s) ..
  | dbgLockoutExpire => exact keeps_modPlat (.refl s) ..
  | powerReading => exact keeps_execPowerReading ..
  | tclkSwitchUp => exact keeps_execTclkSwitchUp ..
  | amberSample => exact keeps_execAmberSample ..
  | thermalStepRepeat => exact keeps_execThermalStepRepeat ..
  | thermalPointRise => exact keeps_execThermalPointRise ..
  | amberShadeEntry => exact keeps_execAmberShadeEntry ..
  | regulatorAlert => exact keeps_execRegulatorAlert ..
  | ambWdogKick => exact keeps_execAmbWdogKick ..
  | watchdogExpire => exact keeps_execWatchdogExpire ..
  | amberAlarm => exact keeps_execAmberAlarm ..
  | aclkTrim => exact .stays
  | timeAlignPulse => exact keeps_execTimeAlignPulse ..
  | autoGreyEntry => exact keeps_execAutoGreyEntry ..
  | tileClockGate => exact .stays
  | shadeWake => exact keeps_execShadeWake ..
  | blackWake => exact keeps_execBlackWake ..
  | eventFire => exact keeps_windowWrite ..
  | eventClaim => exact keeps_coreRead (.refl s) ..
  | eventEoi => exact keeps_windowWrite ..
  | eventRecordWrite => exact keeps_execEventRecordWrite ..
  | modWakeN => exact keeps_execModWakeN ..
  | modResetN => exact keeps_execModResetN ..
  | inputPowerRise => exact keeps_execInputPowerRise ..
  | inputPowerLoss => exact keeps_execInputPowerLoss ..
  | rscSwrstCold => exact keeps_execRscSwrstCold ..
  | rscSwrstWarm => exact keeps_execRscSwrstWarm ..
  | rscSwrstDie => exact keeps_execRscSwrstDie ..
  | blockReset => exact keeps_blockReset (.refl s) ..
  | blockQuiesceDone => exact keeps_execBlockQuiesceDone ..
  | blockQuiesceTimeout => exact keeps_execBlockQuiesceTimeout ..
  | rscBootGood => exact keeps_bootGood (.refl s) ..
  | ashBegin => exact keeps_execAshBegin ..
  | ashData => exact keeps_execAshData ..
  | ashEnd => exact keeps_execAshEnd ..
  | setEndpointId => exact keeps_execSetEndpointId ..
  | getEndpointId => exact keeps_sbAnswer (.refl s) ..
  | getMctpVersionSupport => exact keeps_sbAnswer (.refl s) ..
  | getMessageTypeSupport => exact keeps_sbAnswer (.refl s) ..
  | entdaa => exact keeps_execEntdaa ..
  | getTid => exact keeps_sbAnswer (.refl s) ..
  | getPldmVersion => exact keeps_sbAnswer (.refl s) ..
  | getPldmTypes => exact keeps_sbAnswer (.refl s) ..
  | getPldmCommands => exact keeps_sbAnswer (.refl s) ..
  | getPdrRepositoryInfo => exact keeps_sbAnswer (.refl s) ..
  | getPdr => exact keeps_sbAnswer (.refl s) ..
  | getSensorReading => exact keeps_sbAnswer (.refl s) ..
  | pldmUnsupportedCmd => exact keeps_execPldmUnsupportedCmd ..
  | qxfAckDue => exact keeps_sendAck (.refl s) ..
  | anchorRoundTimeout => exact keeps_execAnchorRoundTimeout ..
  | probeAnswerTimeout => exact keeps_execProbeAnswerTimeout ..
  | bridgeRetrainDone => exact keeps_execBridgeRetrainDone ..
  | channelRetrainDone => exact keeps_execChannelRetrainDone ..
  | inPlaceRestartDone => exact keeps_execInPlaceRestartDone ..
  | amberCoreUe => exact keeps_execAmberCoreUe ..
  | modResetNRelease => exact keeps_execModResetNRelease ..

/-- Settles O5: a tick touches no table, and every command keeps them. -/
theorem tablesStayCanonical : Obligations.TablesStayCanonical := by
  intro s t hs hstep
  unfold step at hstep
  split at hstep
  · cases hstep
    exact hs
  · rename_i c rest hp
    have h := keeps_exec c { s with pending := rest }
    rw [hstep] at h
    exact h.canonical hs

end Sys2Proof.Machine
end

section
/-! PROOFS. Memory maintenance: scrubbing (R271, R281), refresh, calibration and retraining (R275, R280), and the
evacuation of a channel (R284, R289). -/

namespace Sys2Proof.Machine

/-! ### Scrubbing -/

section Scrub
variable {s : State}

theorem exec_sramScrubRead_of_due {t : Tile} {g : Fin 196608} (hon : scrubOn s t (s.rdf .mctScrub 0 0 31 16) = true)
    (hgate : tileGated s t = false) (hat : (scrubAt s t).2 = g.val) :
    exec (.sramScrubRead t g) s
      = .next (scrubTime (rawRead s .other (sramAddr t (32 * g.val)) 32).1 t g (g.val == 196607) 63 32 1000000) := by
  show execSramScrubRead .. = _
  simp [execSramScrubRead, hon, hgate, hat]

theorem exec_sramScrubRead_of_not {t : Tile} {g : Fin 196608} (h : scrubOn s t (s.rdf .mctScrub 0 0 31 16) = false
    ∨ tileGated s t = true ∨ (scrubAt s t).2 ≠ g.val) : exec (.sramScrubRead t g) s = .next s := by
  show execSramScrubRead .. = _
  exact if_pos (by simpa [or_assoc] using h)

variable {c : ChanNo} {b : Nat}

theorem exec_dramPatrolRead_of_due (hb : b < dataBursts + dataBursts / 16)
    (hon : scrubOn s (1536 + c.val) (s.rdf .mctScrub 0 0 15 8) = true) (hret : retired s c = false)
    (hat : (scrubAt s (1536 + c.val)).2 = b) :
    exec (.dramPatrolRead c b) s = .next (scrubTime (eccReadAll .other (burstFlips s c b) s) (1536 + c.val) b
      (b + 1 == dataBursts + dataBursts / 16) 31 0 60000000000) := by
  show execDramPatrolRead .. = _
  exact if_neg (by simp [hon, hret, hat, hb])

theorem exec_dramPatrolRead_of_not (h : scrubOn s (1536 + c.val) (s.rdf .mctScrub 0 0 15 8) = false
    ∨ retired s c = true ∨ (scrubAt s (1536 + c.val)).2 ≠ b) : exec (.dramPatrolRead c b) s = .next s := by
  show execDramPatrolRead .. = _
  refine if_pos ?_
  rcases h with h | h | h <;> simp [h]

end Scrub

/-! ### Retraining -/

section Retrain
variable {s : State} {c : ChanNo}

/-- The two rows that ask for a full retrain of a channel. -/
theorem exec_retrainRow {row : Instr} (hrow : row ∈ [Instr.channelRetrain c, .wckTracking c false]) :
    exec row s = .next (retrainStart s c).1 := by
  simp only [List.mem_cons, List.not_mem_nil, or_false] at hrow
  rcases hrow with rfl | rfl <;> rfl

theorem retrainStart_of_free (htrain : chState s c ≠ 1) (hevac : evacuating s c = false) (hret : retired s c = false) :
    retrainStart s c = (chanTrains s c, true) :=
  if_neg (by simp [htrain, hevac, hret])

theorem retrainStart_of_busy (h : chState s c = 1 ∨ evacuating s c = true ∨ retired s c = true) :
    retrainStart s c = (countDropped s (c.val / 32), false) :=
  if_pos (by simpa [or_assoc] using h)

theorem exec_channelRetrainDone_of_idle (h : chState s c ≠ 1) : exec (.channelRetrainDone c) s = .next s :=
  if_pos h

/-- The channel's state after its retrain: in service, and counted. -/
def retrainOver (s : State) (c : ChanNo) : State :=
  s.wr .mctChstat c 0 (setBits (setBits (s.rd .mctChstat c) 31 29 0) 15 0 (satAdd 65535 (bits (s.rd .mctChstat c) 15 0) 1))

theorem retrainOver_plat : (retrainOver s c).plat = s.plat := State.wr_plat ..

theorem exec_channelRetrainDone (h : chState s c = 1) : exec (.channelRetrainDone c) s
    = if (retrainOver s c).plat.retrains.contains c.val then .next (retrainEnd (retrainOver s c) c) else .next (retrainOver s c) := by
  show execChannelRetrainDone c s = _
  unfold execChannelRetrainDone
  exact if_neg (not_not_intro h)

theorem exec_channelRetrainDone_of_asked (h : chState s c = 1) (hreq : c.val ∈ s.plat.retrains) :
    exec (.channelRetrainDone c) s = .next (retrainEnd (retrainOver s c) c) := by
  rw [exec_channelRetrainDone h, retrainOver_plat, if_pos (List.contains_iff_mem.2 hreq)]

theorem exec_channelRetrainDone_of_unasked (h : chState s c = 1) (hreq : c.val ∉ s.plat.retrains) :
    exec (.channelRetrainDone c) s = .next (retrainOver s c) := by
  rw [exec_channelRetrainDone h, retrainOver_plat, if_neg (mt List.contains_iff_mem.1 hreq)]

/-- The end of a requested retrain, after a register write: the list of the requested ones is the state's before it. -/
theorem retrainEnd_wr (n : RegName) (i j v c : Nat) : retrainEnd (s.wr n i j v) c
    = (modPlat (s.wr n i j v) fun p => { p with retrains := s.plat.retrains.filter (· != c) }).wrf .mctRetrain 0 0 31 31
      (b2n !(s.plat.retrains.filter (· != c)).isEmpty) := rfl

end Retrain

/-! ### Evacuation (R284, R289) -/

section Evacuation
variable {s : State}

/-- A write of MCT_EVAC before its GO: SHARE and CHANNEL are stored, and DONE is cleared where the write asks for it. -/
def evacStored (s : State) (v : Nat) : State :=
  s.wr .mctEvac 0 0 (setBits (setBits (if bit v 30 then setBit (s.rd .mctEvac) 30 false else s.rd .mctEvac) 23 16 (bits v 23 16))
    14 8 (bits v 14 8))

theorem exec_evacuationStart {w : World} {v : W32} (hgo : bit v.toNat 0 = true) : exec (.evacuationStart w v) s
    = .next (if bit (s.rd .mctEvac) 31 then countDropped (evacStored s v.toNat) 0 else evacGo (evacStored s v.toNat)) := by
  show execEvacuationStart w v s = _
  simp [execEvacuationStart, evacWrite, hgo, evacStored]

/-- The channel that MCT_EVAC names is among the evacuated ones. -/
def EvacListed (s : State) : Prop := ∃ q ∈ s.evacs, q.1 = s.rdf .mctEvac 0 0 14 8

/-- The channel is retired, or there is no place for one more: what gives ERR 2 (R284). -/
def EvacFull (s : State) : Prop :=
  retired s (s.rdf .mctEvac 0 0 14 8) = true ∨ 8 ≤ retiredCount s ∨ (¬ EvacListed s ∧ 8 ≤ s.evacs.length)

theorem evacListed_iff : EvacListed s ↔ (s.evacs.any fun q => q.1 == s.rdf .mctEvac 0 0 14 8) = true := by
  simp [EvacListed]

theorem evacFull_iff : EvacFull s ↔ (retired s (s.rdf .mctEvac 0 0 14 8) || decide (8 ≤ retiredCount s)
    || (!(s.evacs.any fun q => q.1 == s.rdf .mctEvac 0 0 14 8) && decide (8 ≤ s.evacs.length))) = true := by
  simp only [EvacFull, evacListed_iff, Bool.or_eq_true, Bool.and_eq_true, decide_eq_true_iff, Bool.not_eq_true', Bool.not_eq_true,
    or_assoc]

/-- A channel that starts to evacuate: BUSY is set, DONE and ERR are cleared. -/
def evacBusy (s : State) : State :=
  s.wr .mctEvac 0 0 (setBits (setBit (setBit (s.rd .mctEvac) 31 true) 30 false) 29 27 0)

/-- The channel evacuates from here on. -/
def evacRuns (s : State) (c : Nat) : State := evacCheck (modPlat s fun p => { p with evac := some c }) c

theorem evacBusy_evacs : (evacBusy s).evacs = s.evacs := State.wr_evacs ..

/-- The limit leaves no room for one channel less (R282). -/
theorem evacGo_of_noRoom (h : limitBound (retiredCount s + 1) < s.rdf .mctLimit 0 0 19 0) :
    evacGo s = s.wr .mctEvac 0 0 (setBits (s.rd .mctEvac) 29 27 1) :=
  if_pos h

section Room
variable (hroom : s.rdf .mctLimit 0 0 19 0 ≤ limitBound (retiredCount s + 1))
include hroom

theorem evacGo_of_full (h : EvacFull s) : evacGo s = s.wr .mctEvac 0 0 (setBits (s.rd .mctEvac) 29 27 2) := by
  unfold evacGo
  rw [if_neg (Nat.not_lt.2 hroom), if_pos (evacFull_iff.1 h)]

theorem evacGo_of_start (h : ¬ EvacFull s) : evacGo s
    = evacRuns (if (evacBusy s).evacs.any fun q => q.1 == s.rdf .mctEvac 0 0 14 8 then evacBusy s
        else { evacBusy s with evacs := (evacBusy s).evacs ++ [(s.rdf .mctEvac 0 0 14 8, 0)] }) (s.rdf .mctEvac 0 0 14 8) := by
  unfold evacGo
  exact (if_neg (Nat.not_lt.2 hroom)).trans (if_neg (mt evacFull_iff.2 h))

theorem evacGo_of_listed (h : ¬ EvacFull s) (hlisted : EvacListed s) :
    evacGo s = evacRuns (evacBusy s) (s.rdf .mctEvac 0 0 14 8) := by
  rw [evacGo_of_start hroom h, if_pos (by rw [evacBusy_evacs]; exact evacListed_iff.1 hlisted)]

theorem evacGo_of_unlisted (h : ¬ EvacFull s) (hlisted : ¬ EvacListed s) : evacGo s = evacRuns
    { evacBusy s with evacs := (evacBusy s).evacs ++ [(s.rdf .mctEvac 0 0 14 8, 0)] } (s.rdf .mctEvac 0 0 14 8) := by
  rw [evacGo_of_start hroom h, if_neg (by rw [evacBusy_evacs]; exact mt evacListed_iff.2 hlisted)]

end Room

end Evacuation

/-- Settles O38: each row by what decides it; a GO of MCT_EVAC by the room, the channel and the list it finds. -/
theorem memoryMaintenance : Obligations.MemoryMaintenance := by
  refine ⟨⟨fun s t g => ⟨exec_sramScrubRead_of_due, exec_sramScrubRead_of_not⟩,
      fun s c b hb => ⟨exec_dramPatrolRead_of_due hb, exec_dramPatrolRead_of_not⟩,
      fun s c bank m => ⟨rfl, rfl, rfl⟩, fun s c row hrow => ?retrain, fun s c => ?done⟩, fun s w v hgo => ?start,
    fun s => ⟨fun h => ?idle, fun c hc => ?move⟩⟩
  case retrain =>
    exact ⟨fun h1 h2 h3 => by rw [exec_retrainRow hrow, retrainStart_of_free h1 h2 h3]; rfl,
     fun h => by rw [exec_retrainRow hrow, retrainStart_of_busy h]⟩
  case done =>
    exact ⟨exec_channelRetrainDone_of_idle, fun h => ⟨fun hreq =>
      (exec_channelRetrainDone_of_asked h hreq).trans (congrArg _ (retrainEnd_wr ..)), exec_channelRetrainDone_of_unasked h⟩⟩
  case start =>
    intro x s1
    refine ⟨fun hbusy => ?_, fun hidle => ?_⟩
    · rw [exec_evacuationStart hgo, if_pos hbusy]
      rfl
    · have go : exec (.evacuationStart w v) s = .next (evacGo s1) := by
        rw [exec_evacuationStart hgo, if_neg (ne_true_of_eq_false hidle)]
        rfl
      exact ⟨fun hroom => go.trans (congrArg _ (evacGo_of_noRoom hroom)),
        fun hroom hfull => go.trans (congrArg _ (evacGo_of_full hroom hfull)),
        fun hroom hfull => ⟨fun hlisted => go.trans (congrArg _ (evacGo_of_listed hroom hfull hlisted)),
          fun hlisted => go.trans (congrArg _ (evacGo_of_unlisted hroom hfull hlisted))⟩⟩
  case idle =>
    show execEvacGranuleMove s = _
    rw [execEvacGranuleMove, h]
  case move =>
    show execEvacGranuleMove s = _
    rw [execEvacGranuleMove, hc]
    rfl

end Sys2Proof.Machine
end

section
/-! PROOFS. Steps and outcomes: a step takes the front command and adds none, and a command answers a next state exactly where
its operands are ones that an event of the part can carry (log 5, log 8). -/

namespace Sys2Proof.Machine

/-! ### One step -/

theorem step_cons {s : State} {c : Instr} {rest : List Instr} (h : s.pending = c :: rest) :
    step s = exec c { s with pending := rest } := by
  unfold step
  rw [h]

theorem step_nil {s : State} (h : s.pending = []) : step s = .next { s with time := s.time + 1 } := by
  unfold step
  rw [h]

/-- Settles O1: the two cases of a step. -/
theorem stepRunsFront : Obligations.StepRunsFront := ⟨fun _ _ _ => step_cons, fun _ => step_nil⟩

/-- Settles O4: every command keeps the queue of the state that it runs on, and that is the rest of the queue. -/
theorem stepTakesOneCommand : Obligations.StepTakesOneCommand := by
  intro s t c rest hp hstep
  have h := keeps_exec c { s with pending := rest }
  rw [← step_cons hp, hstep] at h
  exact h.pending

/-! ### Outcomes by the operands -/

/-- The outcome of a command whose operands are well-formed or not: a next state, or the refusal by name. -/
def Answers (ok : Bool) (o : Host.Outcome State Fault Refusal) : Prop :=
  match ok with
  | true => ∃ t : State, o = .next t
  | false => o = .refused .illFormed

namespace Answers

variable {a b : Bool} {o : Host.Outcome State Fault Refusal}

theorem next {t : State} : Answers true (.next t) := ⟨t, rfl⟩

/-- A check in front of the rest of a meaning. -/
theorem guard {p : Prop} [Decidable p] (h : p ↔ a = false) (ho : Answers b o) :
    Answers (b && a) (if p then .refused .illFormed else o) := by
  cases a with
  | true => rw [if_neg (by simp [h]), Bool.and_true]; exact ho
  | false => rw [if_pos (h.2 rfl), Bool.and_false]; exact rfl

/-- The only check. -/
theorem only {p : Prop} [Decidable p] (h : p ↔ a = false) (ho : Answers true o) : Answers a (if p then .refused .illFormed else o) := by
  simpa using guard h ho

theorem onlyIf {p : Prop} [Decidable p] (h : p ↔ a = true) (ho : Answers true o) : Answers a (if p then o else .refused .illFormed) := by
  cases a with
  | true => rw [if_pos (h.2 rfl)]; exact ho
  | false => rw [if_neg (by simp [h])]; exact rfl

end Answers

/-! ### The words of a kernel (R140, R142, R143) -/

section Words
variable (s : State) (t opc : Nat) (x : VeWord)

theorem answers_veRun (f : State → VeAt → State) : Answers (veCodesOk x) (veRun s t opc x f) := by
  refine Answers.only ?_ ?_
  · rw [veCodesOk, Bool.and_eq_false_iff]
    simp
  · dsimp only
    repeat' split
    all_goals exact .next

theorem answers_veElem (srcs : List Nat) (f : List Val → Val) : Answers (veElemOk x srcs) (veElem s t opc x srcs f) :=
  .guard (by simp) (answers_veRun ..)

theorem answers_veTrans (f : Nat → Nat) : Answers (veElemOk x [x.src1]) (veTrans s t opc x f) := .guard (by simp) (answers_veRun ..)

theorem answers_veLanes (srcs : List Nat) (f : Kernel → Nat → Nat × Nat) : Answers (veLanesOk x srcs) (veLanes s t opc x srcs f) := by
  rw [veLanesOk, Bool.and_assoc]
  exact .guard (by simp [Bool.and_eq_false_iff, -Bool.and_eq_false_imp]) (answers_veRun ..)

theorem answers_veRowSum (srcs : List Nat) (f : List Val → Val × Sp) : Answers (veRowOk x srcs) (veRowSum s t opc x srcs f) := by
  rw [veRowOk, Bool.and_assoc]
  exact .guard (by simp [Bool.and_eq_false_iff, -Bool.and_eq_false_imp]) (answers_veRun ..)

theorem answers_veRowExt (kind : Nat) (lim : Val) (f : Val → Val → Val) :
    Answers (veRowOk x [x.src1]) (veRowExt s t opc x kind lim f) := by
  rw [veRowOk, Bool.and_assoc]
  exact .guard (by simp [Bool.and_eq_false_iff, -Bool.and_eq_false_imp]) (answers_veRun ..)

end Words

/-! ### Every command -/

theorem exec_answers (c : Instr) (s : State) : Answers c.wellFormed (exec c s) := by
  cases c
  case ldb =>
    dsimp only [Instr.wellFormed, exec, execLdb]
    exact .guard (by simp) (answers_veRun ..)
  case mov =>
    dsimp only [Instr.wellFormed, exec, execMov, veElemOk]
    exact .guard (by simp) (answers_veRun ..)
  case stb | tkemit | summ =>
    dsimp only [Instr.wellFormed, exec, execStb, execTkemit, execSumm]
    exact answers_veRun ..
  case add | sub | mul | fma | max | min | abs | neg | cvt | cmplt | cmpeq | sel =>
    dsimp only [Instr.wellFormed, exec, execAdd, execSub, execMul, execFma, execMax, execMin, execAbs, execNeg, execCvt, execCmplt, execCmpeq, execSel]
    exact answers_veElem ..
  case exp | log | rsqrt | tanh | rcp =>
    dsimp only [Instr.wellFormed, exec, execExp, execLog, execRsqrt, execTanh, execRcp]
    exact answers_veTrans ..
  case perm | shuf | pack | unpack | trb =>
    dsimp only [Instr.wellFormed, exec, execPerm, execShuf, execPack, execUnpack, execTrb]
    exact answers_veLanes ..
  case rowsum | rowdot =>
    dsimp only [Instr.wellFormed, exec, execRowsum, execRowdot]
    exact answers_veRowSum ..
  case rowmax | rowmin =>
    dsimp only [Instr.wellFormed, exec, execRowmax, execRowmin]
    exact answers_veRowExt ..
  case rowcnt =>
    dsimp only [Instr.wellFormed, exec, execRowcnt]
    rw [veRowOk, Bool.and_assoc]
    exact .guard (by simp [Bool.and_eq_false_iff, -Bool.and_eq_false_imp]) (answers_veRun ..)
  case colsum | rowtopk =>
    dsimp only [Instr.wellFormed, exec, execColsum, execRowtopk]
    rw [Bool.and_assoc, Bool.and_assoc]
    refine .guard ?_ (answers_veRun ..)
    simp only [bne, Bool.and_eq_false_iff, Bool.not_eq_false', beq_iff_eq, decide_eq_false_iff_not, Bool.or_eq_true, decide_eq_true_eq]
    omega
  case divn | xch =>
    dsimp only [Instr.wellFormed, exec, execDivn, execXch]
    rw [vePOk, Bool.and_assoc]
    exact .guard (by simp [Bool.and_eq_false_iff, -Bool.and_eq_false_imp]) (answers_veRun ..)
  case cowCopy | queueEntryReceive | gatherPosting | blockMerge | meshPacketRoute | bridgeFlitReceive | hostCompletion
    | fabricTransit | dispatchFrame | closeFrame | epochFrame | returnFrame | reductionContribution =>
    dsimp only [Instr.wellFormed, exec, execCowCopy, execQueueEntryReceive, execGatherPosting, execBlockMerge, execMeshPacketRoute,
      execBridgeFlitReceive, execHostCompletion, execFabricTransit, execDispatchFrame, execCloseFrame,
      execEpochFrame, execReturnFrame, execReductionContribution]
    refine .only (by simp [Bool.and_eq_false_iff, -Bool.and_eq_false_imp]) ?_
    repeat' split
    all_goals exact .next
  case lhlFlitReceive | qxfFlitReceive | fabricWrite | fabricRead | fabricResponse | anchorMessage | mirrorMessage =>
    dsimp only [Instr.wellFormed, exec, execLhlFlitReceive, execQxfFlitReceive, execFabricWrite, execFabricRead, execFabricResponse,
      execAnchorMessage, execMirrorMessage]
    exact .onlyIf (by simp [flitOk]) .next
  case mcWrite p =>
    dsimp only [Instr.wellFormed, exec, execMcWrite, mcOk]
    split
    · rename_i h
      rw [h]
      exact rfl
    · rename_i h
      rw [h, Option.isSome_some, Bool.true_and]
      refine .only (by simp [Bool.and_eq_false_iff, -Bool.and_eq_false_imp]) ?_
      repeat' split
      all_goals exact .next
  case cfgRd | cfgWr | nop | heldPlanStart | cancelBatch | epochMarker | transitionEnd | snapshotCapture | selfTest |
    testFenceStart | tileTestEnd | activationCommit | setShade | setPoint | gate | ungate | phaseStart |
    freeWriteUnblock | versionStallExpire | phaseEnd | branchDecide | phaseLimitExceeded | stepCommit | mirrorDrainDone
    | checkResultMessage | replayStart | updateRetryStart | qsend | qrecv | queueLimitExpire | denseTaskTake |
    outputBlockFinish | sheetBlockArrive | splitkPartDone | splitkClose | gatherFlushExpire | packedSuperblockWrite |
    gmeSpprod | partCutsReady | ownerContribution | anchorPassClose | ownerFinish | veTaskTake | xchCombine |
    acceptBlockRow | arrivalFlush | returnSend | answerTimeout | ticketStallLimit | nmuJobEnd | sramScrubRead |
    dramPatrolRead | wckTracking | evacuationStart | evacGranuleMove | mcBranchPrune | mcDone | bridgeNak |
    bridgeRetrain | lhlDownLimit | cplTimeout | nudge | wake | hqeScan | descriptorFetch | descriptorSeqRecheck |
    cqSpacePoll | coalesceTimer | ringDrained | portDownTimeout | reductionWaitTimeout | doneReceive | retryResend |
    probeReceive | msgTimeoutExpire | peerCacheFill | mirrorSeedPage | getCertificate | dbgNonceRead | thermalPointRise
    | amberShadeEntry | watchdogExpire | amberAlarm | blackWake | eventRecordWrite | modResetN | inputPowerRise |
    inputPowerLoss | blockQuiesceDone | blockQuiesceTimeout | ashData | ashEnd | getSensorReading | anchorRoundTimeout |
    probeAnswerTimeout | bridgeRetrainDone | channelRetrainDone | inPlaceRestartDone | modResetNRelease =>
    dsimp only [exec, execCfgRd, execCfgWr, execNop, execHeldPlanStart, execCancelBatch, execEpochMarker,
      execTransitionEnd, execSnapshotCapture, execSelfTest, execTestFenceStart, execTileTestEnd, execActivationCommit,
      execSetShade, execSetPoint, execGate, execUngate, execPhaseStart, execFreeWriteUnblock, execVersionStallExpire,
      execPhaseEnd, execBranchDecide, execPhaseLimitExceeded, execStepCommit, execMirrorDrainDone,
      execCheckResultMessage, execReplayStart, execUpdateRetryStart, execQsend, execQrecv, execQueueLimitExpire,
      execDenseTaskTake, execOutputBlockFinish, execSheetBlockArrive, execSplitkPartDone, execSplitkClose,
      execGatherFlushExpire, execPackedSuperblockWrite, execGmeSpprod, execPartCutsReady, execOwnerContribution,
      execAnchorPassClose, execOwnerFinish, execVeTaskTake, execXchCombine, execAcceptBlockRow, execArrivalFlush,
      execReturnSend, execAnswerTimeout, execTicketStallLimit, execNmuJobEnd, execSramScrubRead, execDramPatrolRead,
      execWckTracking, execEvacuationStart, execEvacGranuleMove, execMcBranchPrune, execMcDone, execBridgeNak,
      execBridgeRetrain, execLhlDownLimit, execCplTimeout, execNudge, execWake, execHqeScan, execDescriptorFetch,
      execDescriptorSeqRecheck, execCqSpacePoll, execCoalesceTimer, execRingDrained, execPortDownTimeout,
      execReductionWaitTimeout, execDoneReceive, execRetryResend, execProbeReceive, execMsgTimeoutExpire,
      execPeerCacheFill, execMirrorSeedPage, execGetCertificate, execDbgNonceRead, execThermalPointRise,
      execAmberShadeEntry, execWatchdogExpire, execAmberAlarm, execBlackWake, execEventRecordWrite, execModResetN,
      execInputPowerRise, execInputPowerLoss, execBlockQuiesceDone, execBlockQuiesceTimeout, execAshData, execAshEnd,
      execGetSensorReading, execAnchorRoundTimeout, execProbeAnswerTimeout, execBridgeRetrainDone,
      execChannelRetrainDone, execInPlaceRestartDone, execModResetNRelease]
    repeat' split
    all_goals exact .next
  all_goals exact .next

/-- Settles O3: each command answers as its operands are. -/
theorem completesExactlyWhenWellFormed : Obligations.CompletesExactlyWhenWellFormed := by
  intro c s
  have h := exec_answers c s
  cases hc : c.wellFormed <;> rw [hc] at h
  · exact ⟨nofun, fun _ => h⟩
  · exact ⟨fun _ => h, nofun⟩

end Sys2Proof.Machine
end

section
/-! PROOFS. Fencing, quarantine and self-test (R304, R309, R311, R496 to R499). -/

namespace Sys2Proof.Machine

/-! ### FENCE_TILES and UNFENCE_TILES (R304, R311) -/

section Fence
variable {s : State} {iid op : Nat} {c : Issued} (hc : getIssued s iid = some c) (hop : c.op = op)
include hc hop

section Rect
variable (hq : fnQuar c.ops = false)
include hq

theorem fenceRow_of_outside {held busy : Bool} {act : State → Bytes → State} (hr : fnRectOk c.ops = false) :
    fenceRow s iid op held busy act = complete s iid stOutOfRange := by
  simp [fenceRow, hc, hop, hq, hr]

variable (hr : fnRectOk c.ops = true)
include hr

theorem fenceRow_of_held {busy : Bool} {act : State → Bytes → State} : fenceRow s iid op true busy act = holdCmd s iid := by
  simp [fenceRow, hc, hop, hq, hr]

variable (ht : (fnTiles c.ops).any (underTest s) = false) (ho : olderHeld s iid tileOps = false)
include ht ho

theorem fenceRow_of_quiescing {act : State → Bytes → State} (hb : fenceBusy s c.ops = true) (hl : quiesceOver s c = false) :
    fenceRow s iid op false true act = quiesceStart s iid := by
  rw [fenceRow, hc]
  simp only [hop, hq, hr, ht, ho, hb, hl, ne_eq, not_true, decide_false, Bool.or_false, Bool.not_true, Bool.and_true, Bool.not_false,
    Bool.false_eq_true, if_false, if_true]

theorem fenceRow_of_free {busy : Bool} {act : State → Bytes → State}
    (h : busy = false ∨ fenceBusy s c.ops = false ∨ quiesceOver s c = true) :
    fenceRow s iid op false busy act = complete (act (unholdCmd s iid) c.ops) iid stOk := by
  have hgo : (busy && fenceBusy s c.ops && !quiesceOver s c) = false := by
    rcases h with h | h | h <;> simp [h]
  rw [fenceRow, hc]
  simp only [hop, hq, hr, ht, ho, hgo, ne_eq, not_true, decide_false, Bool.or_false, Bool.not_true, Bool.false_eq_true, if_false]

end Rect

/-! ### Quarantine (R309) -/

section Quarantine
variable (hq : fnQuar c.ops = true)
include hq

theorem quarRow_of_bad {held older : Bool} {act : State → Nat → State} (h : zeros c.ops 0 4 = false ∨ fnDie c.ops = 0 ∨ 3 < fnDie c.ops) :
    quarRow s iid op held older act = complete s iid stBadDescriptor := by
  have hbad : (!zeros c.ops 0 4 || fnDie c.ops == 0 || decide (3 < fnDie c.ops)) = true := by
    rcases h with h | h | h <;> simp [h]
  simp only [quarRow, hc, hop, hq, hbad, ne_eq, not_true, decide_false, Bool.or_false, Bool.not_true, Bool.false_eq_true, if_false, if_true]

theorem quarRow_of_free {act : State → Nat → State} (hz : zeros c.ops 0 4 = true) (h1 : 1 ≤ fnDie c.ops) (h3 : fnDie c.ops ≤ 3)
    (ht : (dieTiles (fnDie c.ops)).any (underTest s) = false) :
    quarRow s iid op false false act = complete (act (unholdCmd s iid) (fnDie c.ops)) iid stOk := by
  have hgood : (!zeros c.ops 0 4 || fnDie c.ops == 0 || decide (3 < fnDie c.ops)) = false := by
    simp [hz, Nat.ne_of_gt h1, h3]
  simp only [quarRow, hc, hop, hq, hgood, ht, ne_eq, not_true, decide_false, Bool.or_false, Bool.not_true, Bool.false_eq_true, if_false]

end Quarantine
end Fence

/-- Settles O23: a fence, an unfence or a quarantine by what its row finds: operands, what holds it, copies in flight. -/
theorem fencesAndQuarantine : Obligations.FencesAndQuarantine := by
  intro s iid c hc
  refine ⟨fun hq hr ht ho => ⟨fun hop hp => ⟨fun h => ?fence, fun hb hl => ?quiesce⟩, fun hop hp => ?held, fun hop => ?unfence⟩,
    fun hq hr => ⟨fun hop => ?_, fun hop => ?_⟩, fun hq hz h1 h3 ht => ⟨fun hop hf => ?quarantine, fun hop hp ho => ?unquarantine⟩,
    fun hq hbad => ⟨fun hop => ?_, fun hop => ?_⟩⟩
  case fence =>
    show Host.Outcome.next (fenceRow ..) = _
    rw [hp, fenceRow_of_free hc hop hq hr ht ho (.inr h)]
  case quiesce =>
    show Host.Outcome.next (fenceRow ..) = _
    rw [hp, fenceRow_of_quiescing hc hop hq hr ht ho hb hl]
  case held =>
    show Host.Outcome.next (fenceRow ..) = _
    rw [hp, fenceRow_of_held hc hop hq hr]
  case unfence => exact congrArg _ (fenceRow_of_free hc hop hq hr ht ho (.inl rfl))
  case quarantine =>
    show Host.Outcome.next (quarRow ..) = _
    rw [hf, Bool.not_true, quarRow_of_free hc hop hq hz h1 h3 ht]
  case unquarantine =>
    show Host.Outcome.next (quarRow ..) = _
    rw [hp, ho, quarRow_of_free hc hop hq hz h1 h3 ht]
  · exact congrArg _ (fenceRow_of_outside hc hop hq hr)
  · exact congrArg _ (fenceRow_of_outside hc hop hq hr)
  · exact congrArg _ (quarRow_of_bad hc hop hq hbad)
  · exact congrArg _ (quarRow_of_bad hc hop hq hbad)

/-! ### SELF_TEST (R496 to R499) -/

section SelfTest
variable {s : State} {iid : Nat} {c : Issued}

theorem exec_selfTest_of_accepted (hc : getIssued s iid = some c) (hop : c.op = 0x0042) (hst : c.st ≠ .running) (hts : tsTests c.ops ≠ 0)
    (hr : fnRectOk c.ops = true) (htiles : ∀ t ∈ fnTiles c.ops, tileWorld s t = c.world ∧ underTest s t = false)
    (ho : olderHeld s iid tileOps = false) (hn : testNamed s c.ops = false) :
    exec (.selfTest iid) s = .next (testAccept (unholdCmd s iid) c.ops) := by
  have hworld : ((fnTiles c.ops).any fun t => tileWorld s t != c.world) = false := by
    simpa using fun t ht => (htiles t ht).1
  have hunder : (fnTiles c.ops).any (underTest s) = false := by
    simpa using fun t ht => (htiles t ht).2
  have hrun : (c.st == .running) = false := by simpa using hst
  show execSelfTest iid s = _
  rw [execSelfTest, hc]
  simp only [hop, hrun, hts, hr, hworld, hunder, ho, hn, ne_eq, not_true, decide_false, Bool.or_false, Bool.not_true,
    Bool.false_eq_true, if_false]

theorem exec_testFenceStart_of_boundary {t : Tile} (hw : s.rdf .tilBist t 0 31 30 = 1) (hp : curPhase s = none) :
    exec (.testFenceStart t) s = .next (testFence s t) := by
  show execTestFenceStart t s = _
  simp [execTestFenceStart, hw, hp]

theorem exec_testFenceStart_of_idle {t : Tile} (hw : s.rdf .tilBist t 0 31 30 ≠ 1) : exec (.testFenceStart t) s = .next s := by
  show execTestFenceStart t s = _
  simp [execTestFenceStart, hw]

end SelfTest

/-- Settles O24: each row has its lemma above; an accepted test fences at once or waits by whether the part is quiet. -/
theorem selfTestsRun : Obligations.SelfTestsRun := by
  refine ⟨fun s iid c hc hop hst hts hr htiles ho hn => ?accept, fun _ _ => exec_testFenceStart_of_boundary,
    fun _ _ => exec_testFenceStart_of_idle, fun s t sf af lf layer g c ht hc => ?done⟩
  case accept =>
    have h := exec_selfTest_of_accepted hc hop hst hts hr htiles ho hn
    exact ⟨fun hq => h.trans (congrArg _ (if_pos hq)), fun hq => h.trans (congrArg _ (if_neg (ne_true_of_eq_false hq)))⟩
  case done =>
    show execTileTestEnd t sf af lf layer g s = _
    simp [execTileTestEnd, ht, hc]

end Sys2Proof.Machine
end

section
/-! PROOFS. Multicasts over the mesh (R297, R300 to R302, R305, R310). -/

namespace Sys2Proof.Machine

section Start
variable {s : State} {p : MeshPacket} {a : Nat} (ha : endpointTile p.src.toNat = some a) (htyp : p.typ = 0x06)
  (hr : rectOk p.x0.toNat p.y0.toNat p.w.toNat p.h.toNat = true) (hlen : p.payload.length ≤ 1152) (hpar : meshParity p = true)
include ha htyp hr hlen hpar

/-- A good multicast starts unless one of its number is out or a hold buffer on its tree is full. -/
theorem exec_mcWrite :
    let ts := (mcTiles p).filter fun t => !tileOut s t
    exec (.mcWrite p) s = .next (if s.mcs.any (fun m => m.id == p.key.toNat) || (!bit p.ctl.toNat 5 && mcFull s a ts) then s
      else mcStart s a { id := p.key.toNat, pkt := meshOn false p, ctx := meshCtx s p.src.toNat, left := ts }) := by
  intro ts
  have hform : (decide (p.typ ≠ 0x06) || !rectOk p.x0.toNat p.y0.toNat p.w.toNat p.h.toNat || decide (1152 < p.payload.length)) = false := by
    simp [htyp, hr, hlen]
  show execMcWrite p s = _
  simp only [execMcWrite, ha, hform, hpar, Bool.not_true, Bool.false_eq_true, if_false, apply_ite Host.Outcome.next, ts]

end Start

section Prune
variable {s : State} {id : Nat} {r q : Tile} {m : Multicast} (hm : s.mcs.find? (fun m => m.id == id) = some m)
include hm

theorem exec_mcBranchPrune_of_due (hheld : (r.val, q.val) ∈ m.held) (hdue : m.since + mcHoldLimit s r ≤ s.time) :
    exec (.mcBranchPrune id ⟨r, q⟩) s = .next (cntAdd
      { s with mcs := updWhere (fun x => x.id == id) (mcPrune (r.val, q.val)) s.mcs } .mshCnt (tileDie r.val) 3 1) := by
  show execMcBranchPrune .. = _
  rw [execMcBranchPrune, hm]
  exact if_pos (by simp [hheld, hdue])

theorem exec_mcBranchPrune_of_not (h : (r.val, q.val) ∉ m.held ∨ s.time < m.since + mcHoldLimit s r) :
    exec (.mcBranchPrune id ⟨r, q⟩) s = .next s := by
  show execMcBranchPrune .. = _
  rw [execMcBranchPrune, hm]
  refine if_neg fun hdue => ?_
  simp only [Bool.and_eq_true, List.contains_iff_mem, decide_eq_true_eq] at hdue
  exact h.elim (fun hnot => hnot hdue.1) (fun hlate => Nat.not_le.2 hlate hdue.2)

end Prune

/-- The end of a multicast: the remaining targets take the payload, and the initiator gets the marks of the missing ones (R300). -/
def mcEnded (s : State) (m : Multicast) (rest : List Multicast) : State :=
  emit (mcDeliver { s with mcs := rest } m m.left) (.mesh m.pkt.src.toNat (mcDonePacket m))

/-- The number of resends that the initiator's router allows (R301). -/
def mcTries (s : State) (m : Multicast) : Nat :=
  bits (blockVal s (.routers (Fin.ofNat 4 (tileDie ((endpointTile m.pkt.src.toNat).getD 0)))) .mshCtl 0 0) 31 24

/-- The loss counted and captured (R302). -/
def mcLost (s : State) (m : Multicast) : State :=
  let a := (endpointTile m.pkt.src.toNat).getD 0
  tileEvent (meshErrSet s 5 a m.pkt) m.ctx 34 a 1

section Done
variable {s : State} {id : Nat} {m : Multicast} {rest : List Multicast}
  (hm : takeFirst (fun m : Multicast => m.id == id) s.mcs = some (m, rest))
include hm

theorem exec_mcDone_of_all (h : m.missing = []) : exec (.mcDone id) s = .next (mcEnded s m rest) := by
  show execMcDone id s = _
  rw [execMcDone, hm]
  exact if_pos (by rw [h]; rfl)

theorem exec_mcDone_of_missing (h : m.missing ≠ []) : exec (.mcDone id) s =
    if m.tries < mcTries (mcEnded s m rest) m then .next (mcResend (mcEnded s m rest) m)
    else .next (match m.ctx with
      | .cmd iid => complete (mcLost (mcEnded s m rest) m) iid stTimeout
      | _ => mcLost (mcEnded s m rest) m) := by
  show execMcDone id s = _
  rw [execMcDone, hm]
  exact if_neg (by simpa using h)

theorem exec_mcDone_of_resent (h : m.missing ≠ []) (ht : m.tries < mcTries (mcEnded s m rest) m) :
    exec (.mcDone id) s = .next (mcResend (mcEnded s m rest) m) := by
  rw [exec_mcDone_of_missing hm h, if_pos ht]

theorem exec_mcDone_of_lost (h : m.missing ≠ []) (ht : mcTries (mcEnded s m rest) m ≤ m.tries) :
    exec (.mcDone id) s = .next (match m.ctx with
      | .cmd iid => complete (mcLost (mcEnded s m rest) m) iid stTimeout
      | _ => mcLost (mcEnded s m rest) m) := by
  rw [exec_mcDone_of_missing hm h, if_neg (Nat.not_lt.2 ht)]

end Done

/-- Settles O41: the start, the pruned branch, and the end by what is missing and what tries are left. -/
theorem multicastsComplete : Obligations.MulticastsComplete := by
  refine ⟨fun s p a ha htyp hr hlen hpar => ?start,
    fun s id r q m hm => ⟨exec_mcBranchPrune_of_due hm, exec_mcBranchPrune_of_not hm⟩,
    fun s id m rest hm => ⟨exec_mcDone_of_all hm, exec_mcDone_of_resent hm, fun h ht hctx => ?lost, fun iid h ht hctx => ?command⟩⟩
  case start =>
    intro ts
    have h := exec_mcWrite (s := s) ha htyp hr hlen hpar
    refine ⟨fun hnone hroom => ?_, fun hwait => ?_⟩
    · exact h.trans (congrArg _ (if_neg (by rcases hroom with hroom | hroom <;> simp_all [ts])))
    · refine h.trans (congrArg _ (if_pos ?_))
      rcases hwait with ⟨m, hm, hid⟩ | ⟨hbit, hfull⟩
      · simp only [Bool.or_eq_true, List.any_eq_true, beq_iff_eq]
        exact .inl ⟨m, hm, hid⟩
      · simp only [ts] at hfull
        simp [hbit, hfull]
  case lost =>
    have := exec_mcDone_of_lost hm h ht
    cases hm' : m.ctx <;> simp_all [mcLost, mcEnded]
  case command =>
    have := exec_mcDone_of_lost hm h ht
    rw [hctx] at this
    exact this

end Sys2Proof.Machine
end

section
/-! PROOFS. The world of a tile decides the accesses to its SRAM (R418). -/

namespace Sys2Proof.Machine

/-- Pieces inside a range on which every address satisfies `f`. -/
theorem allPieces_of_forall {f : Nat → Bool} {e : Nat} (k : Nat) {a : Nat} (h : ∀ x, a ≤ x → x < e → f x = true) :
    allPieces f k a e = true := by
  induction k generalizing a with
  | zero => rfl
  | succ k ih =>
    by_cases he : e ≤ a
    · simp [allPieces, he]
    · have hnext : a ≤ (a / 65536 + 1) * 65536 := by omega
      simp [allPieces, he, h a (Nat.le_refl a) (Nat.lt_of_not_le he), ih fun x hx => h x (hnext.trans hx)]

theorem allPieces_of_first {f : Nat → Bool} {k a e : Nat} (ha : a < e) (h : f a = false) : allPieces f (k + 1) a e = false := by
  simp [allPieces, Nat.not_le.2 ha, h]

section Sram
variable {s : State} {b : EpochBlock} {w : World} {wr : Bool} {t : Tile} {off n : Nat}

theorem areaFor_sram (h : off < 0x600000) : areaFor s b (sramAddr t off) = .sram t off := by
  have ht := t.isLt
  have hlimit : bits (blockVal s b .mctLimit 0 0) 19 0 < 2 ^ 20 := bits_lt _ 19 0
  have hoff : sramAddr t off - 0x400000000000 = 0x800000 * t.val + off := by unfold sramAddr; omega
  have hlo : 0x400000000000 ≤ sramAddr t off := by unfold sramAddr; omega
  have hhi : sramAddr t off < 0x400000000000 + 1536 * 0x800000 := by unfold sramAddr; omega
  have hq : (0x800000 * t.val + off) / 0x800000 = t.val := by omega
  have hr : (0x800000 * t.val + off) % 0x800000 = off := by omega
  rw [areaFor, areaAt, if_neg (by omega), if_neg (by omega), if_pos (by simp [hlo, hhi])]
  simp only [hoff, hq, hr, h, if_true]

theorem permitted_of_sram {a i : Nat} (h : areaFor s b a = .sram i off) : permitted s b w wr a = (w == .s || tileWorld s i == .ns) := by
  unfold permitted
  rw [h]

theorem permitted_sram (h : off < 0x600000) : permitted s b w wr (sramAddr t off) = (w == .s || tileWorld s t == .ns) :=
  permitted_of_sram (areaFor_sram h)

/-- A range inside a tile's SRAM is permitted exactly where its first byte is. -/
theorem rangePermitted_sram (hn : 0 < n) (h : off + n ≤ 0x600000) :
    rangePermitted s w wr (sramAddr t off) n b = (w == .s || tileWorld s t == .ns) := by
  rw [rangePermitted]
  cases hw : (w == .s || tileWorld s t == .ns) with
  | false => exact allPieces_of_first (by omega) ((permitted_sram (by omega)).trans hw)
  | true =>
    refine allPieces_of_forall _ fun x hlo hhi => ?_
    obtain ⟨k, rfl⟩ := Nat.exists_eq_add_of_le hlo
    rw [show sramAddr t off + k = sramAddr t (off + k) by simp [sramAddr, Nat.add_assoc]]
    exact (permitted_sram (by omega)).trans hw

end Sram

/-- Settles O58: one byte and a range are decided by the same test of the two worlds. -/
theorem sramWorlds : Obligations.SramWorlds := by
  intro s b w wr t off n hn h one all
  have hone : one = (w == .s || tileWorld s t == .ns) := permitted_sram (by omega)
  have hall : all = (w == .s || tileWorld s t == .ns) := rangePermitted_sram hn h
  rw [hone, hall]
  refine ⟨fun hw => ?own, fun hw ht => by simp [hw], fun hw ht => by simp [hw, ht]⟩
  case own => cases w <;> simp [hw]

end Sys2Proof.Machine
end

section
/-! PROOFS. Event sources, event records, and the registers of the time base and of the RAS watch (R340, R389, R438, R439, R458 to
R464, R477). -/

namespace Sys2Proof.Machine

/-! ### A register reached at its own offset (R9) -/

section Reach
variable {s : State} {w : World} {n : RegName} {i j : Nat} (hi : i < (regInfo n).n1) (hj : j < (regInfo n).n2)
include hi hj

theorem winRef_word (h : regOff n i j % 4 = 0) : winRef (regOff n i j) 4 = some ⟨n, i, j, 31, 0⟩ := by
  simp [winRef, h, regDecode_regOff n hi hj]

theorem winRef_whole (h : regOff n i j % 8 = 0) (hwide : (regInfo n).wide = true) :
    winRef (regOff n i j) 8 = some ⟨n, i, j, 63, 0⟩ := by
  simp [winRef, h, regDecode_regOff n hi hj, hwide]

variable (hash : inAsh s = false) (hw : regWorldOk s w n i = true)
include hash hw

theorem winWrite_word {v : Nat} (h : regOff n i j % 4 = 0) (hv : v < 2 ^ 32) :
    winWrite s w (regOff n i j) 4 v = regWrite s w ⟨n, i, j, 31, 0⟩ v := by
  rw [winWrite_reaches (winAccess_ok hash (winRef_word hi hj h) hw), Nat.mod_eq_of_lt (by omega)]

theorem winWrite_whole {v : Nat} (h : regOff n i j % 8 = 0) (hwide : (regInfo n).wide = true) (hv : v < 2 ^ 64) :
    winWrite s w (regOff n i j) 8 v = regWrite s w ⟨n, i, j, 63, 0⟩ v := by
  rw [winWrite_reaches (winAccess_ok hash (winRef_whole hi hj h hwide) hw), Nat.mod_eq_of_lt (by omega)]

variable (hup : windowUp s = true)
include hup

theorem coreRead_word (h : regOff n i j % 4 = 0) : coreRead s w (regOff n i j) .low
    = emit (regReadAll s w n i j).1 (.read (regOff n i j) (bits (regReadAll s w n i j).2 31 0)) := by
  simp [coreRead, hup, winRead_reaches (by simp) (winAccess_ok hash (winRef_word hi hj h) hw), regRead]

theorem coreRead_whole (h : regOff n i j % 8 = 0) (hwide : (regInfo n).wide = true) (hne : regOff n i j ≠ 0xD00100) :
    coreRead s w (regOff n i j) .full
      = emit (regReadAll s w n i j).1 (.read (regOff n i j) (bits (regReadAll s w n i j).2 63 0)) := by
  simp [coreRead, hup, winRead_reaches (by simp [hne]) (winAccess_ok hash (winRef_whole hi hj h hwide) hw), regRead]

end Reach

/-- Registers of different names keep apart. -/
theorem rd_wr_other {s : State} {n m : RegName} {i j k l : Nat} (v : Nat) (h : keysRise s.regs = true) (hne : m ≠ n)
    (hi : i < (regInfo n).n1) (hj : j < (regInfo n).n2) (hk : k < (regInfo m).n1) (hl : l < (regInfo m).n2) :
    (s.wr n i j v).rd m k l = s.rd m k l :=
  rd_wr_ne v h fun he => hne (regOff_inj hk hl hi hj he).1

/-- A store to another register leaves the shade as it is. -/
theorem shade_wr {s : State} {n : RegName} {i j : Nat} (v : Nat) (h : keysRise s.regs = true) (hne : RegName.pwcStatus ≠ n)
    (hi : i < (regInfo n).n1) (hj : j < (regInfo n).n2) : shade (s.wr n i j v) = shade s := by
  rw [shade, State.rdf, rd_wr_other v h hne hi hj (by decide) (by decide)]
  rfl

/-! ### Firing a source (R458, R460) -/

section Fire
variable {s : State} {n : Nat} (hwhite : shade s = 0) (hregs : keysRise s.regs = true) (hn : n < 4096)
include hwhite hregs hn

theorem shade_wr_evcSrc (v : Nat) : shade (s.wr .evcSrc n 0 v) = 0 :=
  (shade_wr v hregs (by decide) hn (by decide)).trans hwhite

theorem evcFire_of_pending {tag : Nat} (h : bit (s.rd .evcSrc n) 61 = true) :
    evcFire s n tag = s.wr .evcSrc n 0 (setBits (s.rd .evcSrc n) 39 32 (satAdd 255 (bits (s.rd .evcSrc n) 39 32) 1)) := by
  simp [evcFire, h, shade_wr_evcSrc hwhite hregs hn]

theorem evcFire_of_active {tag : Nat} (h : bit (s.rd .evcSrc n) 61 = false) (ha : bit (s.rd .evcSrc n) 62 = true) :
    evcFire s n tag = s.wr .evcSrc n 0 (setBits (setBit (s.rd .evcSrc n) 61 true) 31 16 tag) := by
  simp [evcFire, h, ha, shade_wr_evcSrc hwhite hregs hn]

theorem evcFire_of_idle {tag : Nat} (h : bit (s.rd .evcSrc n) 61 = false) (ha : bit (s.rd .evcSrc n) 62 = false)
    (hwait : waitingVal s .evcSrc n 0 = none) :
    evcFire s n tag = s.wr .evcSrc n 0 (setBits (setBit (s.rd .evcSrc n) 61 true) 31 16 tag) := by
  simp [evcFire, h, ha, evcTakeWaiting, hwait, shade_wr_evcSrc hwhite hregs hn]

end Fire

section Rows
variable {s : State} {w : World} (hup : windowUp s = true) (hash : inAsh s = false)
include hup hash

theorem exec_eventFire (val : W32) : exec (.eventFire w val) s = .next (doorbellWrite s w val.toNat) := by
  show Host.Outcome.next (if windowUp s = true then _ else s) = _
  rw [if_pos hup]
  cases w with
  | ns => exact congrArg _ (winWrite_word (by decide) (by decide) hash rfl (by decide) val.isLt)
  | s => exact congrArg _ (winWrite_word (by decide) (by decide) hash rfl (by decide) val.isLt)

theorem exec_eventFire_of_denied {val : W32} (h : evtWorld s (bits val.toNat 11 0) ≠ w) :
    exec (.eventFire w val) s = .next (rasBump s 67 0 1) := by
  rw [exec_eventFire hup hash, doorbellWrite, if_pos h]
  rfl

theorem exec_eventFire_of_world {val : W32} (h : evtWorld s (bits val.toNat 11 0) = w) (hres : bits val.toNat 15 12 = 0) :
    exec (.eventFire w val) s = .next (evcFire s (bits val.toNat 11 0) (bits val.toNat 31 16)) := by
  rw [exec_eventFire hup hash, doorbellWrite, if_neg (not_not.2 h), if_neg (not_not.2 hres)]

/-! ### Claims and ends of service (R461, R462) -/

theorem exec_eventClaim {c : Fin 19} (hw : regWorldOk s w .evcClaim c = true) :
    exec (.eventClaim w c .full) s = .next (emit (claim s c).1 (.read (regOff .evcClaim c 0) (bits (claim s c).2 63 0))) := by
  have hne : regOff .evcClaim c 0 ≠ 0xD00100 := by simp only [regOff, regInfo]; omega
  exact congrArg _ (coreRead_whole c.isLt (by decide) hash hw hup (by simp only [regOff, regInfo]; omega) rfl hne)

theorem exec_eventEoi {c : Fin 19} {val : W32} (hw : regWorldOk s w .evcEoi c = true) :
    exec (.eventEoi w c val) s = .next (eoi s c (bits val.toNat 11 0)) := by
  show Host.Outcome.next (if windowUp s = true then _ else s) = _
  rw [if_pos hup]
  exact congrArg _ (winWrite_word c.isLt (by decide) hash hw (by simp only [regOff, regInfo]; omega) val.isLt)

end Rows

theorem eoi_of_active {s : State} {c n : Nat}
    (h : bit (s.rd .evcSrc n) 62 = true ∧ bit (s.rd .evcSrc n) 60 = false ∧ bits (s.rd .evcSrc n) 59 46 = c) :
    eoi s c n = endService s n := by
  obtain ⟨hact, hcore, hidx⟩ := h
  simp [eoi, hact, hcore, hidx]

theorem eoi_of_other {s : State} {c n : Nat}
    (h : ¬ (bit (s.rd .evcSrc n) 62 = true ∧ bit (s.rd .evcSrc n) 60 = false ∧ bits (s.rd .evcSrc n) 59 46 = c)) :
    eoi s c n = rasBump s 77 0 1 :=
  if_neg fun hc => h (by simpa [and_assoc] using hc)

/-- Settles O10: a fire by the state of its source, a claim by the next source, an end of service by the source it names. -/
theorem eventSourcesMove : Obligations.EventSourcesMove := by
  intro s w hup hash hwhite hcanon
  refine ⟨fun val hres => ?fire, fun c hw => ⟨fun hnone => ?none, fun n hnext => ?claim⟩, fun c val hw => ?eoi⟩
  case fire =>
    intro n tag x
    have hn : n < 4096 := bits_lt _ 11 0
    have hregs := canonical_regs hcanon
    refine ⟨exec_eventFire_of_denied hup hash, fun hworld => ?_⟩
    rw [exec_eventFire_of_world hup hash hworld hres]
    exact ⟨fun h => congrArg _ (evcFire_of_pending hwhite hregs hn h),
      fun h ha => congrArg _ (evcFire_of_active hwhite hregs hn h ha),
      fun h ha hwait => congrArg _ (evcFire_of_idle hwhite hregs hn h ha hwait)⟩
  case none =>
    rw [exec_eventClaim hup hash hw, claim, hnone]
    simp [bits]
  case claim =>
    rw [exec_eventClaim hup hash hw, claim, hnext]
  case eoi =>
    intro n x
    rw [exec_eventEoi hup hash hw]
    exact ⟨fun h => congrArg _ (eoi_of_active h), fun h => congrArg _ (eoi_of_other h)⟩

/-! ### Event records (R340) and the wake pin (R464) -/

theorem exec_eventRecordWrite {s : State} {n : RingNo} {k : Nat} (hst : (getRing s n).st = .active) (hty : ringType s n = 2)
    (hsh : shade s < 2) (hk : nextSource s true n = some k) : exec (.eventRecordWrite n) s
      = .next (endService (putEvent (takeSource s k) n k (bits (s.rd .evcSrc k) 31 16) (natLe 4 (bits (s.rd .evcSrc k) 39 32))) k) := by
  have hgo : ((getRing s n).st != .active || ringType s n != 2 || decide (2 ≤ shade s)) = false := by
    simp [hst, hty, hsh]
  show execEventRecordWrite n s = _
  rw [execEventRecordWrite, hgo, hk]
  rfl

/-- In White a wire-class trigger sets its latch and does nothing more. -/
theorem wireWake_of_white {s : State} {i : Nat} (h : shade s = 0) (hregs : keysRise s.regs = true) :
    wireWake s i = s.wr .evcWake 0 0 (setBit (s.rd .evcWake) i true) := by
  have hsh (v : Nat) : shade (s.wr .evcWake 0 0 v) = 0 := (shade_wr v hregs (by decide) (by decide) (by decide)).trans h
  simp [wireWake, hsh]

/-! ### The time base (R438, R439) -/

section Time
variable {s : State} (hup : windowUp s = true) (hash : inAsh s = false)
include hup hash

theorem exec_ckgTimeWrite {w : World} {v : W64} : exec (.ckgTimeWrite w v) s = .next (ckgTimeSet s w (setBits s.time 63 0 v.toNat)) := by
  show Host.Outcome.next (if windowUp s = true then _ else s) = _
  rw [if_pos hup]
  exact congrArg _ (winWrite_whole (by decide) (by decide) hash rfl (by decide) rfl v.isLt)

theorem exec_ckgSyncRead {w : World} (hcanon : canonical s = true) : exec (.ckgSyncRead w) s
    = .next (emit (s.wr .ckgSync 0 0 (s.time % 2 ^ 32)) (.read (regOff .ckgSync 0 0) (s.time % 2 ^ 32))) := by
  have hrd : (ckgSync s).rd .ckgSync = s.time % 2 ^ 32 :=
    (rd_wr_self _ _ _ _ (canonical_regs hcanon)).trans (by omega)
  have hread : regReadAll s w .ckgSync 0 0 = (ckgSync s, (ckgSync s).rd .ckgSync) := rfl
  show Host.Outcome.next (coreRead s w (regOff .ckgSync 0 0) .low) = _
  rw [coreRead_word (by decide) (by decide) hash rfl hup (by decide), hread, hrd]
  simp [bits, ckgSync]

end Time

/-! ### The RAS watch (R389) -/

/-- Bits written as they are stay. -/
theorem pickBits_same {m x v : Nat} (h : Nat.land v m = Nat.land x m) : pickBits m x v = x := by
  have hle : Nat.land x m ≤ x := Nat.and_le_left
  rw [pickBits, h]
  omega

/-- A mask below bit 31 does not see what is set there or cut off above. -/
theorem land_lor_mod {x m : Nat} (hm : m < 2 ^ 31) : Nat.land (Nat.lor x (2 ^ 31) % 2 ^ 32) m = Nat.land x m := by
  refine Nat.eq_of_testBit_eq fun i => ?_
  show ((x ||| 2 ^ 31) % 2 ^ 32 &&& m).testBit i = (x &&& m).testBit i
  rw [Nat.testBit_and, Nat.testBit_and, Nat.testBit_mod_two_pow, Nat.testBit_or, Nat.testBit_two_pow]
  by_cases hi : i < 31
  · have h32 : i < 32 := by omega
    simp [h32, Nat.ne_of_gt hi]
  · have hmi : m.testBit i = false :=
      Nat.testBit_lt_two_pow (hm.trans_le (Nat.pow_le_pow_right (by decide) (Nat.le_of_not_lt hi)))
    simp [hmi]

theorem sub_of_bit31 {x : Nat} (h : bit x 31 = true) : x - 0x80000000 = setBit x 31 false := by
  simp only [bit, beq_iff_eq, setBit, setBits] at *
  norm_num at *
  omega

section Watch
variable {s : State} {w : World} (hregs : keysRise s.regs = true) (hfired : bit (s.rd .rasWatchCtl) 31 = true)
theorem testBit_lor_fired {v : Nat} (hv : v = Nat.lor (s.rd .rasWatchCtl) (2 ^ 31) % 2 ^ 32) : v.testBit 31 = true := by
  rw [hv, Nat.testBit_mod_two_pow]
  show (decide (31 < 32) && (s.rd .rasWatchCtl ||| 2 ^ 31).testBit 31) = true
  rw [Nat.testBit_or, Nat.testBit_two_pow_self, Bool.or_true]
  rfl

include hfired

theorem land_fired {v : Nat} (hv : v = Nat.lor (s.rd .rasWatchCtl) (2 ^ 31) % 2 ^ 32) :
    Nat.land (Nat.land v (2 ^ 31)) (s.rd .rasWatchCtl) = 2 ^ 31 := by
  rw [bit_eq_testBit] at hfired
  refine Nat.eq_of_testBit_eq fun i => ?_
  show (v &&& 2 ^ 31 &&& s.rd .rasWatchCtl).testBit i = _
  rw [Nat.testBit_and, Nat.testBit_and, Nat.testBit_two_pow]
  by_cases hi : 31 = i
  · simp [← hi, testBit_lor_fired hv, hfired]
  · simp [hi]

include hregs

/-- Writing the register back with FIRED set clears FIRED and nothing else of it. -/
theorem plainWrite_rasWatchCtl {v : Nat} (hv : v = Nat.lor (s.rd .rasWatchCtl) (2 ^ 31) % 2 ^ 32) :
    plainWrite s w ⟨.rasWatchCtl, 0, 0, 31, 0⟩ v
      = (s.wr .rasWatchCtl 0 0 (s.rd .rasWatchCtl)).wr .rasWatchCtl 0 0 (setBit (s.rd .rasWatchCtl) 31 false) := by
  have hnow : pickBits 0x4fffffff (s.rd .rasWatchCtl) v = s.rd .rasWatchCtl :=
    pickBits_same (hv ▸ land_lor_mod (by decide))
  have hrd : (s.wr .rasWatchCtl 0 0 (s.rd .rasWatchCtl)).rd .rasWatchCtl = s.rd .rasWatchCtl :=
    (rd_wr_self _ _ _ _ hregs).trans (Nat.mod_eq_of_lt (rd_lt ..))
  have hcut : v % 2 ^ 32 * 2 ^ 0 = v := by omega
  have hclr : Nat.land (Nat.land v 0x80000000) (s.rd .rasWatchCtl) = 0x80000000 := land_fired hfired hv
  have hsel : Nat.land (2 ^ (31 + 1) - 2 ^ 0) (0x4fffffff - Nat.land 0x4fffffff (0 + 0)) = 0x4fffffff := by decide
  have hsh : Nat.land (2 ^ (31 + 1) - 2 ^ 0) (0 + 0) = 0 := by decide
  unfold plainWrite
  simp only [regInfo, hsel, hsh, hcut, hnow, hrd, hclr, if_true, if_false, Nat.reduceEqDiff, sub_of_bit31 hfired]

theorem exec_rasWatchRearm (hup : windowUp s = true) (hash : inAsh s = false) : exec (.rasWatchRearm w) s = .next
      ((({ s with rasSum := 0 } : State).wr .rasWatchCtl 0 0 (s.rd .rasWatchCtl)).wr .rasWatchCtl 0 0
        (setBit (s.rd .rasWatchCtl) 31 false)) := by
  have hreach : winWrite s w (regOff .rasWatchCtl 0 0) 4 (Nat.lor (s.rd .rasWatchCtl) (2 ^ 31))
      = watchCtlWrite s w ⟨.rasWatchCtl, 0, 0, 31, 0⟩ (Nat.lor (s.rd .rasWatchCtl) (2 ^ 31) % 2 ^ 32) :=
    winWrite_reaches (winAccess_ok hash (winRef_word (by decide) (by decide) (by decide)) rfl)
  show Host.Outcome.next (if windowUp s = true then _ else s) = _
  rw [if_pos hup, hreach, watchCtlWrite, plainWrite_rasWatchCtl hregs hfired rfl, bit_eq_testBit, testBit_lor_fired rfl]
  rfl

end Watch

/-- Settles O11: each row has its lemma above. -/
theorem eventRecordsAndTimeReads : Obligations.EventRecordsAndTimeReads := by
  refine ⟨fun s n k hst hty hsh hk => exec_eventRecordWrite hst hty hsh hk, fun s hp hsh hcanon => ?wake,
    fun s v hup hash => ⟨fun hq ht => ?time, exec_ckgTimeWrite hup hash⟩,
    fun s w hup hash hcanon => exec_ckgSyncRead hup hash hcanon, fun s w hup hash hfired hcanon => ?watch⟩
  case wake =>
    show Host.Outcome.next (if s.plat.powered = true then wireWake s 0 else s) = _
    rw [if_pos hp, wireWake_of_white hsh (canonical_regs hcanon)]
  case time =>
    have hs : s.time < 2 ^ 64 := ht.trans_lt v.isLt
    rw [exec_ckgTimeWrite hup hash, setBits_63_0 hs v.isLt, ckgTimeSet, if_pos (by simp [hq, ht])]
  case watch =>
    have hregs := canonical_regs hcanon
    have hlt : setBit (s.rd .rasWatchCtl) 31 false < 2 ^ 64 := by
      have := rd_lt s .rasWatchCtl 0 0
      simp only [setBit, setBits]
      omega
    have hrd := (rd_wr_self (s := ({ s with rasSum := 0 } : State).wr .rasWatchCtl 0 0 (s.rd .rasWatchCtl)) .rasWatchCtl 0 0 _
      (keysRise_mapSet _ _ _ hregs)).trans (Nat.mod_eq_of_lt hlt)
    refine ⟨_, exec_rasWatchRearm hregs hfired hup hash, ?_, rfl, ?_, ?_⟩
    · rw [hrd, bit_setBit_self]
    · rw [hrd, bits_setBit_ne (by decide)]
    · rw [State.wr_mem, State.wr_mem]

end Sys2Proof.Machine
end

section
/-! PROOFS. What sends over the LHL leave as it is: relations between states that count events, event sources, the injector, the link
itself and the outputs do not disturb (R318 to R325, R375, R385). -/

namespace Sys2Proof.Machine

/-- The registers that counting an event, firing a source or sending a flit over the LHL writes. -/
def linkRegs : List RegName := [.evcWake, .pwcStatus, .evcSrc, .rasWatchCtl, .rasCnt, .fijCnt, .lhlCnt]

/-- A relation that no count, no source that fires and no injector disturbs. -/
structure CountFrame (R : State → State → Prop) : Prop where
  refl : ∀ s, R s s
  trans : ∀ {s t u}, R s t → R t u → R s u
  wr : ∀ s {n i j} v, n ∈ linkRegs → i < (regInfo n).n1 → j < (regInfo n).n2 → R s (s.wr n i j v)
  waiting : ∀ s x, R s { s with waiting := x }
  plat : ∀ s x, R s { s with plat := x }
  fij : ∀ s x, R s { s with fij := x }
  rasSum : ∀ s x, R s { s with rasSum := x }

/-- A relation that no step of a send over the LHL disturbs, other than what it stores in host memory. -/
structure LinkFrame (R : State → State → Prop) : Prop extends CountFrame R where
  lhl : ∀ s x, R s { s with lhl := x }
  out : ∀ s x, R s { s with out := x }

namespace CountFrame

variable {R : State → State → Prop} (h : CountFrame R) (s : State)
include h

theorem foldl {α : Type} {f : State → α → State} (hf : ∀ t x, R t (f t x)) (l : List α) : R s (l.foldl f s) := by
  induction l generalizing s with
  | nil => exact h.refl s
  | cons x l ih => exact h.trans (hf s x) (ih _)

/-! ### Events -/

theorem wakeWhite : R s (wakeWhite s) := by
  unfold Machine.wakeWhite
  split_ifs
  · exact h.refl s
  · exact h.plat s _
  · exact h.wr s _ (by decide) (by decide) (by decide)

theorem wakeWatched (n : Nat) : R s (wakeWatched s n) :=
  h.trans (h.wr s _ (by decide) (by decide) (by decide)) (h.wakeWhite _)

theorem evcTakeWaiting {n : Nat} (hn : n < 4096) : R s (evcTakeWaiting s n) := by
  unfold Machine.evcTakeWaiting
  split
  · exact h.refl s
  · exact h.trans (h.wr s _ (by decide) hn (by decide)) (h.waiting _ _)

theorem evcFire {n : Nat} (hn : n < 4096) (tag : Nat) : R s (evcFire s n tag) := by
  have src (t : State) (v : Nat) : R t (t.wr .evcSrc n 0 v) := h.wr t v (by decide) hn (by decide)
  have fired (t : State) (ht : R s t) : R s (if (shade t == 1 && !bit (t.rd .evcSrc n) 60) = true then Machine.wakeWhite t
      else if (shade t == 2 && watched t n) = true then Machine.wakeWatched t n else t) := by
    split_ifs
    · exact h.trans ht (h.wakeWhite t)
    · exact h.trans ht (h.wakeWatched t n)
    · exact ht
  refine fired _ ?_
  split_ifs
  · exact src s _
  · exact src s _
  · exact h.trans (h.evcTakeWaiting s hn) (src _ _)

theorem rasWatch (c inc : Nat) : R s (rasWatch s c inc) := by
  simp only [Machine.rasWatch]
  split_ifs
  · exact h.trans (h.rasSum s _) (h.trans (h.wr _ _ (by decide) (by decide) (by decide)) (h.evcFire _ (bits_lt ..) c))
  · exact h.rasSum s _
  · exact h.refl s

theorem rasBump {cls : Nat} (hc : cls < 128) (d k : Nat) : R s (rasBump s cls d k) := by
  simp only [Machine.rasBump]
  split_ifs
  · exact h.refl s
  · exact h.trans (h.wr s _ (by decide) (show 4 * cls + d % 4 < 512 by omega) (by decide)) (h.rasWatch ..)

/-! ### The injectors of the links -/

theorem injStep {inj : Nat} (hinj : inj < (regInfo .fijCnt).n1) (d : Nat) : R s (injStep s inj d).1 := by
  have counted (x : NMap (Nat × Nat)) : R s (Machine.rasBump (cntAdd { s with fij := x } .fijCnt inj 0 1) 74 d 1) :=
    h.trans (h.fij s x) (h.trans (h.wr _ _ (by decide) hinj (by decide)) (h.rasBump _ (by decide) ..))
  simp only [Machine.injStep]
  split_ifs
  exacts [counted _, h.fij s _, counted _, h.fij s _, h.refl s]

theorem injected {inj : Nat} (hinj : inj < (regInfo .fijCnt).n1) (d first len : Nat) (crc : Bytes → Bytes) (body : Bytes) :
    R s (injected s inj d first len crc body).1 := by
  simp only [Machine.injected]
  repeat' split
  all_goals exact h.injStep s hinj d

end CountFrame

namespace LinkFrame

variable {R : State → State → Prop} (h : LinkFrame R) (s : State)
include h

/-! ### The LHL -/

theorem lhlCount {k : Nat} (hk : k < 8) (n : Nat) : R s (cntAdd s .lhlCnt k 0 n) := h.wr s _ (by decide) hk (by decide)

theorem flitOut (kind seq : Nat) (payload : Bytes) : R s (flitOut s .lhl kind seq payload) := by
  have sent (t : State) (ht : R s t) (b : Bool) (l : Link) (o : Option Bytes) : R s (match o with
      | some bs => emit (if b = true then setLink t .lhl l else t) (.flit (linkNo .lhl) bs)
      | none => if b = true then setLink t .lhl l else t) := by
    have hl : R s (if b = true then setLink t .lhl l else t) := by
      split_ifs
      · exact h.trans ht (h.lhl t l)
      · exact ht
    cases o with
    | none => exact hl
    | some bs => exact h.trans hl (h.out _ _)
  exact sent _ (h.trans (h.lhl s _) (h.toCountFrame.injected _ (by decide) ..)) ..

theorem refill (n : Nat) : R s (refill s .lhl n) := by
  induction n generalizing s with
  | zero => exact h.refl s
  | succ n ih =>
    simp only [Machine.refill]
    split
    · exact h.refl s
    · split_ifs
      · exact h.trans (h.trans (h.lhl s _) (h.trans (h.lhlCount _ (by decide) 1) (h.flitOut ..))) (ih _)
      · exact h.refl s

variable (hhost : ∀ s x, R s { s with host := x })
include hhost

theorem wentOut (m : TxMsg) : R s (wentOut s .lhl m) := by
  unfold Machine.wentOut
  split
  · exact hhost s _
  · exact h.out s _
  · exact h.out s _
  · exact h.refl s
  · exact h.refl s

theorem pump (n : Nat) : R s (pump .lhl n s) := by
  induction n generalizing s with
  | zero => exact h.refl s
  | succ n ih =>
    simp only [Machine.pump]
    split_ifs
    · exact h.refl s
    · split
      · exact h.refl s
      · exact h.trans (h.trans (h.lhl s _) (h.trans (h.wentOut _ hhost _) (h.refill _ _))) (ih _)

theorem linkSend (ms : List TxMsg) : R s (linkSend s .lhl ms) :=
  h.trans (h.lhl s _) (h.trans (h.refill _ _) (h.pump _ hhost _))

end LinkFrame

/-! ### Such relations -/

/-- A part of the state that depends on none of the fields a send reaches is left as it is. -/
theorem linkFrame_hqe : LinkFrame fun s t => t.hqe = s.hqe where
  refl _ := rfl
  trans h k := k.trans h
  wr s _ _ _ _ _ _ _ := State.wr_hqe s ..
  waiting _ _ := rfl
  lhl _ _ := rfl
  plat _ _ := rfl
  fij _ _ := rfl
  rasSum _ _ := rfl
  out _ _ := rfl

theorem linkFrame_host : LinkFrame fun s t => t.host = s.host where
  refl _ := rfl
  trans h k := k.trans h
  wr s _ _ _ _ _ _ _ := State.wr_host s ..
  waiting _ _ := rfl
  lhl _ _ := rfl
  plat _ _ := rfl
  fij _ _ := rfl
  rasSum _ _ := rfl
  out _ _ := rfl

/-- A register holds a value of its own, or the table is in canonical form: a store to another register leaves it. -/
def RegHeld (n : RegName) (i j : Nat) (s : State) : Prop :=
  keysRise s.regs = true ∨ mapGet (regD n i j) s.regs (regOff n i j) ≠ regD n i j (regOff n i j)

/-- The register is left as it is, and held as before. -/
def SameReg (n : RegName) (i j : Nat) (s t : State) : Prop :=
  RegHeld n i j s → RegHeld n i j t ∧ mapGet (regD n i j) t.regs (regOff n i j) = mapGet (regD n i j) s.regs (regOff n i j)

theorem SameReg.rd {n : RegName} {i j : Nat} {s t : State} (h : SameReg n i j s t) (hs : RegHeld n i j s) : t.rd n i j = s.rd n i j :=
  congrArg BitVec.toNat (h hs).2

theorem SameReg.of_regs {n : RegName} {i j : Nat} {s t : State} (h : t.regs = s.regs) : SameReg n i j s t := by
  intro hs
  unfold RegHeld at *
  rw [h]
  exact ⟨hs, rfl⟩

/-- A value that is listed stays where another key is deleted, whatever the order of the keys. -/
theorem mapGet_mapDel_of_listed {α : Type} (d : Nat → α) {m : NMap α} {k x : Nat} (hne : x ≠ k) (hx : mapGet d m x ≠ d x) :
    mapGet d (mapDel m k) x = mapGet d m x := by
  induction m with
  | nil => rfl
  | cons p m ih =>
    obtain ⟨j, w⟩ := p
    rcases Nat.lt_trichotomy x j with h | h | h
    · exact absurd (by simp [mapGet, h]) hx
    · subst h
      have : ¬ k = x := fun h => hne h.symm
      by_cases hk : k < x <;> simp [mapDel, mapGet, hk, this]
    · have hge : ¬ x < j := Nat.not_lt.2 h.le
      have hx' : mapGet d m x ≠ d x := by simpa [mapGet, hge, h.ne'] using hx
      rcases Nat.lt_trichotomy k j with hk | hk | hk
      · simp [mapDel, hk]
      · subst hk
        simp [mapDel, mapGet, hge, h.ne']
      · simp [mapDel, mapGet, Nat.not_lt.2 hk.le, hk.ne', hge, h.ne', ih hx']

theorem SameReg.wr {n m : RegName} {i j k l : Nat} (s : State) (v : Nat) (hne : regOff n i j ≠ regOff m k l) :
    SameReg n i j s (s.wr m k l v) := by
  intro hs
  have hsame : mapGet (regD n i j) (s.wr m k l v).regs (regOff n i j) = mapGet (regD n i j) s.regs (regOff n i j) := by
    rw [State.wr_regs]
    rcases hs with hs | hs
    · exact mapGet_mapSet_ne _ _ _ hs hne
    · unfold mapSet
      split
      · exact mapGet_mapDel_of_listed _ hne hs
      · exact mapGet_mapIns_ne _ _ _ hne
  refine ⟨hs.imp (fun hr => ?_) (fun hl => ?_), hsame⟩
  · exact keysRise_mapSet _ _ _ hr
  · rwa [hsame]

/-- A register that the link layer does not write is left as it is. -/
theorem linkFrame_sameReg {n : RegName} {i j : Nat} (hn : n ∉ linkRegs) (hi : i < (regInfo n).n1) (hj : j < (regInfo n).n2) :
    LinkFrame (SameReg n i j) where
  refl _ hs := ⟨hs, rfl⟩
  trans h k hs := ⟨(k (h hs).1).1, (k (h hs).1).2.trans (h hs).2⟩
  wr s _ _ _ v hm hk hl := .wr s v fun he => hn ((regOff_inj hi hj hk hl he).1 ▸ hm)
  waiting _ _ := .of_regs rfl
  lhl _ _ := .of_regs rfl
  plat _ _ := .of_regs rfl
  fij _ _ := .of_regs rfl
  rasSum _ _ := .of_regs rfl
  out _ _ := .of_regs rfl

end Sys2Proof.Machine
end

section
/-! PROOFS. Ring contexts: enabling, disabling, draining and resetting a ring (R343, R349, R353). -/

namespace Sys2Proof.Machine

@[simp] theorem getRing_wr (s : State) (n : RegName) (i j v k : Nat) : getRing (s.wr n i j v) k = getRing s k := by
  rw [getRing, State.wr_hqe, getRing]

/-! ### A write of the whole configuration (R9) -/

theorem rdStored_lt (s : State) (n : RegName) (i j : Nat) : rdStored s n i j < 2 ^ 64 := by
  unfold rdStored waitingVal
  cases mapGet (fun _ => none) s.waiting (regOff n i j) with
  | none => exact rd_lt s n i j
  | some v => exact v.isLt

theorem merged_hqeRingCfg {s : State} {w : World} {n v : Nat} (hv : v < 2 ^ 64) : merged s w ⟨.hqeRingCfg, n, 0, 63, 0⟩ v = v := by
  have hstored : storedVal s w .hqeRingCfg n 0 = rdStored s .hqeRingCfg n 0 := by simp [storedVal, regInfo]
  exact setBits_63_0 (hstored ▸ rdStored_lt ..) hv

section Row
variable {s : State} {w : World} {n : RingNo} {cfg : W64} (hup : windowUp s = true) (hash : inAsh s = false) (hw : ringWorld s n = w)
include hup hash hw

theorem ringRow_of_written {f : Nat → Bool} (h : f cfg.toNat = true) : ringRow s w n cfg f = ringCfgWrite s n cfg.toNat := by
  have hworld : regWorldOk s w .hqeRingCfg n = true := by simp [regWorldOk, regInfo, hw]
  have hmod : regOff .hqeRingCfg n 0 % 8 = 0 := by simp only [regOff, regInfo]; omega
  have hwrite := winWrite_whole (v := cfg.toNat) n.isLt (by decide : 0 < (regInfo .hqeRingCfg).n2) hash hworld hmod rfl cfg.isLt
  rw [ringRow, hup, h, Bool.and_self, if_pos rfl, hwrite]
  exact congrArg (ringCfgWrite s n) (merged_hqeRingCfg cfg.isLt)

end Row

theorem ringRow_of_not {s : State} {w : World} {n : RingNo} {cfg : W64} {f : Nat → Bool} (h : f cfg.toNat = false) :
    ringRow s w n cfg f = s := by
  simp [ringRow, h]

/-! ### What the write does (R343, R353) -/

/-- What a written configuration stores: its reserved bits and RESET read 0. -/
def ringStored (v : Nat) : Nat := setBit (Nat.land v (ringCfgMask + 2 ^ 62)) 62 false

theorem bit_ringMask {v i : Nat} (hi : i = 62 ∨ i = 63) : bit (Nat.land v (ringCfgMask + 2 ^ 62)) i = bit v i := by
  have hmask : bit (ringCfgMask + 2 ^ 62) i = true := by rcases hi with rfl | rfl <;> decide
  rw [bit_land, hmask, Bool.and_true]

section Write
variable {s : State} {n v : Nat}

theorem ringCfgWrite_of_enable (h63 : bit v 63 = true) (hoff : ringEnabled s n = false) (hst : (getRing s n).st = .disabled) :
    ringCfgWrite s n v = if ringContextOk s n (ringStored v) then setRing (s.wr .hqeRingCfg n 0 (ringStored v)) n { st := .active }
      else ringError (s.wr .hqeRingCfg n 0 (ringStored v)) n 4 := by
  have hdis : ((getRing s n).st != .disabled) = false := by simp [hst]
  rw [ringEnabled] at hoff
  simp only [ringCfgWrite, bit_ringMask, or_true, h63, hoff, hdis, Bool.false_eq_true, if_false, if_true]
  rfl

theorem ringCfgWrite_of_reset (h62 : bit v 62 = true) (h63 : bit v 63 = false) (hoff : ringEnabled s n = false)
    (hst : (getRing s n).st ≠ .draining) : ringCfgWrite s n v
      = setRing (s.wr .hqeRingCfg n 0 (ringStored v)) n { count := (getRing s n).count, seen := (getRing s n).seen } := by
  have hdrain : ((getRing s n).st == .draining) = false := by simpa using hst
  rw [ringEnabled] at hoff
  simp only [ringCfgWrite, bit_ringMask, or_true, true_or, h62, h63, hoff, hdrain, Bool.false_eq_true, if_false, if_true, ringStored,
    ringOff, getRing_wr]

/-- A dropped write of another field leaves the configuration of an enabled ring. -/
theorem ringType_ringWriteDropped (hn : n < 16384) (hon : ringEnabled s n = true) : ringType (ringWriteDropped s) n = ringType s n := by
  have hframe := linkFrame_sameReg (n := .hqeRingCfg) (i := n) (j := 0) (by decide) hn (by decide)
  have hcnt : SameReg .hqeRingCfg n 0 s (cntAdd s .hqeCnt 7 0 1) := .wr s _ fun he =>
    absurd (regOff_inj (m := .hqeCnt) (k := 7) (l := 0) hn (by decide) (by decide) (by decide) he).1 (by decide)
  have hheld : RegHeld .hqeRingCfg n 0 s := .inr fun hd => by
    have h0 : s.rd .hqeRingCfg n 0 = 0 := congrArg BitVec.toNat hd
    rw [ringEnabled, h0] at hon
    exact absurd hon (by decide)
  have hbump : SameReg .hqeRingCfg n 0 (cntAdd s .hqeCnt 7 0 1) (ringWriteDropped s) :=
    hframe.rasBump (cls := 77) _ (by decide) 0 1
  have hrd := (hframe.trans hcnt hbump).rd hheld
  exact congrArg (bits · 61 60) hrd

theorem ringCfgWrite_of_disable (hn : n < 16384) (h63 : bit v 63 = false) (hon : ringEnabled s n = true) (hty : ringType s n = 0)
    (hst : (getRing s n).st ≠ .error) :
    let kept := setBit (s.rd .hqeRingCfg n) 63 false
    let s2 := if ringStored v = kept then s else ringWriteDropped s
    ringCfgWrite s n v = setRing (s2.wr .hqeRingCfg n 0 kept) n { getRing s n with st := .draining } := by
  intro kept s2
  have herr : ((getRing s n).st == .error) = false := by simpa using hst
  have hs2 : (if (setBit (Nat.land v (ringCfgMask + 2 ^ 62)) 62 false != setBit (s.rd .hqeRingCfg n) 63 false) = true
      then ringWriteDropped s else s) = s2 := by
    show (if (ringStored v != kept) = true then ringWriteDropped s else s) = s2
    by_cases h : ringStored v = kept <;> simp [s2, h]
  have hty2 : ringType s2 n = 0 := by
    by_cases h : ringStored v = kept
    · simpa [s2, h] using hty
    · simpa [s2, h] using (ringType_ringWriteDropped hn hon).trans hty
  have hon' : bit (s.rd .hqeRingCfg n) 63 = true := hon
  simp only [ringCfgWrite, bit_ringMask, or_true, h63, hon', hty, herr, Bool.false_eq_true, if_false, if_true]
  rw [hs2, if_neg (by simp), if_pos hty2]

end Write

/-- Settles O12: each write of a configuration by what it changes of ENABLE and RESET, and the drained ring. -/
theorem ringContextsChange : Obligations.RingContextsChange := by
  intro s w n cfg hup hash hw stored s1 kept s2
  refine ⟨fun h63 hoff hst => ?enable, fun h63 hon hty hst => ?disable, fun h62 h63 hoff hst => ?reset,
    fun hst hbusy hfetched => ?drained, fun hon => ⟨?_, ?_⟩, fun hoff => ?_, fun hst => ?busy⟩
  case enable =>
    have hrow : exec (.ringEnable w n cfg) s = .next (ringCfgWrite s n cfg.toNat) :=
      congrArg _ (ringRow_of_written hup hash hw (by simp [h63, hoff]))
    rw [hrow, ringCfgWrite_of_enable h63 hoff hst]
    exact ⟨fun hok => congrArg _ (if_pos hok), fun hbad => congrArg _ (if_neg (ne_true_of_eq_false hbad))⟩
  case disable =>
    have hrow : exec (.ringDisable w n cfg) s = .next (ringCfgWrite s n cfg.toNat) :=
      congrArg _ (ringRow_of_written hup hash hw (by simp [h63, hon]))
    rw [hrow, ringCfgWrite_of_disable n.isLt h63 hon hty hst]
    rfl
  case reset =>
    have hrow : exec (.ringReset w n cfg) s = .next (ringCfgWrite s n cfg.toNat) :=
      congrArg _ (ringRow_of_written hup hash hw (by simp [h62, h63, hoff]))
    rw [hrow, ringCfgWrite_of_reset h62 h63 hoff hst]
    rfl
  case drained =>
    have hall : (s.hqe.fetched.all fun f => f.ring != n.val) = true := by simpa using hfetched
    show execRingDrained n s = _
    rw [execRingDrained, hst, hbusy, hall]
    rfl
  case busy =>
    have hst' : ((getRing s n).st == .draining) = false := by simpa using hst
    show execRingDrained n s = _
    rw [execRingDrained, hst']
    rfl
  all_goals exact congrArg _ (ringRow_of_not (by simp [*]))

end Sys2Proof.Machine
end

section
/-! PROOFS. NUDGE, WAKE and the scan of the doorbell bitmaps (R329, R332, R348, R445). -/

namespace Sys2Proof.Machine

/-! ### What a count leaves of the registers that decide -/

theorem rd_of_regs {s t : State} (h : t.regs = s.regs) (n : RegName) (i j : Nat) : t.rd n i j = s.rd n i j := by
  rw [State.rd, h, State.rd]

theorem shade_of_regs {s t : State} (h : t.regs = s.regs) : shade t = shade s :=
  congrArg (bits · 63 62) (rd_of_regs h .pwcStatus 0 0)

theorem blockVal_of_rd {s t : State} {n : RegName} {i j : Nat} (b : EpochBlock) (hseq : t.seq = s.seq) (h : t.rd n i j = s.rd n i j) :
    blockVal t b n i j = blockVal s b n i j := by
  rw [blockVal, hseq, h, blockVal]

/-- A counter reads the old count and what is added, saturated. -/
theorem rd_cntAdd_self {s : State} {n : RegName} {i j k : Nat} (h : keysRise s.regs = true) :
    (cntAdd s n i j k).rd n i j = satAdd (2 ^ 64 - 1) (s.rd n i j) k := by
  have hlt : satAdd (2 ^ 64 - 1) (s.rd n i j) k < 2 ^ 64 := by unfold satAdd; omega
  exact (rd_wr_self n i j _ h).trans (Nat.mod_eq_of_lt hlt)

section Counted
variable {s : State} (hregs : keysRise s.regs = true) {i : Nat} (hi : i < 8)
include hregs hi

theorem rd_cntAdd_hqeCnt (k : Nat) {m : RegName} (hne : m ≠ .hqeCnt) (hm : 0 < (regInfo m).n1) (hm' : 0 < (regInfo m).n2) :
    (cntAdd s .hqeCnt i 0 k).rd m = s.rd m :=
  rd_wr_other _ hregs hne hi (by decide) hm hm'

theorem shade_cntAdd_hqeCnt (k : Nat) : shade (cntAdd s .hqeCnt i 0 k) = shade s :=
  congrArg (bits · 63 62) (rd_cntAdd_hqeCnt hregs hi k (by decide) (by decide) (by decide))

theorem hqeScan_cntAdd_hqeCnt (k : Nat) :
    blockVal (cntAdd s .hqeCnt i 0 k) .hqe .hqeScan 0 0 = blockVal s .hqe .hqeScan 0 0 :=
  blockVal_of_rd _ (State.wr_seq ..) (rd_cntAdd_hqeCnt hregs hi k (by decide) (by decide) (by decide))

end Counted

/-! ### NUDGE and WAKE (R329, R332, R445) -/

section Messages
variable {s : State} {w : World} {x : W64} (hact : lhlActive s = true)
include hact

theorem exec_nudge_of_reserved (h : 2 ^ 15 ≤ x.toNat) : exec (.nudge w x) s = .next (msgDropped s) := by
  have hres : x.toNat / 2 ^ 15 ≠ 0 := by omega
  show execNudge w x s = _
  simp only [execNudge, hact, Bool.not_true, Bool.false_eq_true, if_false, hres, ne_eq, not_false_eq_true, if_true]

theorem exec_wake_of_operand (h : x ≠ 0) : exec (.wake w x) s = .next (msgDropped s) := by
  show execWake w x s = _
  simp only [execWake, hact, Bool.not_true, Bool.false_eq_true, if_false, h, ne_eq, not_false_eq_true, if_true]

theorem exec_wake : exec (.wake w 0) s = .next (wakeWhite (setInterval s (scanMin s))) := by
  show execWake w 0 s = _
  simp only [execWake, hact, Bool.not_true, Bool.false_eq_true, if_false, ne_eq, not_true]

/-- What a NUDGE names: a ring, or none. -/
def nudged (x : W64) : Option Nat := if bit x.toNat 14 then some (bits x.toNat 13 0) else none

variable (hres : x.toNat < 2 ^ 15)
include hres

theorem exec_nudge : exec (.nudge w x) s =
    let s1 := cntAdd s .hqeCnt 5 0 1
    if shade s1 = 2 then .next { s1 with hqe := { s1.hqe with nudges := s1.hqe.nudges ++ [nudged x] } }
    else .next (nudgeGo (if shade s1 = 1 then wakeWhite s1 else s1) (nudged x)) := by
  have hv : x.toNat / 2 ^ 15 = 0 := by omega
  show execNudge w x s = _
  simp only [execNudge, hact, Bool.not_true, Bool.false_eq_true, if_false, hv, ne_eq, not_true, nudged]

variable (hregs : keysRise s.regs = true)
include hregs

theorem exec_nudge_of_charcoal (h : shade s = 2) : exec (.nudge w x) s = .next
    { cntAdd s .hqeCnt 5 0 1 with
      hqe := { (cntAdd s .hqeCnt 5 0 1).hqe with nudges := (cntAdd s .hqeCnt 5 0 1).hqe.nudges ++ [nudged x] } } := by
  rw [exec_nudge hact hres]
  exact if_pos ((shade_cntAdd_hqeCnt hregs (by decide) 1).trans h)

theorem exec_nudge_of_white (h : shade s = 0) : exec (.nudge w x) s = .next (nudgeGo (cntAdd s .hqeCnt 5 0 1) (nudged x)) := by
  have h1 := (shade_cntAdd_hqeCnt hregs (by decide : 5 < 8) 1).trans h
  rw [exec_nudge hact hres]
  simp only [h1, OfNat.zero_ne_ofNat, if_false, Nat.zero_ne_one]

end Messages

/-- The part is in White after a wake that no Amber shade holds back. -/
theorem shade_wakeWhite {s : State} (hregs : keysRise s.regs = true) (h : shade s = 0 ∨ amberHeld s = 0) (hsh : shade s < 3) :
    shade (wakeWhite s) = 0 := by
  by_cases h0 : shade s = 0
  · rw [wakeWhite, if_pos (by simp [h0]), h0]
  · have hheld : ¬ 0 < amberHeld s := by omega
    have hrd := (rd_wr_self .pwcStatus 0 0 (setBits (s.rd .pwcStatus) 63 62 0) hregs).trans (Nat.mod_eq_of_lt
      (show setBits (s.rd .pwcStatus) 63 62 0 < 2 ^ 64 by have := rd_lt s .pwcStatus 0 0; simp only [setBits]; omega))
    rw [wakeWhite, if_neg (by simp only [Bool.or_eq_true, decide_eq_true_eq]; omega), if_neg hheld, shade, State.rdf, State.wrf, hrd, bits_setBits_self (by decide)]
    rfl

theorem wakeWhite_hqe (s : State) : (wakeWhite s).hqe = s.hqe := linkFrame_hqe.wakeWhite s
theorem wakeWhite_mem (s : State) : (wakeWhite s).mem = s.mem := by
  unfold wakeWhite
  split_ifs
  · rfl
  · rfl
  · rw [State.wrf, State.wr_mem]
theorem wakeWhite_lhl (s : State) : (wakeWhite s).lhl = s.lhl := by
  unfold wakeWhite
  split_ifs
  · rfl
  · rfl
  · rw [State.wrf, State.wr_lhl]

/-! ### The scan (R332, R348) -/

/-- The state at a scan's start: nothing found yet, and the scan is counted. -/
def scanBegun (s : State) : State := cntAdd { s with hqe := { s.hqe with scanFound := false } } .hqeCnt 0 0 1

section Scan
variable {s : State} (hnudges : s.hqe.nudges = [])
include hnudges

theorem exec_hqeScan : exec .hqeScan s = .next (hqeScanOnce s) := by
  show execHqeScan s = _
  rw [execHqeScan, hnudges]
  rfl

theorem exec_hqeScan_of_left (h : s.hqe.scanLeft ≠ 0) : exec .hqeScan s = .next s := by
  rw [exec_hqeScan hnudges, hqeScanOnce, if_pos (by simp [h])]

variable (hleft : s.hqe.scanLeft = 0) (hwhite : shade s = 0) (hrestart : s.plat.restart = none)
include hleft hwhite hrestart

theorem exec_hqeScan_begins : exec .hqeScan s = .next (scanEnd (scanWorld (scanWorld (scanBegun s) .ns) .s)) := by
  rw [exec_hqeScan hnudges, hqeScanOnce, if_neg (by simp [hleft, hwhite, hrestart])]
  rfl

end Scan

theorem scanWorld_of_noArea {s : State} {w : World} (h : dbArea s w = none) : scanWorld s w = s := by
  rw [scanWorld, h]

theorem dbArea_scanBegun {s : State} (hregs : keysRise s.regs = true) (w : World) : dbArea (scanBegun s) w = dbArea s w := by
  have hrd (m : RegName) (hne : m ≠ .hqeCnt) (h1 : 0 < (regInfo m).n1) (h2 : 0 < (regInfo m).n2) : (scanBegun s).rd m = s.rd m :=
    rd_cntAdd_hqeCnt (s := { s with hqe := { s.hqe with scanFound := false } }) hregs (by decide) 1 hne h1 h2
  cases w with
  | ns => rw [dbArea, dbArea]; simp only [hrd .hqeDbBaseNs (by decide) (by decide) (by decide)]
  | s => rw [dbArea, dbArea]; simp only [hrd .hqeDbBaseS (by decide) (by decide) (by decide)]

/-- With nothing found and no line out in White, the interval doubles up to its base. -/
theorem scanEnd_scanBegun {s : State} (hregs : keysRise s.regs = true) (hleft : s.hqe.scanLeft = 0) (hwhite : shade s = 0) :
    scanEnd (scanBegun s) = setInterval (scanBegun s) (min (scanBase s) (s.hqe.interval * 2)) := by
  have hqe : (scanBegun s).hqe = { s.hqe with scanFound := false } := State.wr_hqe ..
  have hsh : shade (scanBegun s) = 0 :=
    (shade_cntAdd_hqeCnt (s := { s with hqe := { s.hqe with scanFound := false } }) hregs (by decide) 1).trans hwhite
  have hbase : scanBase (scanBegun s) = scanBase s := congrArg (fun v => orElse0 (bits v 19 8) 1)
    (hqeScan_cntAdd_hqeCnt (s := { s with hqe := { s.hqe with scanFound := false } }) hregs (by decide) 1)
  rw [scanEnd, if_neg (by rw [hqe]; exact not_not.2 hleft)]
  simp only [hqe, hsh, hbase, Nat.zero_ne_one, if_false, Bool.false_eq_true]

/-! ### The count of scans through the reads of the bitmaps -/

section Reads
variable {n : RegName} {i j : Nat} (hframe : LinkFrame (SameReg n i j))
include hframe

theorem sameReg_hostPut (s : State) (w : World) (use : HostUse) (a k : Nat) : SameReg n i j s (hostPut s w use a k) := by
  unfold hostPut
  split_ifs
  · exact .of_regs rfl
  · exact hframe.trans (t := { s with hostReqs := s.hostReqs ++ [{ tag := freeTag s, use := use, addr := a, len := k }] })
      (.of_regs rfl) (hframe.linkSend _ (fun _ _ => .of_regs rfl) _)

theorem sameReg_scanWorld (s : State) (w : World) : SameReg n i j s (scanWorld s w) := by
  unfold scanWorld
  split
  · exact hframe.refl s
  · refine hframe.foldl s (fun t k => ?_) _
    exact hframe.trans (sameReg_hostPut hframe t w (.bitmap w k) _ 64) (.of_regs rfl)

theorem sameReg_scanEnd (s : State) : SameReg n i j s (scanEnd s) := by
  unfold scanEnd
  split_ifs
  · exact hframe.refl s
  all_goals exact .of_regs rfl

end Reads

/-- Settles O13: a message by its operand and the shade, a scan by what is out and by the areas. -/
theorem scansAndNudges : Obligations.ScansAndNudges := by
  intro s w x
  refine ⟨fun hact => ⟨exec_nudge_of_reserved hact, exec_wake_of_operand hact, fun hres hsh hcanon => ?charcoal,
    fun n hres hring hn hsh hcanon => ?white, fun h hsh hcanon => ?wake⟩, fun hleft hnudges hsh hrestart hcanon => ⟨?noArea, ?counted⟩,
    fun hleft hnudges => exec_hqeScan_of_left hnudges hleft⟩
  case charcoal =>
    have hregs := canonical_regs hcanon
    refine ⟨_, exec_nudge_of_charcoal hact hres hregs hsh, ?_, ?_, ?_, ?_⟩
    · show (s.wr ..).hqe.nudges ++ _ = _
      rw [State.wr_hqe]
      rfl
    · exact (rd_of_regs rfl .hqeCnt 5 0).trans (rd_cntAdd_self hregs)
    · exact (shade_of_regs rfl).trans ((shade_cntAdd_hqeCnt hregs (by decide) 1).trans hsh)
    · show (cntAdd s .hqeCnt 5 0 1).mem = s.mem
      rw [cntAdd, State.wr_mem]
  case white =>
    have hregs := canonical_regs hcanon
    have hname : nudged x = some n := by rw [nudged, if_pos hring, hn]
    have hmin : scanMin (cntAdd s .hqeCnt 5 0 1) = scanMin s := congrArg (fun v => min (orElse0 (bits v 7 0) 1) (orElse0 (bits v 19 8) 1))
      (hqeScan_cntAdd_hqeCnt hregs (by decide) 1)
    rw [exec_nudge_of_white hact hres hregs hsh, hname, nudgeGo, hmin]
  case wake =>
    have hregs := canonical_regs hcanon
    refine ⟨_, exec_wake hact, shade_wakeWhite hregs h hsh, ?_, wakeWhite_mem _, wakeWhite_lhl _⟩
    rw [wakeWhite_hqe]
    rfl
  case noArea =>
    intro hns hs
    have hregs := canonical_regs hcanon
    rw [exec_hqeScan_begins hnudges hleft hsh hrestart, scanWorld_of_noArea ((dbArea_scanBegun hregs .ns).trans hns),
      scanWorld_of_noArea ((dbArea_scanBegun hregs .s).trans hs), scanEnd_scanBegun hregs hleft hsh]
    rfl
  case counted =>
    have hregs := canonical_regs hcanon
    have hframe := linkFrame_sameReg (n := .hqeCnt) (i := 0) (j := 0) (by decide) (by decide) (by decide)
    have hkept := hframe.trans (hframe.trans (sameReg_scanWorld hframe (scanBegun s) .ns) (sameReg_scanWorld hframe _ .s))
      (sameReg_scanEnd hframe _)
    refine ⟨_, exec_hqeScan_begins hnudges hleft hsh hrestart, (hkept.rd (.inl (keysRise_mapSet _ _ _ hregs))).trans ?_⟩
    exact rd_cntAdd_self (s := { s with hqe := { s.hqe with scanFound := false } }) hregs

end Sys2Proof.Machine
end

section
/-! PROOFS. Descriptors: grants, the fetch, the checks and the issue, the second read after a SEQ mismatch (R333 to R335), space polls
and coalesced interrupts (R337, R338, R341, R350). -/

namespace Sys2Proof.Machine

section Fetch
variable {s : State} {n : RingNo}

/-- The state in which a fetch takes its grant: a round that is over begins anew (R333). -/
def grantRound (s : State) : State := if roundOver s then { s with hqe := { s.hqe with grants := [] } } else s

theorem exec_descriptorFetch_of_granted (hf : fetchable s n = true) (hnext : nextOfClass (grantRound s) (ringClass s n) = some n.val)
    (hw : grantsUsed (grantRound s) (ringClass s n) < classWeight s (ringClass s n)) :
    exec (.descriptorFetch n) s = .next (fetchFrom (takeGrant (grantRound s) n) n) :=
  if_pos (by
    simp only [Bool.and_eq_true, decide_eq_true_eq]
    exact ⟨⟨hf, hnext⟩, hw⟩)

theorem exec_descriptorFetch_of_not (hf : fetchable s n = false) : exec (.descriptorFetch n) s = .next s :=
  if_neg (by rw [hf]; simp)

theorem exec_descriptorSeqRecheck_of_marked {f : Fetched} (hr : (getRing s n).recheck = true)
    (hf : s.hqe.fetched.find? (fun g => g.ring == n.val) = some f) : exec (.descriptorSeqRecheck n) s
      = .next (hostAsk s (ringWorld s n) (.recheck n) (ringBase s n + 64 * (f.seq % ringSize s n)) 64) := by
  show execDescriptorSeqRecheck n s = _
  rw [execDescriptorSeqRecheck, hr, hf]
  rfl

theorem exec_cqSpacePoll_of_full {a : Nat} (hst : (getRing s n).st = .active) (hty : ringType s n ≠ 0) (hfull : ringFull s n = true)
    (ha : doorbell s n = some a) : exec (.cqSpacePoll n) s = .next (hostAsk s (ringWorld s n) (.space n) a 8) := by
  have hgo : ((getRing s n).st != .active || ringType s n == 0 || !ringFull s n) = false := by
    simp [hst, hty, hfull]
  show execCqSpacePoll n s = _
  rw [execCqSpacePoll, hgo, ha]
  rfl

theorem exec_coalesceTimer_of_unsignalled (hi : bit (s.rd .hqeRingCfg n) 51 = true) (ht : bits (s.rd .hqeRingCfg n) 16 5 ≠ 0)
    (hty : ringType s n ≠ 0) (hu : 0 < (getRing s n).unsig) : exec (.coalesceTimer n) s
      = .next (sendIntr (setRing s n { getRing s n with unsig := 0, oldest := 0 }) (ringWorld s n) (bits (s.rd .hqeRingCfg n) 35 25)) :=
  if_pos (by simp [hi, ht, hty, hu])

end Fetch

/-! ### The issue (R334, R335) -/

section Issue
variable {s : State} {f : Fetched} {rest : List Fetched} (hl : s.lhl.lost = false) (hr : s.plat.restart = none) (hsh : shade s < 2)
  (hf : nextToIssue s [] s.hqe.fetched = some (f, rest))
  (hroom : cplKept s + cplNeed (fld f.desc 0 2) (slice f.desc 16 48) ≤ 4096)
include hl hr hsh hf hroom

theorem exec_descriptorIssue_of_seqMismatch (hseq : fld f.desc 4 4 ≠ f.seq) :
    exec .descriptorIssue s = .next (setRing s f.ring { getRing s f.ring with recheck := true }) := by
  show Host.Outcome.next (issueNext s) = _
  rw [issueNext, if_neg (by simp [hl, hr, hsh]), hf]
  simp only [Nat.not_lt.2 hroom, if_false, hseq, ne_eq, not_false_eq_true, if_true]

theorem exec_descriptorIssue_of_good (hseq : fld f.desc 4 4 = f.seq) (hok : descOk s f = true) :
    exec .descriptorIssue s = .next { s with hqe := { s.hqe with
      fetched := rest, issued := s.hqe.issued ++ [issuedOf s f], nextIid := s.hqe.nextIid + 1 } } := by
  show Host.Outcome.next (issueNext s) = _
  rw [issueNext, if_neg (by simp [hl, hr, hsh]), hf]
  simp only [Nat.not_lt.2 hroom, if_false, hseq, hok, ne_eq, not_true, if_true]

end Issue

theorem exec_nop_of_issued {s : State} {iid : Nat} {c : Issued} (hc : getIssued s iid = some c) (hop : c.op = 0x0001) :
    exec (.nop iid) s = .next (completeInfo s iid stOk (deltaInfo s c.ras0 ++ [0, 0])) := by
  have hinfo : plainInfo s c = deltaInfo s c.ras0 ++ [0, 0] := by
    rw [plainInfo, hop]
    rfl
  show execNop iid s = _
  simp only [execNop, hc, hop, if_true, complete, hinfo]

/-- Settles O14: each row has its lemma above. -/
theorem descriptorsFetchAndIssue : Obligations.DescriptorsFetchAndIssue := by
  intro s n
  refine ⟨exec_descriptorFetch_of_granted, exec_descriptorFetch_of_not, fun f rest hl hr hsh hf hroom =>
    ⟨exec_descriptorIssue_of_seqMismatch hl hr hsh hf hroom, exec_descriptorIssue_of_good hl hr hsh hf hroom⟩,
    fun f => exec_descriptorSeqRecheck_of_marked, fun a => exec_cqSpacePoll_of_full, ?coalesce, fun iid c => exec_nop_of_issued⟩
  case coalesce => exact exec_coalesceTimer_of_unsignalled

end Sys2Proof.Machine
end

section
/-! PROOFS. Completion entries: the write of one entry into the host's ring (R325, R338, R339, R341). -/

namespace Sys2Proof.Machine

/-! ### Links on which nothing waits (R320, R321) -/

section Nothing
variable {s : State} {i : LinkId}

theorem refill_of_noWait {n : Nat} (h : (getLink s i).wait = []) : refill s i n = s := by
  cases n with
  | zero => rfl
  | succ n => simp only [refill, h]

theorem pumpAll_of_noWait (h : (getLink s i).wait = []) : pumpAll s i = pump i (getLink s i).hold.length s := by
  simp only [pumpAll, refill_of_noWait h]

theorem pumpAll_of_nothing (h : (getLink s i).wait = []) (hh : (getLink s i).hold = []) : pumpAll s i = s := by
  rw [pumpAll_of_noWait h, hh]
  rfl

end Nothing

/-! ### One write with nothing in front of it (R321, R325) -/

section Single
variable {s : State} {m : TxMsg} (hact : lhlActive s = true) (hhold : s.lhl.hold = []) (hwait : s.lhl.wait = [])
  (hcredit : creditOk .lhl s.lhl m = true)

section
include hcredit

/-- A transaction that has its credit, with none before it, is the next to go out. -/
theorem nextOut_single : ∃ swap, nextOut .lhl { s.lhl with hold := [m] } = some (m, [], swap) := by
  have hready : firstReady .lhl { s.lhl with hold := [m] } [] [m] = some (m, []) := if_pos hcredit
  simp only [nextOut, hready]
  cases s.lhl.swap with
  | none => exact ⟨_, rfl⟩
  | some sub => exact ⟨_, rfl⟩

end

include hact hhold hwait hcredit

theorem linkSend_single_host : (linkSend s .lhl [m]).host = (wentOut s .lhl m).host := by
  let s1 := setLink s .lhl { s.lhl with hold := [m] }
  obtain ⟨swap, hnext⟩ := nextOut_single hcredit
  have hsend : linkSend s .lhl [m] = pump .lhl 1 s1 := by
    have hs1 : setLink s .lhl { getLink s .lhl with hold := (getLink s .lhl).hold ++ [m] } = s1 := by
      simp only [getLink, hhold, List.nil_append, s1]
    rw [linkSend, hs1]
    exact pumpAll_of_noWait hwait
  have hpump : pump .lhl 1 s1 = refill (wentOut (setLink s1 .lhl
      (creditSpend { s.lhl with hold := [], swap := swap, wait := flitsOf m } m)) .lhl m) .lhl 512 := by
    have hgo : ((getLink s1 .lhl).st != .active || !(getLink s1 .lhl).wait.isEmpty || linkQuiesces s1 .lhl) = false := by
      have hst : s.lhl.st = .active := by simpa [lhlActive] using hact
      simp [s1, getLink, setLink, hst, hwait, linkQuiesces]
    have hnext' : nextOut .lhl (getLink s1 .lhl) = some (m, [], swap) := hnext
    simp only [pump, hgo, hnext', Bool.false_eq_true, if_false]
    rfl
  rw [hsend, hpump, linkFrame_host.refill]
  unfold wentOut
  split <;> rfl

end Single

/-- A string of bytes that lies in one page and is short goes out in one MWR. -/
theorem mwrs_single {w : World} {a : Nat} {bs : Bytes} (h0 : 0 < bs.length) (h512 : bs.length ≤ 512) (hpage : a % 4096 + bs.length ≤ 4096) :
    ∃ bytes, mwrs w a bs = [{ cls := 0, data := (bs.length + 31) / 32, posted := true, use := .write w a bs, bytes := bytes }] := by
  have hmin : min bs.length (min 512 (4096 - a % 4096)) = bs.length := by omega
  have hpieces : hostPieces 512 (bs.length / 512 + bs.length / 4096 + 3) a bs.length = [(a, bs.length)] := by
    rw [hostPieces, if_neg (by omega), hmin]
    simp [hostPieces]
  have hslice : slice bs (a - a) bs.length = bs := by
    rw [Nat.sub_self, slice_eq (by omega)]
    simp
  simp only [mwrs, hpieces, List.map_cons, List.map_nil, hslice]
  exact ⟨_, rfl⟩

/-! ### The entry (R338, R339) -/

theorem cplBytes_length (s : State) (c : Cpl) : (cplBytes s c).length = 32 := by
  simp [cplBytes]

section Entry
variable {s : State} {e : Cpl}

/-- An entry that is not buffered is written and counted. -/
theorem putCpl_of_free (hrestart : s.plat.restart = none) (hlost : s.lhl.lost = false) (hfull : ringFull s e.cq = false)
    (hbuf : ∀ d ∈ s.hqe.buf, d.cq ≠ e.cq) : putCpl s e = cntAdd (putEntry s e.cq (cplBytes s e) e.irq) .hqeCnt 3 0 1 := by
  have hany : (s.hqe.buf.any fun d => d.cq == e.cq) = false := by simpa using hbuf
  exact if_neg (by simp [hrestart, hlost, hfull, hany])

end Entry

/-- With interrupts of a ring off, its signal only counts. -/
theorem signalRing_of_silent {s : State} {n : Nat} (irq : Bool) (h : bit (s.rd .hqeRingCfg n) 51 = false) :
    ∃ r : Ring, signalRing s n irq = setRing s n r :=
  ⟨_, if_neg (by simp [h])⟩

section Put
variable {s : State} {n : Nat} {bs : Bytes} {irq : Bool} (hn : n < 16384) (hcanon : canonical s = true)
  (hint : bit (s.rd .hqeRingCfg n) 51 = false)
include hn hcanon hint

/-- With interrupts of the ring off, an entry is one write to the host and a new record of the ring. -/
theorem putEntry_of_silent : ∃ r r' : Ring, putEntry s n bs irq = setRing (setRing (hostWrite s (ringWorld s n)
    (ringBase s n + 32 * ((getRing s n).count % ringSize s n)) bs) n r) n r' := by
  have hframe := linkFrame_sameReg (n := .hqeRingCfg) (i := n) (j := 0) (by decide) hn (by decide)
  have hcfg (w : World) (a : Nat) : (hostWrite s w a bs).rd .hqeRingCfg n = s.rd .hqeRingCfg n :=
    (hframe.linkSend s (fun _ _ => .of_regs rfl) (mwrs w a bs)).rd (.inl (canonical_regs hcanon))
  have hquiet (w : World) (a : Nat) (r : Ring) : bit ((setRing (hostWrite s w a bs) n r).rd .hqeRingCfg n) 51 = false := by
    rw [rd_of_regs (setRing_regs ..), hcfg]
    exact hint
  obtain ⟨r', hr'⟩ := signalRing_of_silent irq (hquiet (ringWorld s n)
    (ringBase s n + 32 * ((getRing s n).count % ringSize s n)) { getRing s n with count := (getRing s n).count + 1 })
  exact ⟨_, r', hr'⟩

end Put

/-- Settles O15: what is put is one write of the entry at its place, and nothing else of the host's memory or the device's. -/
theorem completionEntriesWritten : Obligations.CompletionEntriesWritten := by
  intro s iid status info c hc hact hrestart hlost hhold hwait hcredit hbase hfull hbuf hint hcanon q e a t
  let u := dropIssued s iid
  let v := putEntry u q (cplBytes u e) e.irq
  have hu : canonical u = true := hcanon
  have hq : q < 16384 := bits_lt _ 49 36
  have ht : t = cntAdd v .hqeCnt 3 0 1 := by
    have hput : t = putCpl u e := by
      show completeInfo s iid status info = _
      rw [completeInfo, hc]
    rw [hput]
    exact putCpl_of_free hrestart hlost hfull hbuf
  obtain ⟨r, r', hv⟩ := putEntry_of_silent (irq := e.irq) (bs := cplBytes u e) hq hu hint
  let h := hostWrite u (ringWorld u q) a (cplBytes u e)
  have hthqe : t.hqe = (setRing (setRing h q r) q r').hqe := by
    rw [ht, cntAdd, State.wr_hqe]
    exact congrArg State.hqe hv
  have hhqe : h.hqe = u.hqe := linkFrame_hqe.linkSend u (fun _ _ => rfl) _
  have hlen := cplBytes_length s e
  have hhost : t.host = (setHost s a (cplBytes s e)).host := by
    have hpage : ringBase s q % 4096 = 0 := hbase
    have hplace : a % 4096 + 32 ≤ 4096 := by
      simp only [a]
      omega
    obtain ⟨bytes, hm⟩ := mwrs_single (w := ringWorld u q) (a := a) (bs := cplBytes u e) (by rw [cplBytes_length]; decide)
      (by rw [cplBytes_length]; decide) (by rw [cplBytes_length]; exact hplace)
    rw [ht, cntAdd, State.wr_host]
    calc v.host = h.host := (congrArg State.host hv).trans rfl
      _ = (linkSend u .lhl _).host := congrArg (fun ms => (linkSend u .lhl ms).host) hm
      _ = _ := linkSend_single_host hact hhold hwait (by rw [cplBytes_length]; exact hcredit)
  refine ⟨?issued, ?mem, ?buf, ?entry, fun x hx => ?outside, ?count⟩
  case issued =>
    rw [getIssued, hthqe]
    show h.hqe.issued.find? _ = none
    rw [hhqe, List.find?_eq_none]
    intro d hd
    simpa using (List.mem_filter.1 hd).2
  case mem =>
    have hmem : ApartFromLinks State.mem := by constructor <;> exact fun _ _ => rfl
    rw [ht, hmem.cntAdd]
    exact (congrArg State.mem hv).trans (hmem.linkSend u ..)
  case buf =>
    rw [hthqe]
    exact (congrArg Hqe.buf hhqe).trans rfl
  case entry =>
    rw [hostBytes, hhost, ← hlen]
    exact hostBytes_setHost a _ (canonical_host hcanon)
  case outside =>
    rw [hhost]
    exact host_setHost_out (canonical_host hcanon) (by rwa [hlen])
  case count =>
    have hframe := linkFrame_sameReg (n := .hqeCnt) (i := 3) (j := 0) (by decide) (by decide) (by decide)
    have hregs : v.regs = h.regs := (congrArg State.regs hv).trans rfl
    have hcv : canonical v = true := (keeps_putEntry (Keeps.refl u) ..).canonical hu
    have hsame : h.rd .hqeCnt 3 = u.rd .hqeCnt 3 :=
      (hframe.linkSend u (fun _ _ => .of_regs rfl) _).rd (.inl (canonical_regs hu))
    rw [ht, rd_cntAdd_self (canonical_regs hcv), rd_of_regs hregs, hsame]
    rfl

end Sys2Proof.Machine
end

section
/-! PROOFS. The LHL and the QXF ports: flits in order, replay and acknowledgement (R318 to R321, R355). -/

namespace Sys2Proof.Machine

/-! ### A link's record, whatever the order of the ports' table -/

theorem mapIns_mapIns {α : Type} (m : NMap α) (k : Nat) (v w : α) : mapIns (mapIns m k v) k w = mapIns m k w := by
  induction m with
  | nil => simp [mapIns]
  | cons p m ih =>
    obtain ⟨j, x⟩ := p
    rcases Nat.lt_trichotomy k j with h | h | h
    · simp [mapIns, h]
    · subst h
      simp [mapIns]
    · simp [mapIns, Nat.not_lt.2 h.le, h.ne', ih]

theorem link_ne_default {l : Link} (h : l.st ≠ .down) : l ≠ {} := fun he => h (he ▸ rfl)

section Record
variable {s : State} {i : LinkId} {l l' : Link} (h : l.st ≠ .down)
include h

/-- A link that is not DOWN is listed, so that it reads back in any state. -/
theorem getLink_setLink : getLink (setLink s i l) i = l := by
  cases i with
  | lhl => rfl
  | port p => simp only [getLink, setLink, mapSet, link_ne_default h, if_false, mapGet_mapIns_self]

theorem setLink_setLink (h' : l'.st ≠ .down) : setLink (setLink s i l) i l' = setLink s i l' := by
  cases i with
  | lhl => rfl
  | port p => simp only [setLink, mapSet, link_ne_default h, link_ne_default h', if_false, mapIns_mapIns]

end Record

section Keeps
variable (s : State) (i : LinkId)

@[simp] theorem getLink_wr (n : RegName) (j k v : Nat) : getLink (s.wr n j k v) i = getLink s i := by
  cases i with
  | lhl => exact State.wr_lhl ..
  | port p => exact congrArg (mapGet (fun _ => {}) · p) (State.wr_ports s n j k v)

@[simp] theorem getLink_linkCount (j : LinkId) (k n : Nat) : getLink (linkCount s j k n) i = getLink s i := by
  cases j <;> exact getLink_wr ..

end Keeps

/-! ### Flits in order (R318 to R321) -/

/-- The row of a link on which a flit comes in. -/
def FlitRow (c : Instr) (i : LinkId) (f : Flit) : Prop :=
  (c = .lhlFlitReceive f ∧ i = .lhl) ∨ ∃ p : PortNo, c = .qxfFlitReceive p f ∧ i = .port p

theorem exec_flitRow {c : Instr} {s : State} {i : LinkId} {f : Flit} (h : FlitRow c i f) (hlen : f.payload.length ≤ 248) :
    exec c s = .next (receiveFlit s i f) := by
  rcases h with ⟨rfl, rfl⟩ | ⟨p, rfl, rfl⟩
  · exact if_pos hlen
  · exact if_pos hlen

/-- The link once a flit has come in order (R319, R320). -/
def flitTaken (l : Link) : Link := { l with rxSeq := (l.rxSeq + 1) % 4096, got := true, naked := false, ackOwed := l.ackOwed + 1 }

theorem takeCredits_other (l : Link) (es : List Bytes) : ∃ hdr data, takeCredits l es = { l with crHdr := hdr, crData := data } := by
  induction es generalizing l with
  | nil => exact ⟨_, _, rfl⟩
  | cons e es ih =>
    simp only [takeCredits]
    split_ifs
    · exact ⟨_, _, rfl⟩
    · obtain ⟨hdr, data, h⟩ := ih _
      exact ⟨hdr, data, h⟩

section Receive
variable {s : State} {i : LinkId} {f : Flit}

theorem receiveFlit_of_inactive (h : (getLink s i).st ≠ .active) : receiveFlit s i f = s := by
  rw [receiveFlit, if_pos (by simpa using h)]

variable (hact : (getLink s i).st = .active)
include hact

theorem receiveFlit_of_badCrc (h : flitGood f = false) : receiveFlit s i f = discardFlit s i := by
  simp only [receiveFlit, hact, h, bne_self_eq_false, Bool.false_eq_true, if_false, Bool.not_false, if_true]

section Good
variable (hgood : flitGood f = true) (hkind : f.kind.val < 2)
include hgood hkind

theorem receiveFlit_of_sequence : receiveFlit s i f = if f.seq.val != (getLink s i).rxSeq then discardFlit s i else
    let t := linkCount (takePayload (setLink s i (flitTaken (getLink s i))) i f) i 1 1
    if f.ackv then takeAck t i f.ack.val else pumpAll t i := by
  rw [receiveFlit, if_neg (by simp [hact]), if_neg (by simp [hgood])]
  split
  · omega
  · omega
  · rfl

theorem receiveFlit_of_otherSeq (h : f.seq.val ≠ (getLink s i).rxSeq) : receiveFlit s i f = discardFlit s i := by
  rw [receiveFlit_of_sequence hact hgood hkind, if_pos (by simpa using h)]

theorem receiveFlit_of_inOrder (hseq : f.seq.val = (getLink s i).rxSeq) (hack : f.ackv = false) : receiveFlit s i f
    = pumpAll (linkCount (takePayload (setLink s i (flitTaken (getLink s i))) i f) i 1 1) i := by
  rw [receiveFlit_of_sequence hact hgood hkind, if_neg (by simp [hseq]), hack]
  rfl

end Good

/-- A CONTROL flit's grants are taken into the link's record. -/
theorem takePayload_control (hkind : f.kind.val = 1) : takePayload (setLink s i (flitTaken (getLink s i))) i f
    = setLink s i (takeCredits (flitTaken (getLink s i)) (chunk 8 31 (slice f.payload 0 248))) := by
  have hdown : (flitTaken (getLink s i)).st ≠ .down := by
    show (getLink s i).st ≠ .down
    simp [hact]
  obtain ⟨hdr, data, htake⟩ := takeCredits_other (flitTaken (getLink s i)) (chunk 8 31 (slice f.payload 0 248))
  refine (if_pos hkind).trans ?_
  rw [getLink_setLink hdown, setLink_setLink hdown]
  rw [htake]
  exact hdown

/-- Where nothing waits, grants alone send nothing. -/
theorem pumpAll_takeCredits (hhold : (getLink s i).hold = []) (hwait : (getLink s i).wait = []) (es : List Bytes) :
    pumpAll (linkCount (setLink s i (takeCredits (flitTaken (getLink s i)) es)) i 1 1) i
      = linkCount (setLink s i (takeCredits (flitTaken (getLink s i)) es)) i 1 1 := by
  obtain ⟨hdr, data, htake⟩ := takeCredits_other (flitTaken (getLink s i)) es
  have hlink : getLink (linkCount (setLink s i (takeCredits (flitTaken (getLink s i)) es)) i 1 1) i
      = takeCredits (flitTaken (getLink s i)) es := by
    rw [getLink_linkCount, getLink_setLink]
    rw [htake]
    show (getLink s i).st ≠ .down
    simp [hact]
  exact pumpAll_of_nothing (by rw [hlink, htake]; exact hwait) (by rw [hlink, htake]; exact hhold)

end Receive

theorem discardFlit_eq (s : State) (i : LinkId) : discardFlit s i = if (getLink s i).naked then linkCount s i 2 1
    else flitOut (setLink (linkCount s i 2 1) i { getLink s i with naked := true }) i 3 0 [] := by
  simp only [discardFlit, getLink_linkCount]

/-- Settles O16: a flit by the state of its link, its CRC and its SEQ. -/
theorem linkFlitsInOrder : Obligations.LinkFlitsInOrder := by
  intro s i c f hrow hlen hkind hackv l l1
  rw [exec_flitRow hrow hlen]
  refine ⟨fun hact => ⟨fun hgood hseq => ⟨?taken, fun hctl hhold hwait => ?control⟩, fun hbad => ?bad⟩,
    fun hact => congrArg _ (receiveFlit_of_inactive hact)⟩
  case taken => exact congrArg _ (receiveFlit_of_inOrder hact hgood hkind hseq hackv)
  case control =>
    rw [receiveFlit_of_inOrder hact hgood hkind hseq hackv, takePayload_control hact hctl, pumpAll_takeCredits hact hhold hwait]
    rfl
  case bad =>
    have hdiscard : receiveFlit s i f = discardFlit s i := by
      cases hg : flitGood f with
      | false => exact receiveFlit_of_badCrc hact hg
      | true => exact receiveFlit_of_otherSeq hact hg hkind (hbad.resolve_left (by simp [hg]))
    rw [hdiscard, discardFlit_eq]
    exact ⟨fun hn => congrArg _ (if_pos hn), fun hn => congrArg _ (if_neg (ne_true_of_eq_false hn))⟩

end Sys2Proof.Machine
end

section
/-! PROOFS. Replay and acknowledgement of a link (R318, R320, R355). -/

namespace Sys2Proof.Machine

/-- The host's memory and the links are as they were. -/
def SameLinks (s t : State) : Prop := t.host = s.host ∧ t.lhl = s.lhl ∧ t.ports = s.ports

theorem countFrame_sameLinks : CountFrame SameLinks where
  refl _ := ⟨rfl, rfl, rfl⟩
  trans := fun ⟨hh, hl, hp⟩ ⟨kh, kl, kp⟩ => ⟨kh.trans hh, kl.trans hl, kp.trans hp⟩
  wr s _ _ _ _ _ _ _ := ⟨State.wr_host s .., State.wr_lhl s .., State.wr_ports s ..⟩
  waiting _ _ := ⟨rfl, rfl, rfl⟩
  plat _ _ := ⟨rfl, rfl, rfl⟩
  fij _ _ := ⟨rfl, rfl, rfl⟩
  rasSum _ _ := ⟨rfl, rfl, rfl⟩

theorem SameLinks.getLink {s t : State} (h : SameLinks s t) (i : LinkId) : getLink t i = getLink s i := by
  obtain ⟨_, hl, hp⟩ := h
  cases i with
  | lhl => exact hl
  | port p => exact congrArg (mapGet (fun _ => {}) · p) hp

theorem emit_getLink (s : State) (o : Output) (i : LinkId) : getLink (emit s o) i = getLink s i := by cases i <;> rfl

theorem linkCount_sameLinks (s : State) (i : LinkId) (k n : Nat) : SameLinks s (linkCount s i k n) := by
  cases i <;> exact ⟨State.wr_host s .., State.wr_lhl s .., State.wr_ports s ..⟩

/-- Device memory takes no part in what a link does. -/
theorem mem_apart : ApartFromLinks State.mem where
  regs _ _ := rfl
  waiting _ _ := rfl
  host _ _ := rfl
  hqe _ _ := rfl
  lhl _ _ := rfl
  ports _ _ := rfl
  plat _ _ := rfl
  fij _ _ := rfl
  rasSum _ _ := rfl
  out _ _ := rfl

/-- What a flit that goes out leaves of its link: it stays ACTIVE, with its replay buffer, and no memory is written. -/
structure Resent (i : LinkId) (s t : State) : Prop where
  mem : t.mem = s.mem
  host : t.host = s.host
  active : (getLink s i).st = .active → (getLink t i).st = .active
  replay : (getLink s i).st = .active → (getLink t i).replay = (getLink s i).replay

namespace Resent

variable {i : LinkId} {s t u : State}

theorem refl : Resent i s s := ⟨rfl, rfl, id, fun _ => rfl⟩

theorem trans (h : Resent i s t) (k : Resent i t u) : Resent i s u where
  mem := k.mem.trans h.mem
  host := k.host.trans h.host
  active ha := k.active (h.active ha)
  replay ha := (k.replay (h.active ha)).trans (h.replay ha)

theorem of_sameLinks (h : SameLinks s t) (hmem : t.mem = s.mem) : Resent i s t where
  mem := hmem
  host := h.1
  active ha := (congrArg Link.st (h.getLink i)).trans ha
  replay _ := congrArg Link.replay (h.getLink i)

theorem setLink {l : Link} (hst : l.st = (getLink s i).st) (hreplay : l.replay = (getLink s i).replay) : Resent i s (setLink s i l) where
  mem := mem_apart.setLink s i l
  host := setLink_host s i l
  active ha := by rw [getLink_setLink (by simp [hst, ha]), hst, ha]
  replay ha := by rw [getLink_setLink (by simp [hst, ha]), hreplay]

theorem flitOut (hi : linkInj i < (regInfo .fijCnt).n1) (s : State) (kind seq : Nat) (payload : Bytes) :
    Resent i s (flitOut s i kind seq payload) := by
  have sent (t : State) (ht : Resent i s t) (b : Bool) (x : Option Bool) (o : Option Bytes) : Resent i s (match o with
      | some bs => emit (if b = true then Machine.setLink t i { getLink t i with swap := x } else t) (.flit (linkNo i) bs)
      | none => if b = true then Machine.setLink t i { getLink t i with swap := x } else t) := by
    have hl : Resent i s (if b = true then Machine.setLink t i { getLink t i with swap := x } else t) := by
      split_ifs
      · exact ht.trans (.setLink rfl rfl)
      · exact ht
    cases o with
    | none => exact hl
    | some bs => exact hl.trans ⟨rfl, rfl, fun ha => by rwa [emit_getLink], fun _ => by rw [emit_getLink]⟩
  exact sent _ (.trans (.setLink (l := { getLink s i with ackOwed := 0 }) rfl rfl) (.of_sameLinks (countFrame_sameLinks.injected _ hi ..) (mem_apart.injected ..))) ..

theorem foldl (hi : linkInj i < (regInfo .fijCnt).n1) (l : List TxFlit) :
    Resent i s (l.foldl (fun s f => Machine.flitOut s i f.kind f.seq f.payload) s) := by
  induction l generalizing s with
  | nil => exact .refl
  | cons f l ih => exact (flitOut hi ..).trans ih

end Resent

/-- The words of an IDLE flit but the last (R318). -/
def idleWords (l : Link) : Bytes :=
  natLe 4 ((l.rxSeq + 4095) % 4096 * 2 ^ 8 + 2 * 2 ^ 6 + b2n l.got * 2 ^ 5) ++ zeroBytes 248

theorem flitWords_idle (l : Link) : flitWords 0 ((l.rxSeq + 4095) % 4096) 2 l.got 0 [] = idleWords l := by
  have hpad : slice [] 0 248 = zeroBytes 248 := rfl
  rw [flitWords, idleWords, hpad, Nat.zero_mul, Nat.zero_add, Nat.add_zero]

/-- What a flit does that goes out as it is. -/
def flitSent (s : State) (i : LinkId) (body : Bytes) : State :=
  emit (setLink s i { getLink s i with ackOwed := 0 }) (.flit (linkNo i) (body ++ natLe 4 (crc32 body)))

theorem injStep_of_off {s : State} {inj : Nat} (h : bit (s.rd .fijCtl inj) 63 = false) (d : Nat) : injStep s inj d = (s, false) :=
  if_neg (by simp [h])

theorem setLink_rd (s : State) (i : LinkId) (l : Link) (n : RegName) (k : Nat) : (setLink s i l).rd n k = s.rd n k := by
  cases i <;> rfl

theorem flitOut_of_injectorOff {s : State} {i : LinkId} (h : bit (s.rd .fijCtl (linkInj i)) 63 = false) (kind seq : Nat)
    (payload : Bytes) : flitOut s i kind seq payload
      = flitSent s i (flitWords seq (((getLink s i).rxSeq + 4095) % 4096) kind (getLink s i).got 0 payload) := by
  have hoff : bit ((setLink s i { getLink s i with ackOwed := 0 }).rd .fijCtl (linkInj i)) 63 = false := by rwa [setLink_rd]
  simp only [flitOut, injected, injStep_of_off hoff, Bool.not_false, Bool.false_eq_true, if_true, if_false]
  rfl

section Active
variable {s : State} {i : LinkId} (hact : (getLink s i).st = .active)
include hact

/-- A replay counts one more try of each flit, which stay in the buffer. -/
theorem replayAll_resent (hi : linkInj i < (regInfo .fijCnt).n1) :
    (getLink (replayAll s i) i).replay = (getLink s i).replay.map (fun f => { f with tries := f.tries + 1 })
      ∧ (replayAll s i).mem = s.mem ∧ (replayAll s i).host = s.host := by
  simp only [replayAll]
  split_ifs with hempty
  · simp [List.isEmpty_iff.1 hempty]
  set l : Link := { getLink s i with replay := (getLink s i).replay.map fun f => { f with tries := f.tries + 1 } } with hl
  set n := (getLink s i).replay.length
  have hlink : getLink (setLink s i l) i = l := getLink_setLink (by simp [hl, hact])
  have hcount : Resent i (setLink s i l) (rasBump (linkCount (setLink s i l) i 3 n) 4 (linkDie i) n) :=
    .of_sameLinks (countFrame_sameLinks.trans (linkCount_sameLinks ..) (countFrame_sameLinks.rasBump _ (by decide) ..))
      ((mem_apart.rasBump ..).trans (by cases i <;> exact mem_apart.wr ..))
  generalize rasBump (linkCount (setLink s i l) i 3 n) 4 (linkDie i) n = t at hcount ⊢
  obtain ⟨hmem, hhost, -, hreplay⟩ := hcount.trans (.foldl hi (getLink s i).replay)
  refine ⟨?_, hmem.trans (mem_apart.setLink ..), hhost.trans (setLink_host ..)⟩
  rw [hreplay (by rw [hlink]; exact hact), hlink]

/-- An owed acknowledgement that no credit update accompanies is an IDLE flit (R318). -/
theorem sendAck_idle (howed : 0 < (getLink s i).ackOwed) (hdue : (getLink s i).grantDue = false)
    (hinj : bit (s.rd .fijCtl (linkInj i)) 63 = false) : sendAck s i = flitSent s i (idleWords (getLink s i)) := by
  have hgrants : sendGrants s i = s := if_neg (by simp [hdue])
  simp only [sendAck, hact, howed, beq_self_eq_true, decide_true, Bool.and_self, if_true, hgrants]
  rw [if_neg howed.ne', flitOut_of_injectorOff hinj, flitWords_idle]

end Active

/-- Settles O17: NAK, replay timeout and owed acknowledgement, for a link that is ACTIVE and one that is not. -/
theorem linkReplayAndAck : Obligations.LinkReplayAndAck := by
  intro s i nak timeout ack last hrow l head
  obtain ⟨hi, hnak, htimeout, hack⟩ : linkInj i < (regInfo .fijCnt).n1 ∧ exec nak s = .next (takeNak s i last)
      ∧ exec timeout s = .next (replayTimeout s i) ∧ exec ack s = .next (sendAck s i) := by
    rcases hrow with ⟨rfl, rfl, rfl, rfl⟩ | ⟨p, rfl, rfl, rfl, rfl⟩
    · exact ⟨by decide, rfl, rfl, rfl⟩
    · exact ⟨Nat.lt_of_lt_of_le p.isLt (by decide), rfl, rfl, rfl⟩
  rw [hnak, htimeout, hack]
  refine ⟨fun hact => ⟨?nak, ?timeout, fun howed hdue hinj => congrArg _ (sendAck_idle hact howed hdue hinj), fun hnone => ?none⟩,
    fun hact => ?inactive⟩
  case nak => exact congrArg _ (if_pos (by simpa using hact))
  case timeout =>
    obtain ⟨hreplay, hmem, hhost⟩ := replayAll_resent hact hi
    have htime : replayTimeout s i = replayAll s i := if_pos (by simpa using hact)
    rw [htime]
    exact ⟨_, rfl, hreplay, hmem, hhost, fun hempty => if_pos (List.isEmpty_iff.2 hempty)⟩
  case none => exact congrArg _ (if_neg (by simp [show (getLink s i).ackOwed = 0 from hnone]))
  case inactive =>
    have hst : ((getLink s i).st == .active) = false := by simpa using hact
    exact ⟨congrArg _ (if_neg (by simp [hst])), congrArg _ (if_neg (by simp [hst])), congrArg _ (if_neg (by simp [hst]))⟩

end Sys2Proof.Machine
end

section
/-! PROOFS. The training states of a link (R316, R322, R323, R354, R355). -/

namespace Sys2Proof.Machine

/-- The rows of a link that trains. -/
structure TrainRow (i : LinkId) (lanes : Nat) (sig done tout rdone rtout : Instr) (entry : RetrainCause → Instr) : Prop where
  sig : ∀ s, exec sig s = .next (signalDetect s i lanes)
  done : ∀ s, exec done s = .next (trainDone s i lanes)
  tout : ∀ s, exec tout s = .next (trainTimeout s i)
  entry : ∀ s c, exec (entry c) s = .next (retrainEntry s i c)
  rdone : ∀ s, exec rdone s = .next (retrainDone s i lanes)
  rtout : ∀ s, exec rtout s = .next (retrainTimeout s i)
  port : ∀ p, i = .port p → p < 64

theorem trainRow_lhl (v : BitVec 8) : TrainRow .lhl v.toNat (.lhlSignalDetect v) (.lhlTrainDone v) .lhlTrainTimeout (.lhlRetrainDone v)
    .lhlRetrainTimeout Instr.lhlRetrainEntry :=
  ⟨fun _ => rfl, fun _ => rfl, fun _ => rfl, fun _ _ => rfl, fun _ => rfl, fun _ => rfl, fun _ => nofun⟩

theorem trainRow_port (p : PortNo) (v : BitVec 4) : TrainRow (.port p) v.toNat (.qxfSignalDetect p v) (.qxfTrainDone p v)
    (.qxfTrainTimeout p) (.qxfRetrainDone p v) (.qxfRetrainTimeout p) (Instr.qxfRetrainEntry p) :=
  ⟨fun _ => rfl, fun _ => rfl, fun _ => rfl, fun _ _ => rfl, fun _ => rfl, fun _ => rfl, fun _ h => LinkId.port.inj h ▸ p.isLt⟩

section
variable {s : State} {i : LinkId}

/-- A latch has no part in whether a link is enabled. -/
theorem linkEnabled_wr_evcWake (hregs : keysRise s.regs = true) (hi : ∀ p, i = .port p → p < 64) (v : Nat) :
    linkEnabled (s.wr .evcWake 0 0 v) i = linkEnabled s i := by
  cases i with
  | lhl => rfl
  | port p =>
    have hcfg : (s.wr .evcWake 0 0 v).rd .qxfPortCfg p = s.rd .qxfPortCfg p :=
      rd_wr_other v hregs (by decide) (by decide) (by decide) (hi p rfl) (by decide)
    exact congrArg (bit · 27) (blockVal_of_rd _ (State.wr_seq ..) hcfg)

/-- The wake latch of a link (R444). -/
def linkLatch : LinkId → Nat
  | .lhl => 1
  | .port _ => 2

theorem signalDetect_eq (s : State) (i : LinkId) {lanes : Nat} (h : lanes ≠ 0) : signalDetect s i lanes =
    let t := wireWake s (linkLatch i)
    if (getLink t i).st == .detect && lanes != 0 && linkEnabled t i then
      setLink (serdesTakes t (linkNo i)) i { getLink t i with st := .train, sig := lanes }
    else setLink t i { getLink t i with sig := lanes } := by
  simp only [signalDetect, h, if_false]
  cases i <;> rfl

theorem signalDetect_trains {lanes : Nat} (hregs : keysRise s.regs = true) (hi : ∀ p, i = .port p → p < 64) (hst : (getLink s i).st = .detect) (hlanes : lanes ≠ 0)
    (hen : linkEnabled s i = true) (hsh : shade s = 0) : signalDetect s i lanes
      = setLink (serdesTakes (s.wr .evcWake 0 0 (setBit (s.rd .evcWake) (linkLatch i) true)) (linkNo i)) i
        { getLink s i with st := .train, sig := lanes } := by
  have hgo : ((getLink s i).st == .detect && lanes != 0 && linkEnabled s i) = true := by simp [hst, hlanes, hen]
  rw [signalDetect_eq s i hlanes, wireWake_of_white hsh hregs]
  simp only [linkEnabled_wr_evcWake hregs hi, getLink_wr, hgo, if_true]

/-- The link once training has found lanes (R316, R323). -/
def trained (s : State) (i : LinkId) (rate width lanes : Nat) : Link :=
  { getLink s i with st := .active, rate := rate, width := width, lanes := lanes, naked := false, fallback := none,
                     cfgWidth := linkCfgWidth s i }

/-- A link on which nothing waits: that it becomes ACTIVE sends nothing. -/
structure Quiet (s : State) (i : LinkId) : Prop where
  replay : (getLink s i).replay = []
  wait : (getLink s i).wait = []
  hold : (getLink s i).hold = []
  grant : (getLink s i).grantDue = false
  lost : (getLink s i).lost = false
  boot : s.rdf .rscBoot 0 0 7 4 ≠ 9

theorem linkUp_of_quiet (h : Quiet s i) (rate width lanes : Nat) :
    linkUp s i rate width lanes = setLink s i (trained s i rate width lanes) := by
  have hlink : { trained s i rate width lanes with lost := false } = trained s i rate width lanes := by
    simp [trained, h.lost]
  have hget : getLink (setLink s i (trained s i rate width lanes)) i = trained s i rate width lanes :=
    getLink_setLink (by simp [trained])
  set t := setLink s i (trained s i rate width lanes) with ht
  have hreplay : replayAll t i = t := if_pos (by rw [hget]; exact List.isEmpty_iff.2 h.replay)
  have hgrants : sendGrants t i = t := if_neg (by rw [hget]; simp [trained, h.grant])
  have hpump : pumpAll t i = t := pumpAll_of_nothing (by rw [hget]; exact h.wait) (by rw [hget]; exact h.hold)
  have hup : linkUp s i rate width lanes = match i with
      | .lhl =>
        let t := if t.rdf .rscBoot 0 0 7 4 = 9 then t.wrf .rscBoot 0 0 7 4 10 else t
        if (getLink s i).lost then hqeResume t else t
      | .port _ => t := by
    have hset : t = setLink s i { trained s i rate width lanes with lost := false } := by rw [hlink]
    rw [← hpump, ← hgrants, ← hreplay, hset]
    rfl
  rw [hup]
  cases i with
  | port p => rfl
  | lhl =>
    have hboot : t.rdf .rscBoot 0 0 7 4 ≠ 9 := h.boot
    simp only [hboot, if_false, h.lost, Bool.false_eq_true]

theorem spreadHold_of_noHold {p : Nat} (h : (getLink s (.port p)).hold = []) :
    spreadHold s p = setLink s (.port p) (getLink s (.port p)) := by
  simp only [spreadHold, h, List.filterMap_nil, List.filter_nil, List.foldl_nil]
  rw [← h]

/-- The link once it has left ACTIVE to be retrained (R323). -/
def leftActive (s : State) (i : LinkId) (fb : Option (Nat × Nat)) : State :=
  setLink (serdesTakes s (linkNo i)) i
    { getLink s i with st := .retrain, retrains := satAdd (2 ^ 32 - 1) (getLink s i).retrains 1, fallback := fb,
                       replay := (getLink s i).replay.map fun f => { f with tries := 0 } }

theorem leaveActive_of_noHold (h : (getLink s i).hold = []) (fb : Option (Nat × Nat)) : leaveActive s i fb = leftActive s i fb := by
  cases i with
  | lhl => rfl
  | port p =>
    have hget : getLink (leftActive s (.port p) fb) (.port p) = _ := getLink_setLink (by simp)
    have hspread : leaveActive s (.port p) fb = spreadHold (leftActive s (.port p) fb) p := rfl
    rw [hspread, spreadHold_of_noHold (by rw [hget]; exact h), hget]
    exact setLink_setLink (by simp) (by simp)

end

/-- Settles O18: the row of each training event by the state of its link. -/
theorem linkTrainingStates : Obligations.LinkTrainingStates := by
  intro s i lanes sig done tout rdone rtout entry hrow hcanon l latch quiet left
  have hrows : TrainRow i lanes sig done tout rdone rtout entry := by
    rcases hrow with ⟨v, rfl, rfl, rfl, rfl, rfl, rfl, rfl, rfl⟩ | ⟨p, v, rfl, rfl, rfl, rfl, rfl, rfl, rfl, rfl⟩
    · exact trainRow_lhl v
    · exact trainRow_port p v
  obtain ⟨hsig, hdone, htout, hentry, hrdone, hrtout, hport⟩ := hrows
  have hquiet (h : quiet) : Quiet s i := by
    obtain ⟨hreplay, hwait, hhold, hgrant, hlost, hboot⟩ := h
    exact ⟨hreplay, hwait, hhold, hgrant, hlost, hboot⟩
  simp only [hsig, hdone, htout, hentry, hrdone, hrtout]
  refine ⟨?sig, ?done, fun hst => ?tout, ?left, ?change, ?rdone, fun hst hfb => ?rtout, fun hst => ?train, fun hst => ?retrain,
    fun hst c => ?inactive⟩
  case sig => exact fun hst hlanes hen hsh => congrArg _ (signalDetect_trains (canonical_regs hcanon) hport hst hlanes hen hsh)
  case done =>
    intro w g hst hform hq
    have htrain : trainDone s i lanes = linkUp s i (linkCfgRate s i) (widthCode i w) g := by
      rw [trainDone, if_neg (by simp [show (getLink s i).st = .train from hst]), hform]
    rw [htrain]
    exact congrArg _ (linkUp_of_quiet (hquiet hq) ..)
  case tout => exact congrArg _ (if_pos (by simpa using hst))
  case left =>
    intro c hst hhold hcause
    have hnot : ¬ ((getLink s i).st != .active) = true := by simp [show (getLink s i).st = .active from hst]
    have hleave : retrainEntry s i c = leaveActive s i none := by
      rcases hcause with rfl | rfl | ⟨rfl, f, hf, htries⟩
      · exact if_neg hnot
      · exact if_neg hnot
      · exact (if_neg hnot).trans (if_pos (List.any_eq_true.2 ⟨f, hf, decide_eq_true htries⟩))
    rw [hleave]
    exact congrArg _ (leaveActive_of_noHold hhold none)
  case change =>
    intro hst hhold hchange
    have hleave : retrainEntry s i .rateChange = leaveActive s i (some (l.rate, l.width)) :=
      (if_neg (by simp [show (getLink s i).st = .active from hst])).trans (if_pos hchange)
    rw [hleave]
    exact congrArg _ (leaveActive_of_noHold hhold _)
  case rdone =>
    intro w g hst hfb hform hq
    have hretrain : retrainDone s i lanes = linkUp s i l.rate (widthCode i w) g := by
      have hfb' : (getLink s i).fallback = none := hfb
      rw [retrainDone, if_neg (by simp [show (getLink s i).st = .retrain from hst])]
      simp only [hfb', Option.isSome_none, Bool.false_eq_true, if_false, hform, l]
    rw [hretrain]
    exact congrArg _ (linkUp_of_quiet (hquiet hq) ..)
  case rtout =>
    have hfb' : (getLink s i).fallback = none := hfb
    rw [retrainTimeout, if_neg (by simp [show (getLink s i).st = .retrain from hst]), hfb']
  case train => exact ⟨congrArg _ (if_pos (by simpa using hst)), congrArg _ (if_neg (by simpa using hst))⟩
  case retrain => exact ⟨congrArg _ (if_pos (by simpa using hst)), congrArg _ (if_pos (by simpa using hst))⟩
  case inactive => exact congrArg _ (if_pos (by simpa using hst))

end Sys2Proof.Machine
end

section
/-! PROOFS. Links that stay down, and the host requests that are answered or fail (R323, R324, R328, R356). -/

namespace Sys2Proof.Machine

/-! ### A request that is out no longer (R324) -/

section Request
variable {s : State} {r : HostReq}

/-- With no request waiting for a tag, the tag that comes free is not taken. -/
theorem dropReq_of_noLine (h : s.hostLine = []) (tag : Nat) :
    dropReq s tag = { s with hostReqs := s.hostReqs.filter fun q => q.tag != tag } := by
  rw [dropReq, h]
  rfl

variable {n : Nat} (huse : r.use = .doorbell n) (hline : s.hostLine = [])
include huse hline

theorem hostFail_doorbell {status : Nat} (hst : status ≠ stOk) : hostFail s r status
    = ringError (cntAdd { s with hostReqs := s.hostReqs.filter fun q => q.tag != r.tag } .lhlCnt 6 0 1) n 3 := by
  simp only [hostFail, dropReq_of_noLine hline, hostAnswer, huse, hqeFailed, if_neg hst]

theorem hostData_doorbell {data : Bytes} (hlen : data.length = 8) (hr : r.len = 8) (hgot : r.got = 0) (hf : fetches s n = true)
    (hhost : memWf s.host = true) : hostData s r data
      = takePi (setHost { s with hostReqs := s.hostReqs.filter fun q => q.tag != r.tag } r.addr data) n (leNat data) := by
  have hread : hostBytes (setHost s r.addr data) r.addr 8 = data := hlen ▸ hostBytes_setHost r.addr data hhost
  have hall : ¬ r.got + data.length < r.len := by omega
  have hdrop : dropReq (setHost s r.addr data) r.tag
      = setHost { s with hostReqs := s.hostReqs.filter fun q => q.tag != r.tag } r.addr data := dropReq_of_noLine (s := setHost s r.addr data) hline _
  have hdata : hostData s r data = hostAnswer (dropReq (setHost s r.addr data) r.tag) r stOk := by
    rw [hostData, hgot, Nat.add_zero]
    exact if_neg (hgot ▸ hall)
  have hf' : fetches (setHost { s with hostReqs := s.hostReqs.filter fun q => q.tag != r.tag } r.addr data) n = true := hf
  have hread' : hostBytes (setHost { s with hostReqs := s.hostReqs.filter fun q => q.tag != r.tag } r.addr data) r.addr 8 = data := hread
  rw [hdata, hdrop]
  simp only [hostAnswer, huse, if_true, hqeCame, hf', hread']

end Request

/-! ### Links past their limits (R323) -/

/-- A flit that holds no packet's end is no loss. -/
theorem foldl_packetLost_of_none (p : Nat) {fs : List TxFlit} (h : ∀ f ∈ fs, f.posted = 0) (s : State) :
    fs.foldl (packetLost p) s = s := by
  induction fs generalizing s with
  | nil => rfl
  | cons f fs ih =>
    have hf : packetLost p s f = s := if_pos (h f List.mem_cons_self)
    rw [List.foldl_cons, hf, ih fun g hg => h g (List.mem_cons_of_mem f hg)]

/-- Settles O19: links past their limits, and the requests for a doorbell word. -/
theorem linksGivenUp : Obligations.LinksGivenUp := by
  refine ⟨?lhl, ?port, fun s p hact => ?up, ?request⟩
  case lhl =>
    intro s hact hoff hreqs kept
    refine (if_neg (by simp [hact, hoff])).trans (congrArg _ ?_)
    rw [hreqs]
    rfl
  case port =>
    intro s p hact hoff l s1 fs
    have hdown : exec (.portDownTimeout p) s = .next (fs.foldl (packetLost p) s1) := if_neg (by simp [hact, hoff])
    exact ⟨hdown, fun hnone => hdown.trans (congrArg _ (foldl_packetLost_of_none p hnone s1))⟩
  case up => exact if_pos (by simp [hact])
  case request =>
    intro s tag r n hreq huse hline s1 failed
    have hfail {status : Nat} (hst : status ≠ stOk) : hostFail s r status = failed := hostFail_doorbell huse hline hst
    have hcome (status : Fin 4) (data : Bytes) (hlen : data.length ≤ 4096) : exec (.hostCompletion tag status data) s
        = match status.val with
          | 0 => if data.isEmpty || decide (r.len < r.got + data.length) then .next s else .next (hostData s r data)
          | 1 => .next (hostFail s r stOutOfRange)
          | 2 => .next (hostFail s r stAccessDenied)
          | _ => .next s := by
      refine (if_neg (Nat.not_lt.2 hlen)).trans ?_
      rw [hreq] <;> rfl
    refine ⟨?timeout, fun data hlen => ⟨?range, ?denied⟩, fun data hlen hr hgot hf hcanon => ?came⟩
    case timeout =>
      show execCplTimeout tag s = _
      rw [execCplTimeout, hreq, ← hfail (status := stTimeout) (by decide)]
    case range => exact (hcome 1 data hlen).trans (congrArg _ (hfail (by decide)))
    case denied => exact (hcome 2 data hlen).trans (congrArg _ (hfail (by decide)))
    case came =>
      have hne : data.isEmpty = false := by
        cases data with
        | nil => simp at hlen
        | cons b bs => rfl
      rw [hcome 0 data (by omega)]
      refine (if_neg ?_).trans (congrArg _ (hostData_doorbell huse hline hlen hr hgot hf ?_))
      · simp [hne, hlen, hr, hgot]
      · exact canonical_host hcanon

end Sys2Proof.Machine
end

section
/-! PROOFS. The SPDM responder and the sideband endpoint (R425 to R427, R508 to R510). -/

namespace Sys2Proof.Machine

/-! ### SPDM (R426, R427, R510) -/

section Spdm
variable {s : State} {t : Transport}

/-- A request of the transport has arrived. -/
def spdmHere (s : State) (t : Transport) : Bool :=
  match t with | .sideband => sidebandUp s | .mailbox => running s && bit (s.rd .secSpdmCtl) 31

/-- What a request gets while the management cores are stopped (R426). -/
def spdmStopped (s : State) (t : Transport) : State := match t with | .sideband => spdmError s t 3 | .mailbox => s

variable (hhere : spdmHere s t = true)
include hhere

theorem spdmServe_of_here (act : State → State) : spdmServe s t act = if inAsh s then spdmError s t 7
    else if 2 ≤ shade s || s.plat.restart.isSome then spdmStopped s t else act s := by
  cases t <;> exact if_neg (by simpa [spdmHere] using hhere)

theorem spdmServe_of_ash (hash : inAsh s = true) (act : State → State) : spdmServe s t act = spdmError s t 7 := by
  rw [spdmServe_of_here hhere, if_pos hash]

section Running
variable (hash : inAsh s = false)
include hash

theorem spdmServe_of_atWork (hsh : shade s < 2) (hres : s.plat.restart = none) (act : State → State) : spdmServe s t act = act s := by
  rw [spdmServe_of_here hhere, if_neg (by simp [hash]), if_neg (by simp [hsh, hres])]

theorem spdmServe_of_stopped (h : 2 ≤ shade s ∨ s.plat.restart ≠ none) (act : State → State) :
    spdmServe s t act = spdmStopped s t := by
  have hstop : (2 ≤ shade s || s.plat.restart.isSome) = true := by
    simpa [Option.isSome_iff_ne_none] using h
  rw [spdmServe_of_here hhere, if_neg (by simp [hash]), if_pos hstop]

end Running

end Spdm

/-- Settles O36: each request by whether the management cores answer, are stopped, or the part is in Ash mode. -/
theorem spdmAnswers : Obligations.SpdmAnswers := by
  intro s t req hhere rows
  have hrows : ∀ q ∈ rows, ∃ known : State → Bytes, exec q.1 s = .next (spdmRow s t req q.2.1 known) ∧ known s = q.2.2 := by
    simp only [rows, List.forall_mem_cons]
    exact ⟨⟨_, rfl, rfl⟩, ⟨_, rfl, rfl⟩, ⟨_, rfl, rfl⟩, ⟨_, rfl, rfl⟩, ⟨_, rfl, rfl⟩, ⟨_, rfl, rfl⟩, nofun⟩
  have hserve : spdmHere s t = true := hhere
  refine ⟨fun hash hsh hres => ⟨fun q hq => ?row, fun i => ?meas, fun c => ?other, fun k hk => ?cert⟩, fun hash q hq => ?ash,
    fun hash hstop q hq => ?stopped⟩
  case row =>
    obtain ⟨known, hexec, hknown⟩ := hrows q hq
    rw [hexec, spdmRow, spdmServe_of_atWork hserve hash hsh hres, hknown]
  case meas => exact congrArg _ (spdmServe_of_atWork hserve hash hsh hres _)
  case other => exact congrArg _ (spdmServe_of_atWork hserve hash hsh hres _)
  case cert => exact (if_neg hk).trans (congrArg _ (spdmServe_of_atWork hserve hash hsh hres _))
  case ash =>
    obtain ⟨known, hexec, -⟩ := hrows q hq
    rw [hexec, spdmRow, spdmServe_of_ash hserve hash]
    rfl
  case stopped =>
    obtain ⟨known, hexec, -⟩ := hrows q hq
    rw [hexec, spdmRow, spdmServe_of_stopped hserve hash hstop]
    cases t <;> rfl

/-! ### The sideband (R508, R509) -/

section Endpoint
variable {s : State}

theorem sbAnswer_of_up (h : sidebandUp s = true) (code : Nat) (known : Bytes) :
    sbAnswer s code known = emit s (.sideband code (known ++ Config.answerBytes code known)) := if_pos h

theorem sbAnswer_of_down (h : sidebandUp s = false) (code : Nat) (known : Bytes) : sbAnswer s code known = s :=
  if_neg (ne_true_of_eq_false h)

/-- Neither the endpoint's ID nor its I3C address has a part in whether it is up. -/
theorem sidebandUp_eid (e : Nat) : sidebandUp (modPlat s fun p => { p with eid := e }) = sidebandUp s := rfl

end Endpoint

/-- Settles O37: each message by whether the endpoint is up. -/
theorem sidebandAnswers : Obligations.SidebandAnswers := by
  intro s ans
  refine ⟨fun hup => ?up, fun hdown => ?down⟩
  case up =>
    have hans (code : Nat) (known : Bytes) : (.next (sbAnswer s code known) : Host.Outcome State Fault Refusal) = .next (ans s code known) :=
      congrArg _ (sbAnswer_of_up hup code known)
    have hansOf (code : Nat) {x known : Bytes} (h : x = known) :
        (.next (sbAnswer s code x) : Host.Outcome State Fault Refusal) = .next (ans s code known) := h ▸ hans code x
    have hin {n : Nat} (h1 : 1 ≤ n) (h2 : n ≤ 101) : (1 ≤ n && n ≤ 101) = true := by simp [h1, h2]
    have hout {n : Nat} (h : n = 0 ∨ 101 < n) : ¬ (1 ≤ n && n ≤ 101) = true := by
      simp only [Bool.and_eq_true, decide_eq_true_eq]
      omega
    refine ⟨fun e => ?eid, hans .., hans .., hans .., hans .., hans .., hans .., hans .., hans .., fun h h1 h2 => ?pdr, fun h hh => ?noPdr,
      fun n h1 h2 => ?reading, fun n hn => ?noReading, fun ty cm => congrArg _ (if_pos hup), fun a => congrArg _ (if_pos hup)⟩
    case eid => exact congrArg _ ((if_pos hup).trans (sbAnswer_of_up ((sidebandUp_eid e.toNat).trans hup) _ _))
    case pdr => exact hansOf _ (if_pos (hin h1 h2))
    case noPdr => exact hansOf _ (if_neg (hout hh))
    case reading => exact hansOf _ (if_pos (hin h1 h2))
    case noReading => exact hansOf _ (if_neg (hout hn))
  case down =>
    have hans (code : Nat) (known : Bytes) : (.next (sbAnswer s code known) : Host.Outcome State Fault Refusal) = .next s :=
      congrArg _ (sbAnswer_of_down hdown code known)
    have hno {α : State} : (.next (if sidebandUp s = true then α else s) : Host.Outcome State Fault Refusal) = .next s :=
      congrArg _ (if_neg (ne_true_of_eq_false hdown))
    simp only [List.forall_mem_cons]
    exact ⟨hans .., hans .., hans .., hans .., hans .., hans .., hans .., hans .., hno, hans .., hans .., hno, hno, nofun⟩

end Sys2Proof.Machine
end

section
/-! PROOFS. Fuse revocation, peer attestation and debug unlock (R424, R428, R429, R433, R434). -/

namespace Sys2Proof.Machine

/-! ### Fields of a register that is written -/

section Fields
variable {s : State} (n : RegName) (i j v : Nat) (hregs : keysRise s.regs = true) {hi lo : Nat}
include hregs

theorem bit_rd_wr_self {k : Nat} (hk : k < 64) : bit ((s.wr n i j v).rd n i j) k = bit v k := by
  rw [rd_wr_self n i j v hregs, bit_eq_testBit, Nat.testBit_mod_two_pow, bit_eq_testBit]
  simp only [hk, decide_true, Bool.true_and]

theorem bit_rd_wrf_ne (hle : lo ≤ hi) {k : Nat} (hd : k < lo ∨ hi < k) (hk : k < 64) :
    bit ((s.wrf n i j hi lo v).rd n i j) k = bit (s.rd n i j) k :=
  (bit_rd_wr_self n i j _ hregs hk).trans (bit_setBits_ne hle hd _ v)

theorem rdf_wr_self (hh : hi < 64) : (s.wr n i j v).rdf n i j hi lo = bits v hi lo := by
  apply Nat.eq_of_testBit_eq
  intro k
  rw [State.rdf, rd_wr_self n i j v hregs, bits_testBit, bits_testBit, Nat.testBit_mod_two_pow]
  by_cases hk : k < hi + 1 - lo
  · simp only [show lo + k < 64 by omega, decide_true, Bool.true_and]
  · simp only [hk, decide_false, Bool.false_and]

theorem rdf_wrf_self (hle : lo ≤ hi) (hh : hi < 64) (hv : v < 2 ^ (hi + 1 - lo)) : (s.wrf n i j hi lo v).rdf n i j hi lo = v := by
  rw [State.wrf, rdf_wr_self n i j _ hregs hh, bits_setBits_self hle, Nat.mod_eq_of_lt hv]

theorem rdf_wrf_ne (hle : lo ≤ hi) {h' l' : Nat} (hd : h' < lo ∨ hi < l') (hh : h' < 64) :
    (s.wrf n i j hi lo v).rdf n i j h' l' = s.rdf n i j h' l' := by
  rw [State.wrf, rdf_wr_self n i j _ hregs hh, bits_setBits_ne hle hd]
  rfl

end Fields

theorem bit_odd (k : Nat) : bit (2 * k + 1) 0 = true := by
  simp [bit, Nat.add_mod]

/-- GO of SEC_ATTEST, over the device that is named. -/
theorem attestGo (d : DeviceId) : bit (2 ^ 16 + d.toNat) 16 = true ∧ bits (2 ^ 16 + d.toNat) 15 0 = d.toNat := by
  have hd := d.isLt
  constructor
  · simp only [bit, beq_iff_eq]
    omega
  · simp only [bits]
    omega

/-! ### Revocation (R424) -/

section Revoke
variable {s : State} {v : Nat} (hgo : bit v 0 = true)
include hgo

theorem fuseCmd_of_refused (h : revokeRefused (s.wrf .secFuseCmd 0 0 2 1 (bits v 2 1)) (bits v 2 1) = true) :
    fuseCmd s v = countDropped ((s.wrf .secFuseCmd 0 0 2 1 (bits v 2 1)).wrf .secFuseCmd 0 0 30 29 1) 0 := by
  simp only [fuseCmd, hgo, h, Bool.not_true, Bool.false_eq_true, if_false, if_true]

theorem fuseCmd_of_allowed (h : revokeRefused (s.wrf .secFuseCmd 0 0 2 1 (bits v 2 1)) (bits v 2 1) = false) :
    fuseCmd s v = ((s.wrf .secFuseCmd 0 0 2 1 (bits v 2 1)).wrf .secFuseCmd 0 0 30 29 0).wr .secBootStatus 0 0
      (setBit ((s.wrf .secFuseCmd 0 0 2 1 (bits v 2 1)).rd .secBootStatus) (40 + bits v 2 1) true) := by
  simp only [fuseCmd, hgo, h, Bool.not_true, Bool.false_eq_true, if_false]

end Revoke

/-! ### Attestation (R428) -/

section Attest
variable {s : State} {d : DeviceId} (hcanon : canonical s = true)
include hcanon

theorem attestWrite_of_busy (h : bit (s.rd .secAttest) 31 = true) :
    attestWrite s (2 ^ 16 + d.toNat) = countDropped (s.wrf .secAttest 0 0 15 0 (2 ^ 16 + d.toNat)) 0 := by
  obtain ⟨hgo, -⟩ := attestGo d
  have hbit := bit_rd_wrf_ne .secAttest 0 0 (2 ^ 16 + d.toNat) (canonical_regs hcanon) (hi := 15) (lo := 0) (k := 31)
    (by decide) (by decide) (by decide)
  simp only [attestWrite, hgo, hbit, h, Bool.not_true, Bool.false_eq_true, if_false, if_true]

theorem attestWrite_of_idle (h : bit (s.rd .secAttest) 31 = false) : attestWrite s (2 ^ 16 + d.toNat)
    = (sendMsg (modPlat (((s.wrf .secAttest 0 0 15 0 (2 ^ 16 + d.toNat)).wrf .secAttest 0 0 31 31 1).wrf .secAttest 0 0 30 28 0)
        fun p => { p with attPeer := d.toNat, reloaded := false })
      { peer := d.toNat, typ := 0x01, vc := 2, key := 0xFFFE, world := .ns, ctx := .other,
        payload := slice (Config.answerBytes 0x84 (natLe 2 d.toNat)) 0 64 }).1 := by
  obtain ⟨hgo, hpeer⟩ := attestGo d
  have hbit := bit_rd_wrf_ne .secAttest 0 0 (2 ^ 16 + d.toNat) (canonical_regs hcanon) (hi := 15) (lo := 0) (k := 31)
    (by decide) (by decide) (by decide)
  simp only [attestWrite, hgo, hbit, h, hpeer, Bool.not_true, Bool.false_eq_true, if_false]

omit hcanon in
theorem exec_attestPeer : exec (.attestPeer .s d) s = .next (attestWrite s (2 ^ 16 + d.toNat)) := by
  dsimp only [exec, execAttestPeer]
  rw [secureOnly, if_pos rfl]

end Attest

theorem exec_attestResult_of_busy {s : State} (hbusy : bit (s.rd .secAttest) 31 = true) (r : AttestEnd) :
    exec (.attestResult r) s = .next (match r with
      | .noAnswer => attestEnd s 2
      | .pass i => if s.plat.reloaded then attestEnd s 3 else attestPass (attestEnd s 1) i.toNat
      | .chainFailed => attestEnd s (if s.plat.reloaded then 3 else 4)
      | .signatureFailed => attestEnd s (if s.plat.reloaded then 3 else 5)
      | .refused => attestEnd s (if s.plat.reloaded then 3 else 6)) :=
  congrArg _ (if_neg (by simp [hbusy]))

/-! ### Debug unlock (R429, R434) -/

/-- A read of the nonce's register alone returns its first word. -/
theorem exec_dbgNonceRead_low (s : State) : exec (.dbgNonceRead .low) s
    = .next (emit (newNonce 8 s) (.read 0xD00100 ((newNonce 8 s).rd .secDbgNonce 0))) := rfl

section Unlock
variable {s : State} {v : Nat}

theorem dbgCheck_of_locked (h : s.plat.dbgLock = true) : dbgCheck s v = s.wr .secDbgResp 131 0 v :=
  if_pos ((congrArg Plat.dbgLock (State.wr_plat s ..)).trans h)

variable (h : s.plat.dbgLock = false)
include h

theorem dbgCheck_of_unlocked : dbgCheck s v = if dbgPass (s.wr .secDbgResp 131 0 v) then
      modPlat ((s.wr .secDbgResp 131 0 v).wrf .secBootStatus 0 0 33 32 (fld (dbgResp (s.wr .secDbgResp 131 0 v)) 512 1))
        fun p => { p with tdo := true }
    else modPlat (countDropped (s.wr .secDbgResp 131 0 v) 0) fun p => { p with dbgLock := true } := by
  have hlock : (s.wr .secDbgResp 131 0 v).plat.dbgLock = false := (congrArg Plat.dbgLock (State.wr_plat s ..)).trans h
  simp only [dbgCheck, hlock, Bool.false_eq_true, if_false]

theorem dbgCheck_of_pass (hp : dbgPass (s.wr .secDbgResp 131 0 v) = true) : dbgCheck s v
    = modPlat ((s.wr .secDbgResp 131 0 v).wrf .secBootStatus 0 0 33 32 (fld (dbgResp (s.wr .secDbgResp 131 0 v)) 512 1))
        fun p => { p with tdo := true } := by rw [dbgCheck_of_unlocked h, if_pos hp]

theorem dbgCheck_of_fail (hp : dbgPass (s.wr .secDbgResp 131 0 v) = false) : dbgCheck s v
    = modPlat (countDropped (s.wr .secDbgResp 131 0 v) 0) fun p => { p with dbgLock := true } := by
  rw [dbgCheck_of_unlocked h, if_neg (ne_true_of_eq_false hp)]

end Unlock

/-- Settles O35: each command by its world and its conditions. -/
theorem securityCommands : Obligations.SecurityCommands := by
  refine ⟨fun s k => ⟨rfl, fun hr => ?refused, fun hr => ?revoked⟩,
    fun s d hcanon => ⟨rfl, fun hbusy => ?busy, fun hidle => ?sent⟩, fun s r => ⟨fun hidle => ?idle, fun hbusy => ?ended⟩,
    fun s => ⟨exec_dbgNonceRead_low s, rfl, rfl⟩, fun s v => ⟨fun h => ?lock, fun h hp => ?pass, fun h hp => ?fail, rfl⟩⟩
  case refused => exact congrArg _ (fuseCmd_of_refused (bit_odd _) hr)
  case revoked => exact congrArg _ (fuseCmd_of_allowed (bit_odd _) hr)
  case busy => rw [exec_attestPeer, attestWrite_of_busy hcanon hbusy]
  case sent => rw [exec_attestPeer, attestWrite_of_idle hcanon hidle]
  case idle => exact congrArg _ (if_pos (by simp [hidle]))
  case ended =>
    rw [exec_attestResult_of_busy hbusy]
    refine ⟨?none, fun hne hre => ?reloaded, fun hre => ⟨?passed, ?chain, ?signature, ?denied⟩⟩
    case none => exact fun h => h ▸ rfl
    case reloaded => cases r <;> simp [hre] at hne ⊢
    case passed => exact fun i h => by simp [h, hre]
    case chain => exact fun h => by simp [h, hre]
    case signature => exact fun h => by simp [h, hre]
    case denied => exact fun h => by simp [h, hre]
  case lock => exact congrArg _ (dbgCheck_of_locked h)
  case pass => exact congrArg _ (dbgCheck_of_pass h hp)
  case fail => exact congrArg _ (dbgCheck_of_fail h hp)

end Sys2Proof.Machine
end

section
/-! PROOFS. Operating points, shades and gating by command (R440 to R447, R450). -/

namespace Sys2Proof.Machine

/-! ### POWER (R443, R445 to R447) -/

section Power
variable {s : State} {iid : Nat} {c : Issued} (hget : getIssued s iid = some c) (hiid : c.iid = iid) (hop : c.op = 0x0070)

section
include hget hop

theorem powerCmd_of_issued {op : Nat} (h : pwOp c.ops = op) : powerCmd s iid op = some c := by
  simp [powerCmd, hget, hop, h]

theorem exec_setShade (h : pwOp c.ops = 1) : exec (.setShade iid) s = .next (setShadeGo s c) := by
  dsimp only [exec, execSetShade]
  rw [powerCmd_of_issued hget hop h]

theorem exec_setPoint (h : pwOp c.ops = 2) (hstage : c.stage = 0) : exec (.setPoint iid) s
    = .next (settlePoints (refreshPoints (setCeil (modIssued s iid fun c => { c with stage := 1 }) c.ops))) := by
  dsimp only [exec, execSetPoint]
  rw [powerCmd_of_issued hget hop h]
  simp only [hstage, if_true]

theorem exec_gate (h : pwOp c.ops = 3) (hstage : c.stage = 0) :
    exec (.gate iid) s = .next (gateRow s c fun s => gateStep (namedTiles s) s c) := by
  dsimp only [exec, execGate]
  rw [powerCmd_of_issued hget hop h]
  simp only [hstage, if_true]

theorem exec_ungate (h : pwOp c.ops = 4) :
    exec (.ungate iid) s = .next (gateRow s c fun s => complete (ungateTiles s (gtTiles c.ops)) c.iid stOk) := by
  dsimp only [exec, execUngate]
  rw [powerCmd_of_issued hget hop h]

end

include hiid

theorem setShadeGo_dark (h : 2 ≤ pwShade c.ops) : setShadeGo s c = if shadeBusy s (some iid) then complete s iid stNeedsQuiesce
    else if cplRoom s c then enterDark (complete s iid stOk) (pwShade c.ops) else s := by
  rw [setShadeGo, hiid]
  split
  · omega
  · omega
  · rfl

theorem gateRow_of_bad (h : gateStatus s c ≠ stOk) (act : State → State) : gateRow s c act = complete s iid (gateStatus s c) := by
  rw [gateRow, if_pos h, hiid]

theorem gateRow_of_ok (h : gateStatus s c = stOk) (htest : (gtTiles c.ops).any (underTest s) = false)
    (hold : olderHeld s iid gateOps = false) (act : State → State) : gateRow s c act = act (unholdCmd s iid) := by
  rw [gateRow, hiid, if_neg (not_not.2 h), if_neg (by simp [htest, hold])]

end Power

/-- Settles O27: each OP of an issued POWER. -/
theorem powerCommands : Obligations.PowerCommands := by
  intro s iid c hget hiid hop
  refine ⟨fun h => ?shade, exec_setPoint hget hop, fun h hstage hst htest hold => ?gate, fun h hst htest hold => ?ungate,
    fun hst => ⟨fun h hstage => ?gateBad, fun h => ?ungateBad⟩⟩
  case shade =>
    rw [exec_setShade hget hop h]
    refine ⟨fun h0 => ?white, fun h1 => ?grey, fun h2 hbusy => ?busy, fun h2 hfree hroom => ?dark⟩
    case white => simp only [setShadeGo, h0, hiid]
    case grey => simp only [setShadeGo, h1, hiid]
    case busy => rw [setShadeGo_dark hiid h2, if_pos hbusy]
    case dark => rw [setShadeGo_dark hiid h2, if_neg (ne_true_of_eq_false hfree), if_pos hroom]
  case gate => rw [exec_gate hget hop h hstage, gateRow_of_ok hiid hst htest hold]
  case ungate => rw [exec_ungate hget hop h, gateRow_of_ok hiid hst htest hold, hiid]
  case gateBad => rw [exec_gate hget hop h hstage, gateRow_of_bad hiid hst]
  case ungateBad => rw [exec_ungate hget hop h, gateRow_of_bad hiid hst]

/-! ### The points of a die (R440 to R442) -/

theorem setPointOf_plat (s : State) (d v : Nat) : (setPointOf s d v).plat = s.plat :=
  (State.wr_plat ..).trans (State.wr_plat ..)

theorem pointTarget_of_plat {s t : State} (h : t.plat = s.plat) (d : Nat) : pointTarget t d = pointTarget s d := by
  simp only [pointTarget, pointLimits, h]

theorem setPointOf_rise {s : State} (hregs : keysRise s.regs = true) (d v : Nat) : keysRise (setPointOf s d v).regs = true :=
  keysRise_mapSet _ _ _ (keysRise_mapSet _ _ _ hregs)

section Die
variable {s : State} (hregs : keysRise s.regs = true)
include hregs

theorem curPoint_setPointOf_self {d v : Nat} (hd : d < 4) (hv : v < 8) : curPoint (setPointOf s d v) d = v := by
  have hwr : keysRise (s.wrf .pwcStatus 0 0 (5 * d + 2) (5 * d) v).regs = true := keysRise_mapSet _ _ _ hregs
  have hfield : 2 ^ (5 * d + 2 + 1 - 5 * d) = 8 := by rw [show 5 * d + 2 + 1 - 5 * d = 3 by omega]; rfl
  rw [curPoint, setPointOf, rdf_wrf_ne _ _ _ _ hwr (by omega) (by omega) (by omega),
    rdf_wrf_self _ _ _ _ hregs (by omega) (by omega) (by omega)]

theorem curPoint_setPointOf_ne {d e v : Nat} (he : e < 4) (hne : e ≠ d) : curPoint (setPointOf s d v) e = curPoint s e := by
  have hwr : keysRise (s.wrf .pwcStatus 0 0 (5 * d + 2) (5 * d) v).regs = true := keysRise_mapSet _ _ _ hregs
  rw [curPoint, setPointOf, rdf_wrf_ne _ _ _ _ hwr (by omega) (by omega) (by omega),
    rdf_wrf_ne _ _ _ _ hregs (by omega) (by omega) (by omega)]
  rfl

end Die

/-- A die that is refreshed runs at the slower of its point and its limits. -/
def refreshDie (s : State) (d : Nat) : State := setPointOf s d (max (curPoint s d) (pointTarget s d))

theorem refreshPoints_eq (s : State) : refreshPoints s = [0, 1, 2, 3].foldl refreshDie s := rfl

theorem foldl_refreshDie_plat (l : List Nat) (s : State) : (l.foldl refreshDie s).plat = s.plat := by
  induction l generalizing s with
  | nil => rfl
  | cons d l ih => exact (ih _).trans (setPointOf_plat ..)

theorem refreshPoints_plat (s : State) : (refreshPoints s).plat = s.plat := foldl_refreshDie_plat [0, 1, 2, 3] s

/-- A refresh only slows a die, and a die that it visits is at least as slow as its limits. -/
theorem foldl_refreshDie_slower {d : Nat} (hd : d < 4) (l : List Nat) {s : State} (hregs : keysRise s.regs = true)
    (htarget : pointTarget s d < 8) :
    curPoint s d ≤ curPoint (l.foldl refreshDie s) d ∧ (d ∈ l → pointTarget s d ≤ curPoint (l.foldl refreshDie s) d) := by
  induction l generalizing s with
  | nil => exact ⟨Nat.le_refl _, nofun⟩
  | cons e l ih =>
    have hsame : pointTarget (refreshDie s e) d = pointTarget s d := pointTarget_of_plat (setPointOf_plat ..) d
    obtain ⟨hslow, hlimit⟩ := ih (s := refreshDie s e) (setPointOf_rise hregs ..) (hsame.trans_lt htarget)
    rw [List.foldl_cons]
    rcases eq_or_ne d e with rfl | hne
    · have hcur : curPoint s d < 8 := (bits_lt ..).trans_eq (by rw [show 5 * d + 2 + 1 - 5 * d = 3 by omega]; rfl)
      have hset : curPoint (refreshDie s d) d = max (curPoint s d) (pointTarget s d) :=
        curPoint_setPointOf_self hregs hd (max_lt hcur htarget)
      exact ⟨(le_max_left ..).trans (hset.symm.trans_le hslow), fun _ => (le_max_right ..).trans (hset.symm.trans_le hslow)⟩
    · have hset : curPoint (refreshDie s e) d = curPoint s d := curPoint_setPointOf_ne hregs hd hne
      exact ⟨hset.symm.trans_le hslow, fun hmem => hsame.symm.trans_le (hlimit ((List.mem_cons.1 hmem).resolve_left hne))⟩

/-- Settles O28: the power point, the switch up, the thermal steps, and what a refresh does. -/
theorem pointsFollowLimits : Obligations.PointsFollowLimits := by
  refine ⟨fun s w hawake => ?power, fun s d hawake => congrArg _ (if_pos hawake),
    fun s hrun htrip => congrArg _ (if_pos (by simp [hrun, htrip])), fun s hrun => ?rise, fun s d hcanon hd hceil hpower htherm => ?refresh⟩
  case power =>
    intro s1 p
    have hreading : exec (.powerReading w) s = .next (powerPoint s1 w) := congrArg _ (if_pos hawake)
    rw [hreading]
    refine ⟨fun hhigh => ?high, fun hlow hreads => ?low, fun hlow hreads => ?lower, fun hge hle => ?between⟩
    case high => exact congrArg _ (if_pos hhigh)
    case low =>
      exact congrArg _ ((if_neg (by omega)).trans ((if_pos hlow).trans (if_neg (Nat.not_le.2 hreads))))
    case lower => exact congrArg _ ((if_neg (by omega)).trans ((if_pos hlow).trans (if_pos hreads)))
    case between => exact congrArg _ ((if_neg (by omega)).trans (if_neg (by omega)))
  case rise =>
    refine ⟨_, congrArg Host.Outcome.next (if_pos hrun), fun d hd => ?_⟩
    rw [refreshPoints_plat]
    simp only [modPlat, upTo]
    interval_cases d <;> rfl
  case refresh =>
    have htarget : pointTarget s d < 8 := (max_lt hceil (max_lt hpower htherm)).trans (by decide)
    obtain ⟨hslow, hlimit⟩ := foldl_refreshDie_slower hd [0, 1, 2, 3] (canonical_regs hcanon) htarget
    rw [refreshPoints_eq]
    exact ⟨hlimit (by simp; omega), hslow⟩

end Sys2Proof.Machine
end

section
/-! PROOFS. Amber's readings and events, and what wakes the part (R435 to R457, R464, R512). -/

namespace Sys2Proof.Machine

/-! ### Readings (R448, R449) -/

section Sample
variable (s : State) (x : Nat) (raw : Int)

/-- The last readings of a sensor, the newest first. -/
def readings : List Int := (raw :: mapGet (fun _ => []) s.plat.raws x).take 5

/-- The state once a reading is kept. -/
def withReading : State := modPlat s fun p => { p with raws := mapIns p.raws x (readings s x raw) }

/-- The filtered value, in 256ths of its unit, once a fifth reading has come. -/
def filtered : Int :=
  let m := median5 (readings s x raw)
  let y0 := mapGet (fun _ => 0) s.plat.filt x
  if (mapGet (fun _ => []) s.plat.raws x).length < 5 then m * 256
  else y0 + Int.tdiv (m * 256 - y0) (Int.ofNat (2 ^ filtN s (senClass x)))

variable {s x raw}

theorem sensSample_of_few (h : (readings s x raw).length < 5) : sensSample s x raw = (withReading s x raw, false) := if_pos h

theorem sensSample_of_enough (h : (readings s x raw).length = 5) : sensSample s x raw
    = (setSens (modPlat (withReading s x raw) fun p => { p with filt := mapIns p.filt x (filtered s x raw) }) x
        (Int.tdiv (filtered s x raw) 256) (median5 (readings s x raw)), true) := if_neg (Nat.not_lt.2 h.ge)

/-- A sensor that shares its sample with no derived one. -/
theorem sampleOne_of_alone (h : 32 ≤ x ∨ x % 8 ≠ 7) :
    sampleOne s x raw = if (sensSample s x raw).2 then sensorNew (sensSample s x raw).1 x else (sensSample s x raw).1 := by
  have hno : ¬ (x < 32 && x % 8 = 7) = true := by
    simp only [Bool.and_eq_true, decide_eq_true_eq]
    omega
  simp only [sampleOne]
  rw [if_neg hno]

end Sample

/-- Settles O29: a reading of a derived sensor, one of the first four, and a later one. -/
theorem amberSamplesFilter : Obligations.AmberSamplesFilter := by
  intro s x raw hrun
  refine ⟨fun hx => ?derived, fun halone hx => ⟨fun hfew => ?few, fun henough => ?enough⟩⟩
  case derived => exact congrArg _ (if_neg (by simp [hx]))
  all_goals
    have hsample : exec (.amberSample x raw) s = .next (sampleOne s x (senVal x raw.toNat)) := congrArg _ (if_pos (by simp [hrun, hx]))
    rw [hsample, sampleOne_of_alone halone]
  case few => rw [sensSample_of_few hfew]; rfl
  case enough => rw [sensSample_of_enough henough]; rfl

/-! ### Watchdog, alarm, regulators and automatic shades (R435, R439, R443, R452 to R456, R512) -/

section Events
variable {s : State}

theorem exec_watchdogExpire {b : BringUp} (hawake : awake s = true) (hen : bit (s.rd .ambWdog) 31 = true) :
    exec (.watchdogExpire b) s = .next (if s.plat.wdogAt + 1000000 * orElse0 (bits (s.rd .ambWdog) 15 0) 1 ≤ s.time
      then warmReset s 3 b else s) := by
  dsimp only [exec, execWatchdogExpire]
  simp only [hawake, hen, Bool.and_self, Bool.true_and, decide_eq_true_eq]

section Alarm
variable (hrun : running s = true) (harmed : bit (s.rd .ambAlarm) 63 = true)
  (hdue : s.plat.alarmHi * 2 ^ 48 + bits (s.rd .ambAlarm) 47 0 ≤ timeBase s)
include hrun harmed hdue

theorem exec_amberAlarm : exec .amberAlarm s = .next ((if bit (s.rd .ambAlarm) 62 then
      evcFire (drawFree (wireWake s 4)).1 (bits (s.rd .ambAlarm) 59 48) ((drawFree (wireWake s 4)).2 % 65536) else wireWake s 4).wr
        .ambAlarm 0 0 (setBit (s.rd .ambAlarm) 63 false)) :=
  if_pos (by simp only [hrun, harmed, Bool.true_and, decide_eq_true_eq]; exact hdue)

end Alarm

theorem exec_regulatorAlert (hrun : running s = true) (st : RegStatus) : exec (.regulatorAlert st) s
    = .next (if st.voutOv || st.ioutOc || st.temp || st.off then modPlat (wireWake (trip s) 3) fun p => { p with pwrGood := false }
        else wireWake s 3) := congrArg Host.Outcome.next (if_neg (by simp [hrun]))

theorem exec_amberShadeEntry (hrun : running s = true) (hheld : shade s < amberHeld s) : exec .amberShadeEntry s
    = .next (if amberHeld s = 1 then enterGrey s else if shadeBusy s none then s else enterDark s (amberHeld s)) :=
  congrArg Host.Outcome.next (if_neg (by simp [hrun, hheld]))

theorem exec_amberCoreUe (hrun : running s = true) (b : BringUp) : exec (.amberCoreUe b) s
    = .next (if tripHolds s then rasBump s 41 0 1 else warmReset { rasBump s 41 0 1 with time := timeBase s } 3 b) :=
  congrArg Host.Outcome.next (if_neg (by simp [hrun]))

theorem enterGrey_of_quiet (hwhite : shade s = 0) (hq : quiet s = true) :
    enterGrey s = setInterval (s.wrf .pwcStatus 0 0 63 62 1) (scanGrey s) := if_pos (by simp [hwhite, hq])

end Events

/-- Settles O30: each event of Amber, of the regulators and of the clocks. -/
theorem amberEventsAct : Obligations.AmberEventsAct := by
  intro s
  refine ⟨⟨rfl, rfl⟩, fun b hawake hen => ?watchdog, fun hrun harmed hdue => ?alarm, fun st hrun => ?regulator,
    fun hrun hen hwhite hq => ?grey, fun hrun hheld => ?shade, fun b hrun => ?core, fun k hawake hk => ?align, rfl, fun t => rfl⟩
  case watchdog =>
    rw [exec_watchdogExpire hawake hen]
    exact ⟨fun hdue => congrArg _ (if_pos hdue), fun hnot => congrArg _ (if_neg (Nat.not_le.2 hnot))⟩
  case alarm =>
    rw [exec_amberAlarm hrun harmed hdue]
    refine ⟨fun hoff => ?_, fun hon => ⟨(drawFree (wireWake s 4)).2 % 65536, ?_⟩⟩
    · rw [if_neg (ne_true_of_eq_false hoff)]
    · rw [if_pos hon, drawFree]
  case regulator =>
    rw [exec_regulatorAlert hrun]
    exact ⟨fun hfault => congrArg _ (if_pos hfault), fun hnone => congrArg _ (if_neg (ne_true_of_eq_false hnone))⟩
  case grey =>
    rw [← enterGrey_of_quiet hwhite hq]
    exact congrArg _ (if_pos (by simp [hrun, hen]))
  case shade =>
    rw [exec_amberShadeEntry hrun hheld]
    exact ⟨fun h1 => congrArg _ (if_pos h1),
      fun h1 hfree => congrArg _ ((if_neg h1).trans (if_neg (ne_true_of_eq_false hfree))),
      fun h1 hbusy => congrArg _ ((if_neg h1).trans (if_pos hbusy))⟩
  case core =>
    rw [exec_amberCoreUe hrun]
    exact ⟨fun hno => congrArg _ (if_neg (ne_true_of_eq_false hno)), fun htrip => congrArg _ (if_pos htrip)⟩
  case align =>
    dsimp only [exec, execTimeAlignPulse]
    rw [hawake, decide_eq_true hk, Bool.true_and, if_pos rfl]

/-! ### Waking (R444, R445, R464) -/

section Wake
variable {s : State} {x : WakeTrigger}

theorem exec_shadeWake_grey (h : shade s = 1) : exec (.shadeWake x) s = .next (if greyWakes x then wakeWhite s else s) :=
  congrArg Host.Outcome.next (if_pos h)

theorem exec_shadeWake_charcoal (h : shade s = 2) : exec (.shadeWake x) s = .next (charcoalWake s x) :=
  congrArg Host.Outcome.next ((if_neg (by rw [h]; decide)).trans (if_pos h))

theorem charcoalWake_of_latch {i : Nat} (h : wireLatch x = some i) : charcoalWake s x = wireWake s i := by
  cases x <;> cases h <;> rfl

theorem charcoalWake_of_source {n : Fin 4096} (hw : watched s n = true) (hr : srcReady s n = true) :
    charcoalWake s (.watchedSource n) = wakeWatched s n := if_pos (by simp [hw, hr])

/-- The state once a trigger in Black has set its latch, if it has one. -/
def blackLatched (s : State) (x : WakeTrigger) : State := match wireLatch x with | some i => wireWake s i | none => s

theorem exec_blackWake {b : BringUp} (h : shade s = 3) (hrun : running s = true) : exec (.blackWake x b) s
    = .next (if (blackLatched s x).plat.wakeDue && !tripHolds (blackLatched s x) && amberHeld (blackLatched s x) == 0
        then leaveBlack (blackLatched s x) b else blackLatched s x) := if_neg (by simp [h, hrun])

end Wake

/-- Settles O31: a trigger by the part's shade. -/
theorem shadesWake : Obligations.ShadesWake := by
  intro s x
  refine ⟨fun h => ?white, fun h => ?grey, fun h => ?charcoal, fun b => ⟨fun h => ?notBlack, fun h hrun => ?black⟩⟩
  case white => exact congrArg _ ((if_neg (by rw [h]; decide)).trans (if_neg (by rw [h]; decide)))
  case grey =>
    rw [exec_shadeWake_grey h]
    exact ⟨fun hw => congrArg _ (if_pos hw), fun hw => congrArg _ (if_neg (ne_true_of_eq_false hw))⟩
  case charcoal =>
    rw [exec_shadeWake_charcoal h]
    refine ⟨fun i hi => congrArg _ (charcoalWake_of_latch hi), fun n hx hw hr => ?source, fun hx => ?message⟩
    case source => rw [hx, charcoalWake_of_source hw hr]
    case message => rcases hx with rfl | rfl | rfl <;> rfl
  case notBlack => exact if_pos (by simp [h])
  case black =>
    rw [exec_blackWake h hrun]
    refine ⟨fun hdue htrip hheld => congrArg _ (if_pos ?_), fun hdue => congrArg _ (if_neg ?_)⟩
    · have hwake : (blackLatched s x).plat.wakeDue = true := hdue
      have hfree : tripHolds (blackLatched s x) = false := htrip
      have hnone : amberHeld (blackLatched s x) = 0 := hheld
      simp [hwake, hfree, hnone]
    · have hwake : (blackLatched s x).plat.wakeDue = false := hdue
      simp [hwake]

end Sys2Proof.Machine
end

section
/-! PROOFS. Resets, firmware commands and the Ash download (R465 to R494, R511). -/

namespace Sys2Proof.Machine

/-! ### Resets (R329, R465, R469, R473) -/

section Reset
variable {s : State} {n : Nat} {b : BringUp}

theorem exec_modResetN_of_short (h : n < 500) : exec (.modResetN n b) s = .next s := if_pos (by simp [h])

theorem exec_modResetN_of_long (h : 1000 ≤ n) (hrun : running s = true) : exec (.modResetN n b) s
    = if bit (s.rd .rscCfg) 30 then .next (warmReset s 1 b) else .next (coldReset s 1 b) := by
  have hshort : ¬ (!running s || decide (n < 500)) = true := by
    simp only [hrun, Bool.not_true, Bool.false_or, decide_eq_true_eq]
    omega
  dsimp only [exec, execModResetN]
  rw [if_neg hshort, if_neg (Nat.not_lt.2 h), if_neg (show ¬ 1 % 2 = 0 by decide)]

theorem exec_modResetNRelease (hp : s.plat.powered = true) :
    exec (.modResetNRelease b) s = if s.plat.waitHigh then .next (bringUp s true b) else .next s := by
  dsimp only [exec, execModResetNRelease]
  rw [hp, Bool.true_and]

theorem exec_inputPowerRise_of_off (hp : s.plat.powered = false) : exec (.inputPowerRise b) s
    = .next (coldReset (modPlat ((s.wrf .rscBoot 0 0 11 8 0).wrf .rscCause 0 0 31 0 0) fun p => { p with powered := true }) 0 b) :=
  if_neg (by simp [hp])

theorem exec_inputPowerRise_of_on (hp : s.plat.powered = true) (hl : s.lhl.st ≠ .down) : exec (.inputPowerRise b) s = .next s :=
  if_pos (by simp [hp, hl])

variable {w : World} {x : W64} {sc d : Nat} (hact : lhlActive s = true) (hx : resetOperand x = some (sc, d))
include hact hx

theorem lhlReset_of_allowed (h : resetAllowed s w = true) : lhlReset s w x sc b
    = if sc = 0 then coldReset s 2 b else if sc = 1 then warmReset s 2 b else dieReset s 2 d := by
  simp only [lhlReset, hx, hact, h, Bool.not_true, Bool.false_or, ne_eq, not_true_eq_false, decide_false, Bool.false_eq_true, if_false]

theorem lhlReset_of_denied (h : resetAllowed s w = false) : lhlReset s w x sc b = countDenied s 0 := by
  simp only [lhlReset, hx, hact, h, Bool.not_true, Bool.not_false, Bool.false_or, ne_eq, not_true_eq_false, decide_false,
    Bool.false_eq_true, if_false, if_true]

end Reset

section Software
variable (s : State) (b : BringUp)

theorem swrstOk_secure (act : State → State) : swrstOk s .s act = act s := if_pos rfl

theorem swrstOk_nonSecure (act : State → State) : swrstOk s .ns act = countDenied s 0 := if_neg (by decide)

theorem exec_rscSwrstCold (w : World) : exec (.rscSwrstCold w b) s = .next (swrstOk s w fun s => coldReset s 4 b) := rfl

theorem exec_rscSwrstWarm (w : World) : exec (.rscSwrstWarm w b) s = .next (swrstOk s w fun s => warmReset s 4 b) := rfl

theorem exec_rscSwrstDie (w : World) (d : Die) :
    exec (.rscSwrstDie w d) s = .next (swrstOk s w fun s => dieReset (s.wr .rscSwrst 0 0 (16 * d.val + 2)) 4 d.val) := rfl

theorem exec_lhlResetDie (w : World) (x : W64) : exec (.lhlResetDie w x) s = .next (lhlReset s w x 2 cleanBringUp) := rfl

/-- The row of a RESET message by its scope. -/
theorem exec_resetRow (w : World) (x : W64) {sc d : Nat} (h : sc ≤ 2) (hact : lhlActive s = true) (hx : resetOperand x = some (sc, d)) :
    exec (if sc = 0 then Instr.lhlResetCold w x b else if sc = 1 then .lhlResetWarm w x b else .lhlResetDie w x) s
      = .next (if resetAllowed s w then (if sc = 0 then coldReset s 2 b else if sc = 1 then warmReset s 2 b else dieReset s 2 d)
          else countDenied s 0) := by
  have hrow (b : BringUp) : lhlReset s w x sc b = if resetAllowed s w then
      (if sc = 0 then coldReset s 2 b else if sc = 1 then warmReset s 2 b else dieReset s 2 d) else countDenied s 0 := by
    cases hok : resetAllowed s w with
    | true => rw [lhlReset_of_allowed hact hx hok, if_pos rfl]
    | false => rw [lhlReset_of_denied hact hx hok, if_neg (by decide)]
  interval_cases sc
  · exact congrArg Host.Outcome.next (hrow b)
  · exact congrArg Host.Outcome.next (hrow b)
  · rw [if_neg (by decide), if_neg (by decide), exec_lhlResetDie, hrow]
    simp only [OfNat.ofNat_ne_zero, OfNat.ofNat_ne_one, if_false]

end Software

/-- Settles O32: the pin, input power, the RESET message and the registers. -/
theorem resetsByScope : Obligations.ResetsByScope := by
  refine ⟨fun s n b => ⟨exec_modResetN_of_short, fun h hrun hcfg => ?warm, fun h hrun hcfg => ?cold⟩,
    fun s b hp => ⟨fun hw => ?release, fun hw => ?released⟩, fun s b => ⟨exec_inputPowerRise_of_off, exec_inputPowerRise_of_on⟩,
    fun s => rfl, fun s w x b sc d hact hx => ?message, fun s b d => ?software⟩
  case warm => rw [exec_modResetN_of_long h hrun, if_pos hcfg]
  case cold => rw [exec_modResetN_of_long h hrun, if_neg (ne_true_of_eq_false hcfg)]
  case release => rw [exec_modResetNRelease hp, if_pos hw]
  case released => rw [exec_modResetNRelease hp, if_neg (ne_true_of_eq_false hw)]
  case message =>
    intro row
    have hrow (hsc : sc ≤ 2) := exec_resetRow s b w x hsc hact hx
    refine ⟨fun hok => ⟨fun h => ?_, fun h => ?_, fun h => ?_⟩, fun hno hsc => ?_⟩
    · rw [hrow (by omega), if_pos hok, if_pos h]
    · rw [hrow (by omega), if_pos hok, if_neg (by omega), if_pos h]
    · rw [hrow (by omega), if_pos hok, if_neg (by omega), if_neg (by omega)]
    · rw [hrow hsc, if_neg (ne_true_of_eq_false hno)]
  case software =>
    simp only [exec_rscSwrstCold, exec_rscSwrstWarm, exec_rscSwrstDie, swrstOk_secure, swrstOk_nonSecure, true_and]
    exact ⟨congrArg Host.Outcome.next (if_pos rfl), congrArg Host.Outcome.next (if_neg (by decide))⟩

/-! ### The Ash download (R474, R493, R494) -/

section Ash
variable {s : State}

section Begun
variable {slot len : Nat} (h : s.plat.ash = some (slot, len))
include h

theorem exec_ashData (off : Nat) (data : Bytes) : exec (.ashData off data) s
    = .next (if data.isEmpty || decide (4032 < data.length) || decide (len < off + data.length) then ashAnswer s 1
      else ashAnswer (flashPut s (slotAddr slot + off) data.length data) 0) := by
  dsimp only [exec, execAshData]
  rw [h]

theorem exec_ashEnd (b : BringUp) : exec (.ashEnd b) s = if slotReason s slot ≠ 0 then
      .next (ashAnswer (flashPut (modPlat s fun p => { p with ash := none }) (slotAddr slot) slotSize []) (slotReason s slot))
    else .next (coldReset ((recWrite (ashAnswer (modPlat s fun p => { p with ash := none }) 0) 1 slot (1 - slot) 0).wrf .rscBoot 0 0 11 8 0) 4 b) := by
  dsimp only [exec, execAshEnd]
  rw [h]
  rfl

end Begun

theorem exec_ashBegin_of_ash (hash : inAsh s = true) (slot : Fin 2) (len : Nat) : exec (.ashBegin slot len) s
    = .next (if slotSize < len then ashAnswer s 1
      else ashAnswer (modPlat (flashPut s (slotAddr slot) slotSize []) fun p => { p with ash := some (slot.val, len) }) 0) :=
  congrArg Host.Outcome.next (if_neg (by simp [hash]))

end Ash

/-- Settles O26: begin, data and end, in Ash mode and outside. -/
theorem ashDownloads : Obligations.AshDownloads := by
  intro s
  refine ⟨fun hash => ⟨fun slot len hlen => ?begun, fun slot len hlen => ?long⟩, fun slot len off data b hbegun => ?download,
    fun hash hnone slot len off data b => ⟨?noBegin, ?noData, ?noEnd⟩⟩
  case begun => rw [exec_ashBegin_of_ash hash, if_neg (Nat.not_lt.2 hlen)]
  case long => rw [exec_ashBegin_of_ash hash, if_pos hlen]
  case download =>
    rw [exec_ashData hbegun, exec_ashEnd hbegun]
    refine ⟨fun hne hlen hfit => congrArg _ (if_neg ?_), fun hbad => congrArg _ (if_pos ?_),
      fun hr => if_pos hr, fun hr => if_neg (not_not.2 hr)⟩
    · have hfull : data.isEmpty = false := by
        cases data with
        | nil => exact absurd hne (by decide)
        | cons x xs => rfl
      simp only [hfull, Bool.false_or, Bool.or_eq_true, decide_eq_true_eq]
      omega
    · simpa [or_assoc] using hbad
  case noBegin => exact congrArg _ (if_pos (by simp [hash]))
  case noData =>
    dsimp only [exec, execAshData]
    rw [hnone, if_neg (ne_true_of_eq_false hash)]
  case noEnd =>
    dsimp only [exec, execAshEnd]
    rw [hnone, if_neg (ne_true_of_eq_false hash)]

/-! ### Firmware (R485 to R491) -/

section Firmware
variable {s : State} {iid : Nat} {c : Issued}

theorem fwRow_of_turn {op : Nat} (hget : getIssued s iid = some c) (hturn : fwTurn s iid = true) (hop : c.op = op)
    (act : State → Issued → State) : fwRow s iid op act = act s c := by
  simp only [fwRow, hget, hop, hturn, ne_eq, not_true_eq_false, if_false, if_true]

theorem stageGo_of_image {bs : Bytes} (hstage : c.stage ≠ 0)
    (hread : hostRead s c.world (.cmd c.iid) (stAddr c.ops) (stLen c.ops) = (s, .ok bs)) : stageGo s c = stageImage s c.iid bs := by
  simp only [stageGo, hstage, decide_false, Bool.false_and, Bool.false_eq_true, if_false, hread]

theorem activateGo_of_mode {mode : Nat} (hmode : fld c.ops 0 1 = mode) (hstage : c.stage = 0) : activateGo mode s c
    = match activationMode s mode with
      | none => fwEnd s c.iid 7
      | some m => setFwBusy (holdCmd (modIssued s c.iid fun c => { c with stage := m }) c.iid) true := if_neg (by simp [hmode, hstage])

theorem exec_activationCommit {b : BringUp} (hc : activating s = some c) (hq : quiescePoint s = true) (hres : s.plat.restart = none) :
    exec (.activationCommit b) s = if c.stage = 1 then .next (modPlat (activationRecord s) fun p => { p with restart := some c.iid })
      else if !cplRoom s c then .next s
      else .next (if c.stage = 2 then warmReset (fwEnd (activationRecord s) c.iid 0) 4 b
        else coldReset (fwEnd (activationRecord s) c.iid 0) 4 b) := by
  dsimp only [exec, execActivationCommit]
  rw [hc]
  exact if_neg (by simp [hq, hres])

theorem onTrial_eq (s : State) : onTrial s = match actRecord s with | some a => recState a.2 == 1 | none => false := by
  rw [onTrial]
  cases actRecord s <;> rfl

theorem confirmGo_of_trial {a : Bool × Bytes} (hrec : actRecord s = some a) (htrial : recState a.2 = 1) (hslot : runSlot s = recSlot a.2) :
    confirmGo s c = if s.plat.unitsOut && !bit (fld c.ops 0 1) 0 then fwEnd s c.iid 9 else confirmNow s c.iid a.2 := by
  rw [confirmGo, hrec]
  exact if_neg (by simp [htrial, hslot])

theorem confirmGo_of_none (h : onTrial s = false) : confirmGo s c = fwEnd s c.iid 10 := by
  rw [onTrial_eq] at h
  rw [confirmGo]
  cases hrec : actRecord s with
  | none => rfl
  | some a =>
    rw [hrec] at h
    exact if_pos (by simp_all)

end Firmware

/-- Settles O25: staging, activation, the quiesce point, the restart and confirmation. -/
theorem firmwareCommands : Obligations.FirmwareCommands := by
  refine ⟨?stage, ?activate, ?commit, ?restart, ?confirm⟩
  case stage =>
    intro s iid c bs hget hturn hop hiid hstage hread s1
    have hrow : exec (.fwStage iid) s = .next (stageImage s iid bs) := by
      dsimp only [exec, execFwStage]
      rw [fwRow_of_turn hget hturn hop, stageGo_of_image hstage (hiid ▸ hread), hiid]
    rw [hrow, stageImage]
    refine ⟨fun hr => ?_, fun hr => ?_⟩
    · rw [if_pos hr]
    · rw [if_neg hr]
  case activate =>
    intro s iid mode m c row hget hturn hop hiid hstage hmode hrow
    have hexec : exec row s = .next (activateGo mode s c) := by
      rcases hrow with ⟨rfl, rfl⟩ | ⟨rfl, rfl⟩ | ⟨rfl, rfl⟩ | ⟨rfl, rfl⟩
      all_goals exact congrArg Host.Outcome.next (fwRow_of_turn hget hturn hop _)
    rw [hexec, activateGo_of_mode hmode hstage, hiid]
    refine ⟨fun hm => ?_, fun hm => ?_⟩
    · rw [hm]
    · rw [hm]
  case commit =>
    intro s c b hc hq hres
    rw [exec_activationCommit hc hq hres]
    refine ⟨fun h1 => if_pos h1, fun h2 hroom => ?_, fun h3 hroom => ?_⟩
    · rw [if_neg (by rw [h2]; decide), if_neg (by simp [hroom]), if_pos h2]
    · rw [if_neg (by rw [h3]; decide), if_neg (by simp [hroom]), if_neg (by rw [h3]; decide)]
  case restart =>
    intro s iid hres s1
    dsimp only [exec, execInPlaceRestartDone]
    rw [hres]
    rfl
  case confirm =>
    intro s iid c hget hturn hop hiid
    have hrow : exec (.fwConfirm iid) s = .next (confirmGo s c) := congrArg Host.Outcome.next (fwRow_of_turn hget hturn hop _)
    rw [hrow]
    refine ⟨fun hno => ?_, fun a hrec htrial hslot => ?_⟩
    · rw [confirmGo_of_none hno, hiid]
    · rw [confirmGo_of_trial hrec htrial hslot, hiid]
      refine ⟨fun hout hforce => congrArg _ (if_pos (by simp [hout, hforce])), fun h => congrArg _ (if_neg ?_)⟩
      rcases h with h | h <;> simp [h]

end Sys2Proof.Machine
end

section
/-! PROOFS. Snapshots and their restoration (R401 to R406). -/

namespace Sys2Proof.Machine

/-! ### SNAPSHOT (R401) -/

section Snapshot
variable {s : State} {iid : Nat} {c : Issued}

/-- The command is a SNAPSHOT, and not the one under way. -/
theorem newSnapshot (hop : c.op = 0x0030) (hcur : ∀ n : Snap, s.snp.cur = some n → n.iid ≠ some iid) :
    ¬ (c.op ≠ 0x0030 || (match s.snp.cur with | some n => n.iid == some iid | none => false)) = true := by
  cases hs : s.snp.cur with
  | none => simp [hop]
  | some n => simp [hop, hcur n hs]

variable (hget : getIssued s iid = some c) (hop : c.op = 0x0030) (hcur : ∀ n : Snap, s.snp.cur = some n → n.iid ≠ some iid)
include hget hop hcur

theorem snapRow_of_badOperands (h : snapOperandsOk c.ops = false) : snapRow s iid = complete s iid stBadDescriptor := by
  rw [snapRow, hget]
  exact (if_neg (newSnapshot hop hcur)).trans (if_pos (by simp [h]))

section Good
variable (hgood : snapOperandsOk c.ops = true)
include hgood

theorem snapRow_of_held (h : s.snp.cur ≠ none ∨ olderHeld s iid [0x0030, 0x0031] = true) : snapRow s iid = holdCmd s iid := by
  have hheld : (s.snp.cur.isSome || olderHeld s iid [0x0030, 0x0031]) = true := by simpa [Option.isSome_iff_ne_none] using h
  rw [snapRow, hget]
  exact (if_neg (newSnapshot hop hcur)).trans ((if_neg (by simp [hgood])).trans (if_pos hheld))

variable (hnone : s.snp.cur = none) (hfirst : olderHeld s iid [0x0030, 0x0031] = false) {bs : Bytes}
  (hread : hostRead (unholdCmd s iid) c.world (.cmd iid) (snList c.ops) (16 * snNlist c.ops) = (unholdCmd s iid, .ok bs))
include hnone hfirst hread

theorem snapRow_of_list : snapRow s iid =
    let l := (entries bs 0 (snNlist c.ops) 16).map (snapEntry (unholdCmd s iid) false)
    let st := snapStatus (unholdCmd s iid) c.world c.ops l
    if st ≠ stOk then complete (unholdCmd s iid) iid st
    else
      let t := snapBegin (unholdCmd s iid) (some iid) c.world c.ops (l.map Prod.fst)
      { t with snp := { t.snp with cur := t.snp.cur.map fun n => { n with ras0 := c.ras0 } } } := by
  rw [snapRow, hget]
  refine (if_neg (newSnapshot hop hcur)).trans ((if_neg (by simp [hgood])).trans ((if_neg (by simp [hnone, hfirst])).trans ?_))
  rw [hread]

end Good

end Snapshot

/-! ### Capture, pages and copy on write (R402 to R404) -/

section Running
variable {s : State} {n : Snap} (hcur : s.snp.cur = some n)
include hcur

theorem exec_snapshotCapture : exec .snapshotCapture s
    = if !n.captured && (captureDue s || quiet s) then .next (capture s n) else .next s := by
  dsimp only [exec, execSnapshotCapture]
  rw [hcur]

theorem snapPageSend_of_uncaptured (h : n.captured = false) : snapPageSend s = s := by
  rw [snapPageSend, hcur]
  exact if_pos (by simp [h])

section Captured
variable (hcap : n.captured = true)
include hcap

theorem snapPageSend_of_buffered (h : n.buffered ≠ []) : snapPageSend s = snapSendBuffered s := by
  rw [snapPageSend, hcur]
  exact (if_neg (by simp [hcap])).trans (if_pos (by simpa using h))

section Unbuffered
variable (hbuf : n.buffered = [])
include hbuf

theorem snapPageSend_of_page {p : Nat} (h : nextPage s n = some p) : snapPageSend s
    = snapSendPage (setTracked (rawRead s .snap (p * 65536) 65536).1 p false) p (rawRead s .snap (p * 65536) 65536).2 := by
  rw [snapPageSend, hcur]
  refine (if_neg (by simp [hcap])).trans ((if_neg (by simp [hbuf])).trans ?_)
  rw [h]

theorem snapPageSend_of_end (h : nextPage s n = none) : snapPageSend s = snapFinish s n := by
  rw [snapPageSend, hcur]
  refine (if_neg (by simp [hcap])).trans ((if_neg (by simp [hbuf])).trans ?_)
  rw [h]

end Unbuffered

theorem exec_cowCopy {w : World} {a : DevAddr} {d : Bytes} (hlen : d.length ≤ 65536) (h : tracked s (a.toNat / 65536) = true) :
    exec (.cowCopy w a d) s = .next (devWriteL w .other (d.length / 65536 + 2) s a.toNat d) := by
  dsimp only [exec, execCowCopy]
  rw [if_neg (by simp only [decide_eq_true_eq]; omega), hcur]
  exact if_pos (by simp [hcap, h])

end Captured

end Running

/-! ### Automatic snapshots (R406) -/

section Auto
variable {s : State}

theorem autoGo_of_idle (h : bit (s.rd .snpAuto) 63 = false ∨ s.snp.since < autoInterval s ∨ s.snp.cur ≠ none) : autoGo s = s :=
  if_pos (by simpa [Option.isSome_iff_ne_none, or_assoc] using h)

theorem autoGo_of_due {d : Bytes} (hon : bit (s.rd .snpAuto) 63 = true) (hdue : autoInterval s ≤ s.snp.since) (hcur : s.snp.cur = none)
    (hread : hostRead s (ringWorld s (s.rdf .snpAuto 0 0 13 0)) .template (s.rd .snpAutoTpl / 64 * 64) 64 = (s, .ok d)) :
    autoGo s = autoStart s (ringWorld s (s.rdf .snpAuto 0 0 13 0)) d := by
  refine (if_neg (by simp [hon, hcur, hdue])).trans ?_
  dsimp only
  rw [hread]

end Auto

/-! ### RESTORE (R405) -/

section Restore
variable {s : State} {iid : Nat} {c : Issued} (hget : getIssued s iid = some c) (hop : c.op = 0x0031)
include hget hop

theorem restoreRow_of_written (h : c.stage = 3) :
    restoreRow s iid = if cmdOut s iid then s else complete s iid (if c.failed then stCheckFailed else stOk) := by
  have hfinish : restoreRow s iid = copyFinish s iid := by
    rw [restoreRow, hget]
    exact (if_neg (not_not.2 hop)).trans (if_pos h)
  rw [hfinish, copyFinish, hget]

section Fresh
variable (hok : imageOk c.ops = true) (hstage : c.stage = 0) (hkind : snKind c.ops = 0)
include hok hstage hkind

theorem restoreRow_of_held (h : restoreRow.quietBut s iid = false ∨ s.snp.cur ≠ none ∨ olderHeld s iid [0x0030, 0x0031] = true) :
    restoreRow s iid = holdCmd s iid := by
  have hpeer : imagePeer s c.world c.ops = stOk := if_pos hkind
  have hheld : (!restoreRow.quietBut s iid || s.snp.cur.isSome || olderHeld s iid [0x0030, 0x0031]) = true := by
    simpa [Option.isSome_iff_ne_none, or_assoc] using h
  rw [restoreRow, hget]
  exact (if_neg (not_not.2 hop)).trans ((if_neg (by rw [hstage]; decide)).trans ((if_neg (by simp [hok])).trans
    ((if_neg (by simp [hpeer])).trans (if_pos (by simp only [hstage, hheld, decide_true, Bool.and_self])))))

variable (hquiet : restoreRow.quietBut s iid = true) (hnone : s.snp.cur = none) (hfirst : olderHeld s iid [0x0030, 0x0031] = false)
  {h bs : Bytes} (hhead : imageFetch (holdCmd s iid) c 1 0 0x20000 = (holdCmd s iid, .ok h))
include hquiet hnone hfirst hhead

/-- The image's header has come. -/
theorem restoreRow_of_header : restoreRow s iid =
    let l := (entries h 0x1000 (fld h 6 2 % 257) 16).map (snapEntry (holdCmd s iid) true)
    if restoreStatus (holdCmd s iid) c.world h l ≠ stOk then complete (holdCmd s iid) iid (restoreStatus (holdCmd s iid) c.world h l)
    else match imageFetch (holdCmd s iid) c 2 0x20000 (65536 * ((l.map Prod.fst).map fun e => e.pages).sum) with
      | (t, .wait) => t
      | (t, .fail st) => complete t iid st
      | (t, .ok bs) => restoreDo t c h (l.map Prod.fst) bs := by
  have hpeer : imagePeer s c.world c.ops = stOk := if_pos hkind
  rw [restoreRow, hget]
  refine (if_neg (not_not.2 hop)).trans ((if_neg (by rw [hstage]; decide)).trans ((if_neg (by simp [hok])).trans
    ((if_neg (by simp [hpeer])).trans ((if_neg (by simp [hquiet, hnone, hfirst])).trans ?_))))
  dsimp only
  rw [hhead] <;> rfl

end Fresh

end Restore

/-- Settles O50: SNAPSHOT, its capture and its pages, the automatic one, and RESTORE. -/
theorem snapshotsRunAndRestore : Obligations.SnapshotsRunAndRestore := by
  refine ⟨fun s iid c hget hop hcur => ?snapshot, fun s n hcur => ?running, fun s hidle => congrArg _ (autoGo_of_idle hidle),
    fun s d hon hdue hcur => ?auto, fun s iid c hget hop hstage => ?written, fun s iid c hget hop hok hstage hkind => ?restore⟩
  case snapshot =>
    refine ⟨fun hbad => congrArg _ (snapRow_of_badOperands hget hop hcur hbad),
      fun hgood hheld => congrArg _ (snapRow_of_held hget hop hcur hgood hheld), fun hgood hnone hfirst => ?_⟩
    intro s1 bs hread l
    have hrow := snapRow_of_list hget hop hcur hgood hnone hfirst hread
    exact ⟨fun hst => congrArg _ (hrow.trans (if_pos hst)), fun hst => congrArg _ (hrow.trans (if_neg (not_not.2 hst)))⟩
  case running =>
    rw [exec_snapshotCapture hcur]
    refine ⟨fun hcap hdue => if_pos (by simpa [hcap] using hdue), fun hcap => if_neg (by simp [hcap]),
      fun hcap => congrArg _ (snapPageSend_of_uncaptured hcur hcap), fun hcap hbuf => congrArg _ (snapPageSend_of_buffered hcur hcap hbuf),
      fun hcap hbuf hend => congrArg _ (snapPageSend_of_end hcur hcap hbuf hend),
      fun p hcap hbuf hnext => congrArg _ (snapPageSend_of_page hcur hcap hbuf hnext),
      fun w a d hlen hcap htrack => exec_cowCopy hcur hcap hlen htrack⟩
  case auto =>
    intro w hread
    exact congrArg _ (autoGo_of_due hon hdue hcur hread)
  case written =>
    have hrow := restoreRow_of_written hget hop hstage
    exact ⟨fun hout => congrArg _ (hrow.trans (if_pos hout)), fun hout => congrArg _ (hrow.trans (if_neg (ne_true_of_eq_false hout)))⟩
  case restore =>
    refine ⟨fun hheld => congrArg _ (restoreRow_of_held hget hop hok hstage hkind hheld), fun hquiet hnone hfirst => ?_⟩
    intro s1 h bs hhead l es hbody
    have hrow := restoreRow_of_header hget hop hok hstage hkind hquiet hnone hfirst ((if_pos hkind).trans hhead)
    have hexec : exec (.restore iid) s = .next (restoreRow s iid) := rfl
    rw [hexec, hrow]
    refine ⟨fun hst => congrArg Host.Outcome.next (if_pos hst), fun hst => congrArg Host.Outcome.next ((if_neg (not_not.2 hst)).trans ?_)⟩
    have hfetch : imageFetch s1 c 2 0x20000 (65536 * (es.map fun e => e.pages).sum) = (s1, .ok bs) := (if_pos hkind).trans hbody
    rw [hfetch]

end Sys2Proof.Machine
end

section
/-! PROOFS. A MIRROR message for a tile that is fenced (R309, R395). -/

namespace Sys2Proof.Machine

/-- A MIRROR message of peer 8 to device 7, for the SRAM of tile 0. -/
def mirrorToSram : FabPacket :=
  mkPacket {} { peer := 7, typ := 0x07, vc := 0, addr := sramAddr 0 0, world := .ns, ctx := .other, payload := [] } 8 5 0 true
    (List.replicate 64 0xAA)

/-- Device 7, which knows peer 8, with tile 0 fenced. -/
def tileFencedState : State :=
  bankSet (setMem (({} : State).wr .qxfDevid 0 0 (2 ^ 31 + 7)) (peerAddr 8 + 2) [1]) .mshFenceTile 0 true

theorem mirrorToSram_good : pktsWellFormed [mirrorToSram] = true ∧ forUs tileFencedState mirrorToSram.dst.toNat = true
    ∧ segsGood 0 [mirrorToSram] = true ∧ peerValid tileFencedState mirrorToSram.src.toNat = true ∧ pktWorld mirrorToSram = .ns
    ∧ mirrorToSram.typ = 0x07 := by decide +kernel

/-- The state once the message's bytes are stored, and the message is answered. -/
def mirrorStored (s : State) (p : PortNo) (x : FabPacket) : State :=
  performed (devWriteB (pktWorld x) .other (.qxf p) ((msgBytes [x]).length / 65536 + 2) (peerSeen s x.src.toNat) x.addr.toNat
    (msgBytes [x])) x

/-- No copy reaches a fenced tile (R309): the message's bytes are lost and counted. -/
theorem mirrorMessage_counts_loss : ∃ t : State, exec (.mirrorMessage 0 [mirrorToSram]) tileFencedState = .next t
    ∧ t.rd .mshCnt 0 6 = 1 := ⟨_, rfl, by decide +kernel⟩

theorem mirrorStored_counts_none : (mirrorStored tileFencedState 0 mirrorToSram).rd .mshCnt 0 6 = 0 := by decide +kernel

/-- Refutes O43: a MIRROR message whose bytes go to a tile that is fenced stores nothing. Peer 8's message for the SRAM of tile 0, good
in every check, is counted lost in the mesh, where the statement has its bytes stored. -/
theorem not_fabricMessagesPerformed : ¬ Obligations.FabricMessagesPerformed := by
  intro ⟨hmessages, _, _⟩
  obtain ⟨hwf, hus, hsegs, hvalid, hns, htyp⟩ := mirrorToSram_good
  obtain ⟨hgood, -⟩ := hmessages tileFencedState 0 mirrorToSram [] hwf hus
  obtain ⟨-, -, -, -, hmirror⟩ := hgood ⟨hsegs, hvalid, fun hs => absurd (hns.symm.trans hs) (by decide)⟩
  have hstored : exec (.mirrorMessage 0 [mirrorToSram]) tileFencedState = .next (mirrorStored tileFencedState 0 mirrorToSram) := hmirror htyp
  obtain ⟨t, hlost, hcount⟩ := mirrorMessage_counts_loss
  have ht : mirrorStored tileFencedState 0 mirrorToSram = t := by simpa using hstored.symm.trans hlost
  exact absurd (mirrorStored_counts_none.symm.trans ((congrArg (·.rd .mshCnt 0 6) ht).trans hcount)) (by decide)

end Sys2Proof.Machine
end

section
/-! PROOFS. Answers of the fabric, timeouts, probes, the peer cache and the seeds of twin mirroring (R358 to R374, R394 to R397). -/

namespace Sys2Proof.Machine

/-! ### A peer whose message comes in (R359, R364) -/

section Memory
variable (s : State)

theorem failCtx_mem (ctx : Ctx) (v : Verdict) (tile : Option Nat) (k : Nat) : (failCtx s ctx v tile k).mem = s.mem := by
  cases v with
  | none => rfl
  | _ => cases ctx with
    | plan q => exact modPlan_mem ..
    | _ => rfl

theorem dieEvent_mem (ctx : Ctx) (cls d k : Nat) : (dieEvent s ctx cls d k).mem = s.mem := by
  unfold dieEvent
  split_ifs
  · rfl
  · exact (failCtx_mem ..).trans (mem_apart.rasBump ..)

theorem qxfErrSet_mem (reason port typ src dst : Nat) : (qxfErrSet s reason port typ src dst).mem = s.mem := by
  unfold qxfErrSet
  split_ifs
  · rfl
  · exact mem_apart.wr ..

theorem unroutable_mem (ctx : Ctx) (p : Nat) (x : FabPacket) : (unroutable s ctx p x).mem = s.mem :=
  (dieEvent_mem ..).trans ((qxfErrSet_mem ..).trans (mem_apart.cntAdd ..))

theorem foldl_unroutable_mem (ctx : Ctx) (xs : List FabPacket) : (xs.foldl (fun s x => unroutable s ctx 0 x) s).mem = s.mem := by
  induction xs generalizing s with
  | nil => rfl
  | cons x xs ih => exact (ih _).trans (unroutable_mem ..)

theorem routeAll_mem (ctx : Ctx) (bundle : Option Nat) (xs : List FabPacket) : (routeAll s ctx bundle xs).mem = s.mem := by
  cases xs with
  | nil => rfl
  | cons x xs =>
    simp only [routeAll]
    split
    · exact mem_apart.linkSend ..
    · exact foldl_unroutable_mem ..

theorem transmit_mem (m : OutMsg) : (transmit s m).mem = s.mem := by
  have hsent : (routeAll (cntAdd s .qxfCnt 0 0 1) m.ctx m.bundle m.packets).mem = s.mem :=
    (routeAll_mem ..).trans (mem_apart.cntAdd ..)
  simp only [transmit]
  split_ifs
  · exact hsent
  · exact hsent

theorem flushQueued_mem (peer n : Nat) : (flushQueued peer n s).mem = s.mem := by
  induction n generalizing s with
  | zero => rfl
  | succ n ih =>
    simp only [flushQueued]
    split_ifs
    · rfl
    · split
      · rfl
      · exact (ih _).trans (transmit_mem ..)

/-- That a message uses its peer's entry changes no memory, so no entry. -/
theorem peerSeen_mem (peer : Nat) : (peerSeen s peer).mem = s.mem := by
  unfold peerSeen
  split_ifs
  · rfl
  · exact flushQueued_mem ..
  · exact (flushQueued_mem ..).trans (mem_apart.cntAdd s .qxfCnt 4 0 1)

theorem peerFlags_peerSeen (peer q : Nat) : peerFlags (peerSeen s peer) q = peerFlags s q := by
  simp only [peerFlags, memBytes, peerSeen_mem]

end Memory

section Checks
variable {s : State} {p typ src dst : Nat} {w : World}

theorem peerCheck_of_peer (hvalid : peerValid s src = true) (hatt : w = .s → peerAttested s src = true) :
    peerCheck s p typ src dst w = (peerSeen s src, .perform) := by
  have hv : peerValid (peerSeen s src) src = true := by rwa [peerValid, peerFlags_peerSeen]
  have ha : (w == .s && !peerAttested (peerSeen s src) src) = false := by
    cases w with
    | ns => rfl
    | s =>
      have : peerAttested (peerSeen s src) src = true := by rw [peerAttested, peerFlags_peerSeen]; exact hatt rfl
      simp [this]
  simp only [peerCheck, hv, ha, Bool.not_true, Bool.false_eq_true, if_false]

end Checks

/-! ### RESPONSE and DONE (R358) -/

section Response
variable {s : State} {p : PortNo} {x : FabPacket} {m : List FabPacket} {o : OutMsg}

theorem exec_fabricResponse (hwf : pktsWellFormed (x :: m) = true) (hus : forUs s x.dst.toNat = true) (htyp : x.typ = 0x03)
    (hsegs : segsGood 0 (x :: m) = true) (hvalid : peerValid s x.src.toNat = true)
    (hatt : pktWorld x = .s → peerAttested s x.src.toNat = true) (ho : findOut (peerSeen s x.src.toNat) x.src.toNat x.msg.toNat = some o) :
    exec (.fabricResponse p (x :: m)) s = .next (ctxOn
      (dropOut (takeResponse (peerSeen s x.src.toNat) o (msgBytes (x :: m))) x.src.toNat x.msg.toNat) o.ctx) := by
  have hcheck : msgCheck s p x (x :: m) = (peerSeen s x.src.toNat, .perform) :=
    (if_neg (by simp [hsegs])).trans (peerCheck_of_peer hvalid hatt)
  have htake : responseTake s p (x :: m)
      = (dropOut (takeResponse (peerSeen s x.src.toNat) o (msgBytes (x :: m))) x.src.toNat x.msg.toNat, some o.ctx) := by
    refine (if_neg (by simp [htyp, hus])).trans ?_
    rw [hcheck]
    simp only [ho]
  dsimp only [exec, execFabricResponse]
  rw [if_pos hwf, htake]

end Response

section Done
variable {s : State} {d : DeviceId} {n : W32} {o : OutMsg} (ho : findOut s d.toNat n.toNat = some o)
include ho

theorem doneTake_ok : doneTake s d.toNat n.toNat doneOk = (dropOut (queueDone s o true) d.toNat n.toNat, some o.ctx) := by
  rw [doneTake, ho]
  rfl

theorem doneTake_retry : doneTake s d.toNat n.toNat doneRetry
    = (modOut (queueDone s o false) d.toNat n.toNat fun m => { m with retry := true }, none) := by
  rw [doneTake, ho]
  rfl

theorem doneTake_denied : doneTake s d.toNat n.toNat doneDenied = (failWork (dropOut s d.toNat n.toNat) o.ctx stAccessDenied, none) := by
  rw [doneTake, ho]
  rfl

theorem exec_retryResend : exec (.retryResend d n) s = if !o.retry then .next s
    else .next (routeAll (modOut s d.toNat n.toNat fun m => { m with retry := false }) o.ctx o.bundle o.packets) := by
  dsimp only [exec, execRetryResend]
  rw [ho]

theorem exec_msgTimeoutExpire : exec (.msgTimeoutExpire d n) s = if o.probing then .next s else .next (msgTimeout s o) := by
  dsimp only [exec, execMsgTimeoutExpire]
  rw [ho]

end Done

/-! ### Timeouts and probes (R365, R397) -/

section Timeout
variable (s : State) (o : OutMsg)

/-- The port that a message that is out went by. -/
def outPort : Nat := (o.packets.head?.bind fun x => pickPort s o.bundle x).getD 0

/-- A timeout counts, and its peer is probed. -/
def timedOut : State :=
  sendProbe (rasBump (cntAdd (qxfErrSet s 2 (outPort s o) ((o.packets.map fun x => x.typ.toNat).headD 0) ((ownId s).getD 0) o.peer)
    .qxfCnt 5 0 1) 73 (outPort s o / 16) 1) o.peer

variable {s o}

theorem msgTimeout_of_mirror (h : o.mirror = true) : msgTimeout s o = mirOn (mirBreak (timedOut s o)) := if_pos h

theorem msgTimeout_of_plan (h : o.mirror = false) {k : PlanKind} (hk : o.ctx = .plan k) : msgTimeout s o
    = dieEvent (cntAdd (modOut (timedOut s o) o.peer o.msg fun m => { m with probing := true }) .qxfCnt 3 0 1) (.plan k) 36
        (outPort s o / 16) 1 := by
  refine (if_neg (ne_true_of_eq_false h)).trans ?_
  rw [hk]
  rfl

theorem msgTimeout_of_work (h : o.mirror = false) (hk : ∀ k : PlanKind, o.ctx ≠ .plan k) : msgTimeout s o
    = failWork (dropOut (setPeerFlag (timedOut s o) o.peer 3 true) o.peer o.msg) o.ctx stPeerUnreachable := by
  refine (if_neg (ne_true_of_eq_false h)).trans ?_
  cases hc : o.ctx with
  | plan k => exact absurd hc (hk k)
  | _ => rfl

end Timeout

section Probe
variable {s : State} {d : DeviceId} (hid : ownId s ≠ none)
include hid

theorem exec_probeReceive_of_valid (hvalid : peerValid s d.toNat = true) : exec (.probeReceive d) s
    = if peerUnreachable (peerSeen s d.toNat) d.toNat || (peerSeen s d.toNat).fab.out.any (fun m => m.peer == d.toNat && m.probing)
      then .next (probeAnswered (peerSeen s d.toNat) d.toNat) else .next (sendProbe (peerSeen s d.toNat) d.toNat) := by
  refine (if_neg (by simpa using hid)).trans ?_
  rw [peerCheck_of_peer (w := .ns) hvalid nofun]

theorem exec_probeReceive_of_invalid (hvalid : peerValid s d.toNat = false) : exec (.probeReceive d) s = .next
    (rasBump (cntAdd (qxfErrSet (peerSeen s d.toNat) 6 0 0x0A d.toNat ((ownId s).getD 0)) .qxfCnt 7 0 1) 72 0 1) := by
  have hv : peerValid (peerSeen s d.toNat) d.toNat = false := by rwa [peerValid, peerFlags_peerSeen]
  refine (if_neg (by simpa using hid)).trans ?_
  rw [peerCheck_of_invalid rfl hv]
  rfl

end Probe

/-! ### Seeds (R394, R396) -/

/-- An outbound entry's page can be sent: mirroring is on and not broken, and a twin is named. -/
def seedsOn (s : State) (n : Nat) : Prop :=
  bit (s.rd .mirCtl) 31 = true ∧ bit (s.rd .mirStatus) 63 = false ∧ mirOut s n = true ∧ twinId s ≠ none

theorem seedsOn_iff {s : State} {n : Nat} :
    seedsOn s n ↔ ¬ (!bit (s.rd .mirCtl) 31 || bit (s.rd .mirStatus) 63 || !mirOut s n || (twinId s).isNone) = true := by
  simp [seedsOn, and_assoc]

section Seed
variable {s : State} {n : Fin 64}

theorem exec_mirrorSeedPage_of_off (h : ¬ seedsOn s n) : exec (.mirrorSeedPage n) s = .next s :=
  if_pos (not_not.1 (mt seedsOn_iff.2 h))

theorem exec_mirrorSeedPage_of_none (h : s.mir.seeding.find? (fun p => p.1 == n.val) = none) : exec (.mirrorSeedPage n) s = .next s := by
  dsimp only [exec, execMirrorSeedPage]
  rw [h]
  split_ifs
  · rfl
  · rfl

theorem exec_mirrorSeedPage_of_seeding (hon : seedsOn s n) {q : Nat × Nat} (h : s.mir.seeding.find? (fun p => p.1 == n.val) = some q) :
    exec (.mirrorSeedPage n) s = .next (seedPage s n q.2) := by
  refine (if_neg (seedsOn_iff.1 hon)).trans ?_
  rw [h]

end Seed

/-- Settles O44: answers, timeouts, probes, the cache fill, the window limit, and the seeds. -/
theorem fabricAnswersAndSeeds : Obligations.FabricAnswersAndSeeds := by
  refine ⟨⟨fun s p x m o hwf hus htyp hsegs hvalid hatt ho => exec_fabricResponse hwf hus htyp hsegs hvalid hatt ho,
    fun s d n o ho => ?out, fun s d hid => ?probe, fun s d o ho => ?probeTimeout, fun s => rfl, fun s d hcache hqueued => ?fill,
    fun s k n blk hplan hwin hcount => ?window⟩, fun s => ⟨fun n => ?seed, fun w => rfl⟩⟩
  case out =>
    have hdone (st : Fin 3) : exec (.doneReceive d n st) s = .next (mirOn (match (doneTake s d.toNat n.toNat st.val).2 with
      | none => (doneTake s d.toNat n.toNat st.val).1
      | some c => ctxOn (doneTake s d.toNat n.toNat st.val).1 c)) := rfl
    rw [exec_retryResend ho, exec_msgTimeoutExpire ho]
    refine ⟨?ok, ?retry, ?denied, fun h => if_neg (by simp [h]), fun h => if_pos (by simp [h]), fun h => if_pos h, fun h => ?timeout⟩
    case ok => rw [hdone, show doneTake s d.toNat n.toNat (0 : Fin 3).val = _ from doneTake_ok ho]
    case retry => rw [hdone, show doneTake s d.toNat n.toNat (1 : Fin 3).val = _ from doneTake_retry ho]
    case denied => rw [hdone, show doneTake s d.toNat n.toNat (2 : Fin 3).val = _ from doneTake_denied ho]
    case timeout =>
      rw [if_neg (ne_true_of_eq_false h)]
      exact ⟨fun hm => congrArg _ (msgTimeout_of_mirror hm), fun hm k hk => congrArg _ (msgTimeout_of_plan hm hk),
        fun hm hk => congrArg _ (msgTimeout_of_work hm hk)⟩
  case probe =>
    refine ⟨fun hvalid => ?_, exec_probeReceive_of_invalid hid⟩
    rw [exec_probeReceive_of_valid hid hvalid]
    refine ⟨fun h => if_pos (by simpa using h), fun hreach hnone => if_neg ?_⟩
    simpa [hreach] using hnone
  case probeTimeout =>
    dsimp only [exec, execProbeAnswerTimeout]
    rw [ho]
  case fill =>
    obtain ⟨m, hm, hpeer⟩ := hqueued
    have hany : s.fab.queued.any (fun m => m.peer == d.toNat) = true := List.any_eq_true.2 ⟨m, hm, by simp [hpeer]⟩
    exact if_neg (by simp [hcache, hany])
  case window => exact if_pos (by simp [Option.isSome_iff_ne_none, hplan, hwin, hcount])
  case seed =>
    refine ⟨fun k hon hseed => ?_, exec_mirrorSeedPage_of_off, exec_mirrorSeedPage_of_none⟩
    intro a r s1
    rw [exec_mirrorSeedPage_of_seeding hon hseed]
    exact ⟨fun hmore => congrArg _ (if_pos hmore), fun hlast => congrArg _ (if_neg (Nat.not_lt.2 hlast))⟩

end Sys2Proof.Machine
end
